-- ==== Sys2Proof/Word.lean ====
section
/-! DEFINITION. The word types of the machine and sparse tables: association lists in one canonical form. -/

namespace Sys2Proof

/-- One byte of memory (00_scope R7). -/
abbrev Byte := BitVec 8

/-- One 16-bit instruction word (02_instruction_words R32). -/
abbrev Half := BitVec 16

/-- A 32-bit word: a bank word, a vector lane, an accumulator element. -/
abbrev Word32 := BitVec 32

/-- A 64-bit register value. -/
abbrev Word64 := BitVec 64

/-- A 48-bit byte address (00_scope R7). -/
abbrev Addr := BitVec 48

/-- A sparse table from numbers to values. In canonical form its keys rise strictly and no listed value is the
default that an unlisted key reads as, so that equal tables are equal lists. -/
abbrev Tab (α : Type) := List (Nat × α)

end Sys2Proof
end

