-- ==== Sys2Proof/Machine/Types.lean ====
section
/-! DEFINITION. Operand types of the instruction set, and the messages that device steps carry. -/

namespace Sys2Proof

/-- Element types (00_scope R10; WDX TYPE codes in 02_instruction_words R44). -/
inductive Ty where
  | i4 | ui4 | i8 | ui8 | i16 | i32 | f32 | bf16 | f16 | e4m3 | e5m2
deriving DecidableEq, Repr

/-- The RND field of WDX (02_instruction_words R44). -/
inductive Rnd where
  | dflt | nearest | zero | up | down
deriving DecidableEq, Repr

/-- The four rounding modes (04_number_formats R88). -/
inductive RMode where
  | nearest | zero | up | down
deriving DecidableEq, Repr

/-- The post-modes of a pointer operand (02_instruction_words R35). -/
inductive PostMode where
  | none | plusStride | minusStride | plusElem
deriving DecidableEq, Repr

/-- The seven scopes (00_scope R9). -/
inductive Scope where
  | context | core | tile | cluster | die | package | pod
deriving DecidableEq, Repr

/-- The orders of ATOM and ATOMN (02_instruction_words R55, layout A). -/
inductive AtomOrder where
  | relaxed | acquire | release | acqRel
deriving DecidableEq, Repr

/-- The operations of the atomics (08_kernel_memory R191). -/
inductive AtomOp where
  | add | min | max | and | or | xor | xchg | cas
deriving DecidableEq, Repr

/-- The functions of VRED, VSCAN and NETRED (02_instruction_words R52, R56). -/
inductive RedFn where
  | add | min | max | and | or | xor
deriving DecidableEq, Repr

/-- The directions of FCVT (05_scalar_vector R117). -/
inductive CvtDir where
  | itof | ftoi | narrow | widen
deriving DecidableEq, Repr

/-- An RGX prefix word (02_instruction_words R37, R40). -/
structure Rgx where
  pred : BitVec 3
  ha : Bool
  hb : Bool
  vt : BitVec 5
deriving DecidableEq, Repr

/-- A WDX prefix word (02_instruction_words R37, R44). -/
structure Wdx where
  sat : Bool
  rnd : Rnd
  ty : Ty
deriving DecidableEq, Repr

/-- The prefix chain of an instruction, without the order of the kinds, which has no meaning
(02_instruction_words R38). `imx` holds the IMX payloads in ascending address order (R39);
`pgx` says whether a PGX word stands in the chain. -/
structure Prefixes where
  imx : List (BitVec 12)
  rgx : Option Rgx
  pgx : Bool
  wdx : Option Wdx
deriving DecidableEq, Repr

/-- How many prefix words the chain has. -/
def Prefixes.count (pre : Prefixes) : Nat :=
  pre.imx.length + pre.rgx.toList.length + pre.pgx.toNat + pre.wdx.toList.length

/-- The empty chain. -/
def Prefixes.none : Prefixes := ⟨[], Option.none, false, Option.none⟩

/-- The chain that holds only the PGX word of a page 1 to 6 instruction. -/
def Prefixes.page : Prefixes := ⟨[], Option.none, true, Option.none⟩

/-- Who issued a request: a physical core number 8t + k and a context of it, the partition and the task it
worked for, the base word of the instruction (16_contexts_translation R358), and the cycle of issue. -/
structure Issuer where
  core : Nat
  ctx : Nat
  pid : Nat
  tcb : BitVec 32
  opc : Half
  cycle : Nat
deriving DecidableEq, Repr

/-- Where a memory request goes once its address has been resolved (08_kernel_memory R168 to R172). -/
inductive Dest where
  /-- This package's memory, by the keys in `State.mem` of equal pieces of the data. -/
  | mem (keys : List Nat)
  /-- A window: logical tile, core of it, window register, offset (R170). -/
  | window (tile core win off : Nat)
  /-- A global address that another package of the pod translates again (R172). -/
  | remote (pkg : Nat) (addr : Addr)
deriving DecidableEq, Repr

/-- A window access on its way to its target tile (08_kernel_memory R183, R186); `sat` says that its clamp changed
the value, `rel` that it is a release (R182), `bad` the offsets of the poisoned words of its data (21 R420). -/
structure WinReq where
  by_ : Issuer
  addr : Addr
  tile : Nat
  core : Nat
  win : Nat
  off : Nat
  write : Bool
  size : Nat
  data : List Byte
  ty : Option Ty
  sat : Bool
  rel : Bool
  bad : List Nat
deriving DecidableEq, Repr

/-- The part of a PUTC that lies on its second page (08_kernel_memory R188): where it goes, its address, its bytes, and
the offsets of its poisoned words. -/
structure PutRest where
  dest : Dest
  addr : Addr
  data : List Byte
  bad : List Nat
deriving DecidableEq, Repr

/-- A put in flight (08_kernel_memory R187 to R189), or a posted release (R182); `bad` holds the offsets of its poisoned
words (21 R420), `rest` what is still to be sent when this part has landed, and `left` says that the put has left its
tile's queue. -/
structure PutMsg where
  by_ : Issuer
  addr : Addr
  dest : Dest
  data : List Byte
  target : Word64
  bad : List Nat
  rel : Bool
  rest : Option PutRest
  left : Bool
deriving DecidableEq, Repr

/-- An atomic in flight (08_kernel_memory R191, R192); `bad` says that the word that holds its operands is poisoned (21 R420). -/
structure AtomMsg where
  by_ : Issuer
  addr : Addr
  dest : Dest
  op : AtomOp
  ty : Option Ty
  returning : Bool
  v : Word64
  cmp : Word64
  rel : Bool
  bad : Bool
deriving DecidableEq, Repr

/-- A copy or chain copy in flight (09_copies_strands_sync R206 to R214): its descriptor, the hop entries,
how many bytes have been written, and whether a poisoned source word has been reported (21 R420). -/
structure CopyMsg where
  by_ : Issuer
  daddr : Addr
  desc : BitVec 256
  hops : List (BitVec 128)
  chain : Bool
  done : Nat
  reported : Bool
deriving DecidableEq, Repr

/-- The kinds of request that visit a counting instance (11_kreil_fabric R265 to R269); `res` is the token of an
SQRES (15_sequences R338). -/
inductive TokKind where
  | tok | tokn | atok | cvoid | peek | res
deriving DecidableEq, Repr

/-- A counting request in flight: who asked, the handle of the instance, the wire it is on, the layers it has passed,
the operand (an index, a selector, or the sequence of an SQRES), and for TOKN the result address and counter. -/
structure TokReq where
  by_ : Issuer
  inst : BitVec 32
  kind : TokKind
  wire : Nat
  layer : Nat
  arg : Nat
  result : Addr
  counter : Nat
deriving DecidableEq, Repr

/-- An arrival at a network reduction or counting barrier (11_kreil_fabric R281, R283). -/
structure RedArr where
  by_ : Issuer
  fn : RedFn
  ty : Option Ty
  scope : Scope
  domain : Nat
  p : Nat
  tag : Nat
  v : Word64
deriving DecidableEq, Repr

/-- What a device does for an instruction whose context waits for the status in WAIT-LOAD (01_tile_in_a_cycle R13): the
instructions of page 5 (15_sequences R337 to R346) with the marking of the slot that an SQRES goes on with, the steps of an
SQCLOSE after its first, and the drop of a sequence whose graph is freed; SPAWN, ARM and DEPDEC (14_tasks_graphs R314, R315); TLBINV (16_contexts_translation R366),
with its wait for the accesses translated up to a cycle by the pages removed, each by its first address and size;
and RGNWR, with its wait for those to HBM, and PLCMT (17_partitions_stacks R384, R395). -/
inductive ReqOp where
  | new (d : BitVec 128)
  | res
  | mark (index : Nat)
  | cmt
  | cancel
  | void
  | len
  | fork
  | close
  | closing
  | drop
  | addr
  | release
  | spawn (d : BitVec 512)
  | arm
  | depdec
  | tlbPage
  | tlbJob
  | tlbStack
  | performed (cycle : Nat) (pages : List (Nat × Nat))
  | rgnwr (e : Nat)
  | written (cycle : Nat)
  | layout (what : Nat)
deriving DecidableEq, Repr

/-- A request: who issued it, and A and X as they stood. -/
structure Req where
  by_ : Issuer
  op : ReqOp
  a : Word64
  x : Word64
deriving DecidableEq, Repr

/-- A message between packages of the pod (22_package_host R437 to R439): the package and the pod job it comes from, for a
request its 48-bit tag, and for a barrier or a reduction its gang. A reply names the job and the tag of its request;
`faulted` is the reply to a request that meets a translation fault on the other package (08_kernel_memory R196), `signal`
the increment of a copy's counter (09_copies_strands_sync R211), `sumCancel` takes back the arrivals of a cancelled task
(11_kreil_fabric R284), `sumShort` says that the reductions of a gang have lost participants (R282, R283), `memberGone`
that a member package is lost. -/
inductive PodMsg where
  | put (pkg pjob tag : Nat) (m : PutMsg)
  | atom (pkg pjob tag : Nat) (m : AtomMsg)
  | copyWords (pkg pjob tag : Nat) (m : CopyMsg) (addr : Addr) (data : List Byte) (bad : List Nat)
  | signal (pkg pjob tag : Nat) (m : CopyMsg) (t : Word64)
  | barArrive (pkg pjob gang n : Nat)
  | barRelease (pjob gang n : Nat)
  | memberDone (pkg pjob gang : Nat)
  | memberGone (pjob pkg : Nat)
  | sumArrive (pkg pjob gang : Nat) (r : RedArr) (kind : Nat)
  | sumRelease (pjob gang : Nat) (r : RedArr) (status : Nat)
  | sumCancel (pkg pjob gang : Nat)
  | sumShort (pkg pjob gang : Nat)
  | atomReply (pjob tag : Nat) (old : Option Word64) (error : Bool)
  | performed (pjob tag status : Nat)
  | faulted (pjob tag : Nat)
  | copied (pjob tag bytes : Nat)
deriving DecidableEq, Repr

end Sys2Proof
end

