-- ==== Sys2Proof/Config.lean ====
section
/-! DEFINITION. What an implementation fixes and the values the manual leaves open: constants without a body, so that nothing can be proved of them beyond their type. -/

namespace Sys2Proof

/-- Does a fused multiply-add of an infinity and a zero with a quiet NaN addend set F.FI? IEEE 754-2019, which
R83 follows, leaves this to the implementation (log 7). -/
opaque Config.fmaInvalidWithNaN : Bool

/-- The SHAKE256 hash of the public key that the fuses hold (R446; log 7). -/
opaque Config.keyHash : BitVec 256

/-- Does an XMSS signature, the last argument, of the header and the code of a firmware image verify under the key of a hash (R446;
log 7)? -/
opaque Config.signatureValid : BitVec 256 → List (BitVec 8) → List (BitVec 8) → Bool

/-- The XMSS signature of a quote's body under a leaf of the identity key (R447; log 7). -/
opaque Config.identitySignature : BitVec 32 → List (BitVec 8) → List (BitVec 8)

/-- A byte of a task's data image at a virtual address that cannot be read when the task starts (03 R77; log 7). -/
opaque Config.unreadByte : Nat → BitVec 8

/-- How many bytes a partition's metadata region needs beyond the records whose sizes the manual states, by its
partition record (R382; log 7). -/
opaque Config.tableOverhead : BitVec 1024 → Nat

/-- The ECODE of the error record after a thermal reset, for which R421 has no code (22 R434; log 7). -/
opaque Config.thermalCode : BitVec 8

end Sys2Proof
end

