-- ==== Sys2Proof/Machine/Bits.lean ====
section
/-! DEFINITION. Bits, bytes and integers: byte order, extension, narrowing and clamping (00_scope R7, R10; 04_number_formats R84, R85). -/

namespace Sys2Proof

/-- Bytes per element (00_scope R10). A four-bit pair counts as one byte (02_instruction_words R35). -/
def Ty.size : Ty → Nat
  | .i4 | .ui4 | .i8 | .ui8 | .e4m3 | .e5m2 => 1
  | .i16 | .bf16 | .f16 => 2
  | .i32 | .f32 => 4

/-- Bits per element. -/
def Ty.bits : Ty → Nat
  | .i4 | .ui4 => 4
  | .i8 | .ui8 | .e4m3 | .e5m2 => 8
  | .i16 | .bf16 | .f16 => 16
  | .i32 | .f32 => 32

def Ty.isFloat : Ty → Bool
  | .f32 | .bf16 | .f16 | .e4m3 | .e5m2 => true
  | _ => false

def Ty.isUnsigned : Ty → Bool
  | .ui4 | .ui8 => true
  | _ => false

/-- The value of `n` low bits of `x` as two's complement. -/
def signedOf (n x : Nat) : Int :=
  let y := x % 2 ^ n
  if y < 2 ^ (n - 1) then (y : Int) else (y : Int) - 2 ^ n

/-- `wrap(x, n)` of the manual: the low `n` bits of the two's complement of `x` (00_scope R11). -/
def wrapNat (n : Nat) (x : Int) : Nat := (x % (2 ^ n : Int)).toNat

/-- The range of an integer type (00_scope R10). -/
def Ty.lo (t : Ty) : Int := if t.isUnsigned then 0 else -(2 ^ (t.bits - 1) : Int)
def Ty.hi (t : Ty) : Int := if t.isUnsigned then (2 ^ t.bits : Int) - 1 else (2 ^ (t.bits - 1) : Int) - 1

/-- `clamp(x, lo, hi)`. -/
def clampInt (lo hi x : Int) : Int := if x < lo then lo else if hi < x then hi else x

/-- The low bits of `x` read as an element of an integer type. -/
def Ty.intOf (t : Ty) (x : Nat) : Int := if t.isUnsigned then ((x % 2 ^ t.bits : Nat) : Int) else signedOf t.bits x

/-- An integer narrowed to a type, clamped when `sat` is set (R85); the Bool says that the clamp changed it. -/
def Ty.narrowInt (t : Ty) (sat : Bool) (x : Int) : Nat × Bool :=
  if sat then (wrapNat t.bits (clampInt t.lo t.hi x), decide (x < t.lo) || decide (t.hi < x))
  else (wrapNat t.bits x, false)

/-- The number that bytes at ascending addresses hold (00_scope R7: little-endian). -/
def bytesToNat : List Byte → Nat
  | [] => 0
  | b :: bs => b.toNat + 256 * bytesToNat bs

/-- The `n` bytes of a number, the low byte first. -/
def natToBytes : Nat → Nat → List Byte
  | 0, _ => []
  | n + 1, x => BitVec.ofNat 8 x :: natToBytes n (x / 256)

/-- Bits `[lo + w - 1 : lo]` of a number. -/
def bitsAt (lo w x : Nat) : Nat := (x / 2 ^ lo) % 2 ^ w

/-- A number with bits `[lo + w - 1 : lo]` replaced by `v`. -/
def putBits (lo w v x : Nat) : Nat := x - bitsAt lo w x * 2 ^ lo + (v % 2 ^ w) * 2 ^ lo

/-- A record's bits `[lo + w - 1 : lo]` replaced. -/
def setField {n : Nat} (r : BitVec n) (lo w v : Nat) : BitVec n := BitVec.ofNat n (putBits lo w v r.toNat)

/-- A record's bits `[lo + w - 1 : lo]` as a number. -/
def field {n : Nat} (r : BitVec n) (lo w : Nat) : Nat := bitsAt lo w r.toNat

/-- How many zeros stand above the highest one bit in `n` bits. -/
def leadingZeros : Nat → Nat → Nat
  | 0, _ => 0
  | n + 1, x => if x.testBit n then 0 else 1 + leadingZeros n x

/-- How many of the `n` low bits are one. -/
def popCount : Nat → Nat → Nat
  | 0, _ => 0
  | n + 1, x => (if x.testBit n then 1 else 0) + popCount n x

/-- How many of the `n` low bits are zero below the lowest one. -/
def bitList (n x : Nat) : List Nat := (List.range n).filter fun i => x.testBit i

/-! ### SHAKE256 (22_package_host R446, R447), as FIPS 202 defines it (log 85) -/

/-- The rotations of the 25 lanes of Keccak, lane (x, y) at x + 5 y, and the constants of its 24 rounds. -/
def keccakRotations : List Nat :=
  [0, 1, 62, 28, 27, 36, 44, 6, 55, 20, 3, 10, 43, 25, 39, 41, 45, 15, 21, 8, 18, 2, 61, 56, 14]
def keccakConstants : List (BitVec 64) :=
  [0x0000000000000001, 0x0000000000008082, 0x800000000000808A, 0x8000000080008000, 0x000000000000808B, 0x0000000080000001,
   0x8000000080008081, 0x8000000000008009, 0x000000000000008A, 0x0000000000000088, 0x0000000080008009, 0x000000008000000A] ++
  [0x000000008000808B, 0x800000000000008B, 0x8000000000008089, 0x8000000000008003, 0x8000000000008002, 0x8000000000000080,
   0x000000000000800A, 0x800000008000000A, 0x8000000080008081, 0x8000000000008080, 0x0000000080000001, 0x8000000080008008]

/-- A round of Keccak on 25 lanes: θ, ρ and π, χ, ι. -/
def keccakRound (a : List (BitVec 64)) (rc : BitVec 64) : List (BitVec 64) :=
  let lane (l : List (BitVec 64)) (x y : Nat) : BitVec 64 := l.getD (x % 5 + 5 * y) 0
  let c := (List.range 5).map fun x => (List.range 5).foldl (fun v y => v ^^^ lane a x y) 0
  let d := (List.range 5).map fun x => c.getD ((x + 4) % 5) 0 ^^^ (c.getD ((x + 1) % 5) 0).rotateLeft 1
  let b := (List.range 25).map fun i =>
    let x := (i % 5 + 3 * (i / 5)) % 5
    let y := i % 5
    (lane a x y ^^^ d.getD x 0).rotateLeft (keccakRotations.getD (x + 5 * y) 0)
  let e := (List.range 25).map fun i => b.getD i 0 ^^^ (~~~lane b (i % 5 + 1) (i / 5) &&& lane b (i % 5 + 2) (i / 5))
  (e.getD 0 0 ^^^ rc) :: e.drop 1

/-- The bytes of 136 absorbed into the lanes, block after block. -/
def absorb : Nat → List (BitVec 64) → List Byte → List (BitVec 64)
  | 0, a, _ => a
  | n + 1, a, bs =>
    let block := (List.range 25).map fun i => a.getD i 0 ^^^
      (if i < 17 then BitVec.ofNat 64 (bytesToNat ((bs.drop (8 * i)).take 8)) else 0)
    absorb n (keccakConstants.foldl keccakRound block) (bs.drop 136)

/-- The first 32 bytes of SHAKE256 of some bytes, as a number, the first byte lowest. -/
def shake256 (bs : List Byte) : Nat :=
  let n := bs.length / 136 + 1
  let pad := n * 136 - bs.length
  let tail : List Byte := if pad = 1 then [0x9F] else 0x1F :: (List.replicate (pad - 2) 0 ++ [0x80])
  bytesToNat (((absorb n (List.replicate 25 0) (bs ++ tail)).take 4).flatMap fun w => natToBytes 8 w.toNat)

/-- An address moved by signed bytes, modulo 2^48 (02_instruction_words R35). -/
def Addr.move (a : Addr) (d : Int) : Addr := BitVec.ofInt 48 (a.toNat + d)

end Sys2Proof
end

