-- ==== Sys2Proof/Machine/Float.lean ====
section
/-! DEFINITION. Floating-point values, rounding and arithmetic (04_number_formats R79 to R83, R88 to R91, R99; 05_scalar_vector R134). Values are exact dyadic numbers; every rounding goes through one function. -/

namespace Sys2Proof

/-- A floating-point value: a NaN, an infinity, or (-1)^neg * m * 2^e exactly (R80). -/
inductive FV where
  | nan (signalling : Bool)
  | inf (neg : Bool)
  | fin (neg : Bool) (m : Nat) (e : Int)
deriving DecidableEq, Repr

/-- The sticky floating-point flags that an operation raises (R88 to R91). -/
structure FFlags where
  fi : Bool
  fo : Bool
  fu : Bool
  fx : Bool
deriving DecidableEq, Repr

def FFlags.none : FFlags := ⟨false, false, false, false⟩
def FFlags.invalid : FFlags := ⟨true, false, false, false⟩
def FFlags.or (a b : FFlags) : FFlags := ⟨a.fi || b.fi, a.fo || b.fo, a.fu || b.fu, a.fx || b.fx⟩

/-- Exponent bits, fraction bits and bias of a floating type (R79); integer types have no meaning here. -/
def Ty.expBits : Ty → Nat
  | .f32 | .bf16 => 8
  | .f16 | .e5m2 => 5
  | _ => 4
def Ty.fracBits : Ty → Nat
  | .f32 => 23
  | .bf16 => 7
  | .f16 => 10
  | .e5m2 => 2
  | _ => 3
def Ty.bias : Ty → Int
  | .f32 | .bf16 => 127
  | .f16 | .e5m2 => 15
  | _ => 7

/-- Does the type have infinities (R79)? -/
def Ty.hasInf : Ty → Bool
  | .e4m3 => false
  | _ => true

/-- The canonical NaN (R82). -/
def Ty.canonicalNaN : Ty → Nat
  | .f32 => 0x7FC00000
  | .bf16 => 0x7FC0
  | .f16 => 0x7E00
  | .e5m2 => 0x7E
  | _ => 0x7F

/-- The pattern of the largest finite value, without a sign (R79). -/
def Ty.maxFinite : Ty → Nat
  | .f32 => 0x7F7FFFFF
  | .bf16 => 0x7F7F
  | .f16 => 0x7BFF
  | .e5m2 => 0x7B
  | _ => 0x7E

/-- The pattern of infinity, without a sign; for e4m3, which has none, the canonical NaN (R79, R89). -/
def Ty.infinity : Ty → Nat
  | .e4m3 => 0x7F
  | t => (2 ^ t.expBits - 1) * 2 ^ t.fracBits

/-- A pattern with the sign bit of its type. -/
def Ty.signed (t : Ty) (neg : Bool) (mag : Nat) : Nat := if neg then mag + 2 ^ (t.bits - 1) else mag

/-- The value of a pattern (R80, R82). -/
def Ty.value (t : Ty) (x : Nat) : FV :=
  let neg := x.testBit (t.bits - 1)
  let e := bitsAt t.fracBits t.expBits x
  let f := bitsAt 0 t.fracBits x
  if t = .e4m3 ∧ e = 15 ∧ f = 7 then .nan false
  else if t.hasInf ∧ e = 2 ^ t.expBits - 1 then
    if f = 0 then .inf neg else .nan (!f.testBit (t.fracBits - 1))
  else if e = 0 then .fin neg f (1 - t.bias - t.fracBits)
  else .fin neg (2 ^ t.fracBits + f) (e - t.bias - t.fracBits)

/-- Is a magnitude rounded away from zero, given what lies below the last kept bit? `rem` of `2^sh` (R88). -/
def roundsAway (mode : RMode) (neg odd : Bool) (rem half : Nat) : Bool :=
  match mode with
  | .nearest => decide (half < rem) || (decide (rem = half) && odd)
  | .zero => false
  | .up => !neg && decide (0 < rem)
  | .down => neg && decide (0 < rem)

/-- The magnitude that an overflowed result takes (R89), and with saturation (R90). -/
def overflowPattern (t : Ty) (mode : RMode) (sat neg : Bool) : Nat :=
  let big : Bool := match mode with
    | .nearest => true
    | .zero => false
    | .up => !neg
    | .down => neg
  if big && !sat then (if t.hasInf then t.signed neg t.infinity else t.canonicalNaN)
  else t.signed neg t.maxFinite

/-- The exact value (-1)^neg * m * 2^e rounded to type `t` (R81, R88, R89, R90). -/
def roundFin (t : Ty) (mode : RMode) (sat neg : Bool) (m : Nat) (e : Int) : Nat × FFlags :=
  if m = 0 then (t.signed neg 0, .none)
  else
    let top : Int := e + Nat.log2 m
    let qmin : Int := 1 - t.bias - t.fracBits
    let q : Int := if top - t.fracBits < qmin then qmin else top - t.fracBits
    let sh := min (q - e).toNat (Nat.log2 m + 3)    -- beyond that the whole of m is less than half a unit
    let n0 := m * 2 ^ (e - q).toNat / 2 ^ sh
    let rem := m % 2 ^ sh
    let inexact := decide (q > e) && decide (rem ≠ 0)
    let n := if inexact && roundsAway mode neg (n0 % 2 == 1) rem (2 ^ (sh - 1)) then n0 + 1 else n0
    let mag := (q - qmin).toNat * 2 ^ t.fracBits + n
    if mag > t.maxFinite then (overflowPattern t mode sat neg, ⟨false, true, false, true⟩)
    else (t.signed neg mag, ⟨false, false, inexact && decide (mag ≠ 0) && decide (mag < 2 ^ t.fracBits), inexact⟩)

/-- A value put into type `t`: rounded, saturated, or made the canonical NaN (R82, R88 to R90). An infinity that
goes to e4m3 without saturation is an invalid conversion (R90). -/
def FV.round (t : Ty) (mode : RMode) (sat : Bool) : FV → Nat × FFlags
  | .nan sg => (t.canonicalNaN, if sg then .invalid else .none)
  | .inf neg =>
    if sat then (t.signed neg t.maxFinite, .none)
    else if t.hasInf then (t.signed neg t.infinity, .none)
    else (t.canonicalNaN, .invalid)
  | .fin neg m e => roundFin t mode sat neg m e

def FV.isNaN : FV → Bool
  | .nan _ => true
  | _ => false
def FV.isSignalling : FV → Bool
  | .nan sg => sg
  | _ => false
def FV.isInf : FV → Bool
  | .inf _ => true
  | _ => false
def FV.isZero : FV → Bool
  | .fin _ m _ => decide (m = 0)
  | _ => false
def FV.neg : FV → Bool
  | .nan _ => false
  | .inf n => n
  | .fin n _ _ => n
def FV.negate : FV → FV
  | .nan sg => .nan sg
  | .inf n => .inf (!n)
  | .fin n m e => .fin (!n) m e

/-- The invalid flag of operands that are read arithmetically (R82). -/
def sigFlags (xs : List FV) : FFlags := if xs.any FV.isSignalling then .invalid else .none

/-- The exact integer of a finite value in units of 2^u, for `u` at or below its exponent. -/
def scaled (neg : Bool) (m : Nat) (e u : Int) : Int :=
  let v : Int := (m : Int) * 2 ^ (e - u).toNat
  if neg then -v else v

/-- Exact sum; an exact zero from unlike signs is +0, or -0 when rounding down (R83, IEEE 754-2019). -/
def FV.add (mode : RMode) (x y : FV) : FV × FFlags :=
  match x, y with
  | .nan _, _ => (.nan false, sigFlags [x, y])
  | _, .nan _ => (.nan false, sigFlags [x, y])
  | .inf a, .inf b => if a = b then (.inf a, .none) else (.nan false, .invalid)
  | .inf a, .fin _ _ _ => (.inf a, .none)
  | .fin _ _ _, .inf b => (.inf b, .none)
  | .fin na ma ea, .fin nb mb eb =>
    let u := if ea < eb then ea else eb
    let v := scaled na ma ea u + scaled nb mb eb u
    if v = 0 then
      (.fin (if ma = 0 ∧ mb = 0 ∧ na = nb then na else decide (mode = .down)) 0 u, .none)
    else (.fin (decide (v < 0)) v.natAbs u, .none)

/-- Exact product (R83). -/
def FV.mul (x y : FV) : FV × FFlags :=
  match x, y with
  | .nan _, _ => (.nan false, sigFlags [x, y])
  | _, .nan _ => (.nan false, sigFlags [x, y])
  | .inf a, .inf b => (.inf (a != b), .none)
  | .inf a, .fin b m _ => if m = 0 then (.nan false, .invalid) else (.inf (a != b), .none)
  | .fin a m _, .inf b => if m = 0 then (.nan false, .invalid) else (.inf (a != b), .none)
  | .fin a m e, .fin b n f => (.fin (a != b) (m * n) (e + f), .none)

/-- x * y + z, exact (R83). -/
def FV.fma (mode : RMode) (x y z : FV) : FV × FFlags :=
  if x.isNaN || y.isNaN then (.nan false, sigFlags [x, y, z])
  else
    let p := FV.mul x y
    if z.isNaN then
      (.nan false, FFlags.or (sigFlags [z]) (if p.1.isNaN && Config.fmaInvalidWithNaN then .invalid else .none))
    else if p.1.isNaN then p
    else FV.add mode p.1 z

/-- How many bits a number has. -/
def bitLen (m : Nat) : Nat := if m = 0 then 0 else Nat.log2 m + 1

/-- A magnitude of which `m * 2^e` is the part below, with a further part below the last bit when `more`. -/
def withSticky (neg : Bool) (m : Nat) (e : Int) (more : Bool) : FV :=
  .fin neg (2 * m + more.toNat) (e - 1)

/-- 1 / x, exact but for a part below the 64th further bit that the last bit stands for (R115, R134). -/
def FV.recip : FV → FV
  | .nan sg => .nan sg
  | .inf n => .fin n 0 0
  | .fin n m e =>
    if m = 0 then .inf n
    else
      let k := bitLen m + 64
      withSticky n (2 ^ k / m) (-e - k) (decide (2 ^ k % m ≠ 0))

/-- x / y, exact but for a part below the 64th further bit that the last bit stands for (06 R159). -/
def FV.div (x y : FV) : FV :=
  match x, y with
  | .nan _, _ => .nan false
  | _, .nan _ => .nan false
  | .inf _, .inf _ => .nan false
  | .inf a, .fin b _ _ => .inf (a != b)
  | .fin a _ _, .inf b => .fin (a != b) 0 0
  | .fin a m e, .fin b n f =>
    if n = 0 then (if m = 0 then .nan false else .inf (a != b))
    else
      let k := bitLen n + 64
      withSticky (a != b) (m * 2 ^ k / n) (e - f - k) (decide (m * 2 ^ k % n ≠ 0))

/-- The integer square root, bit by bit from bit `n - 1` of the root. -/
def isqrtFrom (x : Nat) : Nat → Nat → Nat
  | 0, r => r
  | n + 1, r =>
    let c := r + 2 ^ n
    isqrtFrom x n (if c * c ≤ x then c else r)

/-- 1 / sqrt x (R134). -/
def FV.rsqrt : FV → FV
  | .nan sg => .nan sg
  | .inf n => if n then .nan false else .fin false 0 0
  | .fin n m e =>
    if m = 0 then .inf n
    else if n then .nan false
    else
      let m' := if e % 2 = 0 then m else 2 * m
      let e' := if e % 2 = 0 then e else e - 1
      let k := bitLen m' + 64
      let r := isqrtFrom (2 ^ (2 * k) / m') (k + 1) 0
      withSticky false r (-(e' / 2) - k) (decide (r * r * m' ≠ 2 ^ (2 * k)))

/-- The fixed point of the two transcendental functions: this many bits below the point (log 14). -/
def fixBits : Nat := 320

/-- The sum over k < n of z^(2k+1) / (2k+1) in fixed point; `pw` is z^(2k+1) and `z2` is z^2. -/
def atanhFix (z2 : Nat) : Nat → Nat → Nat → Nat
  | 0, _, _ => 0
  | n + 1, k, pw => pw / (2 * k + 1) + atanhFix z2 n (k + 1) (pw * z2 / 2 ^ fixBits)

/-- ln 2 in fixed point, as 2 atanh(1/3). -/
def ln2Fix : Nat := 2 * atanhFix (2 ^ fixBits / 9) 110 0 (2 ^ fixBits / 3)

/-- e^y in fixed point by its series; `term` is y^k / k!. -/
def expFix (y : Nat) : Nat → Nat → Nat → Nat
  | 0, _, _ => 0
  | n + 1, k, term => term + expFix y n (k + 1) (term * y / 2 ^ fixBits / (k + 1))

/-- 2^x (R134): exact for an integer x, else to `fixBits` bits with the last bit standing for the rest. -/
def FV.exp2 : FV → FV
  | .nan sg => .nan sg
  | .inf n => if n then .fin false 0 0 else .inf false
  | .fin n m e =>
    if m = 0 then .fin false 1 0
    else if decide (0 ≤ e) || decide (m % 2 ^ (-e).toNat = 0) then
      let i : Nat := if 0 ≤ e then m * 2 ^ e.toNat else m / 2 ^ (-e).toNat
      .fin false 1 (if n then -(i : Int) else i)
    else
      let d := (-e).toNat
      let v : Int := if n then -(m : Int) else m
      let i : Int := v / 2 ^ d
      let f : Nat := (v % 2 ^ d).toNat * 2 ^ (fixBits - d)
      withSticky false (expFix (f * ln2Fix / 2 ^ fixBits) 90 0 (2 ^ fixBits)) (i - fixBits) true

/-- log2 x (R134): exact for a power of two, else to `fixBits` bits. -/
def FV.log2 : FV → FV
  | .nan sg => .nan sg
  | .inf n => if n then .nan false else .inf false
  | .fin n m e =>
    if m = 0 then .inf true
    else if n then .nan false
    else
      let l := Nat.log2 m
      let k : Int := e + l
      if m = 2 ^ l then .fin (decide (k < 0)) k.natAbs 0
      else
        let one := 2 ^ l
        let z := (m - one) * 2 ^ fixBits / (m + one)
        let ln := 2 * atanhFix (z * z / 2 ^ fixBits) 110 0 z
        let v : Int := k * 2 ^ fixBits + (ln * 2 ^ fixBits / ln2Fix : Nat)
        if v < 0 then withSticky true (v.natAbs - 1) (-fixBits) true
        else withSticky false v.toNat (-fixBits) true

/-- -1, 0 or 1 as x is below, equal to or above y; none if unordered (R83). -/
def FV.compare (x y : FV) : Option Int :=
  match x, y with
  | .nan _, _ => none
  | _, .nan _ => none
  | .inf a, .inf b => some (if a = b then 0 else if a then -1 else 1)
  | .inf a, .fin _ _ _ => some (if a then -1 else 1)
  | .fin _ _ _, .inf b => some (if b then 1 else -1)
  | .fin na ma ea, .fin nb mb eb =>
    let u := if ea < eb then ea else eb
    some (Int.sign (scaled na ma ea u - scaled nb mb eb u))

/-- Is x below y in the order of FMIN and FMAX, in which -0 is below +0 (R83)? -/
def FV.below (x y : FV) : Bool :=
  match FV.compare x y with
  | some c => decide (c < 0) || (decide (c = 0) && x.isZero && x.neg && !y.neg)
  | none => false

/-- FMIN and FMAX (R83). -/
def FV.min (x y : FV) : FV × FFlags :=
  (if x.isNaN then (if y.isNaN then .nan false else y) else if y.isNaN then x else if FV.below y x then y else x,
   sigFlags [x, y])
def FV.max (x y : FV) : FV × FFlags :=
  (if x.isNaN then (if y.isNaN then .nan false else y) else if y.isNaN then x else if FV.below x y then y else x,
   sigFlags [x, y])

/-- A finite magnitude rounded to an integer; the Bool says inexact (R88, R91). -/
def roundInt (mode : RMode) (neg : Bool) (m : Nat) (e : Int) : Int × Bool :=
  let sh := (-e).toNat
  let n0 := m * 2 ^ e.toNat / 2 ^ sh
  let rem := m % 2 ^ sh
  let inexact := decide (e < 0) && decide (rem ≠ 0)
  let n := if inexact && roundsAway mode neg (n0 % 2 == 1) rem (2 ^ (sh - 1)) then n0 + 1 else n0
  (if neg then -(n : Int) else n, inexact)

/-- A conversion to an integer of `n` bits between `lo` and `hi` (R91). -/
def FV.toInt (n : Nat) (lo hi : Int) (mode : RMode) (sat : Bool) : FV → Nat × FFlags
  | .nan _ => (if sat then 0 else 2 ^ (n - 1), .invalid)
  | .inf neg => (if sat then wrapNat n (if neg then lo else hi) else 2 ^ (n - 1), .invalid)
  | .fin neg m e =>
    let r := roundInt mode neg m e
    if r.1 < lo ∨ hi < r.1 then (if sat then wrapNat n (clampInt lo hi r.1) else 2 ^ (n - 1), .invalid)
    else (wrapNat n r.1, ⟨false, false, false, r.2⟩)

/-- An integer as an exact value. -/
def FV.ofInt (x : Int) : FV := .fin (decide (x < 0)) x.natAbs 0

/-- An operation's exact result rounded into f32, with the flags of both. -/
def finish32 (mode : RMode) (r : FV × FFlags) : Nat × FFlags :=
  let o := r.1.round .f32 mode false
  (o.1, r.2.or o.2)

end Sys2Proof
end

