-- ==== Sys2Proof/Syntax.lean ====
section
/-! DEFINITION. The steps of the machine: one constructor per row of the opcode table. The first 213 are instructions with an encoding; the others are steps of the device, the host and the pod, whose operands stand in the state (`State.arg`). -/

namespace Sys2Proof

/-- One constructor per row of spec/opcode_table.json. A doc line gives the row's rule and what it does. -/
inductive Instr where
  /-- R110: Loads a local scratchpad operand into A or X, extended under its type. -/
  | lda (p : BitVec 3) (pm : PostMode) (disp : BitVec 3) (pre : Prefixes)
  /-- R110: Stores the low bytes of A or X to a local scratchpad operand, clamped when SAT is set. -/
  | sta (p : BitVec 3) (pm : PostMode) (disp : BitVec 3) (pre : Prefixes)
  /-- R107: Adds a local memory operand to the accumulator. -/
  | addMem (p : BitVec 3) (pm : PostMode) (disp : BitVec 3) (pre : Prefixes)
  /-- R107: Adds a local memory operand and F.C to the accumulator. -/
  | adc (p : BitVec 3) (pm : PostMode) (disp : BitVec 3) (pre : Prefixes)
  /-- R107: Subtracts a local memory operand from the accumulator. -/
  | subMem (p : BitVec 3) (pm : PostMode) (disp : BitVec 3) (pre : Prefixes)
  /-- R107: Subtracts a local memory operand and the borrow from the accumulator. -/
  | sbc (p : BitVec 3) (pm : PostMode) (disp : BitVec 3) (pre : Prefixes)
  /-- R107: Multiplies the accumulator by a local memory operand, keeping the low 64 bits. -/
  | mulMem (p : BitVec 3) (pm : PostMode) (disp : BitVec 3) (pre : Prefixes)
  /-- R107: Writes the high 64 bits of the product of the accumulator and a memory operand. -/
  | mulh (p : BitVec 3) (pm : PostMode) (disp : BitVec 3) (pre : Prefixes)
  /-- R108: Divides the accumulator by a memory operand, truncating toward zero. -/
  | div (p : BitVec 3) (pm : PostMode) (disp : BitVec 3) (pre : Prefixes)
  /-- R108: Writes the remainder of the accumulator divided by a memory operand. -/
  | rem (p : BitVec 3) (pm : PostMode) (disp : BitVec 3) (pre : Prefixes)
  /-- R107: Bitwise and of the accumulator with a memory operand. -/
  | andMem (p : BitVec 3) (pm : PostMode) (disp : BitVec 3) (pre : Prefixes)
  /-- R107: Bitwise or of the accumulator with a memory operand. -/
  | orMem (p : BitVec 3) (pm : PostMode) (disp : BitVec 3) (pre : Prefixes)
  /-- R107: Bitwise exclusive or of the accumulator with a memory operand. -/
  | xorMem (p : BitVec 3) (pm : PostMode) (disp : BitVec 3) (pre : Prefixes)
  /-- R107: Shifts the accumulator left by a memory operand's count. -/
  | shlMem (p : BitVec 3) (pm : PostMode) (disp : BitVec 3) (pre : Prefixes)
  /-- R107: Shifts the accumulator right logically by a memory operand's count. -/
  | shrMem (p : BitVec 3) (pm : PostMode) (disp : BitVec 3) (pre : Prefixes)
  /-- R107: Shifts the accumulator right arithmetically by a memory operand's count. -/
  | sarMem (p : BitVec 3) (pm : PostMode) (disp : BitVec 3) (pre : Prefixes)
  /-- R107: Rotates the accumulator left by a memory operand's count. -/
  | rolMem (p : BitVec 3) (pm : PostMode) (disp : BitVec 3) (pre : Prefixes)
  /-- R107: Sets flags from the accumulator minus a memory operand. -/
  | cmpMem (p : BitVec 3) (pm : PostMode) (disp : BitVec 3) (pre : Prefixes)
  /-- R107: Sets flags from the accumulator and a memory operand. -/
  | tstMem (p : BitVec 3) (pm : PostMode) (disp : BitVec 3) (pre : Prefixes)
  /-- R107: Writes the lesser of the accumulator and a memory operand. -/
  | minMem (p : BitVec 3) (pm : PostMode) (disp : BitVec 3) (pre : Prefixes)
  /-- R107: Writes the greater of the accumulator and a memory operand. -/
  | maxMem (p : BitVec 3) (pm : PostMode) (disp : BitVec 3) (pre : Prefixes)
  /-- R107: Selects bits of a memory operand and the accumulator under the mask in X or A. -/
  | sel (p : BitVec 3) (pm : PostMode) (disp : BitVec 3) (pre : Prefixes)
  /-- R115: Adds a floating memory operand to the f32 accumulator. -/
  | faddMem (p : BitVec 3) (pm : PostMode) (disp : BitVec 3) (pre : Prefixes)
  /-- R115: Multiplies the f32 accumulator by a floating memory operand. -/
  | fmulMem (p : BitVec 3) (pm : PostMode) (disp : BitVec 3) (pre : Prefixes)
  /-- R115: Writes the floating minimum of the accumulator and a memory operand. -/
  | fmin (p : BitVec 3) (pm : PostMode) (disp : BitVec 3) (pre : Prefixes)
  /-- R115: Writes the floating maximum of the accumulator and a memory operand. -/
  | fmax (p : BitVec 3) (pm : PostMode) (disp : BitVec 3) (pre : Prefixes)
  /-- R116: Compares the f32 accumulator with a memory operand and writes only flags. -/
  | fcmp (p : BitVec 3) (pm : PostMode) (disp : BitVec 3) (pre : Prefixes)
  /-- R111: Adds the product of two memory operands to the accumulator. -/
  | mac (pa : BitVec 3) (pma : PostMode) (pb : BitVec 3) (pmb : PostMode) (pre : Prefixes)
  /-- R111: Subtracts the product of two memory operands from the accumulator. -/
  | msb (pa : BitVec 3) (pma : PostMode) (pb : BitVec 3) (pmb : PostMode) (pre : Prefixes)
  /-- R115: Fused multiply-add of two floating memory operands into the f32 accumulator. -/
  | ffma (pa : BitVec 3) (pma : PostMode) (pb : BitVec 3) (pmb : PostMode) (pre : Prefixes)
  /-- R110: Copies one memory operand to another. -/
  | movm (pa : BitVec 3) (pma : PostMode) (pb : BitVec 3) (pmb : PostMode) (pre : Prefixes)
  /-- R110: Loads a sign-extended immediate into A or X. -/
  | ldi (imm : BitVec 9) (pre : Prefixes)
  /-- R107: Adds an immediate to the accumulator. -/
  | addImm (imm : BitVec 9) (pre : Prefixes)
  /-- R107: Subtracts an immediate from the accumulator. -/
  | subImm (imm : BitVec 9) (pre : Prefixes)
  /-- R107: Multiplies the accumulator by an immediate. -/
  | mulImm (imm : BitVec 9) (pre : Prefixes)
  /-- R107: Bitwise and of the accumulator with an immediate. -/
  | andImm (imm : BitVec 9) (pre : Prefixes)
  /-- R107: Bitwise or of the accumulator with an immediate. -/
  | orImm (imm : BitVec 9) (pre : Prefixes)
  /-- R107: Bitwise exclusive or of the accumulator with an immediate. -/
  | xorImm (imm : BitVec 9) (pre : Prefixes)
  /-- R107: Shifts the accumulator left by an immediate count. -/
  | shlImm (imm : BitVec 9) (pre : Prefixes)
  /-- R107: Shifts the accumulator right logically by an immediate count. -/
  | shrImm (imm : BitVec 9) (pre : Prefixes)
  /-- R107: Shifts the accumulator right arithmetically by an immediate count. -/
  | sarImm (imm : BitVec 9) (pre : Prefixes)
  /-- R107: Rotates the accumulator left by an immediate count. -/
  | rolImm (imm : BitVec 9) (pre : Prefixes)
  /-- R107: Sets flags from the accumulator minus an immediate. -/
  | cmpImm (imm : BitVec 9) (pre : Prefixes)
  /-- R107: Sets flags from the accumulator and an immediate. -/
  | tstImm (imm : BitVec 9) (pre : Prefixes)
  /-- R107: Writes the lesser of the accumulator and an immediate. -/
  | minImm (imm : BitVec 9) (pre : Prefixes)
  /-- R107: Writes the greater of the accumulator and an immediate. -/
  | maxImm (imm : BitVec 9) (pre : Prefixes)
  /-- R107: Adds the other register to the accumulator. -/
  | addX (pre : Prefixes)
  /-- R107: Subtracts the other register from the accumulator. -/
  | subX (pre : Prefixes)
  /-- R107: Bitwise and of A with X. -/
  | andX (pre : Prefixes)
  /-- R107: Bitwise or of A with X. -/
  | orX (pre : Prefixes)
  /-- R107: Bitwise exclusive or of A with X. -/
  | xorX (pre : Prefixes)
  /-- R107: Multiplies A by X. -/
  | mulX (pre : Prefixes)
  /-- R107: Sets flags from A minus X. -/
  | cmpX (pre : Prefixes)
  /-- R113: Exchanges A and X. -/
  | xcha (pre : Prefixes)
  /-- R109: Counts leading zeros of the register. -/
  | clz (pre : Prefixes)
  /-- R109: Counts one bits of the register. -/
  | popc (pre : Prefixes)
  /-- R115: Adds the f32 values of A and X. -/
  | faddX (pre : Prefixes)
  /-- R115: Multiplies the f32 values of A and X. -/
  | fmulX (pre : Prefixes)
  /-- R117: Converts the register in place in the direction that aux selects. -/
  | fcvt (dir : CvtDir) (pre : Prefixes)
  /-- R115: Writes the rounded reciprocal of the f32 register. -/
  | frcp (pre : Prefixes)
  /-- R112: Copies a pointer register, or A, into a pointer register. -/
  | movp (pd ps : BitVec 3) (acc : Bool) (pre : Prefixes)
  /-- R112: Adds the register to a pointer's address. -/
  | addp (pd : BitVec 3) (pre : Prefixes)
  /-- R112: Sets a pointer's stride from the immediate. -/
  | sets (pd : BitVec 3) (imm : BitVec 5) (pre : Prefixes)
  /-- R112: Reads a pointer register into A or X. -/
  | getp (p : BitVec 3) (pre : Prefixes)
  /-- R119: Pops the return address from the scratchpad stack at P7 and jumps to it. -/
  | ret (pre : Prefixes)
  /-- R113: Writes F from A[15:0]. -/
  | movf (pre : Prefixes)
  /-- R113: Writes A from F, zero-extended. -/
  | getf (pre : Prefixes)
  /-- R113: Changes nothing but PC. -/
  | nop (pre : Prefixes)
  /-- R118: Jumps to the PC-relative target. -/
  | jmp (off : BitVec 9) (pre : Prefixes)
  /-- R118: Branches when Z is 1. -/
  | brZ (off : BitVec 9) (pre : Prefixes)
  /-- R118: Branches when Z is 0. -/
  | brNz (off : BitVec 9) (pre : Prefixes)
  /-- R118: Branches when N is 1. -/
  | brN (off : BitVec 9) (pre : Prefixes)
  /-- R118: Branches when N is 0. -/
  | brNn (off : BitVec 9) (pre : Prefixes)
  /-- R118: Branches when C is 1. -/
  | brC (off : BitVec 9) (pre : Prefixes)
  /-- R118: Branches when C is 0. -/
  | brNc (off : BitVec 9) (pre : Prefixes)
  /-- R118: Branches when V is 1. -/
  | brV (off : BitVec 9) (pre : Prefixes)
  /-- R118: Branches when V is 0. -/
  | brNv (off : BitVec 9) (pre : Prefixes)
  /-- R118: Branches when Z is 0 and N equals V. -/
  | brGt (off : BitVec 9) (pre : Prefixes)
  /-- R118: Branches when N equals V. -/
  | brGe (off : BitVec 9) (pre : Prefixes)
  /-- R118: Branches when N differs from V. -/
  | brLt (off : BitVec 9) (pre : Prefixes)
  /-- R118: Branches when Z is 1 or N differs from V. -/
  | brLe (off : BitVec 9) (pre : Prefixes)
  /-- R119: Pushes the return address at P7 and jumps to the PC-relative target. -/
  | call (off : BitVec 9) (pre : Prefixes)
  /-- R122: Starts a hardware loop of X[31:0] passes over the body up to the target. -/
  | loop (off : BitVec 9) (pre : Prefixes)
  /-- R120: Jumps to the address in A. -/
  | jmpA (pre : Prefixes)
  /-- R120: Calls the address in A, pushing the return address. -/
  | callA (pre : Prefixes)
  /-- R126: Checks lane addresses and queues a 64-lane vector load. -/
  | vld (vd : BitVec 4) (p : BitVec 3) (m : Bool) (pre : Prefixes)
  /-- R126: Checks lane addresses and queues a 64-lane vector store. -/
  | vst (vd : BitVec 4) (p : BitVec 3) (m : Bool) (pre : Prefixes)
  /-- R127: Queues a transposing strided vector load. -/
  | vldt (vd : BitVec 4) (p : BitVec 3) (m : Bool) (pre : Prefixes)
  /-- R131: Queues a vector register copy. -/
  | vmov (vd vs : BitVec 4) (pre : Prefixes)
  /-- R131: Queues a broadcast of A[31:0] read at issue to every active lane. -/
  | vbcast (vd : BitVec 4) (pre : Prefixes)
  /-- R129: Queues a lane-wise addition. -/
  | vadd (vd vs : BitVec 4) (pre : Prefixes)
  /-- R129: Queues a lane-wise subtraction. -/
  | vsub (vd vs : BitVec 4) (pre : Prefixes)
  /-- R129: Queues a lane-wise multiplication. -/
  | vmul (vd vs : BitVec 4) (pre : Prefixes)
  /-- R129: Queues a lane-wise fused multiply-add. -/
  | vfma (vd vs : BitVec 4) (pre : Prefixes)
  /-- R129: Queues a lane-wise minimum. -/
  | vmin (vd vs : BitVec 4) (pre : Prefixes)
  /-- R129: Queues a lane-wise maximum. -/
  | vmax (vd vs : BitVec 4) (pre : Prefixes)
  /-- R129: Queues a lane-wise absolute value. -/
  | vabs (vd vs : BitVec 4) (pre : Prefixes)
  /-- R129: Queues a lane-wise negation. -/
  | vneg (vd vs : BitVec 4) (pre : Prefixes)
  /-- R129: Queues a lane-wise bitwise and. -/
  | vand (vd vs : BitVec 4) (pre : Prefixes)
  /-- R129: Queues a lane-wise bitwise or. -/
  | vor (vd vs : BitVec 4) (pre : Prefixes)
  /-- R129: Queues a lane-wise bitwise exclusive or. -/
  | vxor (vd vs : BitVec 4) (pre : Prefixes)
  /-- R129: Queues a lane-wise left shift. -/
  | vshl (vd vs : BitVec 4) (pre : Prefixes)
  /-- R129: Queues a lane-wise right shift. -/
  | vshr (vd vs : BitVec 4) (pre : Prefixes)
  /-- R130: Queues a lane-wise equality compare. -/
  | vcmpEq (vd vs : BitVec 4) (pre : Prefixes)
  /-- R130: Queues a lane-wise less-than compare. -/
  | vcmpLt (vd vs : BitVec 4) (pre : Prefixes)
  /-- R130: Queues a lane-wise less-or-equal compare. -/
  | vcmpLe (vd vs : BitVec 4) (pre : Prefixes)
  /-- R130: Queues a lane-wise select under bit 0 of vd. -/
  | vsel (vd vs : BitVec 4) (pre : Prefixes)
  /-- R132: Queues a lane-wise conversion selected by the function code. -/
  | vcvt (vd vs : BitVec 4) (pre : Prefixes)
  /-- R133: Queues a tree reduction of the lanes into lane 0. -/
  | vred (vd vs : BitVec 4) (pre : Prefixes)
  /-- R133: Queues an inclusive prefix scan over the lanes. -/
  | vscan (vd vs : BitVec 4) (pre : Prefixes)
  /-- R131: Queues a lane permutation by index lanes. -/
  | vperm (vd vs : BitVec 4) (pre : Prefixes)
  /-- R134: Queues a lane-wise base-2 exponential. -/
  | vexp2 (vd vs : BitVec 4) (pre : Prefixes)
  /-- R134: Queues a lane-wise base-2 logarithm. -/
  | vlog2 (vd vs : BitVec 4) (pre : Prefixes)
  /-- R134: Queues a lane-wise reciprocal. -/
  | vrcp (vd vs : BitVec 4) (pre : Prefixes)
  /-- R134: Queues a lane-wise reciprocal square root. -/
  | vrsq (vd vs : BitVec 4) (pre : Prefixes)
  /-- R130: Queues a lane-wise clamp between two registers. -/
  | vclamp (vd vs : BitVec 4) (pre : Prefixes)
  /-- R136: Issues a repetition group of n body instructions as one indivisible group. -/
  | rep (n s : BitVec 4) (pre : Prefixes)
  /-- R201: Stalls the context in RUNNING until a counter has reached a value. -/
  | waitc (c : BitVec 4) (imm : Bool) (i : BitVec 3) (pre : Prefixes)
  /-- R201: Puts the context in WAIT-SYNC until a counter has reached a value. -/
  | sleep (c : BitVec 4) (imm : Bool) (i : BitVec 3) (pre : Prefixes)
  /-- R201: Sets a counter of the core. -/
  | setc (c : BitVec 4) (imm : Bool) (i : BitVec 3) (pre : Prefixes)
  /-- R201: Adds to a counter of the core modulo 2^32. -/
  | addc (c : BitVec 4) (imm : Bool) (i : BitVec 3) (pre : Prefixes)
  /-- R216: Arrives at a barrier of the named scope after its posted operations complete, with release and acquire. -/
  | bar (s : Scope) (pre : Prefixes)
  /-- R215: Full fence at a scope. -/
  | fence (s : Scope) (pre : Prefixes)
  /-- R215: Acquire fence at a scope. -/
  | fenceAcq (s : Scope) (pre : Prefixes)
  /-- R215: Release fence at a scope. -/
  | fenceRel (s : Scope) (pre : Prefixes)
  /-- R202: Makes a helper context live at the address in A. -/
  | hstart (h : BitVec 4) (pre : Prefixes)
  /-- R203: Ends the issuing context's strand. -/
  | hexit (pre : Prefixes)
  /-- R204: Waits until a helper context is no longer live. -/
  | hjoin (h : BitVec 4) (pre : Prefixes)
  /-- R205: Moves the context from RUNNING to READY. -/
  | yield (pre : Prefixes)
  /-- R222: Raises the SOFTWARE trap with a code. -/
  | trap (code : BitVec 8) (pre : Prefixes)
  /-- R208: Checks a copy descriptor and sends it to the serving engine. -/
  | cpy (p : BitVec 3) (pm : PostMode) (pre : Prefixes)
  /-- R214: Checks a chain-copy descriptor and its hops and sends it to the serving engine. -/
  | cpyc (p : BitVec 3) (pm : PostMode) (pre : Prefixes)
  /-- R148: Loads and checks the core's matrix format context. -/
  | mctx (p : BitVec 3) (pm : PostMode) (pre : Prefixes)
  /-- R149: Sets WB and copies a weight block into the weight plane. -/
  | wpl (p : BitVec 3) (pm : PostMode) (pre : Prefixes)
  /-- R150: Clears ACC, SROW and SCOL of the core. -/
  | mzero (pre : Prefixes)
  /-- R152: Multiplies an A block by the weight block and accumulates into ACC. -/
  | mma (p : BitVec 3) (pm : PostMode) (pre : Prefixes)
  /-- R153: Adds u[i] times SROW[j] to every ACC element. -/
  | mrow (p : BitVec 3) (pm : PostMode) (pre : Prefixes)
  /-- R153: Adds SCOL[i] times v[j] to every ACC element. -/
  | mcol (p : BitVec 3) (pm : PostMode) (pre : Prefixes)
  /-- R155: Drains ACC to an integer type through the drain table. -/
  | mdrain (p : BitVec 3) (pm : PostMode) (pre : Prefixes)
  /-- R156: Drains ACC to a floating type. -/
  | mdrainf (p : BitVec 3) (pm : PostMode) (pre : Prefixes)
  /-- R158: Quantises f32 values with one scale and zero point, electing outliers. -/
  | qnt (p : BitVec 3) (pm : PostMode) (pre : Prefixes)
  /-- R159: Quantises f32 values in groups, writing group words and outliers. -/
  | qntg (p : BitVec 3) (pm : PostMode) (pre : Prefixes)
  /-- R160: Dequantises codes to f32 values, resolving escapes. -/
  | deq (p : BitVec 3) (pm : PostMode) (pre : Prefixes)
  /-- R161: Sets a burn list's base and length and loads entries. -/
  | blset (p : BitVec 3) (pm : PostMode) (pre : Prefixes)
  /-- R163: Reads MST into A and clears its sticky bits. -/
  | blcnt (pre : Prefixes)
  /-- R183: Loads from the die store or global memory. -/
  | ldg (p : BitVec 3) (pm : PostMode) (pre : Prefixes)
  /-- R183: Posts a store to the die store or global memory. -/
  | stg (p : BitVec 3) (pm : PostMode) (pre : Prefixes)
  /-- R183: Loads through a window of another tile of the cluster. -/
  | ldw (p : BitVec 3) (pm : PostMode) (pre : Prefixes)
  /-- R183: Stores through a window and waits for the acknowledgement. -/
  | stw (p : BitVec 3) (pm : PostMode) (pre : Prefixes)
  /-- R182: Acquire load from the die store or global memory at a scope. -/
  | ldgAcq (p : BitVec 3) (pm : PostMode) (s : Scope) (pre : Prefixes)
  /-- R182: Posted release store at a scope. -/
  | stgRel (p : BitVec 3) (pm : PostMode) (s : Scope) (pre : Prefixes)
  /-- R182: Acquire window load at a scope. -/
  | ldwAcq (p : BitVec 3) (pm : PostMode) (s : Scope) (pre : Prefixes)
  /-- R182: Release window store at a scope. -/
  | stwRel (p : BitVec 3) (pm : PostMode) (s : Scope) (pre : Prefixes)
  /-- R188: Posts the low bytes of A to a destination with the counter target in X. -/
  | put (p : BitVec 3) (pm : PostMode) (pre : Prefixes)
  /-- R188: Posts 64 local bytes to the destination in A with the counter target in X. -/
  | putc (p : BitVec 3) (pm : PostMode) (pre : Prefixes)
  /-- R197: Posts a store to one offset of each die store named in X[3:0]. -/
  | mcst (p : BitVec 3) (pm : PostMode) (pre : Prefixes)
  /-- R185: Sets a window register of the core to A after checking it. -/
  | winset (w : BitVec 3) (pre : Prefixes)
  /-- R192: Returning atomic add. -/
  | atomAdd (p : BitVec 3) (o : AtomOrder) (s : Scope) (pre : Prefixes)
  /-- R192: Returning atomic minimum. -/
  | atomMin (p : BitVec 3) (o : AtomOrder) (s : Scope) (pre : Prefixes)
  /-- R192: Returning atomic maximum. -/
  | atomMax (p : BitVec 3) (o : AtomOrder) (s : Scope) (pre : Prefixes)
  /-- R192: Returning atomic and. -/
  | atomAnd (p : BitVec 3) (o : AtomOrder) (s : Scope) (pre : Prefixes)
  /-- R192: Returning atomic or. -/
  | atomOr (p : BitVec 3) (o : AtomOrder) (s : Scope) (pre : Prefixes)
  /-- R192: Returning atomic exclusive or. -/
  | atomXor (p : BitVec 3) (o : AtomOrder) (s : Scope) (pre : Prefixes)
  /-- R192: Returning atomic exchange. -/
  | atomXchg (p : BitVec 3) (o : AtomOrder) (s : Scope) (pre : Prefixes)
  /-- R192: Returning atomic compare-and-swap. -/
  | atomCas (p : BitVec 3) (o : AtomOrder) (s : Scope) (pre : Prefixes)
  /-- R191: Posted atomic add. -/
  | atomnAdd (p : BitVec 3) (o : AtomOrder) (s : Scope) (pre : Prefixes)
  /-- R191: Posted atomic minimum. -/
  | atomnMin (p : BitVec 3) (o : AtomOrder) (s : Scope) (pre : Prefixes)
  /-- R191: Posted atomic maximum. -/
  | atomnMax (p : BitVec 3) (o : AtomOrder) (s : Scope) (pre : Prefixes)
  /-- R191: Posted atomic and. -/
  | atomnAnd (p : BitVec 3) (o : AtomOrder) (s : Scope) (pre : Prefixes)
  /-- R191: Posted atomic or. -/
  | atomnOr (p : BitVec 3) (o : AtomOrder) (s : Scope) (pre : Prefixes)
  /-- R191: Posted atomic exclusive or. -/
  | atomnXor (p : BitVec 3) (o : AtomOrder) (s : Scope) (pre : Prefixes)
  /-- R276: Sends a token through a counting instance and returns its index. -/
  | tok (pre : Prefixes)
  /-- R277: Sends a token whose result is written to memory and counted. -/
  | tokn (pre : Prefixes)
  /-- R276: Sends an antitoken that retracts the top of an exit's sequence. -/
  | atok (pre : Prefixes)
  /-- R278: Cancels an index at its exit entry. -/
  | cvoid (pre : Prefixes)
  /-- R279: Reads an exit entry of an instance. -/
  | cpeek (pre : Prefixes)
  /-- R281: Joins a network reduction matched by domain and tag. -/
  | netred (fn : RedFn) (noTrap : Bool) (s : Scope) (pre : Prefixes)
  /-- R283: Joins a counting barrier matched by domain and tag. -/
  | nbar (s : Scope) (pre : Prefixes)
  /-- R314: Creates a task from a spawn descriptor and its image. -/
  | spawn (p : BitVec 3) (pm : PostMode) (pre : Prefixes)
  /-- R315: Arms a BUILDING task. -/
  | arm (pre : Prefixes)
  /-- R315: Links a successor to a predecessor task. -/
  | link (pre : Prefixes)
  /-- R315: Decrements a task's dependence counter. -/
  | depdec (pre : Prefixes)
  /-- R316: Creates a graph under a parent. -/
  | gnew (pre : Prefixes)
  /-- R317: Starts the cancellation of a graph subtree and returns when it is accepted. -/
  | gcancel (pre : Prefixes)
  /-- R318: Waits until a graph is final, or until the task leaves EARLY. -/
  | gwait (pre : Prefixes)
  /-- R325: Reserves the next index of a work queue. -/
  | qres (pre : Prefixes)
  /-- R326: Posts a command record to a reserved work-queue index. -/
  | qpost (p : BitVec 3) (pm : PostMode) (pre : Prefixes)
  /-- R319: Reads one doubleword of a TCB. -/
  | tcbrd (d : BitVec 4) (pre : Prefixes)
  /-- R337: Creates an open empty sequence. -/
  | sqnew (p : BitVec 3) (pm : PostMode) (pre : Prefixes)
  /-- R338: Reserves the next slot of a sequence. -/
  | sqres (pre : Prefixes)
  /-- R340: Commits a HELD slot as a package-scope release. -/
  | sqcmt (pre : Prefixes)
  /-- R340: Cancels a reservation, leaving a pinhole or vacancy. -/
  | sqvoidCancel (pre : Prefixes)
  /-- R340: Void-commits a held slot or closes a hole. -/
  | sqvoidCommit (pre : Prefixes)
  /-- R342: Reads a sequence's length or fields as a package-scope acquire. -/
  | sqlen (pre : Prefixes)
  /-- R344: Forks a child sequence that shares the parent's committed prefix. -/
  | sqfork (pre : Prefixes)
  /-- R345: Closes a sequence and void-commits its holes. -/
  | sqclose (pre : Prefixes)
  /-- R346: Removes a sequence and returns unshared chunks to the pool. -/
  | sqdrop (pre : Prefixes)
  /-- R343: Returns a slot's address and reports its state. -/
  | sqaddr (pre : Prefixes)
  /-- R363: Returns from a trap handler to the record's PC. -/
  | eret (pre : Prefixes)
  /-- R365: Saves a helper context's entry to the scratchpad, optionally stopping it. -/
  | csave (p : BitVec 3) (pm : PostMode) (pre : Prefixes)
  /-- R365: Loads a helper context from an entry and makes it live. -/
  | cload (p : BitVec 3) (pm : PostMode) (pre : Prefixes)
  /-- R366: Invalidates translations of the page at A in the partition's TLBs. -/
  | tlbinvPage (pre : Prefixes)
  /-- R366: Invalidates every translation of the job. -/
  | tlbinvJob (pre : Prefixes)
  /-- R366: Invalidates translations whose stack mask includes a stack. -/
  | tlbinvStack (pre : Prefixes)
  /-- R368: Takes the next record of a fault queue. -/
  | fltrdTake (p : BitVec 3) (pm : PostMode) (pre : Prefixes)
  /-- R368: Replays the strand or operation held under a tag. -/
  | fltrdResume (p : BitVec 3) (pm : PostMode) (pre : Prefixes)
  /-- R368: Copies the next fault-queue record without taking it. -/
  | fltrdPeek (p : BitVec 3) (pm : PostMode) (pre : Prefixes)
  /-- R397: Starts the hand-over of a stack to its other port die. -/
  | stkpass (c : BitVec 4) (k : BitVec 3) (pre : Prefixes)
  /-- R395: Reads a region-table entry and the stack owners. -/
  | rgnrd (e : BitVec 6) (pre : Prefixes)
  /-- R395: Rewrites a region-table entry on every die. -/
  | rgnwr (e : BitVec 6) (pre : Prefixes)
  /-- R384: Checks a layout image and writes it into the inactive banks. -/
  | plcmtPrep (pre : Prefixes)
  /-- R384: Journals the commit of the prepared layout and starts the switch. -/
  | plcmtCommit (pre : Prefixes)
  /-- R384: Discards the prepared layout. -/
  | plcmtAbort (pre : Prefixes)
  /-- R61: A pattern that is not an instruction raises the precise illegal-instruction trap. -/
  | illegalInstruction (detail : BitVec 8)
  /-- R14: The core selects the next READY context in ring order. -/
  | contextSelect
  /-- R13: An off-core value, acknowledgement, status or refusal lands and its context becomes READY. -/
  | loadReply
  /-- R20: An instruction-cache miss is filled and the fetching context resumes. -/
  | icacheMissFill
  /-- R27: A stalled core retries its unserved scratchpad accesses in the next cycle. -/
  | scalarAccessRetry
  /-- R18: An engine delivers an increment to a core counter. -/
  | counterIncrement
  /-- R22: The arbiter binds an issuable queue head to the lowest free lane group. -/
  | vectorBind
  /-- R23: A REP at the queue head moves its body into the repetition buffer. -/
  | repBodyLoad
  /-- R30: The port grants an eligible matrix instruction its read phase. -/
  | matrixPortGrant
  /-- R29: A matrix instruction retires after its read phase ends. -/
  | matrixRetire
  /-- R30: An array phase starts once its read phase and the previous array phase have ended. -/
  | arrayPhaseStart
  /-- R30: An array phase ends and its operand buffer frees. -/
  | arrayPhaseEnd
  /-- R186: A window access arriving at the target tile is checked and served or refused. -/
  | windowAccessCheck
  /-- R189: A put's data lands at its destination and its counter is incremented. -/
  | putDelivery
  /-- R190: A queued put refusal is raised as a deferred NACK at an instruction boundary. -/
  | deferredRefusal
  /-- R194: An atomic is performed at the die store or home slice and its response returns. -/
  | atomicPerform
  /-- R197: A multicast replica is written at one die store. -/
  | mcstReplicaWrite
  /-- R196: A posted operation fails after issue and is reported to the task. -/
  | postedOpFailure
  /-- R209: A serving engine receives a copy descriptor and moves the words. -/
  | copyServe
  /-- R211: A copy completes by signal or is discarded after an error. -/
  | copyComplete
  /-- R212: A serving engine meets a translation fault and holds the copy for replay. -/
  | copyFaultHold
  /-- R214: A chain-copy hop lands its data, counts, and forwards to the next hop. -/
  | chainHop
  /-- R216: A participant's posted operations have completed and it signals arrival. -/
  | barArrival
  /-- R216: The last arrival releases every participant with an acquire. -/
  | barRelease
  /-- R265: A token or antitoken is served at a toggle cell and passes to the next layer. -/
  | balancerTraversal
  /-- R267: A token is served at its exit entry. -/
  | exitServeToken
  /-- R268: An antitoken is served at its exit entry. -/
  | exitServeAntitoken
  /-- R269: A cancellation is served at its exit entry. -/
  | cancellationArrival
  /-- R279: A peek reads an exit entry after the cycle's changes. -/
  | peekArrival
  /-- R277: The receive engine writes a TOKN result word and increments its counter. -/
  | toknResultWrite
  /-- R281: A NETRED arrival joins or opens a reduction, completing it at P arrivals. -/
  | reductionArrival
  /-- R283: An NBAR arrival joins a counting barrier, releasing it at P arrivals. -/
  | countingBarrierArrival
  /-- R388: A plane is powered after the plane below has been congested for 1,024 cycles. -/
  | planePowerUp
  /-- R388: A plane is powered down after 2^16 cycles with no packet. -/
  | planePowerDown
  /-- R388: A packet that has waited 64 cycles moves to its class's escape channel. -/
  | escapeChannelMove
  /-- R306: The scheduler places READY heads and early candidates on free tiles. -/
  | placementPass
  /-- R305: A READY task's level falls as 2^20 cycles of waiting pass. -/
  | priorityAging
  /-- R301: A task whose LIVE and AOPS reach zero completes and releases its successors. -/
  | taskCompletion
  /-- R327: The cancelled subtree's tasks settle and its graphs become CANCELLED. -/
  | stopBathSettle
  /-- R310: A task that can no longer be placed is cancelled alone. -/
  | taskNofitCancel
  /-- R323: A work queue engine fetches and executes the record at HEAD. -/
  | queueRecordFetch
  /-- R323: After 1,880 cycles a record with a stale stamp is fetched again. -/
  | stampRetry
  /-- R326: The queue engine writes a posted record and sets NOTE. -/
  | qpostDelivery
  /-- R322: A LAUNCH command record spawns a task. -/
  | hostLaunch
  /-- R322: A GNEW command record creates a root graph held by the host. -/
  | hostGnew
  /-- R322: An ARM command record arms a task. -/
  | hostArm
  /-- R322: A DEPDEC command record decrements a dependence counter. -/
  | hostDepdec
  /-- R322: A GCANCEL command record cancels a graph subtree. -/
  | hostGcancel
  /-- R322: A LINK command record links two tasks. -/
  | hostLink
  /-- R322: A GRELEASE command record releases the host's hold on a graph. -/
  | grelease
  /-- R322: A command record of a reserved kind ends with BADCMD. -/
  | hostBadcmd
  /-- R353: A walker translates a TLB miss through the page tables. -/
  | pageWalk
  /-- R370: At a superstep boundary the device writes a save record per tile. -/
  | preemptSave
  /-- R372: A pre-empted task is restored onto free tiles. -/
  | preemptRestore
  /-- R377: An owner reclaims lent tiles, pre-empting borrower tasks. -/
  | tileReclaim
  /-- R385: After a commit, moved partitions are saved, copied, swapped and restored. -/
  | layoutSwitch
  /-- R386: Once held traffic drains, the routing bank selector flips on every die. -/
  | bankSwap
  /-- R398: One step of a stack hand-over runs once the previous has ended. -/
  | handoverStep
  /-- R401: A function-level reset discards and clears a partition's state. -/
  | functionLevelReset
  /-- R401: When no traffic of the reset PID remains, the mark is removed and the host told. -/
  | resetDrainEnd
  /-- R393: A buffered telemetry record is written to the safelight buffer. -/
  | traceRecordWrite
  /-- R420: The patrol scrubber reads and rewrites a memory word, correcting or poisoning it. -/
  | patrolScrub
  /-- R419: A flit with a CRC error is replayed on its link. -/
  | linkCrcReplay
  /-- R422: An audit flit arrives and the sender resynchronises its credits. -/
  | sendWindowAudit
  /-- R422: A parity error on a window counter stops the channel and requests an audit. -/
  | windowParityError
  /-- R426: A cluster logic error halts its strands and cancels their graphs. -/
  | clusterLogicError
  /-- R423: A failing HBM channel is replaced by the spare or retires its stack. -/
  | hbmChannelRetire
  /-- R424: A die-to-die link, CXL port or Jorrin port is retired. -/
  | linkRetire
  /-- R425: A retired stack's region entries are cleared and it is marked retired. -/
  | stackRetire
  /-- R426: A cluster is removed from the layout and its tiles replaced. -/
  | clusterRetire
  /-- R430: The management watchdog expires and the management processor resets. -/
  | watchdogExpiry
  /-- R434: A junction sensor crossing 105 or 115 °C changes the binding hold-back. -/
  | thermalThreshold
  /-- R434: A junction sensor at 125 °C resets the module. -/
  | thermalReset
  /-- R438: A message from another package is received, acknowledged and served. -/
  | podMessageReceive
  /-- R438: A missing or corrupt flit is replayed on its Jorrin port. -/
  | podFlitReplay
  /-- R438: A message undelivered within 2^24 cycles fails and its destination becomes unreachable. -/
  | podDeliveryTimeout
  /-- R439: A member's arrival reaches PROOT, which releases all members at PMEM arrivals. -/
  | podBarrierArrival
  /-- R440: A doorbell write sets NOTE of a work queue and restarts its engine. -/
  | notifyQueue
  /-- R440: A write to a host register with no behaviour of its own. -/
  | registerWrite
  /-- R441: A waiting event record is written to the host ring and MSI-X raised. -/
  | eventPost
  /-- R443: Writes a work queue's configuration. -/
  | qcfg
  /-- R445: Sets MPMODE for later operations of each function. -/
  | setMode
  /-- R384: Prepares a layout read from host memory. -/
  | layoutPrepare
  /-- R384: Commits the prepared layout. -/
  | layoutCommit
  /-- R384: Discards the prepared layout. -/
  | layoutAbort
  /-- R423: The host retires a unit. -/
  | retire
  /-- R423: The host returns a retired unit to service. -/
  | returnUnit
  /-- R444: Completes a host-assisted request. -/
  | answer
  /-- R443: Resumes a held fault of a partition, as FLTRD RESUME. -/
  | resumeFault
  /-- R447: Returns a signed quote of the firmware and configuration. -/
  | attest
  /-- R448: Verifies a firmware image and writes it to the store. -/
  | fwload
  /-- R436: Sets the package number. -/
  | podcfgSetPkgn
  /-- R436: Sets one pod route table entry. -/
  | podcfgSetRoute
  /-- R443: A mailbox command of a reserved kind is refused. -/
  | mboxBadcmd
  /-- R449: Power-on runs bring-up, or recovery if the image fails. -/
  | powerOn
  /-- R392: An arbiter's credit for a partition stays exhausted for 4,096 cycles and a kind-6 trace record is generated. -/
  | creditExhausted
  /-- R419: An uncorrectable error in management processor memory resets the management processor, followed by journal recovery. -/
  | managementMemoryError
  /-- R424: A die-to-die, CXL or Jorrin link suffers a link-layer failure and retrains, or is retired if it fails to retrain within 2^20 cycles. -/
  | linkLayerFailure
deriving DecidableEq, Repr

end Sys2Proof
end

