-- ==== Sys2Proof/WellFormed.lean ====
section
/-! DEFINITION. Which instructions are well formed: prefix acceptance, required prefixes, and field values (02_instruction_words R36 to R59; the W columns of the instructions' own chapters). -/

namespace Sys2Proof

/-- The integer types of scalar instructions (05_scalar_vector R102). -/
def Ty.ints : List Ty := [.i8, .ui8, .i16, .i32]
/-- The float types a scalar memory operand may have (05_scalar_vector R115). -/
def Ty.scalarFloats : List Ty := [.f32, .bf16, .f16]
/-- The five floating types (04_number_formats R79). -/
def Ty.floats : List Ty := [.f32, .bf16, .f16, .e4m3, .e5m2]
/-- Every type of R10. -/
def Ty.all : List Ty := [.i4, .ui4] ++ Ty.ints ++ Ty.floats

/-- The prefixes an instruction accepts and requires (02_instruction_words R45): the most IMX words, whether
exactly that many are required, RGX and WDX accepted and required. -/
structure Accept where
  imx : Nat
  imxExact : Bool
  rgx : Bool
  rgxReq : Bool
  wdx : Bool
  wdxReq : Bool
deriving DecidableEq, Repr

/-- AP operations (R46). -/
def Accept.ap : Accept := ⟨4, false, true, false, true, false⟩
/-- PP operations (R47). -/
def Accept.pp : Accept := ⟨0, false, true, false, true, false⟩
/-- AI operations but MUL, MIN and MAX (R48). -/
def Accept.ai : Accept := ⟨4, false, true, false, false, false⟩
/-- MUL, MIN and MAX of AI (R48). -/
def Accept.aiW : Accept := ⟨4, false, true, false, true, false⟩
/-- An operation that accepts R only. -/
def Accept.r : Accept := ⟨0, false, true, false, false, false⟩
/-- An operation that accepts R and W. -/
def Accept.rw : Accept := ⟨0, false, true, false, true, false⟩
/-- SETS (R49). -/
def Accept.sets : Accept := ⟨2, false, true, false, false, false⟩
/-- BR ops 0x0 to 0xE (R50). -/
def Accept.br : Accept := ⟨4, false, false, false, false, false⟩
/-- BR op 0xF (R50). -/
def Accept.bare : Accept := ⟨0, false, false, false, false, false⟩
/-- Layout T of VX: RGX is required (R52). -/
def Accept.vt : Accept := ⟨0, false, true, true, true, false⟩
/-- VCVT: WDX is required (05_scalar_vector R124). -/
def Accept.vcvt : Accept := ⟨0, false, true, false, true, true⟩
/-- REP: exactly one IMX (R52). -/
def Accept.rep : Accept := ⟨1, true, true, false, false, false⟩
/-- WAITC, SLEEP, SETC, ADDC: up to three IMX when S = 1 (R53). -/
def Accept.counter (imm : Bool) : Accept := ⟨if imm then 3 else 0, false, true, false, false, false⟩

/-- Does the chain hold what the instruction accepts and requires? Otherwise ILLEGAL 0x07 (R61). -/
def Accept.admits (a : Accept) (pre : Prefixes) : Bool :=
  decide (pre.imx.length ≤ a.imx) && (!a.imxExact || decide (pre.imx.length = a.imx)) &&
  (a.rgx || pre.rgx.isNone) && (!a.rgxReq || pre.rgx.isSome) &&
  (a.wdx || pre.wdx.isNone) && (!a.wdxReq || pre.wdx.isSome)

/-- RGX.HA, false without RGX (R40). -/
def Prefixes.ha (pre : Prefixes) : Bool := (pre.rgx.map Rgx.ha).getD false
/-- RGX.HB, false without RGX (R40). -/
def Prefixes.hb (pre : Prefixes) : Bool := (pre.rgx.map Rgx.hb).getD false
/-- RGX.VT, zero without RGX (R40). -/
def Prefixes.vt (pre : Prefixes) : BitVec 5 := (pre.rgx.map Rgx.vt).getD 0
/-- RGX.PRED, zero without RGX (R40). -/
def Prefixes.pred (pre : Prefixes) : BitVec 3 := (pre.rgx.map Rgx.pred).getD 0
/-- The WDX type, if there is one (R44). -/
def Prefixes.ty (pre : Prefixes) : Option Ty := pre.wdx.map Wdx.ty
/-- WDX.SAT, false without WDX (R44). -/
def Prefixes.sat (pre : Prefixes) : Bool := (pre.wdx.map Wdx.sat).getD false
/-- WDX.RND, the default without WDX (R44). -/
def Prefixes.rnd (pre : Prefixes) : Rnd := (pre.wdx.map Wdx.rnd).getD .dflt

/-- The extended immediate field as an unsigned number: the IMX payloads, then the base field of `w` bits (R39). -/
def Prefixes.extNat (pre : Prefixes) (w base : Nat) : Nat :=
  pre.imx.foldl (fun acc v => acc * 4096 + v.toNat) 0 * 2 ^ w + base

/-- The extended immediate field as a signed number of 12k + w bits (R36, R39). -/
def Prefixes.extInt (pre : Prefixes) (w base : Nat) : Int :=
  let n := pre.extNat w base
  let width := 12 * pre.imx.length + w
  if n < 2 ^ (width - 1) then (n : Int) else (n : Int) - 2 ^ width

/-- What an instruction accepts in WDX: the types, the types with which RND may be given, those with which SAT may. -/
structure WRule where
  types : List Ty
  rnd : List Ty
  sat : List Ty
deriving DecidableEq, Repr

/-- VCVT by function code (05_scalar_vector R132). -/
def vcvtRule : Nat → WRule
  | 0 => ⟨[.bf16, .f16, .e4m3, .e5m2], [], []⟩
  | 1 => ⟨[.bf16, .f16, .e4m3, .e5m2], [.bf16, .f16, .e4m3, .e5m2], [.bf16, .f16, .e4m3, .e5m2]⟩
  | 2 => ⟨[.i8, .ui8, .i16, .f32], [.f32], [.f32]⟩
  | 3 => ⟨[.i8, .ui8, .i16, .f32], [.f32], [.i8, .ui8, .i16]⟩
  | _ => ⟨[], [], []⟩

/-- Is the WDX word, if present, one the rule accepts (R44)? -/
def WRule.admits (r : WRule) (pre : Prefixes) : Bool :=
  match pre.wdx with
  | none => true
  | some w => r.types.contains w.ty && (decide (w.rnd = .dflt) || r.rnd.contains w.ty) && (!w.sat || r.sat.contains w.ty)

/-- How RGX.VT may be used: not at all, as a register, or as a function code below n (R40, R52). -/
inductive VtUse where
  | zero | reg | code (n : Nat)
deriving DecidableEq, Repr

/-- The uses of the RGX fields HA, HB and VT by an instruction (R40, R49, R52, R53). -/
structure RgxUse where
  ha : Bool
  hb : Bool
  vt : VtUse
deriving DecidableEq, Repr

/-- Are the RGX fields outside the uses zero (R40)? -/
def RgxUse.admits (u : RgxUse) (pre : Prefixes) : Bool :=
  (u.ha || !pre.ha) && (u.hb || !pre.hb) &&
  match u.vt with
  | .zero => decide (pre.vt = 0)
  | .reg => true
  | .code n => decide (pre.vt.toNat < n)

/-- The prefixes each instruction accepts (R45 to R59). A device step accepts none. -/
def Instr.accept : Instr → Accept
  | .lda _ _ _ _
  | .sta _ _ _ _
  | .addMem _ _ _ _
  | .adc _ _ _ _
  | .subMem _ _ _ _
  | .sbc _ _ _ _
  | .mulMem _ _ _ _
  | .mulh _ _ _ _
  | .div _ _ _ _
  | .rem _ _ _ _
  | .andMem _ _ _ _
  | .orMem _ _ _ _
  | .xorMem _ _ _ _
  | .shlMem _ _ _ _
  | .shrMem _ _ _ _
  | .sarMem _ _ _ _
  | .rolMem _ _ _ _
  | .cmpMem _ _ _ _
  | .tstMem _ _ _ _
  | .minMem _ _ _ _
  | .maxMem _ _ _ _
  | .sel _ _ _ _
  | .faddMem _ _ _ _
  | .fmulMem _ _ _ _
  | .fmin _ _ _ _
  | .fmax _ _ _ _
  | .fcmp _ _ _ _ => Accept.ap
  | .mac _ _ _ _ _
  | .msb _ _ _ _ _
  | .ffma _ _ _ _ _
  | .movm _ _ _ _ _ => Accept.pp
  | .mulImm _ _
  | .minImm _ _
  | .maxImm _ _ => Accept.aiW
  | .ldi _ _
  | .addImm _ _
  | .subImm _ _
  | .andImm _ _
  | .orImm _ _
  | .xorImm _ _
  | .shlImm _ _
  | .shrImm _ _
  | .sarImm _ _
  | .rolImm _ _
  | .cmpImm _ _
  | .tstImm _ _ => Accept.ai
  | .clz _
  | .popc _
  | .faddX _
  | .fmulX _
  | .fcvt _ _
  | .frcp _ => Accept.rw
  | .sets _ _ _ => Accept.sets
  | .addX _
  | .subX _
  | .andX _
  | .orX _
  | .xorX _
  | .mulX _
  | .cmpX _
  | .xcha _
  | .movp _ _ _ _
  | .addp _ _
  | .getp _ _
  | .ret _
  | .movf _
  | .getf _
  | .nop _ => Accept.r
  | .jmp _ _
  | .brZ _ _
  | .brNz _ _
  | .brN _ _
  | .brNn _ _
  | .brC _ _
  | .brNc _ _
  | .brV _ _
  | .brNv _ _
  | .brGt _ _
  | .brGe _ _
  | .brLt _ _
  | .brLe _ _
  | .call _ _
  | .loop _ _ => Accept.br
  | .jmpA _
  | .callA _ => Accept.bare
  | .vfma _ _ _
  | .vsel _ _ _
  | .vclamp _ _ _ => Accept.vt
  | .vcvt _ _ _ => Accept.vcvt
  | .rep _ _ _ => Accept.rep
  | .vld _ _ _ _
  | .vst _ _ _ _
  | .vldt _ _ _ _
  | .vmov _ _ _
  | .vbcast _ _
  | .vadd _ _ _
  | .vsub _ _ _
  | .vmul _ _ _
  | .vmin _ _ _
  | .vmax _ _ _
  | .vabs _ _ _
  | .vneg _ _ _
  | .vand _ _ _
  | .vor _ _ _
  | .vxor _ _ _
  | .vshl _ _ _
  | .vshr _ _ _
  | .vcmpEq _ _ _
  | .vcmpLt _ _ _
  | .vcmpLe _ _ _
  | .vred _ _ _
  | .vscan _ _ _
  | .vperm _ _ _
  | .vexp2 _ _ _
  | .vlog2 _ _ _
  | .vrcp _ _ _
  | .vrsq _ _ _ => Accept.rw
  | .waitc _ imm _ _
  | .sleep _ imm _ _
  | .setc _ imm _ _
  | .addc _ imm _ _ => Accept.counter imm
  | .bar _ _
  | .fence _ _
  | .fenceAcq _ _
  | .fenceRel _ _
  | .hstart _ _
  | .hexit _
  | .hjoin _ _
  | .yield _
  | .trap _ _
  | .cpy _ _ _
  | .cpyc _ _ _ => Accept.r
  | .mdrain _ _ _
  | .mdrainf _ _ _
  | .qnt _ _ _
  | .qntg _ _ _
  | .deq _ _ _
  | .ldg _ _ _
  | .stg _ _ _
  | .ldw _ _ _
  | .stw _ _ _
  | .ldgAcq _ _ _ _
  | .stgRel _ _ _ _
  | .ldwAcq _ _ _ _
  | .stwRel _ _ _ _
  | .put _ _ _
  | .mcst _ _ _
  | .atomAdd _ _ _ _
  | .atomMin _ _ _ _
  | .atomMax _ _ _ _
  | .atomAnd _ _ _ _
  | .atomOr _ _ _ _
  | .atomXor _ _ _ _
  | .atomXchg _ _ _ _
  | .atomCas _ _ _ _
  | .atomnAdd _ _ _ _
  | .atomnMin _ _ _ _
  | .atomnMax _ _ _ _
  | .atomnAnd _ _ _ _
  | .atomnOr _ _ _ _
  | .atomnXor _ _ _ _
  | .netred _ _ _ _ => Accept.rw
  | .mctx _ _ _
  | .wpl _ _ _
  | .mzero _
  | .mma _ _ _
  | .mrow _ _ _
  | .mcol _ _ _
  | .blset _ _ _
  | .blcnt _
  | .putc _ _ _
  | .winset _ _
  | .tok _
  | .tokn _
  | .atok _
  | .cvoid _
  | .cpeek _
  | .nbar _ _
  | .spawn _ _ _
  | .arm _
  | .link _
  | .depdec _
  | .gnew _
  | .gcancel _
  | .gwait _
  | .qres _
  | .qpost _ _ _
  | .tcbrd _ _
  | .sqnew _ _ _
  | .sqres _
  | .sqcmt _
  | .sqvoidCancel _
  | .sqvoidCommit _
  | .sqlen _
  | .sqfork _
  | .sqclose _
  | .sqdrop _
  | .sqaddr _
  | .eret _
  | .csave _ _ _
  | .cload _ _ _
  | .tlbinvPage _
  | .tlbinvJob _
  | .tlbinvStack _
  | .fltrdTake _ _ _
  | .fltrdResume _ _ _
  | .fltrdPeek _ _ _
  | .stkpass _ _ _
  | .rgnrd _ _
  | .rgnwr _ _
  | .plcmtPrep _
  | .plcmtCommit _
  | .plcmtAbort _ => Accept.r
  | .illegalInstruction ..
  | .contextSelect
  | .loadReply
  | .icacheMissFill
  | .scalarAccessRetry
  | .counterIncrement
  | .vectorBind
  | .repBodyLoad
  | .matrixPortGrant
  | .matrixRetire
  | .arrayPhaseStart
  | .arrayPhaseEnd
  | .windowAccessCheck
  | .putDelivery
  | .deferredRefusal
  | .atomicPerform
  | .mcstReplicaWrite
  | .postedOpFailure
  | .copyServe
  | .copyComplete
  | .copyFaultHold
  | .chainHop
  | .barArrival
  | .barRelease
  | .balancerTraversal
  | .exitServeToken
  | .exitServeAntitoken
  | .cancellationArrival
  | .peekArrival
  | .toknResultWrite
  | .reductionArrival
  | .countingBarrierArrival
  | .planePowerUp
  | .planePowerDown
  | .escapeChannelMove
  | .placementPass
  | .priorityAging
  | .taskCompletion
  | .stopBathSettle
  | .taskNofitCancel
  | .queueRecordFetch
  | .stampRetry
  | .qpostDelivery
  | .hostLaunch
  | .hostGnew
  | .hostArm
  | .hostDepdec
  | .hostGcancel
  | .hostLink
  | .grelease
  | .hostBadcmd
  | .pageWalk
  | .preemptSave
  | .preemptRestore
  | .tileReclaim
  | .layoutSwitch
  | .bankSwap
  | .handoverStep
  | .functionLevelReset
  | .resetDrainEnd
  | .traceRecordWrite
  | .patrolScrub
  | .linkCrcReplay
  | .sendWindowAudit
  | .windowParityError
  | .clusterLogicError
  | .hbmChannelRetire
  | .linkRetire
  | .stackRetire
  | .clusterRetire
  | .watchdogExpiry
  | .thermalThreshold
  | .thermalReset
  | .podMessageReceive
  | .podFlitReplay
  | .podDeliveryTimeout
  | .podBarrierArrival
  | .notifyQueue
  | .registerWrite
  | .eventPost
  | .qcfg
  | .setMode
  | .layoutPrepare
  | .layoutCommit
  | .layoutAbort
  | .retire
  | .returnUnit
  | .answer
  | .resumeFault
  | .attest
  | .fwload
  | .podcfgSetPkgn
  | .podcfgSetRoute
  | .mboxBadcmd
  | .powerOn
  | .creditExhausted
  | .managementMemoryError
  | .linkLayerFailure => Accept.bare

/-- The WDX rule of each instruction that accepts WDX. -/
def Instr.wRule : Instr → WRule
  | .sta _ _ _ _
  | .addMem _ _ _ _
  | .adc _ _ _ _
  | .subMem _ _ _ _
  | .sbc _ _ _ _
  | .mulMem _ _ _ _
  | .mulImm _ _
  | .mac _ _ _ _ _
  | .msb _ _ _ _ _ => ⟨Ty.ints, [], Ty.ints⟩
  | .lda _ _ _ _
  | .mulh _ _ _ _
  | .div _ _ _ _
  | .rem _ _ _ _
  | .andMem _ _ _ _
  | .orMem _ _ _ _
  | .xorMem _ _ _ _
  | .shlMem _ _ _ _
  | .shrMem _ _ _ _
  | .sarMem _ _ _ _
  | .rolMem _ _ _ _
  | .cmpMem _ _ _ _
  | .tstMem _ _ _ _
  | .minMem _ _ _ _
  | .maxMem _ _ _ _
  | .sel _ _ _ _
  | .minImm _ _
  | .maxImm _ _
  | .clz _
  | .popc _ => ⟨Ty.ints, [], []⟩
  | .faddMem _ _ _ _
  | .fmulMem _ _ _ _
  | .ffma _ _ _ _ _ => ⟨Ty.scalarFloats, Ty.scalarFloats, []⟩
  | .fmin _ _ _ _
  | .fmax _ _ _ _
  | .fcmp _ _ _ _ => ⟨Ty.scalarFloats, [], []⟩
  | .movm _ _ _ _ _ => ⟨Ty.ints ++ Ty.scalarFloats, [], []⟩
  | .faddX _
  | .fmulX _
  | .frcp _
  | .vfma _ _ _
  | .vexp2 _ _ _
  | .vlog2 _ _ _
  | .vrcp _ _ _
  | .vrsq _ _ _ => ⟨[.f32], [.f32], []⟩
  | .fcvt dir _ => if dir = .widen then ⟨Ty.floats, [], []⟩ else ⟨Ty.floats, Ty.floats, Ty.floats⟩
  | .vadd _ _ _
  | .vsub _ _ _
  | .vmul _ _ _ => ⟨[.i32, .f32], [.f32], [.i32]⟩
  | .vmin _ _ _
  | .vmax _ _ _
  | .vclamp _ _ _
  | .vcmpEq _ _ _
  | .vcmpLt _ _ _
  | .vcmpLe _ _ _
  | .vbcast _ _ => ⟨[.i32, .f32], [], []⟩
  | .vabs _ _ _
  | .vneg _ _ _ => ⟨[.i32, .f32], [], [.i32]⟩
  | .vand _ _ _
  | .vor _ _ _
  | .vxor _ _ _
  | .vshl _ _ _
  | .vshr _ _ _
  | .vmov _ _ _
  | .vperm _ _ _
  | .vsel _ _ _ => ⟨[.i32], [], []⟩
  | .vred _ _ pre
  | .vscan _ _ pre => if 3 ≤ pre.vt.toNat then ⟨[.i32], [], []⟩ else ⟨[.i32, .f32], [.f32], []⟩
  | .vcvt _ _ pre => vcvtRule pre.vt.toNat
  | .vld _ _ _ _ => ⟨Ty.all, [], []⟩
  | .vst _ _ _ _ => ⟨Ty.all, [], [.i4, .ui4] ++ Ty.ints⟩
  | .vldt _ _ _ _ => ⟨Ty.ints ++ Ty.floats, [], []⟩
  | .mdrain _ _ _ => ⟨Ty.ints, Ty.ints, Ty.ints⟩
  | .mdrainf _ _ _ => ⟨Ty.floats, Ty.floats, Ty.floats⟩
  | .qnt _ _ _
  | .qntg _ _ _
  | .deq _ _ _ => ⟨[.i4, .ui4, .i8, .ui8], [], []⟩
  | .ldg _ _ _
  | .ldw _ _ _
  | .ldgAcq _ _ _ _
  | .ldwAcq _ _ _ _ => ⟨Ty.ints ++ [.f32], [], []⟩
  | .stg _ _ _
  | .stw _ _ _
  | .stgRel _ _ _ _
  | .stwRel _ _ _ _
  | .put _ _ _
  | .mcst _ _ _ => ⟨Ty.ints ++ [.f32], [], Ty.ints⟩
  | .atomAdd _ _ _ _
  | .atomMin _ _ _ _
  | .atomMax _ _ _ _
  | .atomXchg _ _ _ _
  | .atomCas _ _ _ _
  | .atomnAdd _ _ _ _
  | .atomnMin _ _ _ _
  | .atomnMax _ _ _ _ => ⟨[.i32, .f32], [], []⟩
  | .atomAnd _ _ _ _
  | .atomOr _ _ _ _
  | .atomXor _ _ _ _
  | .atomnAnd _ _ _ _
  | .atomnOr _ _ _ _
  | .atomnXor _ _ _ _ => ⟨[.i32], [], []⟩
  | .netred fn _ _ _ => if fn = .and ∨ fn = .or ∨ fn = .xor then ⟨[.i32], [], []⟩ else ⟨[.i32, .f32], [], []⟩
  | _ => ⟨[], [], []⟩

/-- The RGX uses of each instruction. -/
def Instr.rgxUse : Instr → RgxUse
  | .xcha _
  | .ret _
  | .nop _ => ⟨false, false, .zero⟩
  | .lda _ _ _ _
  | .sta _ _ _ _
  | .addMem _ _ _ _
  | .adc _ _ _ _
  | .subMem _ _ _ _
  | .sbc _ _ _ _
  | .mulMem _ _ _ _
  | .mulh _ _ _ _
  | .div _ _ _ _
  | .rem _ _ _ _
  | .andMem _ _ _ _
  | .orMem _ _ _ _
  | .xorMem _ _ _ _
  | .shlMem _ _ _ _
  | .shrMem _ _ _ _
  | .sarMem _ _ _ _
  | .rolMem _ _ _ _
  | .cmpMem _ _ _ _
  | .tstMem _ _ _ _
  | .minMem _ _ _ _
  | .maxMem _ _ _ _
  | .sel _ _ _ _
  | .faddMem _ _ _ _
  | .fmulMem _ _ _ _
  | .fmin _ _ _ _
  | .fmax _ _ _ _
  | .fcmp _ _ _ _
  | .mac _ _ _ _ _
  | .msb _ _ _ _ _
  | .ffma _ _ _ _ _
  | .movm _ _ _ _ _
  | .ldi _ _
  | .addImm _ _
  | .subImm _ _
  | .mulImm _ _
  | .andImm _ _
  | .orImm _ _
  | .xorImm _ _
  | .shlImm _ _
  | .shrImm _ _
  | .sarImm _ _
  | .rolImm _ _
  | .cmpImm _ _
  | .tstImm _ _
  | .minImm _ _
  | .maxImm _ _
  | .addX _
  | .subX _
  | .andX _
  | .orX _
  | .xorX _
  | .mulX _
  | .cmpX _
  | .clz _
  | .popc _
  | .faddX _
  | .fmulX _
  | .fcvt _ _
  | .frcp _
  | .movp _ _ _ _
  | .addp _ _
  | .sets _ _ _
  | .getp _ _
  | .movf _
  | .getf _ => ⟨true, false, .zero⟩
  | .vadd _ _ _
  | .vsub _ _ _
  | .vmul _ _ _
  | .vmin _ _ _
  | .vmax _ _ _
  | .vand _ _ _
  | .vor _ _ _
  | .vxor _ _ _
  | .vshl _ _ _
  | .vshr _ _ _
  | .vcmpEq _ _ _
  | .vcmpLt _ _ _
  | .vcmpLe _ _ _
  | .vperm _ _ _
  | .vfma _ _ _
  | .vsel _ _ _
  | .vclamp _ _ _ => ⟨true, true, .reg⟩
  | .vabs _ _ _
  | .vneg _ _ _
  | .vmov _ _ _
  | .vexp2 _ _ _
  | .vlog2 _ _ _
  | .vrcp _ _ _
  | .vrsq _ _ _ => ⟨true, true, .zero⟩
  | .vred _ _ _
  | .vscan _ _ _ => ⟨true, true, .code 6⟩
  | .vcvt _ _ _ => ⟨true, true, .code 4⟩
  | .vld _ _ _ _
  | .vst _ _ _ _
  | .vldt _ _ _ _ => ⟨true, true, .zero⟩
  | .vbcast _ _ => ⟨true, false, .zero⟩
  | .rep _ _ _ => ⟨true, false, .zero⟩
  | .jmp _ _
  | .brZ _ _
  | .brNz _ _
  | .brN _ _
  | .brNn _ _
  | .brC _ _
  | .brNc _ _
  | .brV _ _
  | .brNv _ _
  | .brGt _ _
  | .brGe _ _
  | .brLt _ _
  | .brLe _ _
  | .call _ _
  | .loop _ _
  | .jmpA _
  | .callA _
  | .waitc _ _ _ _
  | .sleep _ _ _ _
  | .setc _ _ _ _
  | .addc _ _ _ _
  | .bar _ _
  | .fence _ _
  | .fenceAcq _ _
  | .fenceRel _ _
  | .hstart _ _
  | .hexit _
  | .hjoin _ _
  | .yield _
  | .trap _ _
  | .cpy _ _ _
  | .cpyc _ _ _
  | .mctx _ _ _
  | .wpl _ _ _
  | .mzero _
  | .mma _ _ _
  | .mrow _ _ _
  | .mcol _ _ _
  | .mdrain _ _ _
  | .mdrainf _ _ _
  | .qnt _ _ _
  | .qntg _ _ _
  | .deq _ _ _
  | .blset _ _ _
  | .blcnt _
  | .ldg _ _ _
  | .stg _ _ _
  | .ldw _ _ _
  | .stw _ _ _
  | .ldgAcq _ _ _ _
  | .stgRel _ _ _ _
  | .ldwAcq _ _ _ _
  | .stwRel _ _ _ _
  | .put _ _ _
  | .putc _ _ _
  | .mcst _ _ _
  | .winset _ _
  | .atomAdd _ _ _ _
  | .atomMin _ _ _ _
  | .atomMax _ _ _ _
  | .atomAnd _ _ _ _
  | .atomOr _ _ _ _
  | .atomXor _ _ _ _
  | .atomXchg _ _ _ _
  | .atomCas _ _ _ _
  | .atomnAdd _ _ _ _
  | .atomnMin _ _ _ _
  | .atomnMax _ _ _ _
  | .atomnAnd _ _ _ _
  | .atomnOr _ _ _ _
  | .atomnXor _ _ _ _
  | .tok _
  | .tokn _
  | .atok _
  | .cvoid _
  | .cpeek _
  | .netred _ _ _ _
  | .nbar _ _
  | .spawn _ _ _
  | .arm _
  | .link _
  | .depdec _
  | .gnew _
  | .gcancel _
  | .gwait _
  | .qres _
  | .qpost _ _ _
  | .tcbrd _ _
  | .sqnew _ _ _
  | .sqres _
  | .sqcmt _
  | .sqvoidCancel _
  | .sqvoidCommit _
  | .sqlen _
  | .sqfork _
  | .sqclose _
  | .sqdrop _
  | .sqaddr _
  | .eret _
  | .csave _ _ _
  | .cload _ _ _
  | .tlbinvPage _
  | .tlbinvJob _
  | .tlbinvStack _
  | .fltrdTake _ _ _
  | .fltrdResume _ _ _
  | .fltrdPeek _ _ _
  | .stkpass _ _ _
  | .rgnrd _ _
  | .rgnwr _ _
  | .plcmtPrep _
  | .plcmtCommit _
  | .plcmtAbort _ => ⟨false, false, .zero⟩
  | .illegalInstruction ..
  | .contextSelect
  | .loadReply
  | .icacheMissFill
  | .scalarAccessRetry
  | .counterIncrement
  | .vectorBind
  | .repBodyLoad
  | .matrixPortGrant
  | .matrixRetire
  | .arrayPhaseStart
  | .arrayPhaseEnd
  | .windowAccessCheck
  | .putDelivery
  | .deferredRefusal
  | .atomicPerform
  | .mcstReplicaWrite
  | .postedOpFailure
  | .copyServe
  | .copyComplete
  | .copyFaultHold
  | .chainHop
  | .barArrival
  | .barRelease
  | .balancerTraversal
  | .exitServeToken
  | .exitServeAntitoken
  | .cancellationArrival
  | .peekArrival
  | .toknResultWrite
  | .reductionArrival
  | .countingBarrierArrival
  | .planePowerUp
  | .planePowerDown
  | .escapeChannelMove
  | .placementPass
  | .priorityAging
  | .taskCompletion
  | .stopBathSettle
  | .taskNofitCancel
  | .queueRecordFetch
  | .stampRetry
  | .qpostDelivery
  | .hostLaunch
  | .hostGnew
  | .hostArm
  | .hostDepdec
  | .hostGcancel
  | .hostLink
  | .grelease
  | .hostBadcmd
  | .pageWalk
  | .preemptSave
  | .preemptRestore
  | .tileReclaim
  | .layoutSwitch
  | .bankSwap
  | .handoverStep
  | .functionLevelReset
  | .resetDrainEnd
  | .traceRecordWrite
  | .patrolScrub
  | .linkCrcReplay
  | .sendWindowAudit
  | .windowParityError
  | .clusterLogicError
  | .hbmChannelRetire
  | .linkRetire
  | .stackRetire
  | .clusterRetire
  | .watchdogExpiry
  | .thermalThreshold
  | .thermalReset
  | .podMessageReceive
  | .podFlitReplay
  | .podDeliveryTimeout
  | .podBarrierArrival
  | .notifyQueue
  | .registerWrite
  | .eventPost
  | .qcfg
  | .setMode
  | .layoutPrepare
  | .layoutCommit
  | .layoutAbort
  | .retire
  | .returnUnit
  | .answer
  | .resumeFault
  | .attest
  | .fwload
  | .podcfgSetPkgn
  | .podcfgSetRoute
  | .mboxBadcmd
  | .powerOn
  | .creditExhausted
  | .managementMemoryError
  | .linkLayerFailure => ⟨false, false, .zero⟩

/-- The prefix chain of an instruction; a device step has none. -/
def Instr.pre : Instr → Prefixes
  | .lda _ _ _ pre
  | .sta _ _ _ pre
  | .addMem _ _ _ pre
  | .adc _ _ _ pre
  | .subMem _ _ _ pre
  | .sbc _ _ _ pre
  | .mulMem _ _ _ pre
  | .mulh _ _ _ pre
  | .div _ _ _ pre
  | .rem _ _ _ pre
  | .andMem _ _ _ pre
  | .orMem _ _ _ pre
  | .xorMem _ _ _ pre
  | .shlMem _ _ _ pre
  | .shrMem _ _ _ pre
  | .sarMem _ _ _ pre
  | .rolMem _ _ _ pre
  | .cmpMem _ _ _ pre
  | .tstMem _ _ _ pre
  | .minMem _ _ _ pre
  | .maxMem _ _ _ pre
  | .sel _ _ _ pre
  | .faddMem _ _ _ pre
  | .fmulMem _ _ _ pre
  | .fmin _ _ _ pre
  | .fmax _ _ _ pre
  | .fcmp _ _ _ pre
  | .mac _ _ _ _ pre
  | .msb _ _ _ _ pre
  | .ffma _ _ _ _ pre
  | .movm _ _ _ _ pre
  | .ldi _ pre
  | .addImm _ pre
  | .subImm _ pre
  | .mulImm _ pre
  | .andImm _ pre
  | .orImm _ pre
  | .xorImm _ pre
  | .shlImm _ pre
  | .shrImm _ pre
  | .sarImm _ pre
  | .rolImm _ pre
  | .cmpImm _ pre
  | .tstImm _ pre
  | .minImm _ pre
  | .maxImm _ pre
  | .addX pre
  | .subX pre
  | .andX pre
  | .orX pre
  | .xorX pre
  | .mulX pre
  | .cmpX pre
  | .xcha pre
  | .clz pre
  | .popc pre
  | .faddX pre
  | .fmulX pre
  | .fcvt _ pre
  | .frcp pre
  | .movp _ _ _ pre
  | .addp _ pre
  | .sets _ _ pre
  | .getp _ pre
  | .ret pre
  | .movf pre
  | .getf pre
  | .nop pre
  | .jmp _ pre
  | .brZ _ pre
  | .brNz _ pre
  | .brN _ pre
  | .brNn _ pre
  | .brC _ pre
  | .brNc _ pre
  | .brV _ pre
  | .brNv _ pre
  | .brGt _ pre
  | .brGe _ pre
  | .brLt _ pre
  | .brLe _ pre
  | .call _ pre
  | .loop _ pre
  | .jmpA pre
  | .callA pre
  | .vld _ _ _ pre
  | .vst _ _ _ pre
  | .vldt _ _ _ pre
  | .vmov _ _ pre
  | .vbcast _ pre
  | .vadd _ _ pre
  | .vsub _ _ pre
  | .vmul _ _ pre
  | .vfma _ _ pre
  | .vmin _ _ pre
  | .vmax _ _ pre
  | .vabs _ _ pre
  | .vneg _ _ pre
  | .vand _ _ pre
  | .vor _ _ pre
  | .vxor _ _ pre
  | .vshl _ _ pre
  | .vshr _ _ pre
  | .vcmpEq _ _ pre
  | .vcmpLt _ _ pre
  | .vcmpLe _ _ pre
  | .vsel _ _ pre
  | .vcvt _ _ pre
  | .vred _ _ pre
  | .vscan _ _ pre
  | .vperm _ _ pre
  | .vexp2 _ _ pre
  | .vlog2 _ _ pre
  | .vrcp _ _ pre
  | .vrsq _ _ pre
  | .vclamp _ _ pre
  | .rep _ _ pre
  | .waitc _ _ _ pre
  | .sleep _ _ _ pre
  | .setc _ _ _ pre
  | .addc _ _ _ pre
  | .bar _ pre
  | .fence _ pre
  | .fenceAcq _ pre
  | .fenceRel _ pre
  | .hstart _ pre
  | .hexit pre
  | .hjoin _ pre
  | .yield pre
  | .trap _ pre
  | .cpy _ _ pre
  | .cpyc _ _ pre
  | .mctx _ _ pre
  | .wpl _ _ pre
  | .mzero pre
  | .mma _ _ pre
  | .mrow _ _ pre
  | .mcol _ _ pre
  | .mdrain _ _ pre
  | .mdrainf _ _ pre
  | .qnt _ _ pre
  | .qntg _ _ pre
  | .deq _ _ pre
  | .blset _ _ pre
  | .blcnt pre
  | .ldg _ _ pre
  | .stg _ _ pre
  | .ldw _ _ pre
  | .stw _ _ pre
  | .ldgAcq _ _ _ pre
  | .stgRel _ _ _ pre
  | .ldwAcq _ _ _ pre
  | .stwRel _ _ _ pre
  | .put _ _ pre
  | .putc _ _ pre
  | .mcst _ _ pre
  | .winset _ pre
  | .atomAdd _ _ _ pre
  | .atomMin _ _ _ pre
  | .atomMax _ _ _ pre
  | .atomAnd _ _ _ pre
  | .atomOr _ _ _ pre
  | .atomXor _ _ _ pre
  | .atomXchg _ _ _ pre
  | .atomCas _ _ _ pre
  | .atomnAdd _ _ _ pre
  | .atomnMin _ _ _ pre
  | .atomnMax _ _ _ pre
  | .atomnAnd _ _ _ pre
  | .atomnOr _ _ _ pre
  | .atomnXor _ _ _ pre
  | .tok pre
  | .tokn pre
  | .atok pre
  | .cvoid pre
  | .cpeek pre
  | .netred _ _ _ pre
  | .nbar _ pre
  | .spawn _ _ pre
  | .arm pre
  | .link pre
  | .depdec pre
  | .gnew pre
  | .gcancel pre
  | .gwait pre
  | .qres pre
  | .qpost _ _ pre
  | .tcbrd _ pre
  | .sqnew _ _ pre
  | .sqres pre
  | .sqcmt pre
  | .sqvoidCancel pre
  | .sqvoidCommit pre
  | .sqlen pre
  | .sqfork pre
  | .sqclose pre
  | .sqdrop pre
  | .sqaddr pre
  | .eret pre
  | .csave _ _ pre
  | .cload _ _ pre
  | .tlbinvPage pre
  | .tlbinvJob pre
  | .tlbinvStack pre
  | .fltrdTake _ _ pre
  | .fltrdResume _ _ pre
  | .fltrdPeek _ _ pre
  | .stkpass _ _ pre
  | .rgnrd _ pre
  | .rgnwr _ pre
  | .plcmtPrep pre
  | .plcmtCommit pre
  | .plcmtAbort pre => pre
  | .illegalInstruction ..
  | .contextSelect
  | .loadReply
  | .icacheMissFill
  | .scalarAccessRetry
  | .counterIncrement
  | .vectorBind
  | .repBodyLoad
  | .matrixPortGrant
  | .matrixRetire
  | .arrayPhaseStart
  | .arrayPhaseEnd
  | .windowAccessCheck
  | .putDelivery
  | .deferredRefusal
  | .atomicPerform
  | .mcstReplicaWrite
  | .postedOpFailure
  | .copyServe
  | .copyComplete
  | .copyFaultHold
  | .chainHop
  | .barArrival
  | .barRelease
  | .balancerTraversal
  | .exitServeToken
  | .exitServeAntitoken
  | .cancellationArrival
  | .peekArrival
  | .toknResultWrite
  | .reductionArrival
  | .countingBarrierArrival
  | .planePowerUp
  | .planePowerDown
  | .escapeChannelMove
  | .placementPass
  | .priorityAging
  | .taskCompletion
  | .stopBathSettle
  | .taskNofitCancel
  | .queueRecordFetch
  | .stampRetry
  | .qpostDelivery
  | .hostLaunch
  | .hostGnew
  | .hostArm
  | .hostDepdec
  | .hostGcancel
  | .hostLink
  | .grelease
  | .hostBadcmd
  | .pageWalk
  | .preemptSave
  | .preemptRestore
  | .tileReclaim
  | .layoutSwitch
  | .bankSwap
  | .handoverStep
  | .functionLevelReset
  | .resetDrainEnd
  | .traceRecordWrite
  | .patrolScrub
  | .linkCrcReplay
  | .sendWindowAudit
  | .windowParityError
  | .clusterLogicError
  | .hbmChannelRetire
  | .linkRetire
  | .stackRetire
  | .clusterRetire
  | .watchdogExpiry
  | .thermalThreshold
  | .thermalReset
  | .podMessageReceive
  | .podFlitReplay
  | .podDeliveryTimeout
  | .podBarrierArrival
  | .notifyQueue
  | .registerWrite
  | .eventPost
  | .qcfg
  | .setMode
  | .layoutPrepare
  | .layoutCommit
  | .layoutAbort
  | .retire
  | .returnUnit
  | .answer
  | .resumeFault
  | .attest
  | .fwload
  | .podcfgSetPkgn
  | .podcfgSetRoute
  | .mboxBadcmd
  | .powerOn
  | .creditExhausted
  | .managementMemoryError
  | .linkLayerFailure => Prefixes.none

/-- The remaining reserved field values (R36, R49 to R53, R55): an extended immediate out of its range, helper
context 0, an ATOMN order of acquire, a mask on REP, MOVP's source field with S = 1. -/
def Instr.rangeOk : Instr → Bool
  | .sets _ imm pre => decide (-32768 ≤ pre.extInt 5 imm.toNat ∧ pre.extInt 5 imm.toNat ≤ 32767)
  | .waitc _ imm i pre | .sleep _ imm i pre | .setc _ imm i pre | .addc _ imm i pre =>
      if imm then decide (pre.extNat 3 i.toNat < 2 ^ 32) else decide (i = 0)
  | .loop off pre => decide (0 < pre.extInt 9 off.toNat)
  | .hstart h _ | .hjoin h _ => decide (h ≠ 0)
  | .movp _ ps acc _ => !acc || decide (ps = 0)
  | .rep _ _ pre => decide (pre.pred = 0)
  | .atomnAdd _ o _ _ | .atomnMin _ o _ _ | .atomnMax _ o _ _ | .atomnAnd _ o _ _ | .atomnOr _ o _ _
  | .atomnXor _ o _ _ => decide (o = .relaxed ∨ o = .release)
  | _ => true

/-- Are all field values of the instruction ones the tables allow? Otherwise ILLEGAL 0x08 (R61). -/
def Instr.fieldsOk (i : Instr) : Bool :=
  i.rgxUse.admits i.pre && i.wRule.admits i.pre && i.rangeOk

/-- Rows of the opcode table that have an encoding. -/
def Instr.encoded : Instr → Bool
  | .illegalInstruction ..
  | .contextSelect
  | .loadReply
  | .icacheMissFill
  | .scalarAccessRetry
  | .counterIncrement
  | .vectorBind
  | .repBodyLoad
  | .matrixPortGrant
  | .matrixRetire
  | .arrayPhaseStart
  | .arrayPhaseEnd
  | .windowAccessCheck
  | .putDelivery
  | .deferredRefusal
  | .atomicPerform
  | .mcstReplicaWrite
  | .postedOpFailure
  | .copyServe
  | .copyComplete
  | .copyFaultHold
  | .chainHop
  | .barArrival
  | .barRelease
  | .balancerTraversal
  | .exitServeToken
  | .exitServeAntitoken
  | .cancellationArrival
  | .peekArrival
  | .toknResultWrite
  | .reductionArrival
  | .countingBarrierArrival
  | .planePowerUp
  | .planePowerDown
  | .escapeChannelMove
  | .placementPass
  | .priorityAging
  | .taskCompletion
  | .stopBathSettle
  | .taskNofitCancel
  | .queueRecordFetch
  | .stampRetry
  | .qpostDelivery
  | .hostLaunch
  | .hostGnew
  | .hostArm
  | .hostDepdec
  | .hostGcancel
  | .hostLink
  | .grelease
  | .hostBadcmd
  | .pageWalk
  | .preemptSave
  | .preemptRestore
  | .tileReclaim
  | .layoutSwitch
  | .bankSwap
  | .handoverStep
  | .functionLevelReset
  | .resetDrainEnd
  | .traceRecordWrite
  | .patrolScrub
  | .linkCrcReplay
  | .sendWindowAudit
  | .windowParityError
  | .clusterLogicError
  | .hbmChannelRetire
  | .linkRetire
  | .stackRetire
  | .clusterRetire
  | .watchdogExpiry
  | .thermalThreshold
  | .thermalReset
  | .podMessageReceive
  | .podFlitReplay
  | .podDeliveryTimeout
  | .podBarrierArrival
  | .notifyQueue
  | .registerWrite
  | .eventPost
  | .qcfg
  | .setMode
  | .layoutPrepare
  | .layoutCommit
  | .layoutAbort
  | .retire
  | .returnUnit
  | .answer
  | .resumeFault
  | .attest
  | .fwload
  | .podcfgSetPkgn
  | .podcfgSetRoute
  | .mboxBadcmd
  | .powerOn
  | .creditExhausted
  | .managementMemoryError
  | .linkLayerFailure => false
  | _ => true

/-- On which opcode page an instruction lies (R43). -/
def Instr.page : Instr → Nat
  | .mctx _ _ _
  | .wpl _ _ _
  | .mzero _
  | .mma _ _ _
  | .mrow _ _ _
  | .mcol _ _ _
  | .mdrain _ _ _
  | .mdrainf _ _ _
  | .qnt _ _ _
  | .qntg _ _ _
  | .deq _ _ _
  | .blset _ _ _
  | .blcnt _ => 1
  | .ldg _ _ _
  | .stg _ _ _
  | .ldw _ _ _
  | .stw _ _ _
  | .ldgAcq _ _ _ _
  | .stgRel _ _ _ _
  | .ldwAcq _ _ _ _
  | .stwRel _ _ _ _
  | .put _ _ _
  | .putc _ _ _
  | .mcst _ _ _
  | .winset _ _
  | .atomAdd _ _ _ _
  | .atomMin _ _ _ _
  | .atomMax _ _ _ _
  | .atomAnd _ _ _ _
  | .atomOr _ _ _ _
  | .atomXor _ _ _ _
  | .atomXchg _ _ _ _
  | .atomCas _ _ _ _
  | .atomnAdd _ _ _ _
  | .atomnMin _ _ _ _
  | .atomnMax _ _ _ _
  | .atomnAnd _ _ _ _
  | .atomnOr _ _ _ _
  | .atomnXor _ _ _ _ => 2
  | .tok _
  | .tokn _
  | .atok _
  | .cvoid _
  | .cpeek _
  | .netred _ _ _ _
  | .nbar _ _ => 3
  | .spawn _ _ _
  | .arm _
  | .link _
  | .depdec _
  | .gnew _
  | .gcancel _
  | .gwait _
  | .qres _
  | .qpost _ _ _
  | .tcbrd _ _ => 4
  | .sqnew _ _ _
  | .sqres _
  | .sqcmt _
  | .sqvoidCancel _
  | .sqvoidCommit _
  | .sqlen _
  | .sqfork _
  | .sqclose _
  | .sqdrop _
  | .sqaddr _ => 5
  | .eret _
  | .csave _ _ _
  | .cload _ _ _
  | .tlbinvPage _
  | .tlbinvJob _
  | .tlbinvStack _
  | .fltrdTake _ _ _
  | .fltrdResume _ _ _
  | .fltrdPeek _ _ _
  | .stkpass _ _ _
  | .rgnrd _ _
  | .rgnwr _ _
  | .plcmtPrep _
  | .plcmtCommit _
  | .plcmtAbort _ => 6
  | _ => 0

/-- An instruction the decoder can give: an encoded row, a chain of at most four prefix words that it accepts,
PGX present on pages 1 to 6, and no reserved field value (R38, R43, R45, R61). -/
def Instr.WellFormed (i : Instr) : Prop :=
  i.encoded = true ∧ i.pre.count ≤ 4 ∧ (i.page ≠ 0 → i.pre.pgx = true) ∧
  i.accept.admits i.pre = true ∧ i.fieldsOk = true

/-- The same check as a Bool. -/
def Instr.wellFormed (i : Instr) : Bool :=
  i.encoded && decide (i.pre.count ≤ 4) && (decide (i.page = 0) || i.pre.pgx) && i.accept.admits i.pre && i.fieldsOk

end Sys2Proof
end

