-- ==== Sys2Proof/Decode.lean ====
section
/-! DEFINITION. The decoder, total on any words and rejecting by the detail code of R61, and the encoder, both from the encoding tables of 02_instruction_words. -/

namespace Sys2Proof

/-- Post-mode codes (R35). -/
def PostMode.ofCode (b : BitVec 2) : PostMode :=
  match b.toNat with
  | 0 => .none | 1 => .plusStride | 2 => .minusStride | _ => .plusElem
def PostMode.code : PostMode → BitVec 2
  | .none => 0 | .plusStride => 1 | .minusStride => 2 | .plusElem => 3

/-- Scope codes (00_scope R9); 0b111 is reserved. -/
def Scope.ofCode (b : BitVec 3) : Option Scope :=
  match b.toNat with
  | 0 => some .context | 1 => some .core | 2 => some .tile | 3 => some .cluster
  | 4 => some .die | 5 => some .package | 6 => some .pod | _ => none
def Scope.code : Scope → BitVec 3
  | .context => 0 | .core => 1 | .tile => 2 | .cluster => 3 | .die => 4 | .package => 5 | .pod => 6

/-- Order codes of ATOM and ATOMN (R55). -/
def AtomOrder.ofCode (b : BitVec 2) : AtomOrder :=
  match b.toNat with
  | 0 => .relaxed | 1 => .acquire | 2 => .release | _ => .acqRel
def AtomOrder.code : AtomOrder → BitVec 2
  | .relaxed => 0 | .acquire => 1 | .release => 2 | .acqRel => 3

/-- Function codes of NETRED, VRED and VSCAN (R52, R56); 6 and 7 are reserved. -/
def RedFn.ofCode (b : BitVec 3) : Option RedFn :=
  match b.toNat with
  | 0 => some .add | 1 => some .min | 2 => some .max | 3 => some .and | 4 => some .or | 5 => some .xor | _ => none
def RedFn.code : RedFn → BitVec 3
  | .add => 0 | .min => 1 | .max => 2 | .and => 3 | .or => 4 | .xor => 5

/-- Direction codes of FCVT (R49). -/
def CvtDir.ofCode (b : BitVec 2) : CvtDir :=
  match b.toNat with
  | 0 => .itof | 1 => .ftoi | 2 => .narrow | _ => .widen
def CvtDir.code : CvtDir → BitVec 2
  | .itof => 0 | .ftoi => 1 | .narrow => 2 | .widen => 3

/-- WDX type codes (R44); 0x0 and 0xC to 0xF are reserved. -/
def Ty.ofCode (b : BitVec 4) : Option Ty :=
  match b.toNat with
  | 1 => some .i4 | 2 => some .ui4 | 3 => some .i8 | 4 => some .ui8 | 5 => some .i16 | 6 => some .i32
  | 7 => some .f32 | 8 => some .bf16 | 9 => some .f16 | 10 => some .e4m3 | 11 => some .e5m2 | _ => none
def Ty.code : Ty → BitVec 4
  | .i4 => 1 | .ui4 => 2 | .i8 => 3 | .ui8 => 4 | .i16 => 5 | .i32 => 6
  | .f32 => 7 | .bf16 => 8 | .f16 => 9 | .e4m3 => 10 | .e5m2 => 11

/-- WDX rounding codes (R44); 0b001 to 0b011 are reserved. -/
def Rnd.ofCode (b : BitVec 3) : Option Rnd :=
  match b.toNat with
  | 0 => some .dflt | 4 => some .nearest | 5 => some .zero | 6 => some .up | 7 => some .down | _ => none
def Rnd.code : Rnd → BitVec 3
  | .dflt => 0 | .nearest => 4 | .zero => 5 | .up => 6 | .down => 7

/-- The scope field [2:0] of an SY word. -/
def scopeOf (w : Half) : Option Scope := Scope.ofCode (w.extractLsb' 0 3)

/-- AP format, page 0 (R34, R46). `none` is a reserved op. -/
def decodeAP (w : Half) (pre : Prefixes) : Option (Accept × Option Instr) :=
  let p := w.extractLsb' 5 3
  let pm := PostMode.ofCode (w.extractLsb' 3 2)
  let d := w.extractLsb' 0 3
  match (w.extractLsb' 8 5).toNat with
  | 1 => some (Accept.ap, some (.lda p pm d pre))
  | 2 => some (Accept.ap, some (.sta p pm d pre))
  | 3 => some (Accept.ap, some (.addMem p pm d pre))
  | 4 => some (Accept.ap, some (.adc p pm d pre))
  | 5 => some (Accept.ap, some (.subMem p pm d pre))
  | 6 => some (Accept.ap, some (.sbc p pm d pre))
  | 7 => some (Accept.ap, some (.mulMem p pm d pre))
  | 8 => some (Accept.ap, some (.mulh p pm d pre))
  | 9 => some (Accept.ap, some (.div p pm d pre))
  | 10 => some (Accept.ap, some (.rem p pm d pre))
  | 11 => some (Accept.ap, some (.andMem p pm d pre))
  | 12 => some (Accept.ap, some (.orMem p pm d pre))
  | 13 => some (Accept.ap, some (.xorMem p pm d pre))
  | 14 => some (Accept.ap, some (.shlMem p pm d pre))
  | 15 => some (Accept.ap, some (.shrMem p pm d pre))
  | 16 => some (Accept.ap, some (.sarMem p pm d pre))
  | 17 => some (Accept.ap, some (.rolMem p pm d pre))
  | 18 => some (Accept.ap, some (.cmpMem p pm d pre))
  | 19 => some (Accept.ap, some (.tstMem p pm d pre))
  | 20 => some (Accept.ap, some (.minMem p pm d pre))
  | 21 => some (Accept.ap, some (.maxMem p pm d pre))
  | 22 => some (Accept.ap, some (.sel p pm d pre))
  | 23 => some (Accept.ap, some (.faddMem p pm d pre))
  | 24 => some (Accept.ap, some (.fmulMem p pm d pre))
  | 25 => some (Accept.ap, some (.fmin p pm d pre))
  | 26 => some (Accept.ap, some (.fmax p pm d pre))
  | 27 => some (Accept.ap, some (.fcmp p pm d pre))
  | _ => none

/-- PP format, page 0 (R34, R47). -/
def decodePP (w : Half) (pre : Prefixes) : Option (Accept × Option Instr) :=
  let pa := w.extractLsb' 7 3
  let pma := PostMode.ofCode (w.extractLsb' 5 2)
  let pb := w.extractLsb' 2 3
  let pmb := PostMode.ofCode (w.extractLsb' 0 2)
  match (w.extractLsb' 10 3).toNat with
  | 0 => some (Accept.pp, some (.mac pa pma pb pmb pre))
  | 1 => some (Accept.pp, some (.msb pa pma pb pmb pre))
  | 2 => some (Accept.pp, some (.ffma pa pma pb pmb pre))
  | 3 => some (Accept.pp, some (.movm pa pma pb pmb pre))
  | _ => none

/-- AI format, page 0 (R34, R48). -/
def decodeAI (w : Half) (pre : Prefixes) : Option (Accept × Option Instr) :=
  let imm := w.extractLsb' 0 9
  match (w.extractLsb' 9 4).toNat with
  | 0 => some (Accept.ai, some (.ldi imm pre))
  | 1 => some (Accept.ai, some (.addImm imm pre))
  | 2 => some (Accept.ai, some (.subImm imm pre))
  | 3 => some (Accept.aiW, some (.mulImm imm pre))
  | 4 => some (Accept.ai, some (.andImm imm pre))
  | 5 => some (Accept.ai, some (.orImm imm pre))
  | 6 => some (Accept.ai, some (.xorImm imm pre))
  | 7 => some (Accept.ai, some (.shlImm imm pre))
  | 8 => some (Accept.ai, some (.shrImm imm pre))
  | 9 => some (Accept.ai, some (.sarImm imm pre))
  | 10 => some (Accept.ai, some (.rolImm imm pre))
  | 11 => some (Accept.ai, some (.cmpImm imm pre))
  | 12 => some (Accept.ai, some (.tstImm imm pre))
  | 13 => some (Accept.aiW, some (.minImm imm pre))
  | 14 => some (Accept.aiW, some (.maxImm imm pre))
  | _ => none

/-- AR format, page 0 (R34, R49). A bit that the aux layout does not name must be zero. -/
def decodeAR (w : Half) (pre : Prefixes) : Option (Accept × Option Instr) :=
  match (w.extractLsb' 8 5).toNat with
  | 0 => some (Accept.r, if w.extractLsb' 0 8 = 0 then some (.addX pre) else none)
  | 1 => some (Accept.r, if w.extractLsb' 0 8 = 0 then some (.subX pre) else none)
  | 2 => some (Accept.r, if w.extractLsb' 0 8 = 0 then some (.andX pre) else none)
  | 3 => some (Accept.r, if w.extractLsb' 0 8 = 0 then some (.orX pre) else none)
  | 4 => some (Accept.r, if w.extractLsb' 0 8 = 0 then some (.xorX pre) else none)
  | 5 => some (Accept.r, if w.extractLsb' 0 8 = 0 then some (.mulX pre) else none)
  | 6 => some (Accept.r, if w.extractLsb' 0 8 = 0 then some (.cmpX pre) else none)
  | 7 => some (Accept.r, if w.extractLsb' 0 8 = 0 then some (.xcha pre) else none)
  | 8 => some (Accept.rw, if w.extractLsb' 0 8 = 0 then some (.clz pre) else none)
  | 9 => some (Accept.rw, if w.extractLsb' 0 8 = 0 then some (.popc pre) else none)
  | 10 => some (Accept.rw, if w.extractLsb' 0 8 = 0 then some (.faddX pre) else none)
  | 11 => some (Accept.rw, if w.extractLsb' 0 8 = 0 then some (.fmulX pre) else none)
  | 12 => some (Accept.rw, if w.extractLsb' 2 6 = 0 then some (.fcvt (CvtDir.ofCode (w.extractLsb' 0 2)) pre) else none)
  | 13 => some (Accept.rw, if w.extractLsb' 0 8 = 0 then some (.frcp pre) else none)
  | 14 => some (Accept.r, if w.getLsbD 0 then none else some (.movp (w.extractLsb' 5 3) (w.extractLsb' 2 3) (w.getLsbD 1) pre))
  | 15 => some (Accept.r, if w.extractLsb' 0 5 = 0 then some (.addp (w.extractLsb' 5 3) pre) else none)
  | 16 => some (Accept.sets, some (.sets (w.extractLsb' 5 3) (w.extractLsb' 0 5) pre))
  | 17 => some (Accept.r, if w.extractLsb' 0 5 = 0 then some (.getp (w.extractLsb' 5 3) pre) else none)
  | 18 => some (Accept.r, if w.extractLsb' 0 8 = 0 then some (.ret pre) else none)
  | 19 => some (Accept.r, if w.extractLsb' 0 8 = 0 then some (.movf pre) else none)
  | 20 => some (Accept.r, if w.extractLsb' 0 8 = 0 then some (.getf pre) else none)
  | 21 => some (Accept.r, if w.extractLsb' 0 8 = 0 then some (.nop pre) else none)
  | _ => none

/-- BR format, page 0 (R34, R50). -/
def decodeBR (w : Half) (pre : Prefixes) : Option (Accept × Option Instr) :=
  let off := w.extractLsb' 0 9
  match (w.extractLsb' 9 4).toNat with
  | 0 => some (Accept.br, some (.jmp off pre))
  | 1 => some (Accept.br, some (.brZ off pre))
  | 2 => some (Accept.br, some (.brNz off pre))
  | 3 => some (Accept.br, some (.brN off pre))
  | 4 => some (Accept.br, some (.brNn off pre))
  | 5 => some (Accept.br, some (.brC off pre))
  | 6 => some (Accept.br, some (.brNc off pre))
  | 7 => some (Accept.br, some (.brV off pre))
  | 8 => some (Accept.br, some (.brNv off pre))
  | 9 => some (Accept.br, some (.brGt off pre))
  | 10 => some (Accept.br, some (.brGe off pre))
  | 11 => some (Accept.br, some (.brLt off pre))
  | 12 => some (Accept.br, some (.brLe off pre))
  | 13 => some (Accept.br, some (.call off pre))
  | 14 => some (Accept.br, some (.loop off pre))
  | _ => some (Accept.bare, if off = 0 then some (.jmpA pre) else if off = 1 then some (.callA pre) else none)

/-- VX format, page 0 (R34, R51, R52). -/
def decodeVX (w : Half) (pre : Prefixes) : Option (Accept × Option Instr) :=
  match (w.extractLsb' 8 5).toNat with
  | 0 => some (Accept.rw, some (.vld (w.extractLsb' 4 4) (w.extractLsb' 1 3) (w.getLsbD 0) pre))
  | 1 => some (Accept.rw, some (.vst (w.extractLsb' 4 4) (w.extractLsb' 1 3) (w.getLsbD 0) pre))
  | 2 => some (Accept.rw, some (.vldt (w.extractLsb' 4 4) (w.extractLsb' 1 3) (w.getLsbD 0) pre))
  | 3 => some (Accept.rw, some (.vmov (w.extractLsb' 4 4) (w.extractLsb' 0 4) pre))
  | 4 => some (Accept.rw, if w.extractLsb' 0 4 = 0 then some (.vbcast (w.extractLsb' 4 4) pre) else none)
  | 5 => some (Accept.rw, some (.vadd (w.extractLsb' 4 4) (w.extractLsb' 0 4) pre))
  | 6 => some (Accept.rw, some (.vsub (w.extractLsb' 4 4) (w.extractLsb' 0 4) pre))
  | 7 => some (Accept.rw, some (.vmul (w.extractLsb' 4 4) (w.extractLsb' 0 4) pre))
  | 8 => some (Accept.vt, some (.vfma (w.extractLsb' 4 4) (w.extractLsb' 0 4) pre))
  | 9 => some (Accept.rw, some (.vmin (w.extractLsb' 4 4) (w.extractLsb' 0 4) pre))
  | 10 => some (Accept.rw, some (.vmax (w.extractLsb' 4 4) (w.extractLsb' 0 4) pre))
  | 11 => some (Accept.rw, some (.vabs (w.extractLsb' 4 4) (w.extractLsb' 0 4) pre))
  | 12 => some (Accept.rw, some (.vneg (w.extractLsb' 4 4) (w.extractLsb' 0 4) pre))
  | 13 => some (Accept.rw, some (.vand (w.extractLsb' 4 4) (w.extractLsb' 0 4) pre))
  | 14 => some (Accept.rw, some (.vor (w.extractLsb' 4 4) (w.extractLsb' 0 4) pre))
  | 15 => some (Accept.rw, some (.vxor (w.extractLsb' 4 4) (w.extractLsb' 0 4) pre))
  | 16 => some (Accept.rw, some (.vshl (w.extractLsb' 4 4) (w.extractLsb' 0 4) pre))
  | 17 => some (Accept.rw, some (.vshr (w.extractLsb' 4 4) (w.extractLsb' 0 4) pre))
  | 18 => some (Accept.rw, some (.vcmpEq (w.extractLsb' 4 4) (w.extractLsb' 0 4) pre))
  | 19 => some (Accept.rw, some (.vcmpLt (w.extractLsb' 4 4) (w.extractLsb' 0 4) pre))
  | 20 => some (Accept.rw, some (.vcmpLe (w.extractLsb' 4 4) (w.extractLsb' 0 4) pre))
  | 21 => some (Accept.vt, some (.vsel (w.extractLsb' 4 4) (w.extractLsb' 0 4) pre))
  | 22 => some (Accept.vcvt, some (.vcvt (w.extractLsb' 4 4) (w.extractLsb' 0 4) pre))
  | 23 => some (Accept.rw, some (.vred (w.extractLsb' 4 4) (w.extractLsb' 0 4) pre))
  | 24 => some (Accept.rw, some (.vscan (w.extractLsb' 4 4) (w.extractLsb' 0 4) pre))
  | 25 => some (Accept.rw, some (.vperm (w.extractLsb' 4 4) (w.extractLsb' 0 4) pre))
  | 26 => some (Accept.rw, some (.vexp2 (w.extractLsb' 4 4) (w.extractLsb' 0 4) pre))
  | 27 => some (Accept.rw, some (.vlog2 (w.extractLsb' 4 4) (w.extractLsb' 0 4) pre))
  | 28 => some (Accept.rw, some (.vrcp (w.extractLsb' 4 4) (w.extractLsb' 0 4) pre))
  | 29 => some (Accept.rw, some (.vrsq (w.extractLsb' 4 4) (w.extractLsb' 0 4) pre))
  | 30 => some (Accept.vt, some (.vclamp (w.extractLsb' 4 4) (w.extractLsb' 0 4) pre))
  | 31 => some (Accept.rep, some (.rep (w.extractLsb' 4 4) (w.extractLsb' 0 4) pre))
  | _ => none

/-- SY format, page 0 (R53). -/
def decodeSY (w : Half) (pre : Prefixes) : Option (Accept × Option Instr) :=
  match (w.extractLsb' 8 5).toNat with
  | 1 => some (Accept.counter (w.getLsbD 3), some (.waitc (w.extractLsb' 4 4) (w.getLsbD 3) (w.extractLsb' 0 3) pre))
  | 2 => some (Accept.counter (w.getLsbD 3), some (.sleep (w.extractLsb' 4 4) (w.getLsbD 3) (w.extractLsb' 0 3) pre))
  | 3 => some (Accept.counter (w.getLsbD 3), some (.setc (w.extractLsb' 4 4) (w.getLsbD 3) (w.extractLsb' 0 3) pre))
  | 4 => some (Accept.counter (w.getLsbD 3), some (.addc (w.extractLsb' 4 4) (w.getLsbD 3) (w.extractLsb' 0 3) pre))
  | 5 => some (Accept.r, if w.extractLsb' 3 5 = 0 then (scopeOf w).map fun s => .bar s pre else none)
  | 6 => some (Accept.r, if w.extractLsb' 5 3 = 0 then
      (scopeOf w).bind fun s => match (w.extractLsb' 3 2).toNat with
        | 0 => some (.fence s pre) | 1 => some (.fenceAcq s pre) | 2 => some (.fenceRel s pre) | _ => none
      else none)
  | 7 => some (Accept.r, if w.extractLsb' 0 4 = 0 then some (.hstart (w.extractLsb' 4 4) pre) else none)
  | 8 => some (Accept.r, if w.extractLsb' 0 8 = 0 then some (.hexit pre) else none)
  | 9 => some (Accept.r, if w.extractLsb' 0 4 = 0 then some (.hjoin (w.extractLsb' 4 4) pre) else none)
  | 10 => some (Accept.r, if w.extractLsb' 0 8 = 0 then some (.yield pre) else none)
  | 11 => some (Accept.r, some (.trap (w.extractLsb' 0 8) pre))
  | 12 => some (Accept.r, if w.extractLsb' 0 3 = 0 then some (.cpy (w.extractLsb' 5 3) (PostMode.ofCode (w.extractLsb' 3 2)) pre) else none)
  | 13 => some (Accept.r, if w.extractLsb' 0 3 = 0 then some (.cpyc (w.extractLsb' 5 3) (PostMode.ofCode (w.extractLsb' 3 2)) pre) else none)
  | _ => none

/-- Page 1, matrix (R54). -/
def decodePage1 (w : Half) (pre : Prefixes) : Option (Accept × Option Instr) :=
  match (w.extractLsb' 8 5).toNat with
  | 1 => some (Accept.r, if w.extractLsb' 0 3 = 0 then some (.mctx (w.extractLsb' 5 3) (PostMode.ofCode (w.extractLsb' 3 2)) pre) else none)
  | 2 => some (Accept.r, if w.extractLsb' 0 3 = 0 then some (.wpl (w.extractLsb' 5 3) (PostMode.ofCode (w.extractLsb' 3 2)) pre) else none)
  | 3 => some (Accept.r, if w.extractLsb' 0 8 = 0 then some (.mzero pre) else none)
  | 4 => some (Accept.r, if w.extractLsb' 0 3 = 0 then some (.mma (w.extractLsb' 5 3) (PostMode.ofCode (w.extractLsb' 3 2)) pre) else none)
  | 5 => some (Accept.r, if w.extractLsb' 0 3 = 0 then some (.mrow (w.extractLsb' 5 3) (PostMode.ofCode (w.extractLsb' 3 2)) pre) else none)
  | 6 => some (Accept.r, if w.extractLsb' 0 3 = 0 then some (.mcol (w.extractLsb' 5 3) (PostMode.ofCode (w.extractLsb' 3 2)) pre) else none)
  | 7 => some (Accept.rw, if w.extractLsb' 0 3 = 0 then some (.mdrain (w.extractLsb' 5 3) (PostMode.ofCode (w.extractLsb' 3 2)) pre) else none)
  | 8 => some (Accept.rw, if w.extractLsb' 0 3 = 0 then some (.mdrainf (w.extractLsb' 5 3) (PostMode.ofCode (w.extractLsb' 3 2)) pre) else none)
  | 9 => some (Accept.rw, if w.extractLsb' 0 3 = 0 then some (.qnt (w.extractLsb' 5 3) (PostMode.ofCode (w.extractLsb' 3 2)) pre) else none)
  | 10 => some (Accept.rw, if w.extractLsb' 0 3 = 0 then some (.qntg (w.extractLsb' 5 3) (PostMode.ofCode (w.extractLsb' 3 2)) pre) else none)
  | 11 => some (Accept.rw, if w.extractLsb' 0 3 = 0 then some (.deq (w.extractLsb' 5 3) (PostMode.ofCode (w.extractLsb' 3 2)) pre) else none)
  | 12 => some (Accept.r, if w.extractLsb' 0 3 = 0 then some (.blset (w.extractLsb' 5 3) (PostMode.ofCode (w.extractLsb' 3 2)) pre) else none)
  | 13 => some (Accept.r, if w.extractLsb' 0 8 = 0 then some (.blcnt pre) else none)
  | _ => none

/-- Page 2, memory (R55). -/
def decodePage2 (w : Half) (pre : Prefixes) : Option (Accept × Option Instr) :=
  match (w.extractLsb' 8 5).toNat with
  | 1 => some (Accept.rw, if w.extractLsb' 0 3 = 0 then some (.ldg (w.extractLsb' 5 3) (PostMode.ofCode (w.extractLsb' 3 2)) pre) else none)
  | 2 => some (Accept.rw, if w.extractLsb' 0 3 = 0 then some (.stg (w.extractLsb' 5 3) (PostMode.ofCode (w.extractLsb' 3 2)) pre) else none)
  | 3 => some (Accept.rw, if w.extractLsb' 0 3 = 0 then some (.ldw (w.extractLsb' 5 3) (PostMode.ofCode (w.extractLsb' 3 2)) pre) else none)
  | 4 => some (Accept.rw, if w.extractLsb' 0 3 = 0 then some (.stw (w.extractLsb' 5 3) (PostMode.ofCode (w.extractLsb' 3 2)) pre) else none)
  | 5 => some (Accept.rw, (scopeOf w).map fun s => .ldgAcq (w.extractLsb' 5 3) (PostMode.ofCode (w.extractLsb' 3 2)) s pre)
  | 6 => some (Accept.rw, (scopeOf w).map fun s => .stgRel (w.extractLsb' 5 3) (PostMode.ofCode (w.extractLsb' 3 2)) s pre)
  | 7 => some (Accept.rw, (scopeOf w).map fun s => .ldwAcq (w.extractLsb' 5 3) (PostMode.ofCode (w.extractLsb' 3 2)) s pre)
  | 8 => some (Accept.rw, (scopeOf w).map fun s => .stwRel (w.extractLsb' 5 3) (PostMode.ofCode (w.extractLsb' 3 2)) s pre)
  | 9 => some (Accept.rw, if w.extractLsb' 0 3 = 0 then some (.put (w.extractLsb' 5 3) (PostMode.ofCode (w.extractLsb' 3 2)) pre) else none)
  | 10 => some (Accept.r, if w.extractLsb' 0 3 = 0 then some (.putc (w.extractLsb' 5 3) (PostMode.ofCode (w.extractLsb' 3 2)) pre) else none)
  | 11 => some (Accept.rw, if w.extractLsb' 0 3 = 0 then some (.mcst (w.extractLsb' 5 3) (PostMode.ofCode (w.extractLsb' 3 2)) pre) else none)
  | 12 => some (Accept.r, if w.extractLsb' 0 5 = 0 then some (.winset (w.extractLsb' 5 3) pre) else none)
  | 16 => some (Accept.rw, (scopeOf w).map fun s => .atomAdd (w.extractLsb' 5 3) (AtomOrder.ofCode (w.extractLsb' 3 2)) s pre)
  | 17 => some (Accept.rw, (scopeOf w).map fun s => .atomMin (w.extractLsb' 5 3) (AtomOrder.ofCode (w.extractLsb' 3 2)) s pre)
  | 18 => some (Accept.rw, (scopeOf w).map fun s => .atomMax (w.extractLsb' 5 3) (AtomOrder.ofCode (w.extractLsb' 3 2)) s pre)
  | 19 => some (Accept.rw, (scopeOf w).map fun s => .atomAnd (w.extractLsb' 5 3) (AtomOrder.ofCode (w.extractLsb' 3 2)) s pre)
  | 20 => some (Accept.rw, (scopeOf w).map fun s => .atomOr (w.extractLsb' 5 3) (AtomOrder.ofCode (w.extractLsb' 3 2)) s pre)
  | 21 => some (Accept.rw, (scopeOf w).map fun s => .atomXor (w.extractLsb' 5 3) (AtomOrder.ofCode (w.extractLsb' 3 2)) s pre)
  | 22 => some (Accept.rw, (scopeOf w).map fun s => .atomXchg (w.extractLsb' 5 3) (AtomOrder.ofCode (w.extractLsb' 3 2)) s pre)
  | 23 => some (Accept.rw, (scopeOf w).map fun s => .atomCas (w.extractLsb' 5 3) (AtomOrder.ofCode (w.extractLsb' 3 2)) s pre)
  | 24 => some (Accept.rw, (scopeOf w).map fun s => .atomnAdd (w.extractLsb' 5 3) (AtomOrder.ofCode (w.extractLsb' 3 2)) s pre)
  | 25 => some (Accept.rw, (scopeOf w).map fun s => .atomnMin (w.extractLsb' 5 3) (AtomOrder.ofCode (w.extractLsb' 3 2)) s pre)
  | 26 => some (Accept.rw, (scopeOf w).map fun s => .atomnMax (w.extractLsb' 5 3) (AtomOrder.ofCode (w.extractLsb' 3 2)) s pre)
  | 27 => some (Accept.rw, (scopeOf w).map fun s => .atomnAnd (w.extractLsb' 5 3) (AtomOrder.ofCode (w.extractLsb' 3 2)) s pre)
  | 28 => some (Accept.rw, (scopeOf w).map fun s => .atomnOr (w.extractLsb' 5 3) (AtomOrder.ofCode (w.extractLsb' 3 2)) s pre)
  | 29 => some (Accept.rw, (scopeOf w).map fun s => .atomnXor (w.extractLsb' 5 3) (AtomOrder.ofCode (w.extractLsb' 3 2)) s pre)
  | _ => none

/-- Page 3, counting (R56). -/
def decodePage3 (w : Half) (pre : Prefixes) : Option (Accept × Option Instr) :=
  match (w.extractLsb' 8 5).toNat with
  | 1 => some (Accept.r, if w.extractLsb' 0 8 = 0 then some (.tok pre) else none)
  | 2 => some (Accept.r, if w.extractLsb' 0 8 = 0 then some (.tokn pre) else none)
  | 3 => some (Accept.r, if w.extractLsb' 0 8 = 0 then some (.atok pre) else none)
  | 4 => some (Accept.r, if w.extractLsb' 0 8 = 0 then some (.cvoid pre) else none)
  | 5 => some (Accept.r, if w.extractLsb' 0 8 = 0 then some (.cpeek pre) else none)
  | 6 => some (Accept.rw, if w.getLsbD 3 then none else
      (RedFn.ofCode (w.extractLsb' 5 3)).bind fun fn => (scopeOf w).map fun s => .netred fn (w.getLsbD 4) s pre)
  | 7 => some (Accept.r, if w.extractLsb' 3 5 = 0 then (scopeOf w).map fun s => .nbar s pre else none)
  | _ => none

/-- Page 4, tasks and graphs (R57). -/
def decodePage4 (w : Half) (pre : Prefixes) : Option (Accept × Option Instr) :=
  match (w.extractLsb' 8 5).toNat with
  | 1 => some (Accept.r, if w.extractLsb' 0 3 = 0 then some (.spawn (w.extractLsb' 5 3) (PostMode.ofCode (w.extractLsb' 3 2)) pre) else none)
  | 2 => some (Accept.r, if w.extractLsb' 0 8 = 0 then some (.arm pre) else none)
  | 3 => some (Accept.r, if w.extractLsb' 0 8 = 0 then some (.link pre) else none)
  | 4 => some (Accept.r, if w.extractLsb' 0 8 = 0 then some (.depdec pre) else none)
  | 5 => some (Accept.r, if w.extractLsb' 0 8 = 0 then some (.gnew pre) else none)
  | 6 => some (Accept.r, if w.extractLsb' 0 8 = 0 then some (.gcancel pre) else none)
  | 7 => some (Accept.r, if w.extractLsb' 0 8 = 0 then some (.gwait pre) else none)
  | 8 => some (Accept.r, if w.extractLsb' 0 8 = 0 then some (.qres pre) else none)
  | 9 => some (Accept.r, if w.extractLsb' 0 3 = 0 then some (.qpost (w.extractLsb' 5 3) (PostMode.ofCode (w.extractLsb' 3 2)) pre) else none)
  | 10 => some (Accept.r, if w.extractLsb' 4 4 = 0 then some (.tcbrd (w.extractLsb' 0 4) pre) else none)
  | _ => none

/-- Page 5, sequences (R58). -/
def decodePage5 (w : Half) (pre : Prefixes) : Option (Accept × Option Instr) :=
  match (w.extractLsb' 8 5).toNat with
  | 1 => some (Accept.r, if w.extractLsb' 0 3 = 0 then some (.sqnew (w.extractLsb' 5 3) (PostMode.ofCode (w.extractLsb' 3 2)) pre) else none)
  | 2 => some (Accept.r, if w.extractLsb' 0 8 = 0 then some (.sqres pre) else none)
  | 3 => some (Accept.r, if w.extractLsb' 0 8 = 0 then some (.sqcmt pre) else none)
  | 4 => some (Accept.r, if w.extractLsb' 0 8 = 0 then some (.sqvoidCancel pre) else none)
  | 5 => some (Accept.r, if w.extractLsb' 0 8 = 0 then some (.sqlen pre) else none)
  | 6 => some (Accept.r, if w.extractLsb' 0 8 = 0 then some (.sqfork pre) else none)
  | 7 => some (Accept.r, if w.extractLsb' 0 8 = 0 then some (.sqclose pre) else none)
  | 8 => some (Accept.r, if w.extractLsb' 0 8 = 0 then some (.sqdrop pre) else none)
  | 9 => some (Accept.r, if w.extractLsb' 0 8 = 0 then some (.sqaddr pre) else none)
  | _ => none

/-- Page 6, contexts, translation, stacks and layout (R59). -/
def decodePage6 (w : Half) (pre : Prefixes) : Option (Accept × Option Instr) :=
  match (w.extractLsb' 8 5).toNat with
  | 1 => some (Accept.r, if w.extractLsb' 0 8 = 0 then some (.eret pre) else none)
  | 2 => some (Accept.r, if w.extractLsb' 0 3 = 0 then some (.csave (w.extractLsb' 5 3) (PostMode.ofCode (w.extractLsb' 3 2)) pre) else none)
  | 3 => some (Accept.r, if w.extractLsb' 0 3 = 0 then some (.cload (w.extractLsb' 5 3) (PostMode.ofCode (w.extractLsb' 3 2)) pre) else none)
  | 4 => some (Accept.r, match (w.extractLsb' 0 8).toNat with
      | 0 => some (.tlbinvPage pre) | 1 => some (.tlbinvJob pre) | 2 => some (.tlbinvStack pre) | _ => none)
  | 5 => some (Accept.r, if w.extractLsb' 0 3 = 0 then some (.fltrdTake (w.extractLsb' 5 3) (PostMode.ofCode (w.extractLsb' 3 2)) pre) else none)
  | 16 => some (Accept.r, if w.getLsbD 7 then none else some (.stkpass (w.extractLsb' 3 4) (w.extractLsb' 0 3) pre))
  | 17 => some (Accept.r, if w.extractLsb' 6 2 = 0 then some (.rgnrd (w.extractLsb' 0 6) pre) else none)
  | 18 => some (Accept.r, if w.extractLsb' 6 2 = 0 then some (.rgnwr (w.extractLsb' 0 6) pre) else none)
  | 19 => some (Accept.r, match (w.extractLsb' 0 8).toNat with
      | 0 => some (.plcmtPrep pre) | 1 => some (.plcmtCommit pre) | 2 => some (.plcmtAbort pre) | _ => none)
  | _ => none

/-- Is the format populated on the page (R43, R60)? -/
def populated (page : Nat) (w : Half) : Bool :=
  decide (page = 0) || (decide (page ≤ 6) && decide (w.extractLsb' 13 3 = 6))

/-- The opcode map: `none` for a reserved op; otherwise what the op accepts, and the instruction unless a field
holds a reserved value (R46 to R59). -/
def decodeOp (page : Nat) (w : Half) (pre : Prefixes) : Option (Accept × Option Instr) :=
  match page with
  | 0 =>
    match (w.extractLsb' 13 3).toNat with
    | 0 => decodeAP w pre
    | 1 => decodePP w pre
    | 2 => decodeAI w pre
    | 3 => decodeAR w pre
    | 4 => decodeBR w pre
    | 5 => decodeVX w pre
    | _ => decodeSY w pre
  | 1 => decodePage1 w pre
  | 2 => decodePage2 w pre
  | 3 => decodePage3 w pre
  | 4 => decodePage4 w pre
  | 5 => decodePage5 w pre
  | _ => decodePage6 w pre

/-- What the decoder makes of the words at an address: an instruction and how many words it has, the detail of the
illegal-instruction trap, or a chain that needs a further word. -/
inductive Decoded where
  | instr (i : Instr) (words : Nat)
  | illegal (detail : BitVec 8)
  | more
deriving DecidableEq, Repr

/-- The last three checks of R61 in their order: op, prefixes, field values. -/
def decodeBase (page : Nat) (w : Half) (pre : Prefixes) (words : Nat) : Decoded :=
  if populated page w = false then .illegal 0x05
  else
    match decodeOp page w pre with
    | none => .illegal 0x06
    | some (acc, r) =>
      if acc.admits pre = false then .illegal 0x07
      else
        match r with
        | none => .illegal 0x08
        | some i => if i.fieldsOk then .instr i words else .illegal 0x08

/-- The chain as read so far. -/
structure Chain where
  pre : Prefixes
  page : Nat
deriving DecidableEq, Repr

/-- One prefix word added to a chain, or the detail code that refuses it (R37, R38, R61). -/
def Chain.addPrefix (c : Chain) (w : Half) : Chain ⊕ BitVec 8 :=
  if w.getLsbD 12 = false then .inl { c with pre := { c.pre with imx := c.pre.imx ++ [w.extractLsb' 0 12] } }
  else
    match (w.extractLsb' 10 2).toNat with
    | 0 =>
      if c.pre.rgx.isSome then .inr 0x03
      else .inl { c with pre := { c.pre with rgx := some ⟨w.extractLsb' 7 3, w.getLsbD 6, w.getLsbD 5, w.extractLsb' 0 5⟩ } }
    | 1 =>
      if w.extractLsb' 8 2 ≠ 0 then .inr 0x04
      else if c.pre.pgx then .inr 0x03
      else .inl { pre := { c.pre with pgx := true }, page := (w.extractLsb' 0 8).toNat }
    | 2 =>
      match Ty.ofCode (w.extractLsb' 0 4), Rnd.ofCode (w.extractLsb' 4 3) with
      | some ty, some rnd =>
        if w.extractLsb' 8 2 ≠ 0 then .inr 0x04
        else if c.pre.wdx.isSome then .inr 0x03
        else .inl { c with pre := { c.pre with wdx := some ⟨w.getLsbD 7, rnd, ty⟩ } }
      | _, _ => .inr 0x04
    | _ => .inr 0x02

/-- The decoder of R61: the words in ascending address order, the first failure reported. `n` prefix words have
been read. -/
def decodeFrom (c : Chain) (n : Nat) : List Half → Decoded
  | [] => .more
  | w :: ws =>
    if w.extractLsb' 13 3 = 7 then
      if n = 4 then .illegal 0x01
      else
        match c.addPrefix w with
        | .inl c' => decodeFrom c' (n + 1) ws
        | .inr d => .illegal d
    else decodeBase c.page w c.pre (n + 1)

/-- The decoder from the first word of an instruction. -/
def decode (ws : List Half) : Decoded := decodeFrom ⟨Prefixes.none, 0⟩ 0 ws

/-- The word of an RGX prefix (R37). -/
def Rgx.word (r : Rgx) : Half := 60#6 ++ r.pred ++ BitVec.ofBool r.ha ++ BitVec.ofBool r.hb ++ r.vt
/-- The word of a PGX prefix (R37). -/
def pgxWord (page : Nat) : Half := 244#8 ++ BitVec.ofNat 8 page
/-- The word of a WDX prefix (R37). -/
def Wdx.word (x : Wdx) : Half := 248#8 ++ BitVec.ofBool x.sat ++ x.rnd.code ++ x.ty.code
/-- The word of an IMX prefix (R37). -/
def imxWord (v : BitVec 12) : Half := 14#4 ++ v

/-- The base word of an instruction and its page, from the encoding tables (R34, R46 to R59). -/
def encodeBase : Instr → Option (Nat × Half)
  | .lda p pm disp _ => some (0, 1#8 ++ p ++ pm.code ++ disp)
  | .sta p pm disp _ => some (0, 2#8 ++ p ++ pm.code ++ disp)
  | .addMem p pm disp _ => some (0, 3#8 ++ p ++ pm.code ++ disp)
  | .adc p pm disp _ => some (0, 4#8 ++ p ++ pm.code ++ disp)
  | .subMem p pm disp _ => some (0, 5#8 ++ p ++ pm.code ++ disp)
  | .sbc p pm disp _ => some (0, 6#8 ++ p ++ pm.code ++ disp)
  | .mulMem p pm disp _ => some (0, 7#8 ++ p ++ pm.code ++ disp)
  | .mulh p pm disp _ => some (0, 8#8 ++ p ++ pm.code ++ disp)
  | .div p pm disp _ => some (0, 9#8 ++ p ++ pm.code ++ disp)
  | .rem p pm disp _ => some (0, 10#8 ++ p ++ pm.code ++ disp)
  | .andMem p pm disp _ => some (0, 11#8 ++ p ++ pm.code ++ disp)
  | .orMem p pm disp _ => some (0, 12#8 ++ p ++ pm.code ++ disp)
  | .xorMem p pm disp _ => some (0, 13#8 ++ p ++ pm.code ++ disp)
  | .shlMem p pm disp _ => some (0, 14#8 ++ p ++ pm.code ++ disp)
  | .shrMem p pm disp _ => some (0, 15#8 ++ p ++ pm.code ++ disp)
  | .sarMem p pm disp _ => some (0, 16#8 ++ p ++ pm.code ++ disp)
  | .rolMem p pm disp _ => some (0, 17#8 ++ p ++ pm.code ++ disp)
  | .cmpMem p pm disp _ => some (0, 18#8 ++ p ++ pm.code ++ disp)
  | .tstMem p pm disp _ => some (0, 19#8 ++ p ++ pm.code ++ disp)
  | .minMem p pm disp _ => some (0, 20#8 ++ p ++ pm.code ++ disp)
  | .maxMem p pm disp _ => some (0, 21#8 ++ p ++ pm.code ++ disp)
  | .sel p pm disp _ => some (0, 22#8 ++ p ++ pm.code ++ disp)
  | .faddMem p pm disp _ => some (0, 23#8 ++ p ++ pm.code ++ disp)
  | .fmulMem p pm disp _ => some (0, 24#8 ++ p ++ pm.code ++ disp)
  | .fmin p pm disp _ => some (0, 25#8 ++ p ++ pm.code ++ disp)
  | .fmax p pm disp _ => some (0, 26#8 ++ p ++ pm.code ++ disp)
  | .fcmp p pm disp _ => some (0, 27#8 ++ p ++ pm.code ++ disp)
  | .mac pa pma pb pmb _ => some (0, 8#6 ++ pa ++ pma.code ++ pb ++ pmb.code)
  | .msb pa pma pb pmb _ => some (0, 9#6 ++ pa ++ pma.code ++ pb ++ pmb.code)
  | .ffma pa pma pb pmb _ => some (0, 10#6 ++ pa ++ pma.code ++ pb ++ pmb.code)
  | .movm pa pma pb pmb _ => some (0, 11#6 ++ pa ++ pma.code ++ pb ++ pmb.code)
  | .ldi imm _ => some (0, 32#7 ++ imm)
  | .addImm imm _ => some (0, 33#7 ++ imm)
  | .subImm imm _ => some (0, 34#7 ++ imm)
  | .mulImm imm _ => some (0, 35#7 ++ imm)
  | .andImm imm _ => some (0, 36#7 ++ imm)
  | .orImm imm _ => some (0, 37#7 ++ imm)
  | .xorImm imm _ => some (0, 38#7 ++ imm)
  | .shlImm imm _ => some (0, 39#7 ++ imm)
  | .shrImm imm _ => some (0, 40#7 ++ imm)
  | .sarImm imm _ => some (0, 41#7 ++ imm)
  | .rolImm imm _ => some (0, 42#7 ++ imm)
  | .cmpImm imm _ => some (0, 43#7 ++ imm)
  | .tstImm imm _ => some (0, 44#7 ++ imm)
  | .minImm imm _ => some (0, 45#7 ++ imm)
  | .maxImm imm _ => some (0, 46#7 ++ imm)
  | .addX _ => some (0, 24576#16)
  | .subX _ => some (0, 24832#16)
  | .andX _ => some (0, 25088#16)
  | .orX _ => some (0, 25344#16)
  | .xorX _ => some (0, 25600#16)
  | .mulX _ => some (0, 25856#16)
  | .cmpX _ => some (0, 26112#16)
  | .xcha _ => some (0, 26368#16)
  | .clz _ => some (0, 26624#16)
  | .popc _ => some (0, 26880#16)
  | .faddX _ => some (0, 27136#16)
  | .fmulX _ => some (0, 27392#16)
  | .fcvt dir _ => some (0, 6912#14 ++ dir.code)
  | .frcp _ => some (0, 27904#16)
  | .movp pd ps acc _ => some (0, 110#8 ++ pd ++ ps ++ BitVec.ofBool acc ++ 0#1)
  | .addp pd _ => some (0, 111#8 ++ pd ++ 0#5)
  | .sets pd imm _ => some (0, 112#8 ++ pd ++ imm)
  | .getp p _ => some (0, 113#8 ++ p ++ 0#5)
  | .ret _ => some (0, 29184#16)
  | .movf _ => some (0, 29440#16)
  | .getf _ => some (0, 29696#16)
  | .nop _ => some (0, 29952#16)
  | .jmp off _ => some (0, 64#7 ++ off)
  | .brZ off _ => some (0, 65#7 ++ off)
  | .brNz off _ => some (0, 66#7 ++ off)
  | .brN off _ => some (0, 67#7 ++ off)
  | .brNn off _ => some (0, 68#7 ++ off)
  | .brC off _ => some (0, 69#7 ++ off)
  | .brNc off _ => some (0, 70#7 ++ off)
  | .brV off _ => some (0, 71#7 ++ off)
  | .brNv off _ => some (0, 72#7 ++ off)
  | .brGt off _ => some (0, 73#7 ++ off)
  | .brGe off _ => some (0, 74#7 ++ off)
  | .brLt off _ => some (0, 75#7 ++ off)
  | .brLe off _ => some (0, 76#7 ++ off)
  | .call off _ => some (0, 77#7 ++ off)
  | .loop off _ => some (0, 78#7 ++ off)
  | .jmpA _ => some (0, 40448#16)
  | .callA _ => some (0, 40449#16)
  | .vld vd p m _ => some (0, 160#8 ++ vd ++ p ++ BitVec.ofBool m)
  | .vst vd p m _ => some (0, 161#8 ++ vd ++ p ++ BitVec.ofBool m)
  | .vldt vd p m _ => some (0, 162#8 ++ vd ++ p ++ BitVec.ofBool m)
  | .vmov vd vs _ => some (0, 163#8 ++ vd ++ vs)
  | .vbcast vd _ => some (0, 164#8 ++ vd ++ 0#4)
  | .vadd vd vs _ => some (0, 165#8 ++ vd ++ vs)
  | .vsub vd vs _ => some (0, 166#8 ++ vd ++ vs)
  | .vmul vd vs _ => some (0, 167#8 ++ vd ++ vs)
  | .vfma vd vs _ => some (0, 168#8 ++ vd ++ vs)
  | .vmin vd vs _ => some (0, 169#8 ++ vd ++ vs)
  | .vmax vd vs _ => some (0, 170#8 ++ vd ++ vs)
  | .vabs vd vs _ => some (0, 171#8 ++ vd ++ vs)
  | .vneg vd vs _ => some (0, 172#8 ++ vd ++ vs)
  | .vand vd vs _ => some (0, 173#8 ++ vd ++ vs)
  | .vor vd vs _ => some (0, 174#8 ++ vd ++ vs)
  | .vxor vd vs _ => some (0, 175#8 ++ vd ++ vs)
  | .vshl vd vs _ => some (0, 176#8 ++ vd ++ vs)
  | .vshr vd vs _ => some (0, 177#8 ++ vd ++ vs)
  | .vcmpEq vd vs _ => some (0, 178#8 ++ vd ++ vs)
  | .vcmpLt vd vs _ => some (0, 179#8 ++ vd ++ vs)
  | .vcmpLe vd vs _ => some (0, 180#8 ++ vd ++ vs)
  | .vsel vd vs _ => some (0, 181#8 ++ vd ++ vs)
  | .vcvt vd vs _ => some (0, 182#8 ++ vd ++ vs)
  | .vred vd vs _ => some (0, 183#8 ++ vd ++ vs)
  | .vscan vd vs _ => some (0, 184#8 ++ vd ++ vs)
  | .vperm vd vs _ => some (0, 185#8 ++ vd ++ vs)
  | .vexp2 vd vs _ => some (0, 186#8 ++ vd ++ vs)
  | .vlog2 vd vs _ => some (0, 187#8 ++ vd ++ vs)
  | .vrcp vd vs _ => some (0, 188#8 ++ vd ++ vs)
  | .vrsq vd vs _ => some (0, 189#8 ++ vd ++ vs)
  | .vclamp vd vs _ => some (0, 190#8 ++ vd ++ vs)
  | .rep n s _ => some (0, 191#8 ++ n ++ s)
  | .waitc c imm i _ => some (0, 193#8 ++ c ++ BitVec.ofBool imm ++ i)
  | .sleep c imm i _ => some (0, 194#8 ++ c ++ BitVec.ofBool imm ++ i)
  | .setc c imm i _ => some (0, 195#8 ++ c ++ BitVec.ofBool imm ++ i)
  | .addc c imm i _ => some (0, 196#8 ++ c ++ BitVec.ofBool imm ++ i)
  | .bar s _ => some (0, 6304#13 ++ s.code)
  | .fence s _ => some (0, 6336#13 ++ s.code)
  | .fenceAcq s _ => some (0, 6337#13 ++ s.code)
  | .fenceRel s _ => some (0, 6338#13 ++ s.code)
  | .hstart h _ => some (0, 199#8 ++ h ++ 0#4)
  | .hexit _ => some (0, 51200#16)
  | .hjoin h _ => some (0, 201#8 ++ h ++ 0#4)
  | .yield _ => some (0, 51712#16)
  | .trap code _ => some (0, 203#8 ++ code)
  | .cpy p pm _ => some (0, 204#8 ++ p ++ pm.code ++ 0#3)
  | .cpyc p pm _ => some (0, 205#8 ++ p ++ pm.code ++ 0#3)
  | .mctx p pm _ => some (1, 193#8 ++ p ++ pm.code ++ 0#3)
  | .wpl p pm _ => some (1, 194#8 ++ p ++ pm.code ++ 0#3)
  | .mzero _ => some (1, 49920#16)
  | .mma p pm _ => some (1, 196#8 ++ p ++ pm.code ++ 0#3)
  | .mrow p pm _ => some (1, 197#8 ++ p ++ pm.code ++ 0#3)
  | .mcol p pm _ => some (1, 198#8 ++ p ++ pm.code ++ 0#3)
  | .mdrain p pm _ => some (1, 199#8 ++ p ++ pm.code ++ 0#3)
  | .mdrainf p pm _ => some (1, 200#8 ++ p ++ pm.code ++ 0#3)
  | .qnt p pm _ => some (1, 201#8 ++ p ++ pm.code ++ 0#3)
  | .qntg p pm _ => some (1, 202#8 ++ p ++ pm.code ++ 0#3)
  | .deq p pm _ => some (1, 203#8 ++ p ++ pm.code ++ 0#3)
  | .blset p pm _ => some (1, 204#8 ++ p ++ pm.code ++ 0#3)
  | .blcnt _ => some (1, 52480#16)
  | .ldg p pm _ => some (2, 193#8 ++ p ++ pm.code ++ 0#3)
  | .stg p pm _ => some (2, 194#8 ++ p ++ pm.code ++ 0#3)
  | .ldw p pm _ => some (2, 195#8 ++ p ++ pm.code ++ 0#3)
  | .stw p pm _ => some (2, 196#8 ++ p ++ pm.code ++ 0#3)
  | .ldgAcq p pm s _ => some (2, 197#8 ++ p ++ pm.code ++ s.code)
  | .stgRel p pm s _ => some (2, 198#8 ++ p ++ pm.code ++ s.code)
  | .ldwAcq p pm s _ => some (2, 199#8 ++ p ++ pm.code ++ s.code)
  | .stwRel p pm s _ => some (2, 200#8 ++ p ++ pm.code ++ s.code)
  | .put p pm _ => some (2, 201#8 ++ p ++ pm.code ++ 0#3)
  | .putc p pm _ => some (2, 202#8 ++ p ++ pm.code ++ 0#3)
  | .mcst p pm _ => some (2, 203#8 ++ p ++ pm.code ++ 0#3)
  | .winset w _ => some (2, 204#8 ++ w ++ 0#5)
  | .atomAdd p o s _ => some (2, 208#8 ++ p ++ o.code ++ s.code)
  | .atomMin p o s _ => some (2, 209#8 ++ p ++ o.code ++ s.code)
  | .atomMax p o s _ => some (2, 210#8 ++ p ++ o.code ++ s.code)
  | .atomAnd p o s _ => some (2, 211#8 ++ p ++ o.code ++ s.code)
  | .atomOr p o s _ => some (2, 212#8 ++ p ++ o.code ++ s.code)
  | .atomXor p o s _ => some (2, 213#8 ++ p ++ o.code ++ s.code)
  | .atomXchg p o s _ => some (2, 214#8 ++ p ++ o.code ++ s.code)
  | .atomCas p o s _ => some (2, 215#8 ++ p ++ o.code ++ s.code)
  | .atomnAdd p o s _ => some (2, 216#8 ++ p ++ o.code ++ s.code)
  | .atomnMin p o s _ => some (2, 217#8 ++ p ++ o.code ++ s.code)
  | .atomnMax p o s _ => some (2, 218#8 ++ p ++ o.code ++ s.code)
  | .atomnAnd p o s _ => some (2, 219#8 ++ p ++ o.code ++ s.code)
  | .atomnOr p o s _ => some (2, 220#8 ++ p ++ o.code ++ s.code)
  | .atomnXor p o s _ => some (2, 221#8 ++ p ++ o.code ++ s.code)
  | .tok _ => some (3, 49408#16)
  | .tokn _ => some (3, 49664#16)
  | .atok _ => some (3, 49920#16)
  | .cvoid _ => some (3, 50176#16)
  | .cpeek _ => some (3, 50432#16)
  | .netred fn noTrap s _ => some (3, 198#8 ++ fn.code ++ BitVec.ofBool noTrap ++ 0#1 ++ s.code)
  | .nbar s _ => some (3, 6368#13 ++ s.code)
  | .spawn p pm _ => some (4, 193#8 ++ p ++ pm.code ++ 0#3)
  | .arm _ => some (4, 49664#16)
  | .link _ => some (4, 49920#16)
  | .depdec _ => some (4, 50176#16)
  | .gnew _ => some (4, 50432#16)
  | .gcancel _ => some (4, 50688#16)
  | .gwait _ => some (4, 50944#16)
  | .qres _ => some (4, 51200#16)
  | .qpost p pm _ => some (4, 201#8 ++ p ++ pm.code ++ 0#3)
  | .tcbrd d _ => some (4, 3232#12 ++ d)
  | .sqnew p pm _ => some (5, 193#8 ++ p ++ pm.code ++ 0#3)
  | .sqres _ => some (5, 49664#16)
  | .sqcmt _ => some (5, 49920#16)
  | .sqvoidCancel _ => some (5, 50176#16)
  | .sqvoidCommit _ => some (5, 50176#16)
  | .sqlen _ => some (5, 50432#16)
  | .sqfork _ => some (5, 50688#16)
  | .sqclose _ => some (5, 50944#16)
  | .sqdrop _ => some (5, 51200#16)
  | .sqaddr _ => some (5, 51456#16)
  | .eret _ => some (6, 49408#16)
  | .csave p pm _ => some (6, 194#8 ++ p ++ pm.code ++ 0#3)
  | .cload p pm _ => some (6, 195#8 ++ p ++ pm.code ++ 0#3)
  | .tlbinvPage _ => some (6, 50176#16)
  | .tlbinvJob _ => some (6, 50177#16)
  | .tlbinvStack _ => some (6, 50178#16)
  | .fltrdTake p pm _ => some (6, 197#8 ++ p ++ pm.code ++ 0#3)
  | .fltrdResume p pm _ => some (6, 197#8 ++ p ++ pm.code ++ 0#3)
  | .fltrdPeek p pm _ => some (6, 197#8 ++ p ++ pm.code ++ 0#3)
  | .stkpass c k _ => some (6, 416#9 ++ c ++ k)
  | .rgnrd e _ => some (6, 836#10 ++ e)
  | .rgnwr e _ => some (6, 840#10 ++ e)
  | .plcmtPrep _ => some (6, 54016#16)
  | .plcmtCommit _ => some (6, 54017#16)
  | .plcmtAbort _ => some (6, 54018#16)
  | .illegalInstruction ..
  | .contextSelect
  | .loadReply
  | .icacheMissFill
  | .scalarAccessRetry
  | .counterIncrement
  | .vectorBind
  | .repBodyLoad
  | .matrixPortGrant
  | .matrixRetire
  | .arrayPhaseStart
  | .arrayPhaseEnd
  | .windowAccessCheck
  | .putDelivery
  | .deferredRefusal
  | .atomicPerform
  | .mcstReplicaWrite
  | .postedOpFailure
  | .copyServe
  | .copyComplete
  | .copyFaultHold
  | .chainHop
  | .barArrival
  | .barRelease
  | .balancerTraversal
  | .exitServeToken
  | .exitServeAntitoken
  | .cancellationArrival
  | .peekArrival
  | .toknResultWrite
  | .reductionArrival
  | .countingBarrierArrival
  | .planePowerUp
  | .planePowerDown
  | .escapeChannelMove
  | .placementPass
  | .priorityAging
  | .taskCompletion
  | .stopBathSettle
  | .taskNofitCancel
  | .queueRecordFetch
  | .stampRetry
  | .qpostDelivery
  | .hostLaunch
  | .hostGnew
  | .hostArm
  | .hostDepdec
  | .hostGcancel
  | .hostLink
  | .grelease
  | .hostBadcmd
  | .pageWalk
  | .preemptSave
  | .preemptRestore
  | .tileReclaim
  | .layoutSwitch
  | .bankSwap
  | .handoverStep
  | .functionLevelReset
  | .resetDrainEnd
  | .traceRecordWrite
  | .patrolScrub
  | .linkCrcReplay
  | .sendWindowAudit
  | .windowParityError
  | .clusterLogicError
  | .hbmChannelRetire
  | .linkRetire
  | .stackRetire
  | .clusterRetire
  | .watchdogExpiry
  | .thermalThreshold
  | .thermalReset
  | .podMessageReceive
  | .podFlitReplay
  | .podDeliveryTimeout
  | .podBarrierArrival
  | .notifyQueue
  | .registerWrite
  | .eventPost
  | .qcfg
  | .setMode
  | .layoutPrepare
  | .layoutCommit
  | .layoutAbort
  | .retire
  | .returnUnit
  | .answer
  | .resumeFault
  | .attest
  | .fwload
  | .podcfgSetPkgn
  | .podcfgSetRoute
  | .mboxBadcmd
  | .powerOn
  | .creditExhausted
  | .managementMemoryError
  | .linkLayerFailure => none

/-- The words of an instruction: the prefixes in the assembler's order, then the base word (03_assembly_notations
R70). A device step has no words. -/
def encode (i : Instr) : List Half :=
  match encodeBase i with
  | none => []
  | some (page, w) =>
    i.pre.imx.map imxWord ++ (i.pre.rgx.map Rgx.word).toList ++
    (if i.pre.pgx then [pgxWord page] else []) ++ (i.pre.wdx.map Wdx.word).toList ++ [w]

/-- Rows that share a word with another row and differ by X at issue are read as the first of them: SQVOID
(15_sequences R340) and FLTRD (16_contexts_translation R368). -/
def Instr.canon : Instr → Instr
  | .sqvoidCommit pre => .sqvoidCancel pre
  | .fltrdResume p pm pre => .fltrdTake p pm pre
  | .fltrdPeek p pm pre => .fltrdTake p pm pre
  | i => i

/-- The `n` 16-bit words of a number, the most significant word first: spec/opcode_table.json writes a PGX word,
which stands at the lower address, in the upper half. -/
def wordsOf : Nat → Nat → List Half
  | 0, _ => []
  | n + 1, w => BitVec.ofNat 16 (w / 2 ^ (16 * n)) :: wordsOf n w

/-- The instruction the decoder reads from a row's bits, as the opcode table numbers them. -/
def decodeTableWord (nbits w : Nat) : Option Instr :=
  match decode (wordsOf ((nbits + 15) / 16) w) with
  | .instr i _ => some i
  | _ => none

end Sys2Proof
end

