-- ==== Sys2Proof/Machine/State.lean ====
section
/-! DEFINITION. The state of the machine as plain data: contexts, cores, tiles, partitions, the package, and the device steps that are due. -/

namespace Sys2Proof.Machine

/-- Why a step can stop with a fault. No rule of the manual stops the whole machine, and no meaning raises this:
the type has one constructor so that it is not empty. -/
inductive Fault where
  /-- Raised by nothing. Safe: a stop only makes claims unprovable. -/
  | halted
deriving DecidableEq, Repr

/-- Why a step can be refused. -/
inductive Refusal where
  /-- The arm of an instruction that has no meaning yet, in Dispatch.lean only. Safe: a refusal says nothing of
  the hardware. -/
  | notModelled (mnemonic : String)
deriving DecidableEq, Repr

/-- Memory: the bytes that differ from zero, by key. `Ops.lean` says which keys each memory of the package has. -/
abbrev Memory := List Host.Cell

/-- A pointer register (01 R16). -/
structure Ptr where
  stride : BitVec 16
  addr : Addr
deriving DecidableEq, Repr

/-- The loop state of a context (05 R121). -/
structure Loop where
  lact : Bool
  lcount : Word32
  lstart : Addr
  lend : Addr
deriving DecidableEq, Repr

/-- What a context in WAIT-SYNC waits for (09 R201, R204, R216; 14 R318; 16 R364). -/
inductive Wait where
  | counter (n : Nat) (v : Word32)
  | helper (h : Nat)
  | leaveEarly
  | graph (h : BitVec 32)
  | barrier (s : Scope) (n : Nat)
deriving DecidableEq, Repr

/-- The state of a live context (01 R13), and suspension under a held-fault tag (16 R349, R357); tag 0 waits for
a place in the held-fault table. -/
inductive Mode where
  | ready
  | running
  | waitLoad
  | waitSync (w : Wait)
  | suspended (tag : BitVec 32)
deriving DecidableEq, Repr

/-- A synchronous or deferred trap as its record names it (09 R219). `pc` is the record's PC, `opc` the base word that its
fault record names where it is not the one at the PC (16 R358). -/
structure Trap where
  kind : BitVec 8
  detail : BitVec 8
  addr : Addr
  code : BitVec 8
  body : BitVec 4
  deferred : Bool
  pc : Addr
  opc : Option Half
deriving DecidableEq, Repr

/-- What an instruction in WAIT-LOAD will need when its reply lands: the next PC, whether HA swaps A and X, the
pointer after the post-mode, the type of the value, and A as it stood at issue (08 R183, R192). -/
structure Await where
  npc : Addr
  ha : Bool
  ptr : Option (Nat × Addr)
  ty : Option Ty
  cas : Option Word64
deriving DecidableEq, Repr

/-- The reply due to a context in WAIT-LOAD (01 R13): new A and X, the flags it writes as a mask and their values,
or a trap instead. -/
structure Reply where
  a : Option Word64
  x : Option Word64
  fmask : BitVec 16
  fval : BitVec 16
  post : Bool
  trap : Option Trap
deriving DecidableEq, Repr

/-- One context of a core (01 R12, R16, R17; 05 R121; 09 R216, R218). `copyHeld` is the copy of it that has passed its checks
and stalls for a place among the 512 in flight (09 R208). -/
structure Ctx where
  live : Bool
  mode : Mode
  a : Word64
  x : Word64
  ptrs : Tab Ptr
  pc : Addr
  f : BitVec 16
  loop : Loop
  inh : Bool
  await : Option Await
  reply : Option Reply
  bars : Tab Nat
  copyHeld : Option CopyMsg
deriving DecidableEq, Repr

/-- An entry of a vector queue (01 R21; 05 R125, R137): the instruction, who issued it, the address and stride read
at issue, the step of the address per pass, A[31:0] for VBCAST, and the span of bytes of all its passes (R128). -/
structure VEntry where
  instr : Instr
  ctx : Nat
  addr : Addr
  stride : Int
  step : Int
  bcast : Word32
  mem : Bool
  lo : Nat
  hi : Nat
deriving DecidableEq, Repr

/-- A repetition buffer at work (01 R23): the body, the passes, the stagger, and the place reached. -/
structure RepState where
  body : List VEntry
  passes : Nat
  stagger : Nat
  pass : Nat
  pos : Nat
deriving DecidableEq, Repr

/-- The matrix request of a core (01 R29): the instruction and the context that stalls on it. `granted` says that
its read phase has begun; the other fields are what its retirement will do (06 R146, R157, R163): the format context,
KA, the bits of MST that it sets, ECNT, whether it clears MST[6:0], A, and whether an array phase follows. -/
structure MReq where
  instr : Instr
  ctx : Nat
  granted : Bool
  npc : Addr
  ptr : Option (Nat × Addr)
  fctx : Option (BitVec 256)
  ka : Option Nat
  mset : BitVec 64
  ecnt : Option Nat
  clear : Bool
  a : Option Word64
  array : Bool
deriving DecidableEq, Repr

/-- What an array phase does (06 R146, R149, R150, R152, R153, R157, R161). -/
inductive ArrayKind where
  | zero | mma | mrow | mcol | weights | entries
deriving DecidableEq, Repr

/-- An array phase of the tile, in grant order: who issued it, the format context of the grant, the escape cursor of
the grant or the first place written, the operand bytes that the read phase streamed in, how long it takes, and
whether its read phase has ended. -/
structure ArrayJob where
  by_ : Issuer
  kind : ArrayKind
  fctx : BitVec 256
  base : Nat
  data : List Byte
  cycles : Nat
  ready : Bool
deriving DecidableEq, Repr

/-- A deferred refusal (08 R190), with the base word of its instruction (16 R358). -/
structure Refused where
  ctx : Nat
  opc : Half
  dest : Addr
  detail : BitVec 8
deriving DecidableEq, Repr

/-- One scalar core (01 R12 to R23; 06 R139; 08 R180, R184, R190; 09 R208). -/
structure Core where
  ctxs : Tab Ctx
  running : Option Nat
  from_ : Nat
  counters : Tab Word32
  vregs : Tab Word32
  vready : Tab Nat
  vq : List VEntry
  rep : Option RepState
  defi : Nat
  vw : Nat
  wins : Tab Word64
  fctx : BitVec 256
  acc : Tab Word32
  srow : Tab Word32
  scol : Tab Word32
  mst : BitVec 64
  mreq : Option MReq
  refusals : List Refused
  posted : Nat
  copies : Nat
  stalled : Bool
deriving DecidableEq, Repr

/-- A TLB entry (16 R355): a page of virtual addresses, the job, and where the page lies. -/
structure TlbEntry where
  pid : Nat
  vbase : Nat
  size : Nat
  pbase : Nat
  pkg : Nat
  rem : Bool
  rd : Bool
  wr : Bool
  ra : Bool
  mask : BitVec 8
  direct : Bool
deriving DecidableEq, Repr

/-- One tile (01 R20 to R31; 06 R139 to R146; 16 R355). `code` is memory as it stood at the launch, `job` the job whose
weights the weight plane keeps (06 R140), `wanted` and `held` say that the owner of a lent tile wants it back and holds
it back (17 R377). `fills` lists the words of the instruction cache in the order in which they were filled. -/
structure Tile where
  pid : Nat
  tcb : BitVec 32
  icache : Tab (Option Half)
  fills : List Nat
  code : Memory
  tlb : List TlbEntry
  bankPtr : Tab Nat
  bankTurn : Tab Bool
  groups : Tab Nat
  portPtr : Nat
  readPhase : Option Nat
  buffers : Nat
  arrays : List ArrayJob
  arrayOn : Bool
  job : Nat
  wanted : Bool
  held : Bool
deriving DecidableEq, Repr

/-- A task (14 R295, R307; 03 R76 to R78): its TCB, what the launch record gave that the TCB does not hold, the handles
of its request records with the places of their words, the tiles it is placed on (by logical number while it is saved),
and whether it is saved, is being pre-empted (16 R350) or is being cancelled alone (14 R310). `entryAt` is ENTRY
of the launch record, of which the TCB holds 32 bits. `kept` holds, by logical
core of a saved task, what the save record has no place for: the contexts and base words of the deferred refusals and the numbers of
the next barriers (log 35). -/
structure Task where
  tcb : BitVec 1024
  params : List Word64
  entryAt : Addr
  dataOff : Nat
  dataSize : Nat
  codeSize : Nat
  nreq : Nat
  pgang : Nat
  handles : List (Nat × BitVec 32)
  objects : List (Bool × BitVec 32)
  tiles : List Nat
  saved : Bool
  stopping : Bool
  nofit : Bool
  kept : Tab (List (Nat × Half) × Tab Nat)
deriving DecidableEq, Repr

/-- A counting instance (11 R262, R263): the header, the toggle cells by position, the exit entries by wire. -/
structure Inst where
  header : BitVec 256
  cells : Tab Bool
  exits : Tab (BitVec 256)
deriving DecidableEq, Repr

/-- A chunk (15 R332): how many sequences share it, and per slot its state and its holder. -/
structure Chunk where
  refc : Nat
  st : Tab (BitVec 2)
  hold : Tab (BitVec 16)
deriving DecidableEq, Repr

/-- A chunk pool (15 R333): the ring (an entry that is not listed holds its own number, as at the start of the job) and
the count of chunks taken. Its instance of width 64 stands among the partition's instances, where no handle names it
(log 32). -/
structure Pool where
  ring : Tab (Option Nat)
  taken : Nat
deriving DecidableEq, Repr

/-- The operands of a device step: up to four unit numbers, or the message that it carries. The detail of a failed
operation is that of the NACK that refused it, 0 for none; `left` says that a post has left its tile's queue. -/
inductive Arg where
  | none
  | num (a b c d : Nat)
  | fetch (g c : Nat) (va : Addr) (rd wr : Bool)
  | value (off : Nat) (v : Word64)
  | win (m : WinReq)
  | put (m : PutMsg)
  | atom (m : AtomMsg)
  | replica (i : Issuer) (key : Nat) (data : List Byte) (bad : List Nat) (last : Bool)
  | failed (i : Issuer) (status : Nat) (detail : BitVec 8) (addr : Addr)
  | copy (m : CopyMsg) (hop : Nat)
  | copyFault (m : CopyMsg) (va : Addr) (detail : BitVec 8)
  | tok (r : TokReq) (result : Word64)
  | arr (r : RedArr)
  | cmd (q : Nat) (rec : BitVec 512)
  | post (i : Issuer) (q idx : Nat) (rec : BitVec 512) (left : Bool)
  | pod (m : PodMsg)
  | packet (dst : Nat) (m : PodMsg)
  | load (m : WinReq) (keys : List Nat)
  | req (r : Req)
  | record (pid n : Nat)
deriving DecidableEq, Repr

/-- A device step that is due, with its operands. -/
structure Due where
  what : Instr
  arg : Arg
deriving DecidableEq, Repr

/-- What a held-fault tag names (16 R357): a strand, or a device operation that is held for replay. -/
inductive Held where
  | strand (core ctx : Nat) (tcb : BitVec 32)
  | op (d : Due) (tcb : BitVec 32)
deriving DecidableEq, Repr

/-- A partition's state (17 R373 to R379; 14; 15; 16 R357). `suspended` is that of its guarantees (21 R427),
`discarding` the mark of a reset (17 R401), `untraced` says that its trace is disabled (17 R391), and `cancels` lists
the cancellations under way: the slot of the named graph, whether the host asked, the step reached (14 R327). `waiting`
holds, by sequence, the requests that wait at its record in the order in which they are served (15 R348). -/
structure Part where
  record : BitVec 1024
  perm : Tab (BitVec 512)
  suspended : Bool
  discarding : Bool
  untraced : Bool
  cancels : List (Nat × Bool × Nat)
  tasks : Tab Task
  taskGen : Tab (BitVec 12)
  ovf : Tab (BitVec 512)
  graphs : Tab (BitVec 512)
  graphGen : Tab (BitVec 12)
  insts : Tab Inst
  instGen : Tab (BitVec 12)
  seqs : Tab (BitVec 512)
  seqGen : Tab (BitVec 12)
  waiting : Tab (List Req)
  chunks : Tab Chunk
  pools : Tab Pool
  held : Tab (Option Held)
  heldGen : Tab (BitVec 12)
  heldWait : List (Held × BitVec 1024)
deriving DecidableEq, Repr

/-- A barrier, reduction or counting barrier that is open (09 R216; 11 R281, R283). -/
structure Meeting where
  kind : BitVec 2
  pid : Nat
  tcb : BitVec 32
  scope : Scope
  domain : Nat
  tag : Nat
  need : Nat
  arrived : List RedArr
deriving DecidableEq, Repr

/-- A layout (17 R375, R376, R381), with the address of the image that it was prepared from (21 R429). -/
structure Layout where
  image : Addr
  version : BitVec 32
  expl : BitVec 16
  records : List (BitVec 1024)
  tiles : Tab Word64
  perms : Tab (BitVec 512)
deriving DecidableEq, Repr

/-- A stack hand-over under way (17 R398): the owner bit that it sets, the step that is next, the issuer and its counter, the
cycle of step 2, whether the host drives it (22 R445), whether its increment has been dropped by a reset (R397), and the
requests to the stack that are held or refused with retry meanwhile, in order (R399). -/
structure HandOver where
  stack : Nat
  owner : Bool
  step : Nat
  by_ : Issuer
  counter : Nat
  since : Nat
  assisted : Bool
  dropped : Bool
  waiting : List Due
deriving DecidableEq, Repr

/-- What an arbiter keeps (17 R389): by PID the credit, in 1,024ths of a cycle of its capacity, with the cycle for which it is
reckoned, and the PID that it has served last. -/
structure Arbiter where
  credits : Tab (Nat × Nat)
  last : Nat
deriving DecidableEq, Repr

/-- The layout, the region table and the stacks (17). `next` is the layout to which a switch is under way, `switching`
its step (R385), 0 for none, `switchTarget` its counter target and `switchPid` the partition of that target, `moved` the
partitions that it moves; `selector` picks the routing bank (R386), `banks` are the two banks of routing entries by bank,
PID and the dies of the router and of the destination, an entry the planes whose port toward that die is the counter-clockwise
one (R386; log 63), `draining` the partitions whose injection is held while a bank drains (R386), `planes` are those powered
and `escapes` the packets of each escape channel in order, each with its flow and the router to which it goes (R388); `cxl` is
the capacity of each CXL port in 256 MiB granules, `traces` the buffers of telemetry records by die (R393), `arbiters` what
their arbiters hold (R389). -/
structure Board where
  layout : Layout
  prepared : Option Layout
  next : Option Layout
  switching : Nat
  switchTarget : Word64
  switchPid : Nat
  moved : List Nat
  selector : Bool
  banks : Tab (BitVec 4)
  draining : List Nat
  regions : Tab Word64
  owners : Tab Bool
  handovers : List HandOver
  planes : BitVec 4
  escapes : Tab (List (Nat × Nat))
  cxl : Tab Nat
  traces : Tab (List (Nat × BitVec 256))
  arbiters : Tab Arbiter
deriving DecidableEq, Repr

/-- Errors, retirement, the journal and the management processor (21; 22 R446 to R450). `errors` and `drops` are the
error records that each die buffers and those it dropped, `posted` the records of corrected errors that stand in the host
ring, by the key of the record (R419), `counts` the cycles of a unit's errors that count for its
retirement (R423), `windows` and `stopped` the send window of a channel and whether it is stopped, `audits` how many audits
of it have come and the number that its last resynchronisation flit carried (R422), `running` the
firmware image that runs and `stored` the one in the non-volatile store (22 R432, R448), `fuse` the version counter, `leaf`
the next leaf of the identity key (22 R446, R447), `down` says that the management processor is being reset (R430), `hold`
is the thermal hold-back (22 R434). -/
structure Mgmt where
  errors : Tab (List (BitVec 256))
  drops : Tab Nat
  posted : List (Nat × BitVec 256)
  retired : Tab Bool
  counts : Tab (List Nat)
  journal : List (BitVec 512)
  watchdog : Nat
  windows : Tab (BitVec 64)
  stopped : Tab Bool
  audits : Tab (Nat × Nat)
  running : List Byte
  stored : List Byte
  fuse : BitVec 64
  leaf : BitVec 32
  recovery : Bool
  down : Bool
  hold : BitVec 2
deriving DecidableEq, Repr

/-- A request of a host-assisted function (22 R444): its tag, the function, the step that waits for it, the answer. -/
structure Assist where
  tag : Nat
  fn : Nat
  due : Due
  answer : Option Word64
deriving DecidableEq, Repr

/-- The host block and the work queues (14 R321; 22 R440 to R444). -/
structure HostBlock where
  eqbase : Word64
  eqctl : Word64
  eqhead : Word64
  eqtail : Word64
  mpmode : Word64
  mbox : BitVec 512
  mbres : Word64
  busy : Bool
  events : List (BitVec 2048)
  lost : Nat
  msix : Nat
  tags : Nat
  assisted : List Assist
  queues : Tab (BitVec 192)
deriving DecidableEq, Repr

/-- A message in the outbox: the package it goes to, the cycle in which it was sent, whether it has been delivered, whether
this package is its source or passes it on (22 R436, R438). -/
structure Sent where
  dst : Nat
  since : Nat
  delivered : Bool
  own : Bool
  msg : PodMsg
deriving DecidableEq, Repr

/-- The package among the packages of a pod (22 R436 to R439). `applied` are the tags of the atomics and puts of other
packages that have been applied, with their cycles; `arrivals` those that PROOT holds; `numbers` the sequence numbers of
the messages of each context, at 16 times its core plus its number. -/
structure Pod where
  pkgn : BitVec 12
  routes : Tab (BitVec 16)
  unreachable : Tab Bool
  applied : List (Nat × Nat)
  outbox : List Sent
  arrivals : List PodMsg
  numbers : Tab (BitVec 32)
deriving DecidableEq, Repr

/-- The whole machine. `now`, `turn`, `agenda`, `later`, `arg` and `fresh` are the model's own (logs 1, 2, 7): the
device cycle, the core that issued last, the device steps that are due, those that come due at a cycle, the operands
of the one under way, and the counter of free values. -/
structure State where
  now : Nat
  turn : Nat
  agenda : List Due
  later : List (Nat × Due)
  arg : Arg
  fresh : Nat
  mem : Memory
  poison : Tab Bool
  tiles : Tab Tile
  cores : Tab Core
  parts : Tab Part
  meetings : List Meeting
  board : Board
  mgmt : Mgmt
  host : HostBlock
  pod : Pod
deriving DecidableEq, Repr

def Ptr.zero : Ptr := ⟨0, 0⟩
def Loop.idle : Loop := ⟨false, 0, 0, 0⟩

/-- A context that is not live (01 R12). -/
def Ctx.idle : Ctx := ⟨false, .ready, 0, 0, [], 0, 0, Loop.idle, false, none, none, [], none⟩

/-- A core with nothing on it (01 R18, R19, R22; 06 R140; 08 R184). -/
def Core.idle : Core :=
  ⟨[], none, 0, [], [], [], [], none, 0, 2, [], 0, [], [], [], 0, none, [], 0, 0, false⟩

/-- A tile with nothing on it (01 R27, R28, R30). -/
def Tile.idle : Tile := ⟨0, 0, [], [], [], [], [], [], [], 0, none, 0, [], false, 0, false, false⟩

def Task.absent : Task := ⟨0, [], 0, 0, 0, 0, 0, 0, [], [], [], false, false, false, []⟩
def Inst.free : Inst := ⟨0, [], []⟩
def Chunk.free : Chunk := ⟨0, [], []⟩
def Pool.full : Pool := ⟨[], 0⟩

/-- No partition (17 R374). -/
def Part.absent : Part := ⟨0, [], false, false, false, [], [], [], [], [], [], [], [], [], [], [], [], [], [], [], []⟩

/-- A populated region entry at reset (17 R394; 22 R450): SET 0xFF, GRAN 12, SOFF 512 r. -/
def regionReset (r : Nat) : Word64 := BitVec.ofNat 64 (0xFF + 12 * 2 ^ 8 + 512 * r * 2 ^ 32)

def Arbiter.idle : Arbiter := ⟨[], 0⟩
def Layout.empty : Layout := ⟨0, 0, 0, [], [], []⟩

def Board.reset : Board :=
  ⟨Layout.empty, none, none, 0, 0, 0, [], false, [], [], (List.range 64).map fun r => (r, regionReset r), [], [], 1, [],
   (List.range 8).map fun p => (p, 2861), [], []⟩

def Mgmt.reset : Mgmt := ⟨[], [], [], [], [], [], 0, [], [], [], [], [], 0, 0, false, false, 0⟩
/-- The event of the end of bring-up, KIND 0x09, waits for the host to enable the ring (22 R449). -/
def HostBlock.reset : HostBlock := ⟨0, 0, 0, 0, 0, 0, 0, false, [0x09], 0, 0, 0, [], []⟩
def Pod.reset : Pod := ⟨0, [], [], [], [], [], []⟩

/-- The machine right after reset and bring-up: no partition, no task, memory with nothing listed (22 R449, R450). -/
def State.reset : State :=
  ⟨0, 0, [], [], .none, 0, [], [], [], [], [], [], Board.reset, Mgmt.reset, HostBlock.reset, Pod.reset⟩

end Sys2Proof.Machine
end

