-- ==== Sys2Proof/Machine/Tab.lean ====
section
/-! DEFINITION. Sparse tables in canonical form: reading, writing, and the form itself. -/

namespace Sys2Proof

/-- What a key reads as: its entry, or the default `d` when it has none. -/
def Tab.get {α : Type} (d : α) : Tab α → Nat → α
  | [], _ => d
  | (k, v) :: t, n => if n = k then v else if n < k then d else Tab.get d t n

/-- The table with key `n` holding `v`. Writing the default removes the entry. -/
def Tab.set {α : Type} [DecidableEq α] (d : α) : Tab α → Nat → α → Tab α
  | [], n, v => if v = d then [] else [(n, v)]
  | (k, w) :: t, n, v =>
    if n < k then (if v = d then (k, w) :: t else (n, v) :: (k, w) :: t)
    else if n = k then (if v = d then t else (n, v) :: t)
    else (k, w) :: Tab.set d t n v

/-- Do the keys rise strictly from above `lo`, and is no value the default? -/
def Tab.wfFrom {α : Type} [DecidableEq α] (d : α) : Option Nat → Tab α → Bool
  | _, [] => true
  | lo, (k, v) :: t => (match lo with | none => true | some l => decide (l < k)) && decide (v ≠ d) && Tab.wfFrom d (some k) t

/-- The canonical form. -/
def Tab.wf {α : Type} [DecidableEq α] (d : α) (t : Tab α) : Bool := Tab.wfFrom d none t

/-- Values written to consecutive keys from `n`. -/
def Tab.setMany {α : Type} [DecidableEq α] (d : α) (t : Tab α) (n : Nat) : List α → Tab α
  | [] => t
  | v :: vs => Tab.setMany d (Tab.set d t n v) (n + 1) vs

/-- `c` values read from consecutive keys from `n`. -/
def Tab.getMany {α : Type} (d : α) (t : Tab α) (n c : Nat) : List α :=
  (List.range c).map fun i => Tab.get d t (n + i)

/-- The keys that are listed. -/
def Tab.keys {α : Type} (t : Tab α) : List Nat := t.map Prod.fst

/-- The table without the entries of keys `lo` to `hi - 1`. -/
def Tab.clearRange {α : Type} (t : Tab α) (lo hi : Nat) : Tab α :=
  t.filter fun e => decide (e.1 < lo) || decide (hi ≤ e.1)

/-- The lowest key from 0 to `n - 1`, if any, that satisfies `p`. -/
def lowest (n : Nat) (p : Nat → Bool) : Option Nat := (List.range n).find? p

/-- An element put into a sorted list, before the first that it is not above. -/
def insertBy {α : Type} (le : α → α → Bool) (a : α) : List α → List α
  | [] => [a]
  | b :: l => if le a b then a :: b :: l else b :: insertBy le a l

/-- A list sorted; elements that are equal in the order keep their places. -/
def sortBy {α : Type} (le : α → α → Bool) (l : List α) : List α := l.foldr (insertBy le) []

/-- The first of `n` places in ring order from `start` that satisfies `p`. -/
def ringFind (n start : Nat) (p : Nat → Bool) : Option Nat :=
  ((List.range n).map fun i => (start + i) % n).find? p

end Sys2Proof
end

