-- ==== Sys2Proof/Machine/Mem.lean ====
section
/-! DEFINITION. Access to the parts of the state by number, and to memory by key: where each memory of the package lies, bytes, and poison (08_kernel_memory R168 to R171; 21_faults_repair R420). -/

namespace Sys2Proof.Machine

/-- Do the listed addresses rise strictly, and is no listed byte what an unlisted address reads as? -/
abbrev Memory.wf (m : Memory) : Bool := Tab.wf (0 : Byte) m

/-- What an unlisted address reads as (22 R449 for the SRAMs; log 4 for HBM, CXL and host memory). -/
def Memory.empty : Byte := 0

def Memory.read (m : Memory) (k : Nat) : Byte := Tab.get Memory.empty m k
def Memory.write (m : Memory) (k : Nat) (b : Byte) : Memory := Tab.set Memory.empty m k b
def Memory.readN (m : Memory) (k n : Nat) : List Byte := Tab.getMany Memory.empty m k n
def Memory.writeN (m : Memory) (k : Nat) (bs : List Byte) : Memory := Tab.setMany Memory.empty m k bs

/-- Keys of the memories. An HBM byte has its stack and its address in the stack; a CXL byte has its physical
address; then the scratchpads, the weight planes, the die stores and host memory (log 10). -/
def hbmKey (stack loc : Nat) : Nat := stack * 2 ^ 36 + loc
def cxlBase : Nat := 2 ^ 40
def scratchKey (t off : Nat) : Nat := 2 ^ 48 + t * 2 ^ 21 + off
def weightKey (t slice wa : Nat) : Nat := 2 ^ 49 + t * 2 ^ 22 + slice * 2 ^ 15 + wa
def dieKey (d off : Nat) : Nat := 2 ^ 50 + d * 2 ^ 28 + off
def hostKey (a : Nat) : Nat := 2 ^ 64 + a

/-- Bytes that are poisoned together: a 4-byte word of SRAM, a 32-byte unit of HBM (21 R419, R420). -/
def poisonUnit (k : Nat) : Nat := if k < 2 ^ 48 then 32 else 4

def State.rd (s : State) (k : Nat) : Byte := s.mem.read k
def State.rdN (s : State) (k n : Nat) : List Byte := s.mem.readN k n
def State.rdNat (s : State) (k n : Nat) : Nat := bytesToNat (s.rdN k n)

/-- The units that `n` bytes at `k` touch. -/
def unitsOf (k n : Nat) : List Nat :=
  let u := poisonUnit k
  (List.range ((k + n + u - 1) / u - k / u)).map fun i => (k / u + i) * u

/-- The poison of the units that a store of `n` bytes at `k` covers whole is cleared; other poison stays (21 R420). -/
def clearPoison (p : Tab Bool) (k n : Nat) : Tab Bool :=
  if p.isEmpty then p
  else (unitsOf k n).foldl (fun p u => if k ≤ u ∧ u + poisonUnit k ≤ k + n then Tab.set false p u false else p) p

/-- Bytes stored at a key. -/
def State.wrN (s : State) (k : Nat) (bs : List Byte) : State :=
  { s with mem := s.mem.writeN k bs, poison := clearPoison s.poison k bs.length }

/-- The low `n` bytes of a number stored at a key. -/
def State.wrNat (s : State) (k n x : Nat) : State := s.wrN k (natToBytes n x)

/-- The first poisoned byte among `n` bytes at `k`, as an offset from `k` (21 R420). -/
def State.poisonIn (s : State) (k n : Nat) : Option Nat :=
  if s.poison.isEmpty then none
  else ((unitsOf k n).find? fun u => Tab.get false s.poison u).map fun u => u - k

/-- The units that `n` bytes at `k` touch become poisoned (21 R420). -/
def State.poisonAt (s : State) (k n : Nat) : State :=
  { s with poison := (unitsOf k n).foldl (fun p u => Tab.set false p u true) s.poison }

/-- Bytes written at a key with the poisoned words of their source (21 R420). -/
def State.wrBad (s : State) (k : Nat) (data : List Byte) (bad : List Nat) : State :=
  bad.foldl (fun s o => s.poisonAt (k + o) 4) (s.wrN k data)

/-- `n` bytes from a key on become zero, and are not poisoned. -/
def State.clearKeys (s : State) (k n : Nat) : State :=
  { s with mem := Tab.clearRange s.mem k (k + n), poison := Tab.clearRange s.poison k (k + n) }

/-- `n` bytes move from one key to another, with their poison; both keys are multiples of 32. -/
def State.copyKeys (s : State) (src dst n : Nat) : State :=
  let cells := s.mem.filter fun e => decide (src ≤ e.1) && decide (e.1 < src + n)
  let bad := s.poison.filter fun e => decide (src ≤ e.1) && decide (e.1 < src + n)
  let s := s.clearKeys dst n
  let mem := cells.foldl (fun m e => Memory.write m (dst + (e.1 - src)) e.2) s.mem
  let spread (p : Tab Bool) (k : Nat) : Tab Bool :=
    (unitsOf (dst + (k - src)) (poisonUnit k)).foldl (fun p u => Tab.set false p u true) p
  { s with mem := mem, poison := bad.foldl (fun p e => spread p e.1) s.poison }

/-- A core by its global number 8t + k (00 R3). -/
def State.core (s : State) (g : Nat) : Core := Tab.get Core.idle s.cores g
def State.setCore (s : State) (g : Nat) (c : Core) : State := { s with cores := Tab.set Core.idle s.cores g c }
def State.modCore (s : State) (g : Nat) (f : Core → Core) : State := s.setCore g (f (s.core g))

/-- A context of a core. -/
def Core.ctx (c : Core) (n : Nat) : Ctx := Tab.get Ctx.idle c.ctxs n
def Core.setCtx (c : Core) (n : Nat) (k : Ctx) : Core := { c with ctxs := Tab.set Ctx.idle c.ctxs n k }
def State.ctx (s : State) (g n : Nat) : Ctx := (s.core g).ctx n
def State.setCtx (s : State) (g n : Nat) (k : Ctx) : State := s.modCore g fun c => c.setCtx n k
def State.modCtx (s : State) (g n : Nat) (f : Ctx → Ctx) : State := s.setCtx g n (f (s.ctx g n))

def State.tile (s : State) (t : Nat) : Tile := Tab.get Tile.idle s.tiles t
def State.setTile (s : State) (t : Nat) (x : Tile) : State := { s with tiles := Tab.set Tile.idle s.tiles t x }
def State.modTile (s : State) (t : Nat) (f : Tile → Tile) : State := s.setTile t (f (s.tile t))

def State.part (s : State) (pid : Nat) : Part := Tab.get Part.absent s.parts pid
def State.setPart (s : State) (pid : Nat) (p : Part) : State := { s with parts := Tab.set Part.absent s.parts pid p }
def State.modPart (s : State) (pid : Nat) (f : Part → Part) : State := s.setPart pid (f (s.part pid))

/-- Device steps that come due after those that are due already. -/
def State.due (s : State) (ds : List Due) : State := { s with agenda := s.agenda ++ ds }

/-- A device step that comes due in `n` cycles. -/
def State.dueIn (s : State) (n : Nat) (d : Due) : State := { s with later := s.later ++ [(s.now + n, d)] }

/-- A device step with unit numbers for operands. -/
def Due.num (i : Instr) (a : Nat) (b : Nat := 0) (c : Nat := 0) (d : Nat := 0) : Due := ⟨i, .num a b c d⟩

def Ctx.ptr (k : Ctx) (n : Nat) : Ptr := Tab.get Ptr.zero k.ptrs n
def Ctx.setPtr (k : Ctx) (n : Nat) (p : Ptr) : Ctx := { k with ptrs := Tab.set Ptr.zero k.ptrs n p }
def Ctx.setAddr (k : Ctx) (n : Nat) (a : Addr) : Ctx := k.setPtr n { k.ptr n with addr := a }

/-- The core whose turn it is, and its context that issues: the RUNNING one. No step executes an instruction on
a core with no RUNNING context; for such a state the operations name context 0. -/
def State.me (s : State) : Nat := s.turn
def State.myCtx (s : State) : Nat := ((s.core s.turn).running).getD 0
def State.strand (s : State) : Ctx := s.ctx s.me s.myCtx
def State.myTile (s : State) : Nat := s.turn / 8

/-- The cluster and the die of a physical tile (00 R3). -/
def clusterOf (t : Nat) : Nat := t / 32
def dieOf (t : Nat) : Nat := t / 128

/-- The units of a module that can be retired (21 R423, R424), by one number: clusters, stacks, die-to-die links (link
d joins die d and the next), CXL ports and Jorrin ports. -/
def unitCluster (c : Nat) : Nat := c
def unitStack (k : Nat) : Nat := 16 + k
def unitLink (d : Nat) : Nat := 32 + d
def unitCxl (p : Nat) : Nat := 40 + p
def unitJorrin (p : Nat) : Nat := 48 + p

def State.isRetired (s : State) (u : Nat) : Bool := Tab.get false s.mgmt.retired u
def State.tileRetired (s : State) (t : Nat) : Bool := s.isRetired (unitCluster (clusterOf t))

/-- Is this a cycle in which the device holds back matrix and vector bindings: one in four, or one in two (22 R434)? -/
def State.holdsBack (s : State) : Bool :=
  (decide (s.mgmt.hold = 1) && decide (s.now % 4 = 0)) || (decide (s.mgmt.hold = 2) && decide (s.now % 2 = 0))

/-- The die that owns a stack (00 R3; 17 R396). -/
def State.ownerOf (s : State) (k : Nat) : Nat :=
  if Tab.get false s.board.owners k then (k / 2 + 1) % 4 else k / 2


/-- The die to which a stack would pass (17 R397). -/
def State.otherDie (s : State) (k : Nat) : Nat := if s.ownerOf k = k / 2 then (k / 2 + 1) % 4 else k / 2

/-- The die that owns a stack as a tile of a die is checked: once step 5 of a hand-over has ended, the tiles of the old
owner are checked against the new one (17 R399). -/
def State.ownerFor (s : State) (die k : Nat) : Nat :=
  if s.ownerOf k = die ∧ (s.board.handovers.any fun h => decide (h.stack = k) && decide (h.step = 6)) = true then s.otherDie k
  else s.ownerOf k

/-- The hand-over of a stack during which the requests of a die to it are held or refused with retry: those of every die
from step 2 on, those of the new owner from step 1 on, until step 7 has ended (17 R398, R399). -/
def State.heldBy (s : State) (die : Nat) (ks : List Nat) : Option Nat :=
  (s.board.handovers.find? fun h => decide (h.stack ∈ ks) && decide (h.step < 8) &&
    (decide (3 ≤ h.step) || (decide (h.step = 2) && decide (die = s.otherDie h.stack)))).map (·.stack)

/-- A request waits for the end of the hand-over of a stack, behind those that wait already (17 R399). -/
def State.waitFor (s : State) (k : Nat) (d : Due) : State :=
  { s with board := { s.board with handovers := s.board.handovers.map fun h =>
      if h.stack = k then { h with waiting := h.waiting ++ [d] } else h } }

/-- Every device step that is due, comes due, or waits for a hand-over to end. -/
def State.steps (s : State) : List Due :=
  s.agenda ++ s.later.map Prod.snd ++ s.board.handovers.flatMap (·.waiting)

/-- The device steps that `p` names are taken away, wherever they wait. -/
def State.dropSteps (s : State) (p : Due → Bool) : State :=
  { s with agenda := s.agenda.filter fun d => !p d
           later := s.later.filter fun e => !p e.2
           board := { s.board with handovers := s.board.handovers.map fun h =>
             { h with waiting := h.waiting.filter fun d => !p d } } }

/-- The stacks that hold the bytes of some keys. -/
def keyStacks (ks : List Nat) : List Nat := ((ks.filter fun k => decide (k < 2 ^ 39)).map (· / 2 ^ 36)).eraseDups

end Sys2Proof.Machine
end

