-- ==== Sys2Proof/Machine/Translate.lean ====
section
/-! DEFINITION. Physical addresses, page tables, sequence windows and TLBs (08_kernel_memory R172, R173; 15_sequences R331; 16_contexts_translation R351 to R355; 17_partitions_stacks R373 to R376). -/

namespace Sys2Proof.Machine

/-- The stacks of a mask in ascending order. -/
def stacksOf (set : Nat) : List Nat := bitList 8 set

/-- The CXL port that holds a byte of the tier, counted from the tier's base (22 R435). -/
def State.cxlPort (s : State) (o : Nat) : Option Nat :=
  (List.range 8).find? fun p => decide (o < ((List.range (p + 1)).map fun q => Tab.get 0 s.board.cxl q).sum * 2 ^ 28)

/-- Is an offset of the tier in the range of a port that is in service (21 R424)? -/
def State.cxlLive (s : State) (o : Nat) : Bool :=
  match s.cxlPort o with
  | some p => !s.isRetired (unitCxl p)
  | none => false

/-- The region-table entry of an HBM physical address (R173). -/
def State.region (s : State) (pa : Nat) : Word64 := Tab.get 0 s.board.regions (pa / 2 ^ 33)

/-- The key of a physical address; none where no memory is (R172, R173). -/
def State.physKey (s : State) (pa : Nat) : Option Nat :=
  if pa < 2 ^ 39 then
    let e := s.region pa
    let ss := stacksOf (field e 0 8)
    let gran := 2 ^ field e 8 5
    let o := pa % 2 ^ 33
    if ss.isEmpty then none
    else
      let g := o / gran
      some (hbmKey (ss.getD (g % ss.length) 0) (field e 32 15 * 2 ^ 21 + g / ss.length * gran + o % gran))
  else if cxlBase ≤ pa ∧ s.cxlLive (pa - cxlBase) = true then some pa
  else none

/-- The stack that holds an HBM physical address. -/
def State.stackOf (s : State) (pa : Nat) : Option Nat :=
  if pa < 2 ^ 39 then (s.physKey pa).map (· / 2 ^ 36) else none

/-- The stacks that `size` bytes from an HBM physical address touch (16 R355). -/
def State.stackMask (s : State) (pa size : Nat) : BitVec 8 :=
  if pa < 2 ^ 39 then
    let e := s.region pa
    let ss := stacksOf (field e 0 8)
    let gran := 2 ^ field e 8 5
    let g := pa % 2 ^ 33 / gran
    let c := (pa % 2 ^ 33 + size - 1) / gran - g + 1
    if ss.isEmpty then 0
    else ((List.range (min c ss.length)).foldl (fun m i => m ||| (1#8 <<< (ss.getD ((g + i) % ss.length) 0))) 0)
  else 0

/-- Fields of a partition record (17 R373). -/
def Part.ptroot (p : Part) : Nat := field p.record 384 48
def Part.pid (p : Part) : Nat := field p.record 0 16
def Part.seqwin (p : Part) : Nat := field p.record 448 48
def Part.nseq (p : Part) : Nat := field p.record 160 16
def Part.hpool (p : Part) : Nat := field p.record 256 48
def Part.cpool (p : Part) : Nat := field p.record 320 48
def Part.jfq (p : Part) : Nat := field p.record 640 48
def Part.pjob (p : Part) : Nat := field p.record 752 16
def Part.sysRight (p : Part) : Bool := p.record.getLsbD 18
def Part.dssBase (p : Part) (d : Nat) : Nat := field p.record (96 + 7 * d) 3 * 2 ^ 25
def Part.dssSize (p : Part) (d : Nat) : Nat := field p.record (99 + 7 * d) 4 * 2 ^ 25

/-- Fields of a sequence record (15 R330). -/
def seqState (r : BitVec 512) : Nat := field r 118 2
def seqVbase (r : BitVec 512) : Nat := field r 0 48
def seqDir (r : BitVec 512) : Nat := field r 64 24
def seqTier (r : BitVec 512) : Nat := field r 117 1
def seqLog2S (r : BitVec 512) : Nat := field r 109 5

/-- The physical address of a chunk of a tier's pool (15 R333; 17 R373). -/
def Part.chunkAddr (p : Part) (tier c : Nat) : Nat := (if tier = 0 then p.hpool else p.cpool) + 2 ^ 16 * c

/-- Entry `c` of a sequence's directory, read from its chunk (15 R331); an entry in no memory reads as zero. -/
def State.dirEntry (s : State) (p : Part) (r : BitVec 512) (c : Nat) : Nat :=
  match s.physKey (p.chunkAddr (seqTier r) (seqDir r) + 4 * c) with
  | some k => s.rdNat k 4
  | none => 0

/-- The open or closed sequence whose region holds a virtual address (15 R331). -/
def Part.seqAt (p : Part) (va : Nat) : Option (BitVec 512) :=
  (p.seqs.find? fun e => decide (seqState e.2 ≠ 0) && decide (seqVbase e.2 = va / 2 ^ 30 * 2 ^ 30)).map Prod.snd

/-- Bytes per entry span at a level (R351): what one entry maps. -/
def levelSpan : Nat → Nat
  | 0 => 2 ^ 39
  | 1 => 2 ^ 30
  | 2 => 2 ^ 21
  | _ => 2 ^ 16

/-- The index of a virtual address at a level (R351). -/
def levelIndex (va : Nat) : Nat → Nat
  | 0 => bitsAt 39 9 va
  | 1 => bitsAt 30 9 va
  | 2 => bitsAt 21 9 va
  | _ => bitsAt 16 5 va

/-- Is the entry of a level malformed (R352, R353 detail 0x04; 22 R436)? -/
def entryMalformed (pkgn : Nat) (lvl e : Nat) : Bool :=
  let leaf := e.testBit 1
  let rem := e.testBit 6
  let dm := e.testBit 5
  let pa := bitsAt 8 40 e * 256
  let pkg := bitsAt 48 12 e
  decide (bitsAt 60 4 e ≠ 0) || e.testBit 7 ||
  (leaf && decide (lvl = 0)) || (!leaf && decide (lvl = 3)) ||
  (dm && !(leaf && decide (lvl = 1))) ||
  (!leaf && decide (pa % (if lvl = 2 then 256 else 4096) ≠ 0)) ||
  (leaf && !dm && decide (pa % levelSpan lvl ≠ 0)) ||
  (decide (pkg ≠ 0) && !rem) || (leaf && rem && decide (pkg = pkgn))

/-- The page of a leaf (R353), as a TLB entry; `rd` and `wr` say how the access reads and writes. A directory entry whose
reserved bits are set is rejected (00 R8): DESIGN CHOICE (log 74), after its V and before its WP, with XLATE detail 0x04, the detail of
a malformed page table entry. -/
def State.leaf (s : State) (pid : Nat) (va lvl e : Nat) (rd wr : Bool) : Except (BitVec 8) TlbEntry :=
  let p := s.part pid
  let perm (w : Bool) (vbase size pbase : Nat) : TlbEntry :=
    { pid := pid, vbase := vbase, size := size, pbase := pbase, pkg := bitsAt 48 12 e, rem := e.testBit 6,
      rd := e.testBit 2, wr := w, ra := e.testBit 4,
      mask := if e.testBit 6 then 0 else s.stackMask pbase size, direct := false }
  if wr && !e.testBit 3 then .error 0x02
  else if rd && !e.testBit 2 then .error 0x03
  else if e.testBit 5 then
    match p.seqAt va with
    | none => .error 0x06
    | some r =>
      let d := s.dirEntry p r (va % 2 ^ 30 / 2 ^ 16)
      if !d.testBit 31 then .error 0x06
      else if bitsAt 24 6 d ≠ 0 then .error 0x04
      else if wr && d.testBit 30 then .error 0x02
      else .ok (perm (e.testBit 3 && !d.testBit 30) (va / 2 ^ 16 * 2 ^ 16) (2 ^ 16)
        (p.chunkAddr (seqTier r) (bitsAt 0 24 d)))
  else
    let size := levelSpan lvl
    let pa := bitsAt 8 40 e * 256
    if !e.testBit 6 && (s.physKey pa).isNone then .error 0x05
    else .ok (perm (e.testBit 3) (va / size * size) size pa)

/-- The walk from level `lvl` with `fuel` levels to go, the table at `a` (R353). -/
def State.walkFrom (s : State) (pid va : Nat) (rd wr : Bool) : Nat → Nat → Nat → Except (BitVec 8) TlbEntry
  | 0, _, _ => .error 0x04
  | fuel + 1, lvl, a =>
    match s.physKey (a + 8 * levelIndex va lvl) with
    | none => .error 0x05
    | some k =>
      let e := s.rdNat k 8
      if !e.testBit 0 then .error 0x01
      else if entryMalformed s.pod.pkgn.toNat lvl e then .error 0x04
      else if !e.testBit 1 then s.walkFrom pid va rd wr fuel (lvl + 1) (bitsAt 8 40 e * 256)
      else s.leaf pid va lvl e rd wr

/-- A walk of a partition's page tables (R353). -/
def State.walk (s : State) (pid va : Nat) (rd wr : Bool) : Except (BitVec 8) TlbEntry :=
  s.walkFrom pid va rd wr 4 0 (s.part pid).ptroot

/-- Does the die own every stack of the mask (16 R355)? -/
def State.direct (s : State) (die : Nat) (mask : BitVec 8) : Bool :=
  (stacksOf mask.toNat).all fun k => decide (s.ownerFor die k = die)

/-- The TLB entry of a tile that translates an address. -/
def Tile.lookup (x : Tile) (pid va : Nat) : Option TlbEntry :=
  x.tlb.find? fun e => decide (e.pid = pid) && decide (e.vbase ≤ va) && decide (va < e.vbase + e.size)

/-- A walked page put into the TLB, the oldest entry of 256 dropped (16 R355; log 9); one that it holds is not put in a
second time, so that the misses to one page come to one walk's entry. -/
def Tile.install (x : Tile) (e : TlbEntry) : Tile :=
  if e ∈ x.tlb then x
  else
    let l := x.tlb ++ [e]
    { x with tlb := if l.length ≤ 256 then l else l.drop 1 }

/-- The outcome of a translation at a tile: a TLB miss, a fault of R353, or the page. -/
inductive Xlate where
  | miss
  | fault (detail : BitVec 8)
  | page (e : TlbEntry)
deriving DecidableEq, Repr

def State.translate (s : State) (t pid va : Nat) (rd wr : Bool) : Xlate :=
  match (s.tile t).lookup pid va with
  | none => .miss
  | some e => if wr && !e.wr then .fault 0x02 else if rd && !e.rd then .fault 0x03 else .page e

/-- The translation for the tile's streamer and for an engine that serves the tile, which use its TLB (16 R355): the
entry that it holds, or the outcome of a walk. -/
def State.translateFor (s : State) (t pid va : Nat) (rd wr : Bool) : Except (BitVec 8) TlbEntry :=
  match s.translate t pid va rd wr with
  | .miss => s.walk pid va rd wr
  | .fault d => .error d
  | .page e => .ok e

/-- A page that was walked for a tile goes into its TLB, with the direct attribute where the tile's die owns every stack
that it touches (16 R355). -/
def State.installFor (s : State) (t : Nat) (e : TlbEntry) : State :=
  s.modTile t fun x => x.install { e with direct := s.direct (dieOf t) e.mask }

/-- The page of an address that the tile's streamer or engine reaches goes into the tile's TLB. -/
def State.fillFor (s : State) (t pid va : Nat) (rd wr : Bool) : State :=
  match s.translate t pid va rd wr with
  | .miss =>
    match s.walk pid va rd wr with
    | .ok e => s.installFor t e
    | .error _ => s
  | _ => s

/-- The physical address of a virtual one in its page. -/
def TlbEntry.phys (e : TlbEntry) (va : Nat) : Nat := e.pbase + (va - e.vbase)

/-- Fields of a tile entry (17 R375). -/
def State.tileEntry (s : State) (t : Nat) : Word64 := Tab.get 0 s.board.layout.tiles t
def entryPid (e : Word64) : Nat := field e 0 16
def entryBpid (e : Word64) : Nat := field e 32 16

/-- Is a lent tile held back by its owner (17 R377)? -/
def State.heldBack (s : State) (t : Nat) : Bool := decide (entryBpid (s.tileEntry t) ≠ 0) && (s.tile t).held

/-- The logical number that a partition gives a physical tile (17 R375). -/
def State.logTile (s : State) (pid t : Nat) : Option Nat :=
  let e := s.tileEntry t
  if pid = 0 then none
  else if entryPid e = pid then some (field e 16 9)
  else if entryBpid e = pid then some (field e 48 9)
  else none

/-- The physical tile of a logical number of a partition, own or borrowed (17 R375). -/
def State.physTile (s : State) (pid l : Nat) : Option Nat :=
  (s.board.layout.tiles.map Prod.fst).find? fun t => decide (s.logTile pid t = some l)

/-- As `physTile`, but a borrowed tile that its owner holds back lies outside the partition (17 R377). -/
def State.reachTile (s : State) (pid l : Nat) : Option Nat :=
  match s.physTile pid l with
  | some t => if s.heldBack t && decide (entryBpid (s.tileEntry t) = pid) then none else some t
  | none => none

/-- May a tile send to a logical tile of its partition (17 R376)? -/
def State.permitted (s : State) (pid t l : Nat) : Bool :=
  match s.logTile pid t with
  | some n => (Tab.get 0 (s.part pid).perm n).getLsbD l
  | none => false

/-- How many requests the walkers of a die work on or hold in their queue (16 R356). -/
def State.walking (s : State) (die : Nat) : Nat :=
  (s.agenda.filter fun d => match d.arg with
    | .fetch g _ _ _ _ => decide (dieOf (g / 8) = die) && decide (d.what = .pageWalk)
    | _ => false).length

/-- The pages, by multiples of 64 KiB, of the TLB misses that a tile has outstanding (16 R355). -/
def State.misses (s : State) (t : Nat) : List Nat :=
  ((s.agenda ++ s.later.map Prod.snd).filterMap fun d => match d.arg with
    | .fetch g _ va _ _ => if g / 8 = t ∧ d.what = .pageWalk then some (va.toNat / 2 ^ 16) else none
    | .num g _ va _ => if g / 8 = t ∧ d.what = .pageWalk then some (va / 2 ^ 16) else none
    | _ => none).eraseDups

/-- Can a tile take a miss to an address: has it fewer than 16 outstanding, or one to that page (16 R355)? -/
def State.missRoom (s : State) (t : Nat) (va : Addr) : Bool :=
  decide ((s.misses t).length < 16) || decide (va.toNat / 2 ^ 16 ∈ s.misses t)

/-- A miss goes to the walkers of its die, which serve their requests in arrival order; with the 64 walkers at work and
1,024 requests in the queue the tile holds it and offers it again (16 R356; log 2). -/
def State.sendWalk (s : State) (g c : Nat) (va : Addr) (rd wr : Bool) : State :=
  if s.walking (dieOf (g / 8)) < 64 + 1024 then s.due [⟨.pageWalk, .fetch g c va rd wr⟩]
  else s.dueIn 16 (.num .pageWalk g c va.toNat (rd.toNat + 2 * wr.toNat))

end Sys2Proof.Machine
end

