-- ==== Sys2Proof/Machine/Ops.lean ====
section
/-! DEFINITION. The shared operations of the machine: completing and stopping an instruction, taking a trap and returning from one, waiting and waking, fault records and their queues, counters, and the counts of outstanding operations. -/

namespace Sys2Proof.Machine

/-- A record as a number from fields (lowest bit, width, value). -/
def mkRecord (fs : List (Nat × Nat × Nat)) : Nat := (fs.map fun f => f.2.2 % 2 ^ f.2.1 * 2 ^ f.1).sum

/-! ### Flags and predicates -/

/-- The bits of F that exist (01 R17): all but the reserved bits [15:12] and [9]. -/
def flagBits : BitVec 16 := 0x0DFF

def setBit (f : BitVec 16) (i : Nat) (b : Bool) : BitVec 16 :=
  if b then f ||| (1#16 <<< i) else f &&& ~~~(1#16 <<< i)

def Ctx.fz (k : Ctx) : Bool := k.f.getLsbD 0
def Ctx.fn (k : Ctx) : Bool := k.f.getLsbD 1
def Ctx.fc (k : Ctx) : Bool := k.f.getLsbD 2
def Ctx.fv (k : Ctx) : Bool := k.f.getLsbD 3

/-- The conditions of PRED in every format but VX (02 R40, R42). -/
def Ctx.cond (k : Ctx) (code : Nat) : Bool :=
  match code with
  | 0 => true
  | 1 => k.fz
  | 2 => !k.fz
  | 3 => k.fn
  | 4 => !k.fn
  | 5 => k.fc
  | 6 => !k.fc
  | _ => k.fv

/-! ### Counters and waking -/

/-- Has a counter reached `v` (09 R200)? -/
def reached (c v : Word32) : Bool := decide ((c - v).toNat < 2 ^ 31)

/-- A context becomes READY; a core that has no RUNNING context selects (01 R13, R14). -/
def State.wake (s : State) (g c : Nat) : State :=
  let s' := s.modCtx g c fun k => { k with mode := .ready }
  if ((s.core g).running).isNone then s'.due [.num .contextSelect g] else s'

/-- The contexts of a core that wait for something that `p` says has come about. -/
def Core.waiters (c : Core) (p : Wait → Bool) : List Nat :=
  (List.range 16).filter fun n =>
    let k := c.ctx n
    k.live && match k.mode with
      | .waitSync w => p w
      | _ => false

/-- Every context of a core whose wait is over becomes READY (09 R201, R204). -/
def State.wakeAll (s : State) (g : Nat) (p : Wait → Bool) : State :=
  ((s.core g).waiters p).foldl (fun s n => s.wake g n) s

/-- A counter of a core is set, and the sleepers that it releases wake (01 R18; 09 R201). -/
def State.setCounter (s : State) (g n : Nat) (v : Word32) : State :=
  let s := s.modCore g fun c => { c with counters := Tab.set 0 c.counters n v }
  s.wakeAll g fun w => match w with
    | .counter m u => decide (m = n) && reached v u
    | _ => false

def State.counter (s : State) (g n : Nat) : Word32 := Tab.get 0 (s.core g).counters n

/-! ### Counter targets (08 R187) -/

def targetV (t : Word64) : Bool := t.getLsbD 31
def targetCore (t : Word64) : Nat := field t 4 12
def targetCnt (t : Word64) : Nat := field t 0 4
def targetPkg (t : Word64) : Nat := field t 52 12

/-- Is a counter target malformed for a destination on package `pkg` (R187)? The core of another package is checked
against the tiles of the issuer's own partition (log 64). -/
def State.targetBad (s : State) (pid pkg : Nat) (t : Word64) : Bool :=
  if targetV t then
    decide (field t 32 20 ≠ 0) || decide (field t 16 15 ≠ 0) || decide (targetPkg t ≠ pkg) ||
    (if pkg = s.pod.pkgn.toNat then (s.reachTile pid (targetCore t / 8)).isNone
      else (s.physTile pid (targetCore t / 8)).isNone)
  else decide (t ≠ 0)

/-- An increment of the counter that a target names, in the next cycle (08 R189; 01 R18). Where the target's core lies
outside the partition when the data has landed, no counter is there to move (log 64). -/
def State.signal (s : State) (pid : Nat) (t : Word64) : State :=
  if targetV t then
    match s.reachTile pid (targetCore t / 8) with
    | some x => s.due [.num .counterIncrement (8 * x + targetCore t % 8) (targetCnt t)]
    | none => s
  else s

/-! ### Tasks -/

/-- A handle's slot and generation (11 R273; 14 R294). -/
def handleSlot (h : BitVec 32) : Nat := field h 12 20
def handleGen (h : BitVec 32) : Nat := field h 0 12
def mkHandle (slot : Nat) (gen : BitVec 12) : BitVec 32 := BitVec.ofNat 32 (slot * 2 ^ 12 + gen.toNat)

/-- States of a task (14 R299). -/
def Task.state (t : Task) : Nat := field t.tcb 244 4
def Task.dep (t : Task) : Nat := field t.tcb 224 16
def Task.live (t : Task) : Nat := field t.tcb 288 17
def Task.aops (t : Task) : Nat := field t.tcb 256 32
def Task.graph (t : Task) : BitVec 32 := t.tcb.extractLsb' 384 32
def Task.self (t : Task) : BitVec 32 := t.tcb.extractLsb' 416 32
def Task.nTiles (t : Task) : Nat := field t.tcb 160 10
def Task.helpers (t : Task) : Nat := field t.tcb 170 4
def Task.trapEntry (t : Task) : Bool := t.tcb.getLsbD 127
def Task.trb (t : Task) : Nat := field t.tcb 96 21
def Task.trapOff (t : Task) : Nat := field t.tcb 64 32
def Task.image (t : Task) : Nat := field t.tcb 0 48
def Task.fq (t : Task) : Nat := field t.tcb 448 48
def Task.set (t : Task) (lo w v : Nat) : Task := { t with tcb := setField t.tcb lo w v }

/-- The global address of the code image (14 R295). -/
def Task.code (t : Task) : Nat := t.image + 64 + 16 * t.nreq

def Part.task (p : Part) (slot : Nat) : Task := Tab.get Task.absent p.tasks slot
def Part.setTask (p : Part) (slot : Nat) (t : Task) : Part := { p with tasks := Tab.set Task.absent p.tasks slot t }
def State.task (s : State) (pid slot : Nat) : Task := (s.part pid).task slot
def State.modTask (s : State) (pid slot : Nat) (f : Task → Task) : State :=
  s.modPart pid fun p => p.setTask slot (f (p.task slot))

/-- The slot of a handle that is not stale (14 R294). -/
def Part.taskSlot (p : Part) (h : BitVec 32) : Option Nat :=
  let n := handleSlot h
  if n ≠ 0 ∧ (p.task n).state ≠ 0 ∧ (Tab.get 0 p.taskGen n).toNat = handleGen h then some n else none

/-- The partition and the task that a core works for. -/
def State.pidOf (s : State) (g : Nat) : Nat := (s.tile (g / 8)).pid
def State.tcbOf (s : State) (g : Nat) : BitVec 32 := (s.tile (g / 8)).tcb
def State.taskOf (s : State) (g : Nat) : Option (Nat × Task) :=
  let p := s.part (s.pidOf g)
  (p.taskSlot (s.tcbOf g)).map fun n => (n, p.task n)

/-- The logical number of a core in its partition (08 R187). -/
def State.logCore (s : State) (g : Nat) : Nat := ((s.logTile (s.pidOf g) (g / 8)).getD 0) * 8 + g % 8

/-- A change of a task found by its handle; nothing where the handle is stale. -/
def State.withTask (s : State) (pid : Nat) (h : BitVec 32) (f : Task → Task) : State :=
  match (s.part pid).taskSlot h with
  | some n => s.modTask pid n f
  | none => s

/-- The completion of a task is looked at again (14 R301). -/
def State.settle (s : State) (pid : Nat) (h : BitVec 32) : State :=
  match (s.part pid).taskSlot h with
  | some n => s.due [.num .taskCompletion pid n]
  | none => s

/-- One more outstanding operation of a task (08 R180). -/
def State.opBegin (s : State) (pid : Nat) (h : BitVec 32) : State :=
  s.withTask pid h fun t => t.set 256 32 (t.aops + 1)

/-- An outstanding operation has completed (08 R180; 14 R299). -/
def State.opEnd (s : State) (pid : Nat) (h : BitVec 32) : State :=
  (s.withTask pid h fun t => t.set 256 32 (t.aops - 1)).settle pid h

/-! ### Host events and error records -/

/-- An event for the host ring (22 R441): it waits in the management processor's buffer of 256 and is posted as the
ring takes it; one that finds the buffer full is dropped and counted. -/
def State.event (s : State) (kind pid body : Nat) : State :=
  if s.host.events.length < 256 then
    { s with host := { s.host with events := s.host.events ++
        [BitVec.ofNat 2048 (mkRecord [(0, 8, kind), (32, 16, pid), (64, 64, s.now), (256, 1792, body)])] },
             agenda := s.agenda ++ [⟨.eventPost, .none⟩] }
  else { s with host := { s.host with lost := min (s.host.lost + 1) 0xFFFF } }

/-! ### Memory of a job, as an engine reaches it -/

/-- The key of a global virtual address of a partition on this package (16 R353). -/
def State.vKey (s : State) (pid va : Nat) (rd wr : Bool) : Except (BitVec 8) Nat :=
  if va < 0xF00000000000 then
    match s.walk pid va rd wr with
    | .error d => .error d
    | .ok e => if e.rem then .error 0x07 else
      match s.physKey (e.phys va) with
      | some k => .ok k
      | none => .error 0x05
  else .error 0x01

/-- The keys of `n` pieces of `w` bytes from a virtual address, or the first fault and its address. -/
def State.vKeys (s : State) (pid va w : Nat) (rd wr : Bool) : Nat → Except (Nat × BitVec 8) (List Nat)
  | 0 => .ok []
  | n + 1 =>
    match s.vKey pid va rd wr with
    | .error d => .error (va, d)
    | .ok k =>
      match s.vKeys pid (va + w) w rd wr n with
      | .error d => .error d
      | .ok ks => .ok (k :: ks)

/-- The keys of `n` pieces of `w` bytes from a virtual address, as an engine that serves a tile reaches them, with the tile's
TLB (08 R172; 16 R355), or the first fault and its address. -/
def State.tKeys (s : State) (t pid va w : Nat) (rd wr : Bool) : Nat → Except (Nat × BitVec 8) (List Nat)
  | 0 => .ok []
  | n + 1 =>
    match (if va < 0xF00000000000 then s.translateFor t pid va rd wr else .error 0x01) with
    | .error d => .error (va, d)
    | .ok e =>
      if e.rem then .error (va, 0x07)
      else
        match s.physKey (e.phys va) with
        | none => .error (va, 0x05)
        | some k =>
          match s.tKeys t pid (va + w) w rd wr n with
          | .error d => .error d
          | .ok ks => .ok (k :: ks)

/-- The same for an engine that serves a tile, or that serves none and walks. -/
def State.keysFor (s : State) (t : Option Nat) (pid va w : Nat) (rd wr : Bool) (n : Nat) : Except (Nat × BitVec 8) (List Nat) :=
  match t with
  | some t => s.tKeys t pid va w rd wr n
  | none => s.vKeys pid va w rd wr n

/-- The pages of some addresses that were reached for a tile go into its TLB (16 R355). -/
def State.fillAll (s : State) (t pid : Nat) (vas : List Nat) (rd wr : Bool) : State :=
  vas.foldl (fun s va => s.fillFor t pid va rd wr) s

/-- `8 n` bytes read at a multiple of 8. -/
def State.vRead (s : State) (pid va n : Nat) : Option Nat :=
  match s.vKeys pid va 8 true false n with
  | .error _ => none
  | .ok ks => some (bytesToNat (ks.flatMap fun k => s.rdN k 8))

/-- `8 n` bytes of a number written at a multiple of 8. -/
def State.vWrite (s : State) (pid va n x : Nat) : Option State :=
  match s.vKeys pid va 8 false true n with
  | .error _ => none
  | .ok ks => some ((ks.zip (List.range n)).foldl (fun s e => s.wrNat e.1 8 (x / 2 ^ (64 * e.2))) s)

/-! ### Telemetry (17 R391 to R393) -/

def Part.slb (p : Part) : Nat := field p.record 704 48

/-- The header of a partition's safelight buffer; none where it is malformed or cannot be read (R391). -/
def State.traceHeader (s : State) (pid : Nat) : Option Nat :=
  match s.vRead pid (s.part pid).slb 8 with
  | none => none
  | some h =>
    if bitsAt 256 256 h = 0 ∧ bitsAt 196 28 h = 0 ∧ bitsAt 8 56 h = 0 ∧ 4 ≤ bitsAt 192 4 h ∧
        s.targetBad pid s.pod.pkgn.toNat (BitVec.ofNat 64 (bitsAt 128 64 h)) = false then some h
    else none

/-- The trace of a partition is disabled, and the host is told (R391). -/
def State.stopTrace (s : State) (pid : Nat) : State :=
  (s.modPart pid fun p => { p with untraced := true }).event 0x08 pid 0

/-- A trace record is dropped and counted (R393). -/
def State.dropTrace (s : State) (pid h : Nat) : State :=
  (s.vWrite pid (s.part pid).slb 8 (putBits 224 32 (bitsAt 224 32 h + 1) h)).getD s

/-- A trace record of a kind, its payload at bit 128 and its core and context given (R392), waits in the buffer of a
die for credit (R393). -/
def State.traceAt (s : State) (pid kind pay core ctx die : Nat) : State :=
  if (s.part pid).slb = 0 ∨ (s.part pid).untraced then s
  else
    match s.traceHeader pid with
    | none => s.stopTrace pid
    | some h =>
      if !h.testBit kind then s
      else
        let l := Tab.get [] s.board.traces die
        if 64 ≤ l.length then s.dropTrace pid h
        else
          let r : BitVec 256 := BitVec.ofNat 256
            (mkRecord [(0, 64, s.now), (88, 8, kind), (96, 12, core), (108, 4, ctx), (128, 128, pay)])
          { s with board := { s.board with traces := Tab.set [] s.board.traces die (l ++ [(pid, r)]) },
                   agenda := s.agenda ++ [.num .traceRecordWrite die] }

/-- A trace record of the scheduler or the management processor, which no core or context issued (log 28). -/
def State.trace (s : State) (pid kind pay : Nat) : State := s.traceAt pid kind pay 0 0 0

/-! ### Host-assisted functions (22 R444) -/

/-- Is a function host-assisted? -/
def State.isAssisted (s : State) (fn : Nat) : Bool := s.host.mpmode.getLsbD fn

/-- A request of a function goes to the host; the step that waits for the answer is kept (R444). -/
def State.ask (s : State) (fn pid body : Nat) (d : Due) : State :=
  let tag := s.host.tags % 2 ^ 32
  { s with host := { s.host with tags := s.host.tags + 1, assisted := s.host.assisted ++ [(⟨tag, fn, d, none⟩ : Assist)] } }.event
    0x07 pid (mkRecord [(0, 32, fn), (32, 32, tag), (64, 1728, body)])

/-- The answers that the host has given to the requests of a step, in order. -/
def State.answers (s : State) (fn : Nat) (d : Due) : List Word64 :=
  s.host.assisted.filterMap fun a => if a.fn = fn ∧ a.due = d then a.answer else none

/-- The host is asked for a step in place of the last `n` answers that it gave, which do not pass the device's check (R444). -/
def State.askAgain (s : State) (fn pid body n : Nat) (d : Due) : State :=
  let given := s.host.assisted.filter fun a => decide (a.fn = fn) && decide (a.due = d) && a.answer.isSome
  let bad := given.drop (given.length - n)
  ({ s with host := { s.host with assisted := s.host.assisted.filter fun a => decide (a ∉ bad) } }).ask fn pid body d

/-- The requests of a step are over. -/
def State.forget (s : State) (fn : Nat) (d : Due) : State :=
  { s with host := { s.host with assisted := s.host.assisted.filter fun a => decide (a.fn ≠ fn) || decide (a.due ≠ d) } }

/-! ### Fault queues and held faults (16 R357 to R360) -/

/-- Is the header of a fault queue well formed (R359)? -/
def queueOk (h : Nat) : Bool :=
  decide (bitsAt 256 256 h = 0) && decide (bitsAt 196 28 h = 0) && decide (bitsAt 64 64 h = 0) &&
  decide (2 ≤ bitsAt 192 4 h) && decide (bitsAt 192 4 h ≤ 12)

/-- A record written into the queue at `q`, with the level reached (R360); none where the queue cannot take it. -/
def State.postAt (s : State) (pid q lvl : Nat) (rec : Nat) : Option State :=
  if q = 0 then none
  else
    match s.vRead pid q 8 with
    | none => none
    | some h =>
      let tail := bitsAt 32 32 h
      let n := 2 ^ bitsAt 192 4 h
      if !queueOk h || s.targetBad pid s.pod.pkgn.toNat (BitVec.ofNat 64 (bitsAt 128 64 h)) ||
          decide ((tail + 2 ^ 32 - bitsAt 0 32 h) % 2 ^ 32 ≥ n) then none
      else
        match s.vWrite pid (q + 64 + 128 * (tail % n)) 16 (putBits 176 3 lvl rec) with
        | none => none
        | some s =>
          match s.vWrite pid q 8 (putBits 32 32 (tail + 1) h) with
          | none => none
          | some s => some (s.signal pid (BitVec.ofNat 64 (bitsAt 128 64 h)))

/-- A record posted to the first usable queue of task, graph and job (R360; 14 R303), and to the host where none is
usable, with the level that was reached. `fq` and `gfq` are the queues of the task and of its graph. -/
def State.post (s : State) (pid : Nat) (tcb : BitVec 32) (fq gfq rec : Nat) : State × Nat :=
  let counted (s : State) : State := s.withTask pid tcb fun t => t.set 576 32 (field t.tcb 576 32 + 1)
  let jfq := (s.part pid).jfq
  match s.postAt pid fq 0 rec with
  | some s => (counted s, 0)
  | none =>
    match s.postAt pid gfq 1 rec with
    | some s => (counted s, 1)
    | none =>
      match s.postAt pid jfq 2 rec with
      | some s => (counted s, 2)
      | none =>
        let s := match (if jfq = 0 then none else s.vRead pid jfq 8) with
          | some h => (s.vWrite pid jfq 8 (putBits 224 32 (bitsAt 224 32 h + 1) h)).getD s
          | none => s
        (s.event 0x02 pid (putBits 176 3 2 rec), 2)

/-- What a fault record says beside its task (R358). -/
structure FaultInfo where
  src : Nat
  status : Nat
  kind : Nat
  detail : Nat
  addr : Nat
  aux : Nat
  trec : Nat
deriving DecidableEq, Repr

/-- Statuses of R358, and STATUS 9 of 21 R420. -/
def stApplied : Nat := 1
def stNotApplied : Nat := 2
def stRefused : Nat := 3
def stCancelled : Nat := 4
def stNofit : Nat := 5
def stUnder : Nat := 6
def stDegraded : Nat := 7
def stDiscarded : Nat := 8
def stPoisoned : Nat := 9

/-- KIND of the record of an operation that a NACK of a detail refused; detail 0 is none (R358). -/
def nackKind (d : BitVec 8) : Nat := if d = 0 then 0 else 0x06

/-- An operation that has ended (SRC 0x04) with a status at an address. -/
def endedInfo (status addr aux : Nat) : FaultInfo := ⟨4, status, 0, 0, addr, aux, 0⟩

/-- The graph record that a task names. -/
def State.graphOf (s : State) (pid : Nat) (h : BitVec 32) : BitVec 512 :=
  Tab.get 0 (s.part pid).graphs (handleSlot h)

/-- A fault record (R358). -/
def State.faultRecord (s : State) (i : Issuer) (x : FaultInfo) (tag : BitVec 32) : Nat :=
  let graph := match (s.part i.pid).taskSlot i.tcb with
    | some n => (s.task i.pid n).graph.toNat
    | none => 0
  mkRecord [(0, 48, x.addr), (64, 48, x.aux), (128, 8, x.src), (136, 8, x.status), (144, 8, x.kind),
    (152, 8, x.detail), (160, 16, i.opc.toNat), (192, 4, i.ctx), (196, 12, if x.src ≤ 4 then s.logCore i.core else 0), (256, 32, i.tcb.toNat),
    (288, 32, graph), (320, 32, tag.toNat), (352, 32, s.now), (512, 512, x.trec)]

/-- A fault record posted for an issuer's task (R360; 14 R303), and traced with the logical core and the context that it
names (17 R392). With page-fault service in host-assisted mode a record with SRC 0x02 or 0x03 goes to the host as well
(22 R444). -/
def State.postRecord (s : State) (pid : Nat) (tcb : BitVec 32) (src rec : Nat) : State :=
  let q : Nat × Nat := match (s.part pid).taskSlot tcb with
    | some n => ((s.task pid n).fq, field (s.graphOf pid (s.task pid n).graph) 256 48)
    | none => (0, 0)
  let core := bitsAt 196 12 rec
  let die := if src ≤ 4 then dieOf ((s.physTile pid (core / 8)).getD 0) else 0
  let r := s.post pid tcb q.1 q.2 rec
  let s := r.1.traceAt pid 3
    (mkRecord [(0, 8, src), (8, 8, bitsAt 144 8 rec), (16, 8, bitsAt 152 8 rec), (32, 32, bitsAt 320 32 rec)])
    core (bitsAt 192 4 rec) die
  if s.host.mpmode.getLsbD 0 && (decide (src = 2) || decide (src = 3)) then s.event 0x02 pid (putBits 176 3 r.2 rec) else s

def State.fault (s : State) (i : Issuer) (x : FaultInfo) : State :=
  s.postRecord i.pid i.tcb x.src (s.faultRecord i x 0)

/-- The lowest free slot of the held-fault table (R357). -/
def Part.heldSlot (p : Part) : Option Nat :=
  ((List.range 4095).map (· + 1)).find? fun n => (Tab.get none p.held n).isNone

/-- The key of a byte of the save record of a logical tile (16 R370; 17 R373); none where no memory is. -/
def State.saveKey (s : State) (pid l off : Nat) : Option Nat :=
  s.physKey (field (s.part pid).record 512 48 + 0x641000 * l + off)

/-- The context entry in the save record of a logical core (16 R371). -/
def State.savedEntry (s : State) (pid g c : Nat) : Nat :=
  match s.saveKey pid (g / 8) (0x8000 * (g % 8) + 0x80 * c) with
  | some k => s.rdNat k 128
  | none => 0
def State.setSavedEntry (s : State) (pid g c e : Nat) : State :=
  match s.saveKey pid (g / 8) (0x8000 * (g % 8) + 0x80 * c) with
  | some k => s.wrNat k 128 e
  | none => s

/-- Fields of a context entry (16 R364). -/
def entryLive (e : Nat) : Bool := e.testBit 865
def entryCst (e : Nat) : Nat := bitsAt 867 3 e
def entryWval (e : Nat) : Nat := bitsAt 880 32 e

/-- Is a task saved? The core of a strand of one is a logical number (16 R372). -/
def Part.isSaved (p : Part) (tcb : BitVec 32) : Bool :=
  match p.taskSlot tcb with
  | some n => (p.task n).saved
  | none => false

/-- A suspended strand takes its tag, in its save record where its task is saved. -/
def State.tagStrand (s : State) (pid : Nat) (h : Held) (tag : BitVec 32) : State :=
  match h with
  | .strand g c t =>
    if (s.part pid).isSaved t then s.setSavedEntry pid g c (putBits 912 32 tag.toNat (s.savedEntry pid g c))
    else s.modCtx g c fun k => { k with mode := .suspended tag }
  | .op _ _ => s

/-- A strand or an operation held under a fresh tag, and its record posted; with the table full both wait (R357). -/
def State.hold (s : State) (i : Issuer) (h : Held) (x : FaultInfo) : State :=
  let p := s.part i.pid
  match p.heldSlot with
  | some n =>
    let tag := mkHandle n (Tab.get 0 p.heldGen n)
    let s := s.setPart i.pid { p with held := Tab.set none p.held n (some h) }
    (s.tagStrand i.pid h tag).postRecord i.pid i.tcb x.src (s.faultRecord i x tag)
  | none =>
    let s := s.setPart i.pid { p with heldWait := p.heldWait ++ [(h, BitVec.ofNat 1024 (s.faultRecord i x 0))] }
    s.tagStrand i.pid h 0

/-- The slot that a tag holds in a partition, if it is not stale. -/
def Part.heldAt (p : Part) (tag : BitVec 32) : Option (Nat × Held) :=
  let n := handleSlot tag
  match Tab.get none p.held n with
  | some h => if n ≠ 0 ∧ (Tab.get 0 p.heldGen n).toNat = handleGen tag then some (n, h) else none
  | none => none

/-- The task that a held entry belongs to. -/
def Held.tcb : Held → BitVec 32
  | .strand _ _ t => t
  | .op _ t => t

/-- A held entry is freed, its generation advances, and the first that waits for a place takes one (R357); its record
carries the cycle in which it is posted (R358). -/
def State.unhold (s : State) (pid n : Nat) : State :=
  let p := s.part pid
  let p := { p with held := Tab.set none p.held n none, heldGen := Tab.set 0 p.heldGen n (Tab.get 0 p.heldGen n + 1) }
  match p.heldWait with
  | [] => s.setPart pid p
  | (h, rec) :: rest =>
    match p.heldSlot with
    | none => s.setPart pid p
    | some m =>
      let tag := mkHandle m (Tab.get 0 p.heldGen m)
      let s := s.setPart pid { p with held := Tab.set none p.held m (some h), heldWait := rest }
      (s.tagStrand pid h tag).postRecord pid h.tcb (field rec 128 8)
        (putBits 352 32 s.now (putBits 320 32 tag.toNat rec.toNat))

/-! ### Strands -/

/-- The RUNNING context leaves that state; the search for the next starts after it (01 R14). -/
def State.leaveRunning (s : State) (g c : Nat) (m : Mode) : State :=
  let s := s.modCore g fun x => { x.setCtx c { x.ctx c with mode := m } with running := none, from_ := (c + 1) % 16 }
  s.due [.num .contextSelect g]

/-- A context stops being RUNNING if it is, and in any case has a new mode. -/
def State.stopCtx (s : State) (g c : Nat) (m : Mode) : State :=
  if (s.core g).running = some c then s.leaveRunning g c m else s.modCtx g c fun k => { k with mode := m }

/-- The loop test (05 R123), suspended while INH = 1. -/
def Ctx.loopTest (k : Ctx) : Ctx :=
  if k.loop.lact && !k.inh && decide (k.pc = k.loop.lend) then
    let n := k.loop.lcount - 1
    if n = 0 then { k with loop := { k.loop with lcount := n, lact := false } }
    else { k with loop := { k.loop with lcount := n }, pc := k.loop.lstart }
  else k

/-- The address after an instruction: each prefix and the base word are two bytes (02 R32). -/
def Ctx.next (k : Ctx) (pre : Prefixes) : Addr := k.pc + BitVec.ofNat 48 (2 * (pre.count + 1))

/-- The issuing context completes its instruction with the registers `k` and the new PC `pc`. -/
def State.complete (s : State) (k : Ctx) (pc : Addr) : State :=
  s.setCtx s.me s.myCtx ({ k with pc := pc }).loopTest

/-- An instruction that only advances the PC. -/
def State.skip (s : State) (pre : Prefixes) : State := s.complete s.strand (s.strand.next pre)

/-- An instruction under its predicate (02 R41): a false one completes with no effect. -/
def guarded (pre : Prefixes) (s : State) (body : State → State) : State :=
  if s.strand.cond pre.pred.toNat then body s else s.skip pre

/-- The instruction cannot be served yet: the core stalls and retries (01 R15, R27), with nothing changed. -/
def State.stall (s : State) : State :=
  (s.modCore s.me fun c => { c with stalled := true }).due [.num .scalarAccessRetry s.me]

/-- The word at a virtual address in a tile's instruction cache (01 R20). -/
def Tile.word (x : Tile) (va : Addr) : Option Half := Tab.get none x.icache (va.toNat / 2)

/-- A word filled into the 64 KiB instruction cache; with 32,768 words in it the one filled first leaves (01 R20; log 65). -/
def Tile.fill (x : Tile) (va : Addr) (w : Half) : Tile :=
  let n := va.toNat / 2
  let x := match x.fills with
    | o :: rest => if 32768 ≤ x.fills.length then { x with icache := Tab.set none x.icache o none, fills := rest } else x
    | [] => x
  { x with icache := Tab.set none x.icache n (some w), fills := x.fills ++ [n] }

/-- The base word of the instruction at an address, as far as the cache holds it (16 R358). -/
def Tile.baseWord (x : Tile) (va : Addr) : Nat → Half
  | 0 => 0
  | n + 1 =>
    match x.word va with
    | some w => if w.extractLsb' 13 3 = 7 then x.baseWord (va + 2) n else w
    | none => 0

/-- The issuing strand as an issuer. -/
def State.issuerOf (s : State) (g c : Nat) : Issuer :=
  ⟨g, c, s.pidOf g, s.tcbOf g, (s.tile (g / 8)).baseWord (s.ctx g c).pc 5, s.now⟩
def State.issuer (s : State) : Issuer := s.issuerOf s.me s.myCtx

/-! ### Taking a trap (09 R218 to R221; 16 R349) -/

/-- The trap record (R219). -/
def trapRecord (k : Ctx) (t : Trap) : Nat :=
  mkRecord [(0, 48, t.pc.toNat), (64, 16, k.f.toNat), (80, 8, t.kind.toNat), (88, 8, t.detail.toNat),
    (96, 1, t.deferred.toNat), (97, 4, t.body.toNat), (112, 8, t.code.toNat), (128, 48, t.addr.toNat),
    (192, 64, k.a.toNat), (256, 64, k.x.toNat)]

/-- The scratchpad offset of a context's trap record (R218). -/
def recordOffset (trb k c : Nat) : Nat := trb + 1024 * k + 64 * c

/-- A trap of a context of a core is taken (R221). The instruction has changed nothing; `t.pc` is the record's PC.
XLATE suspends the strand for replay; with no trap entry, or with INH = 1, the strand is suspended and its record
posted; otherwise the record is written, INH is set and control passes to the trap entry. DESIGN CHOICE (log 81): the record
is written by no requester class of the scratchpad (01 R25), so that no bank pointer moves. -/
def State.takeTrap (s : State) (g c : Nat) (t : Trap) : State :=
  let k := s.ctx g c
  let i := s.issuerOf g c
  let i := { i with opc := t.opc.getD i.opc }
  let suspend (src trec : Nat) : State :=
    (s.stopCtx g c (.suspended 0)).hold i (.strand g c i.tcb)
      ⟨src, 0, t.kind.toNat, t.detail.toNat, t.addr.toNat, 0, trec⟩
  if t.kind = 0x07 then suspend 2 0
  else
    match s.taskOf g with
    | none => suspend 1 (trapRecord k t)
    | some (_, task) =>
      if !task.trapEntry || k.inh then suspend 1 (trapRecord k t)
      else
        let s := s.wrNat (scratchKey (g / 8) (recordOffset task.trb (g % 8) c)) 64 (trapRecord k t)
        s.setCtx g c { k with inh := true, pc := BitVec.ofNat 48 (task.code + task.trapOff) }

/-- A trap of the issuing instruction at its own address. -/
def trapOf (kind detail : BitVec 8) (addr : Addr) : Trap := ⟨kind, detail, addr, 0, 0, false, 0, none⟩
def State.raise (s : State) (t : Trap) : State := s.takeTrap s.me s.myCtx { t with pc := s.strand.pc }

/-- Trap kinds (09 R220; 11 R274; 14 R312; 15 R335; 16 R362). -/
def kIllegal : BitVec 8 := 0x01
def kAlign : BitVec 8 := 0x02
def kAccess : BitVec 8 := 0x03
def kLoop : BitVec 8 := 0x04
def kMatrix : BitVec 8 := 0x05
def kNack : BitVec 8 := 0x06
def kXlate : BitVec 8 := 0x07
def kMemory : BitVec 8 := 0x08
def kSoftware : BitVec 8 := 0x09
def kCopy : BitVec 8 := 0x0A
def kHelper : BitVec 8 := 0x0B
def kCount : BitVec 8 := 0x0C
def kTask : BitVec 8 := 0x0D
def kSequence : BitVec 8 := 0x0E
def kSystem : BitVec 8 := 0x0F

/-- Return from a trap (16 R363): what the record of the context restores. -/
def Ctx.returnFrom (k : Ctx) (rec : Nat) : Ctx :=
  { k with pc := BitVec.ofNat 48 (bitsAt 0 48 rec), f := BitVec.ofNat 16 (bitsAt 64 16 rec) &&& flagBits,
           a := BitVec.ofNat 64 (bitsAt 192 64 rec), x := BitVec.ofNat 64 (bitsAt 256 64 rec), inh := false }

/-! ### Waiting for a reply (01 R13) -/

/-- The issuing context enters WAIT-LOAD; what the reply will need is kept. -/
def State.await (s : State) (w : Await) : State :=
  let g := s.me
  let c := s.myCtx
  (s.modCtx g c fun k => { k with await := some w, reply := none }).leaveRunning g c .waitLoad

/-- A reply with nothing in it. -/
def Reply.plain : Reply := ⟨none, none, 0, 0, true, none⟩

/-- A reply reaches a context: it lands in the next cycle. -/
def State.reply (s : State) (g c : Nat) (r : Reply) : State :=
  (s.modCtx g c fun k => { k with reply := some r }).due [.num .loadReply g c]

/-- The reply of a status: X, F.Z, and A where it is written (11 R275; 14 R311; 15 R334). -/
def Reply.status (st : Nat) (a : Option Word64) : Reply :=
  { Reply.plain with a := a, x := some (BitVec.ofNat 64 st), fmask := 1, fval := if st = 0 then 1 else 0 }

/-- A precise trap in place of a reply. -/
def Reply.trapped (kind detail : BitVec 8) (addr : Addr) : Reply :=
  { Reply.plain with trap := some (trapOf kind detail addr) }

/-- A reply is applied to its context, which has the registers `k` (08 R183, R186, R192). -/
def Ctx.land (k : Ctx) (w : Await) (r : Reply) : Ctx :=
  let k := if r.post then match w.ptr with
      | some (n, a) => k.setAddr n a
      | none => k
    else k
  let k := match r.a with
    | some v => if w.ha then { k with x := v } else { k with a := v }
    | none => k
  let k := match r.x with
    | some v => if w.ha then { k with a := v } else { k with x := v }
    | none => k
  ({ k with f := (k.f &&& ~~~r.fmask) ||| (r.fval &&& r.fmask), pc := w.npc, await := none, reply := none }).loopTest

end Sys2Proof.Machine
end

