-- ==== Sys2Proof/Machine/Flags.lean ====
section
/-! DEFINITION. The flag computations of the scalar unit and its integer operations (05_scalar_vector R105 to R109, R116). -/

namespace Sys2Proof.Machine

/-- Z and N from a value (R105). -/
def flagsZN (f : BitVec 16) (v : Word64) : BitVec 16 := setBit (setBit f 0 (decide (v = 0))) 1 (v.getLsbD 63)

/-- C and V, each where the operation names it (R105). -/
def flagsCV (f : BitVec 16) (c v : Option Bool) : BitVec 16 :=
  let f := match c with
    | some b => setBit f 2 b
    | none => f
  match v with
    | some b => setBit f 3 b
    | none => f

/-- A sticky bit is set, never cleared (01 R17). -/
def sticky (f : BitVec 16) (i : Nat) (b : Bool) : BitVec 16 := if b then setBit f i true else f

/-- The sticky floating-point bits FI, FO, FU, FX (01 R17; 04 R88 to R91). -/
def flagsFP (f : BitVec 16) (x : FFlags) : BitVec 16 :=
  sticky (sticky (sticky (sticky f 4 x.fi) 5 x.fo) 6 x.fu) 7 x.fx

/-- The sticky bit SAT (01 R17). -/
def flagsSat (f : BitVec 16) (b : Bool) : BitVec 16 := sticky f 8 b

/-- FCMP: Z, N, C, V by outcome, and FI when unordered (R116). -/
def flagsCompare (f : BitVec 16) (c : Option Int) : BitVec 16 :=
  match c with
  | none => sticky (setBit (setBit (setBit (setBit f 0 false) 1 false) 2 false) 3 true) 4 true
  | some c => setBit (setBit (setBit (setBit f 0 (decide (c = 0))) 1 (decide (c < 0))) 2 (decide (0 ≤ c))) 3 false

/-- The integer operations on the accumulator (R107, R108). -/
inductive IntOp where
  | add | adc | sub | sbc | mul | mulh | div | rem | and | or | xor | shl | shr | sar | rol | cmp | tst | min | max | sel
deriving DecidableEq, Repr

/-- What an operation gives: the exact result, its carry and overflow where it has them, and whether it writes. -/
structure IntResult where
  e : Int
  c : Option Bool
  v : Option Bool
  writes : Bool
deriving DecidableEq, Repr

/-- A 64-bit value in the signedness of the operation (R102). -/
def signedVal (unsigned : Bool) (w : Word64) : Int := if unsigned then (w.toNat : Int) else w.toInt

/-- Does an exact signed result leave the 64-bit range? -/
def over64 (e : Int) : Bool := decide (e < -(2 ^ 63)) || decide (2 ^ 63 - 1 < e)

/-- Truncating division (R108): quotient, remainder and V. -/
def divRem (d m : Int) (unsigned : Bool) : Int × Int × Bool :=
  if m = 0 then (if unsigned then 2 ^ 64 - 1 else -1, d, true)
  else if !unsigned && decide (d = -(2 ^ 63)) && decide (m = -1) then (-(2 ^ 63), 0, true)
  else (Int.tdiv d m, d - Int.tdiv d m * m, false)

/-- The effect of an operation on `d` and `m`, with the mask `x` of SEL and F.C (R107). -/
def IntOp.apply (op : IntOp) (uns carry : Bool) (d m x : Word64) : IntResult :=
  let D := signedVal uns d
  let M := signedVal uns m
  let ci : Int := if carry then 1 else 0
  let n := m.toNat % 64
  let bits (w : Word64) (c : Option Bool) : IntResult := ⟨signedVal uns w, c, none, true⟩
  match op with
  | .add => ⟨D + M, some (decide (2 ^ 64 ≤ d.toNat + m.toNat)), some (over64 (d.toInt + m.toInt)), true⟩
  | .adc => ⟨D + M + ci, some (decide (2 ^ 64 ≤ d.toNat + m.toNat + carry.toNat)),
      some (over64 (d.toInt + m.toInt + ci)), true⟩
  | .sub => ⟨D - M, some (decide (m.toNat ≤ d.toNat)), some (over64 (d.toInt - m.toInt)), true⟩
  | .sbc => ⟨D - M - (1 - ci), some (decide (m.toNat + (1 - carry.toNat) ≤ d.toNat)),
      some (over64 (d.toInt - m.toInt - (1 - ci))), true⟩
  | .mul => ⟨D * M, some false,
      some (if uns then decide (2 ^ 64 ≤ D * M) else over64 (D * M)), true⟩
  | .mulh => ⟨D * M / 2 ^ 64, some false, some false, true⟩
  | .div => ⟨(divRem D M uns).1, some false, some (divRem D M uns).2.2, true⟩
  | .rem => ⟨(divRem D M uns).2.1, some false, some (divRem D M uns).2.2, true⟩
  | .and => bits (d &&& m) none
  | .or => bits (d ||| m) none
  | .xor => bits (d ^^^ m) none
  | .shl => bits (d <<< n) (some (decide (n ≠ 0) && d.getLsbD (64 - n)))
  | .shr => bits (d >>> n) (some (decide (n ≠ 0) && d.getLsbD (n - 1)))
  | .sar => bits (d.sshiftRight n) (some (decide (n ≠ 0) && d.getLsbD (n - 1)))
  | .rol => bits (d.rotateLeft n) (some (decide (n ≠ 0) && (d.rotateLeft n).getLsbD 0))
  | .cmp => ⟨D - M, some (decide (m.toNat ≤ d.toNat)), some (over64 (d.toInt - m.toInt)), false⟩
  | .tst => ⟨signedVal uns (d &&& m), none, none, false⟩
  | .min => ⟨if M < D then M else D, none, none, true⟩
  | .max => ⟨if D < M then M else D, none, none, true⟩
  | .sel => bits ((m &&& x) ||| (d &&& ~~~x)) none

/-- The register that plays A, and the one that plays X (02 R40). -/
def Ctx.acc (k : Ctx) (ha : Bool) : Word64 := if ha then k.x else k.a
def Ctx.aux (k : Ctx) (ha : Bool) : Word64 := if ha then k.a else k.x
def Ctx.setAcc (k : Ctx) (ha : Bool) (v : Word64) : Ctx := if ha then { k with x := v } else { k with a := v }

/-- Is the type one whose operations are unsigned (R102)? -/
def unsignedTy (t : Option Ty) : Bool := t = some .ui8

/-- An integer operation on the accumulator (R106): the result narrowed, saturated when asked, written, and the
flags set. -/
def Ctx.intOp (k : Ctx) (op : IntOp) (t : Option Ty) (sat ha : Bool) (m : Word64) : Ctx :=
  let r := op.apply (unsignedTy t) k.fc (k.acc ha) m (k.aux ha)
  let clips := match t with
    | some ty => sat && (decide (r.e < ty.lo) || decide (ty.hi < r.e))
    | none => false
  let res : Word64 := match t with
    | some ty => BitVec.ofInt 64 (if clips then clampInt ty.lo ty.hi r.e else r.e)
    | none => BitVec.ofInt 64 r.e
  let f := flagsSat (flagsCV (flagsZN k.f res) r.c r.v) clips
  let k := if r.writes then k.setAcc ha res else k
  { k with f := f }

end Sys2Proof.Machine
end

