-- ==== Sys2Proof/Machine/Operands.lean ====
section
/-! DEFINITION. The operand forms: pointers and post-modes, local addresses and their checks, element types, and how a scalar instruction runs (02_instruction_words R35, R36; 05_scalar_vector R101 to R104, R128). -/

namespace Sys2Proof.Machine

/-- local(e) of 08 R169. -/
def localAddr (off : Nat) : Addr := BitVec.ofNat 48 (0xF00000000000 + off)

/-- The scratchpad offset that a local address names (08 R168); none for any other address. -/
def localOff (a : Addr) : Option Nat :=
  if field a 21 27 = 0xF00000000000 / 2 ^ 21 then some (field a 0 21) else none

/-- Why an instruction does not complete now: a trap, or a stall (01 R15). -/
inductive Stop where
  | trap (t : Trap)
  | stall
deriving DecidableEq, Repr

def stopTrap (kind detail : BitVec 8) (a : Addr) : Stop := .trap (trapOf kind detail a)

/-- Does an address name `n` bytes of the tile's own scratchpad (R101)? -/
def insideLocal (a : Addr) (n : Nat) : Option Nat :=
  match localOff a with
  | some o => if o + n ≤ 2 ^ 21 then some o else none
  | none => none

/-- The checks of R101 on one operand: ACCESS, then ALIGN. -/
def checkLocal (a : Addr) (n align : Nat) : Except Stop Nat :=
  match insideLocal a n with
  | none => .error (stopTrap kAccess 0x01 a)
  | some o => if a.toNat % align ≠ 0 then .error (stopTrap kAlign 0x01 a) else .ok o

/-- The checks of R101 on two operands: both for ACCESS, then both for ALIGN, the first operand first. -/
def checkTwo (a b : Addr) (n : Nat) : Except Stop (Nat × Nat) :=
  match insideLocal a n with
  | none => .error (stopTrap kAccess 0x01 a)
  | some oa =>
    match insideLocal b n with
    | none => .error (stopTrap kAccess 0x01 b)
    | some ob =>
      if a.toNat % n ≠ 0 then .error (stopTrap kAlign 0x01 a)
      else if b.toNat % n ≠ 0 then .error (stopTrap kAlign 0x01 b)
      else .ok (oa, ob)

/-- The body instructions of a repetition that have not finished their last pass (R128, R138). -/
def RepState.left (r : RepState) : List VEntry := if r.pass + 1 < r.passes then r.body else r.body.drop r.pos

/-- The vector instructions of a core that have been issued and have not finished (R128, R138). -/
def Core.vecLeft (c : Core) : List VEntry :=
  c.vq ++ match c.rep with
    | some r => r.left
    | none => []

/-- Is a word of `n` bytes at an offset within the span of a vector memory instruction of the core that has not
finished (R128)? -/
def Core.vecPending (c : Core) (off n : Nat) : Bool :=
  c.vecLeft.any fun e => e.mem && decide (off / 4 ≤ e.hi / 4) && decide (e.lo / 4 ≤ (off + n - 1) / 4)

/-- A read of the issuing core's scratchpad by a scalar instruction: it waits for pending vector accesses (R128),
and a poisoned byte traps (21 R420). -/
def State.readLocal (s : State) (off n : Nat) : Except Stop Nat :=
  if (s.core s.me).vecPending off n then .error .stall
  else
    match s.poisonIn (scratchKey s.myTile off) n with
    | some p => .error (stopTrap kMemory 0x03 (localAddr (off + p)))
    | none => .ok (s.rdNat (scratchKey s.myTile off) n)

/-- A store waits for pending vector accesses too (R128). -/
def State.mayWrite (s : State) (off n : Nat) : Except Stop Unit :=
  if (s.core s.me).vecPending off n then .error .stall else .ok ()

/-- The address after a post-mode (02 R35). -/
def Ptr.post (p : Ptr) (pm : PostMode) (size : Nat) : Addr :=
  match pm with
  | .none => p.addr
  | .plusStride => Addr.move p.addr (p.stride.toInt * size)
  | .minusStride => Addr.move p.addr (-(p.stride.toInt * size))
  | .plusElem => Addr.move p.addr size

def Ctx.applyPost (k : Ctx) (p : BitVec 3) (pm : PostMode) (size : Nat) : Ctx :=
  k.setAddr p.toNat ((k.ptr p.toNat).post pm size)

/-- The size of an integer operand: 8 bytes without WDX (R102). -/
def sizeOf' (t : Option Ty) : Nat :=
  match t with
  | some t => t.size
  | none => 8

/-- An integer operand extended to 64 bits (R102). -/
def extend (t : Option Ty) (x : Nat) : Word64 :=
  match t with
  | some t => BitVec.ofInt 64 (t.intOf x)
  | none => BitVec.ofNat 64 x

/-- The displacement of an AP operand, extended by IMX (02 R36, R39). -/
def dispOf (pre : Prefixes) (disp : BitVec 3) : Nat := pre.extNat 3 disp.toNat

/-- The address of an AP operand (R106). -/
def Ctx.apAddr (k : Ctx) (p disp : BitVec 3) (pre : Prefixes) (size : Nat) : Addr :=
  Addr.move (k.ptr p.toNat).addr (dispOf pre disp * size)

/-- What a scalar instruction does when it completes: the registers, the stores by scratchpad offset, the words it
touched, and the PC where it sets it. -/
structure Effect where
  k : Ctx
  writes : List (Nat × List Byte)
  words : List Nat
  pc : Option Addr
deriving DecidableEq, Repr

/-- An effect on registers alone. -/
def Effect.regs (k : Ctx) : Effect := ⟨k, [], [], none⟩

/-- Each bank that served the core points to the core after it (01 R27). -/
def Tile.touch (x : Tile) (k : Nat) (words : List Nat) : Tile :=
  { x with bankPtr := words.foldl (fun b w => Tab.set 0 b (w % 64) ((k + 1) % 8)) x.bankPtr }

/-- The words of `n` bytes at an offset. -/
def wordsOf' (off n : Nat) : List Nat := if n ≤ 4 then [off / 4] else (List.range (n / 4)).map (off / 4 + ·)

/-- The issuing core's access to `n` bytes at a scratchpad offset has been served, and the pointers of its banks move
(01 R27). -/
def State.touched (s : State) (off n : Nat) : State := s.modTile s.myTile fun x => x.touch (s.me % 8) (wordsOf' off n)

/-- An effect takes place. -/
def State.perform (s : State) (e : Effect) (pre : Prefixes) : State :=
  let npc := e.pc.getD (s.strand.next pre)
  let s := e.writes.foldl (fun s w => s.wrN (scratchKey s.myTile w.1) w.2) s
  let s := if e.words.isEmpty then s else s.modTile s.myTile fun x => x.touch (s.me % 8) e.words
  s.complete e.k npc

/-- A scalar instruction runs under its predicate: it traps, stalls, or takes effect whole (R104). -/
def runScalar (pre : Prefixes) (s : State) (f : State → Ctx → Except Stop Effect) : State :=
  guarded pre s fun s =>
    match f s s.strand with
    | .error (.trap t) => s.raise t
    | .error .stall => s.stall
    | .ok e => s.perform e pre

/-- The rounding mode of scalar floating point: RND, or F.RM (R114). -/
def rmOf (b : Nat) : RMode :=
  match b with
  | 0 => .nearest
  | 1 => .zero
  | 2 => .up
  | _ => .down

def Ctx.mode32 (k : Ctx) (r : Rnd) : RMode :=
  match r with
  | .dflt => rmOf (field k.f 10 2)
  | .nearest => .nearest
  | .zero => .zero
  | .up => .up
  | .down => .down

/-- The rounding mode of every other instruction that rounds: nearest even by default (02 R44). -/
def rndMode : Rnd → RMode
  | .dflt => .nearest
  | .nearest => .nearest
  | .zero => .zero
  | .up => .up
  | .down => .down

end Sys2Proof.Machine
end

