-- ==== Sys2Proof/Machine/Scalar.lean ====
section
/-! DEFINITION. Scalar instructions: integer, floating point, loads, stores, moves, pointers, flags, branches, calls and the hardware loop (05_scalar_vector R106 to R123). -/

namespace Sys2Proof.Machine

/-- An integer operation with a local memory operand (R106): the AP form. -/
def apInt (op : IntOp) (p : BitVec 3) (pm : PostMode) (disp : BitVec 3) (pre : Prefixes) (s : State) : State :=
  runScalar pre s fun s k =>
    let n := sizeOf' pre.ty
    let ea := k.apAddr p disp pre n
    match checkLocal ea n n with
    | .error e => .error e
    | .ok o =>
      match s.readLocal o n with
      | .error e => .error e
      | .ok x =>
        .ok { k := (k.intOp op pre.ty pre.sat pre.ha (extend pre.ty x)).applyPost p pm n, writes := [],
              words := wordsOf' o n, pc := none }

/-- The immediate of AI, sign-extended (02 R36, R39). -/
def immOf (imm : BitVec 9) (pre : Prefixes) : Word64 := BitVec.ofInt 64 (pre.extInt 9 imm.toNat)

/-- An integer operation with an immediate (R106): the AI form. -/
def aiInt (op : IntOp) (imm : BitVec 9) (pre : Prefixes) (s : State) : State :=
  runScalar pre s fun _ k => .ok (.regs (k.intOp op pre.ty pre.sat pre.ha (immOf imm pre)))

/-- An integer operation with the other register (R106): the AR form, 64-bit and signed. -/
def arInt (op : IntOp) (pre : Prefixes) (s : State) : State :=
  runScalar pre s fun _ k => .ok (.regs (k.intOp op none false pre.ha (k.aux pre.ha)))

/-- The size of a floating operand: f32 without WDX (R102). -/
def floatTy (pre : Prefixes) : Ty := pre.ty.getD .f32

/-- The f32 value of the register, and the register written with an f32 result, its upper half zero (R114). -/
def Ctx.f32 (k : Ctx) (ha : Bool) : FV := Ty.f32.value (k.acc ha).toNat
def Ctx.setF32 (k : Ctx) (ha : Bool) (r : Nat × FFlags) : Ctx :=
  { k.setAcc ha (BitVec.ofNat 64 (r.1 % 2 ^ 32)) with f := flagsFP k.f r.2 }

/-- A floating operation with a local memory operand (R115): the AP form. -/
def apFloat (op : Ctx → FV → Ctx) (p : BitVec 3) (pm : PostMode) (disp : BitVec 3) (pre : Prefixes) (s : State) :
    State :=
  runScalar pre s fun s k =>
    let t := floatTy pre
    let n := t.size
    let ea := k.apAddr p disp pre n
    match checkLocal ea n n with
    | .error e => .error e
    | .ok o =>
      match s.readLocal o n with
      | .error e => .error e
      | .ok x => .ok { k := (op k (t.value x)).applyPost p pm n, writes := [], words := wordsOf' o n, pc := none }

/-- round(a + m), round(a * m), the minimum, the maximum, and the compare (R115, R116). -/
def faddOp (pre : Prefixes) (k : Ctx) (m : FV) : Ctx :=
  let md := k.mode32 pre.rnd
  k.setF32 pre.ha (finish32 md (FV.add md (k.f32 pre.ha) m))
def fmulOp (pre : Prefixes) (k : Ctx) (m : FV) : Ctx :=
  k.setF32 pre.ha (finish32 (k.mode32 pre.rnd) (FV.mul (k.f32 pre.ha) m))
def fminOp (pre : Prefixes) (k : Ctx) (m : FV) : Ctx := k.setF32 pre.ha (finish32 .nearest (FV.min (k.f32 pre.ha) m))
def fmaxOp (pre : Prefixes) (k : Ctx) (m : FV) : Ctx := k.setF32 pre.ha (finish32 .nearest (FV.max (k.f32 pre.ha) m))
def fcmpOp (pre : Prefixes) (k : Ctx) (m : FV) : Ctx := { k with f := flagsCompare k.f (FV.compare (k.f32 pre.ha) m) }

/-- Two memory operands read under the checks of R101. -/
def readTwo (s : State) (k : Ctx) (pa pb : BitVec 3) (n : Nat) : Except Stop (Nat × Nat × Nat × Nat) :=
  match checkTwo (k.ptr pa.toNat).addr (k.ptr pb.toNat).addr n with
  | .error e => .error e
  | .ok (oa, ob) =>
    match s.readLocal oa n with
    | .error e => .error e
    | .ok a =>
      match s.readLocal ob n with
      | .error e => .error e
      | .ok b => .ok (oa, ob, a, b)

/-- Multiply-accumulate (R111), the product added or subtracted. -/
def macOp (neg : Bool) (pa : BitVec 3) (pma : PostMode) (pb : BitVec 3) (pmb : PostMode) (pre : Prefixes) (s : State) :
    State :=
  runScalar pre s fun s k =>
    let n := sizeOf' pre.ty
    match readTwo s k pa pb n with
    | .error e => .error e
    | .ok (oa, ob, a, b) =>
      let prod := (extend pre.ty a).toInt * (extend pre.ty b).toInt
      let e := (k.acc pre.ha).toInt + (if neg then -prod else prod)
      let v := over64 e
      let clips := pre.sat && v
      let d : Word64 := BitVec.ofInt 64 (if clips then clampInt (-(2 ^ 63)) (2 ^ 63 - 1) e else e)
      let k := { k.setAcc pre.ha d with f := flagsSat (setBit (flagsZN k.f d) 3 v) clips }
      .ok { k := (k.applyPost pa pma n).applyPost pb pmb n, writes := [], words := wordsOf' oa n ++ wordsOf' ob n, pc := none }

/-- The target of a BR word: base-word address + 2 + 2 off (R118). -/
def brTarget (off : BitVec 9) (pre : Prefixes) (k : Ctx) : Addr := Addr.move (k.next pre) (2 * pre.extInt 9 off.toNat)

/-- A jump under a condition on F (R118). -/
def branch (cond : Ctx → Bool) (off : BitVec 9) (pre : Prefixes) (s : State) : State :=
  runScalar pre s fun _ k => .ok { Effect.regs k with pc := if cond k then some (brTarget off pre k) else none }

/-- The return address pushed at P7, and the jump (R119). -/
def callTo (target : Addr) (pre : Prefixes) (s : State) (k : Ctx) : Except Stop Effect :=
  let ea := Addr.move (k.ptr 7).addr (-8)
  match checkLocal ea 8 8 with
  | .error e => .error e
  | .ok o =>
    match s.mayWrite o 8 with
    | .error e => .error e
    | .ok _ =>
      .ok { k := k.setAddr 7 ea, writes := [(o, natToBytes 8 (k.next pre).toNat)], words := wordsOf' o 8,
            pc := some target }

/-- The width that CLZ and POPC count over (R109). -/
def countBits (pre : Prefixes) : Nat :=
  match pre.ty with
  | some t => t.bits
  | none => 64

/-- A count over the low bits of the register that replaces it (R109). -/
def countOp (f : Nat → Nat → Nat) (pre : Prefixes) (s : State) : State :=
  runScalar pre s fun _ k =>
    let v : Word64 := BitVec.ofNat 64 (f (countBits pre) (k.acc pre.ha).toNat)
    .ok (.regs { k.setAcc pre.ha v with f := flagsZN k.f v })

/-- R107, in the AP form of R106 -/
def execAddMem (p : BitVec 3) (pm : PostMode) (disp : BitVec 3) (pre : Prefixes) (s : State) : Host.Outcome State Fault Refusal :=
  .next (apInt .add p pm disp pre s)

/-- R107, in the AP form of R106 -/
def execAdc (p : BitVec 3) (pm : PostMode) (disp : BitVec 3) (pre : Prefixes) (s : State) : Host.Outcome State Fault Refusal :=
  .next (apInt .adc p pm disp pre s)

/-- R107, in the AP form of R106 -/
def execSubMem (p : BitVec 3) (pm : PostMode) (disp : BitVec 3) (pre : Prefixes) (s : State) : Host.Outcome State Fault Refusal :=
  .next (apInt .sub p pm disp pre s)

/-- R107, in the AP form of R106 -/
def execSbc (p : BitVec 3) (pm : PostMode) (disp : BitVec 3) (pre : Prefixes) (s : State) : Host.Outcome State Fault Refusal :=
  .next (apInt .sbc p pm disp pre s)

/-- R107, in the AP form of R106 -/
def execMulMem (p : BitVec 3) (pm : PostMode) (disp : BitVec 3) (pre : Prefixes) (s : State) : Host.Outcome State Fault Refusal :=
  .next (apInt .mul p pm disp pre s)

/-- R107, in the AP form of R106 -/
def execMulh (p : BitVec 3) (pm : PostMode) (disp : BitVec 3) (pre : Prefixes) (s : State) : Host.Outcome State Fault Refusal :=
  .next (apInt .mulh p pm disp pre s)

/-- R108, in the AP form of R106 -/
def execDiv (p : BitVec 3) (pm : PostMode) (disp : BitVec 3) (pre : Prefixes) (s : State) : Host.Outcome State Fault Refusal :=
  .next (apInt .div p pm disp pre s)

/-- R108, in the AP form of R106 -/
def execRem (p : BitVec 3) (pm : PostMode) (disp : BitVec 3) (pre : Prefixes) (s : State) : Host.Outcome State Fault Refusal :=
  .next (apInt .rem p pm disp pre s)

/-- R107, in the AP form of R106 -/
def execAndMem (p : BitVec 3) (pm : PostMode) (disp : BitVec 3) (pre : Prefixes) (s : State) : Host.Outcome State Fault Refusal :=
  .next (apInt .and p pm disp pre s)

/-- R107, in the AP form of R106 -/
def execOrMem (p : BitVec 3) (pm : PostMode) (disp : BitVec 3) (pre : Prefixes) (s : State) : Host.Outcome State Fault Refusal :=
  .next (apInt .or p pm disp pre s)

/-- R107, in the AP form of R106 -/
def execXorMem (p : BitVec 3) (pm : PostMode) (disp : BitVec 3) (pre : Prefixes) (s : State) : Host.Outcome State Fault Refusal :=
  .next (apInt .xor p pm disp pre s)

/-- R107, in the AP form of R106 -/
def execShlMem (p : BitVec 3) (pm : PostMode) (disp : BitVec 3) (pre : Prefixes) (s : State) : Host.Outcome State Fault Refusal :=
  .next (apInt .shl p pm disp pre s)

/-- R107, in the AP form of R106 -/
def execShrMem (p : BitVec 3) (pm : PostMode) (disp : BitVec 3) (pre : Prefixes) (s : State) : Host.Outcome State Fault Refusal :=
  .next (apInt .shr p pm disp pre s)

/-- R107, in the AP form of R106 -/
def execSarMem (p : BitVec 3) (pm : PostMode) (disp : BitVec 3) (pre : Prefixes) (s : State) : Host.Outcome State Fault Refusal :=
  .next (apInt .sar p pm disp pre s)

/-- R107, in the AP form of R106 -/
def execRolMem (p : BitVec 3) (pm : PostMode) (disp : BitVec 3) (pre : Prefixes) (s : State) : Host.Outcome State Fault Refusal :=
  .next (apInt .rol p pm disp pre s)

/-- R107, in the AP form of R106 -/
def execCmpMem (p : BitVec 3) (pm : PostMode) (disp : BitVec 3) (pre : Prefixes) (s : State) : Host.Outcome State Fault Refusal :=
  .next (apInt .cmp p pm disp pre s)

/-- R107, in the AP form of R106 -/
def execTstMem (p : BitVec 3) (pm : PostMode) (disp : BitVec 3) (pre : Prefixes) (s : State) : Host.Outcome State Fault Refusal :=
  .next (apInt .tst p pm disp pre s)

/-- R107, in the AP form of R106 -/
def execMinMem (p : BitVec 3) (pm : PostMode) (disp : BitVec 3) (pre : Prefixes) (s : State) : Host.Outcome State Fault Refusal :=
  .next (apInt .min p pm disp pre s)

/-- R107, in the AP form of R106 -/
def execMaxMem (p : BitVec 3) (pm : PostMode) (disp : BitVec 3) (pre : Prefixes) (s : State) : Host.Outcome State Fault Refusal :=
  .next (apInt .max p pm disp pre s)

/-- R107, in the AP form of R106 -/
def execSel (p : BitVec 3) (pm : PostMode) (disp : BitVec 3) (pre : Prefixes) (s : State) : Host.Outcome State Fault Refusal :=
  .next (apInt .sel p pm disp pre s)

/-- R107, in the AI form of R106 -/
def execAddImm (imm : BitVec 9) (pre : Prefixes) (s : State) : Host.Outcome State Fault Refusal :=
  .next (aiInt .add imm pre s)

/-- R107, in the AI form of R106 -/
def execSubImm (imm : BitVec 9) (pre : Prefixes) (s : State) : Host.Outcome State Fault Refusal :=
  .next (aiInt .sub imm pre s)

/-- R107, in the AI form of R106 -/
def execMulImm (imm : BitVec 9) (pre : Prefixes) (s : State) : Host.Outcome State Fault Refusal :=
  .next (aiInt .mul imm pre s)

/-- R107, in the AI form of R106 -/
def execAndImm (imm : BitVec 9) (pre : Prefixes) (s : State) : Host.Outcome State Fault Refusal :=
  .next (aiInt .and imm pre s)

/-- R107, in the AI form of R106 -/
def execOrImm (imm : BitVec 9) (pre : Prefixes) (s : State) : Host.Outcome State Fault Refusal :=
  .next (aiInt .or imm pre s)

/-- R107, in the AI form of R106 -/
def execXorImm (imm : BitVec 9) (pre : Prefixes) (s : State) : Host.Outcome State Fault Refusal :=
  .next (aiInt .xor imm pre s)

/-- R107, in the AI form of R106 -/
def execShlImm (imm : BitVec 9) (pre : Prefixes) (s : State) : Host.Outcome State Fault Refusal :=
  .next (aiInt .shl imm pre s)

/-- R107, in the AI form of R106 -/
def execShrImm (imm : BitVec 9) (pre : Prefixes) (s : State) : Host.Outcome State Fault Refusal :=
  .next (aiInt .shr imm pre s)

/-- R107, in the AI form of R106 -/
def execSarImm (imm : BitVec 9) (pre : Prefixes) (s : State) : Host.Outcome State Fault Refusal :=
  .next (aiInt .sar imm pre s)

/-- R107, in the AI form of R106 -/
def execRolImm (imm : BitVec 9) (pre : Prefixes) (s : State) : Host.Outcome State Fault Refusal :=
  .next (aiInt .rol imm pre s)

/-- R107, in the AI form of R106 -/
def execCmpImm (imm : BitVec 9) (pre : Prefixes) (s : State) : Host.Outcome State Fault Refusal :=
  .next (aiInt .cmp imm pre s)

/-- R107, in the AI form of R106 -/
def execTstImm (imm : BitVec 9) (pre : Prefixes) (s : State) : Host.Outcome State Fault Refusal :=
  .next (aiInt .tst imm pre s)

/-- R107, in the AI form of R106 -/
def execMinImm (imm : BitVec 9) (pre : Prefixes) (s : State) : Host.Outcome State Fault Refusal :=
  .next (aiInt .min imm pre s)

/-- R107, in the AI form of R106 -/
def execMaxImm (imm : BitVec 9) (pre : Prefixes) (s : State) : Host.Outcome State Fault Refusal :=
  .next (aiInt .max imm pre s)

/-- R107, in the AR form of R106 -/
def execAddX (pre : Prefixes) (s : State) : Host.Outcome State Fault Refusal :=
  .next (arInt .add pre s)

/-- R107, in the AR form of R106 -/
def execSubX (pre : Prefixes) (s : State) : Host.Outcome State Fault Refusal :=
  .next (arInt .sub pre s)

/-- R107, in the AR form of R106 -/
def execAndX (pre : Prefixes) (s : State) : Host.Outcome State Fault Refusal :=
  .next (arInt .and pre s)

/-- R107, in the AR form of R106 -/
def execOrX (pre : Prefixes) (s : State) : Host.Outcome State Fault Refusal :=
  .next (arInt .or pre s)

/-- R107, in the AR form of R106 -/
def execXorX (pre : Prefixes) (s : State) : Host.Outcome State Fault Refusal :=
  .next (arInt .xor pre s)

/-- R107, in the AR form of R106 -/
def execMulX (pre : Prefixes) (s : State) : Host.Outcome State Fault Refusal :=
  .next (arInt .mul pre s)

/-- R107, in the AR form of R106 -/
def execCmpX (pre : Prefixes) (s : State) : Host.Outcome State Fault Refusal :=
  .next (arInt .cmp pre s)

/-- R110: d := ext(mem, t) -/
def execLda (p : BitVec 3) (pm : PostMode) (disp : BitVec 3) (pre : Prefixes) (s : State) : Host.Outcome State Fault Refusal :=
  .next (runScalar pre s fun s k =>
    let n := sizeOf' pre.ty
    let ea := k.apAddr p disp pre n
    match checkLocal ea n n with
    | .error e => .error e
    | .ok o =>
      match s.readLocal o n with
      | .error e => .error e
      | .ok x =>
        .ok { k := (k.setAcc pre.ha (extend pre.ty x)).applyPost p pm n, writes := [], words := wordsOf' o n, pc := none })

/-- The bytes that a store writes, and whether the clamp changed the value: the register is read as a signed 64-bit
integer (R110; 08 R179). -/
def storeBytes (pre : Prefixes) (d : Word64) : List Byte × Bool :=
  match pre.ty with
  | some t =>
    if pre.sat then
      let r := t.narrowInt true d.toInt
      (natToBytes t.size r.1, r.2)
    else (natToBytes t.size d.toNat, false)
  | none => (natToBytes 8 d.toNat, false)

/-- R110: mem := the low bytes of d, clamped when SAT is set -/
def execSta (p : BitVec 3) (pm : PostMode) (disp : BitVec 3) (pre : Prefixes) (s : State) : Host.Outcome State Fault Refusal :=
  .next (runScalar pre s fun s k =>
    let n := sizeOf' pre.ty
    let ea := k.apAddr p disp pre n
    match checkLocal ea n n with
    | .error e => .error e
    | .ok o =>
      match s.mayWrite o n with
      | .error e => .error e
      | .ok _ =>
        let b := storeBytes pre (k.acc pre.ha)
        .ok { k := ({ k with f := flagsSat k.f b.2 }).applyPost p pm n, writes := [(o, b.1)], words := wordsOf' o n,
              pc := none })

/-- R115, with a memory operand -/
def execFaddMem (p : BitVec 3) (pm : PostMode) (disp : BitVec 3) (pre : Prefixes) (s : State) : Host.Outcome State Fault Refusal :=
  .next (apFloat (faddOp pre) p pm disp pre s)

/-- R115, with a memory operand -/
def execFmulMem (p : BitVec 3) (pm : PostMode) (disp : BitVec 3) (pre : Prefixes) (s : State) : Host.Outcome State Fault Refusal :=
  .next (apFloat (fmulOp pre) p pm disp pre s)

/-- R115, with a memory operand -/
def execFmin (p : BitVec 3) (pm : PostMode) (disp : BitVec 3) (pre : Prefixes) (s : State) : Host.Outcome State Fault Refusal :=
  .next (apFloat (fminOp pre) p pm disp pre s)

/-- R115, with a memory operand -/
def execFmax (p : BitVec 3) (pm : PostMode) (disp : BitVec 3) (pre : Prefixes) (s : State) : Host.Outcome State Fault Refusal :=
  .next (apFloat (fmaxOp pre) p pm disp pre s)

/-- R116 -/
def execFcmp (p : BitVec 3) (pm : PostMode) (disp : BitVec 3) (pre : Prefixes) (s : State) : Host.Outcome State Fault Refusal :=
  .next (apFloat (fcmpOp pre) p pm disp pre s)

/-- R111 -/
def execMac (pa : BitVec 3) (pma : PostMode) (pb : BitVec 3) (pmb : PostMode) (pre : Prefixes) (s : State) : Host.Outcome State Fault Refusal :=
  .next (macOp false pa pma pb pmb pre s)

/-- R111 -/
def execMsb (pa : BitVec 3) (pma : PostMode) (pb : BitVec 3) (pmb : PostMode) (pre : Prefixes) (s : State) : Host.Outcome State Fault Refusal :=
  .next (macOp true pa pma pb pmb pre s)

/-- R115: round(a + ma * mb), one rounding -/
def execFfma (pa : BitVec 3) (pma : PostMode) (pb : BitVec 3) (pmb : PostMode) (pre : Prefixes) (s : State) : Host.Outcome State Fault Refusal :=
  .next (runScalar pre s fun s k =>
    let t := floatTy pre
    let n := t.size
    match readTwo s k pa pb n with
    | .error e => .error e
    | .ok (oa, ob, a, b) =>
      let md := k.mode32 pre.rnd
      let k' := k.setF32 pre.ha (finish32 md (FV.fma md (t.value a) (t.value b) (k.f32 pre.ha)))
      .ok { k := (k'.applyPost pa pma n).applyPost pb pmb n, writes := [], words := wordsOf' oa n ++ wordsOf' ob n,
            pc := none })

/-- R110: mem at pb := mem at pa, the source read first -/
def execMovm (pa : BitVec 3) (pma : PostMode) (pb : BitVec 3) (pmb : PostMode) (pre : Prefixes) (s : State) : Host.Outcome State Fault Refusal :=
  .next (runScalar pre s fun s k =>
    let n := sizeOf' pre.ty
    match checkTwo (k.ptr pa.toNat).addr (k.ptr pb.toNat).addr n with
    | .error e => .error e
    | .ok (oa, ob) =>
      match s.readLocal oa n with
      | .error e => .error e
      | .ok x =>
        match s.mayWrite ob n with
        | .error e => .error e
        | .ok _ =>
          .ok { k := (k.applyPost pa pma n).applyPost pb pmb n, writes := [(ob, natToBytes n x)],
                words := wordsOf' oa n ++ wordsOf' ob n, pc := none })

/-- R110: d := sext(immediate, 64) -/
def execLdi (imm : BitVec 9) (pre : Prefixes) (s : State) : Host.Outcome State Fault Refusal :=
  .next (runScalar pre s fun _ k => .ok (.regs (k.setAcc pre.ha (immOf imm pre))))

/-- R113: exchanges A and X -/
def execXcha (pre : Prefixes) (s : State) : Host.Outcome State Fault Refusal :=
  .next (runScalar pre s fun _ k => .ok (.regs { k with a := k.x, x := k.a }))

/-- R109 -/
def execClz (pre : Prefixes) (s : State) : Host.Outcome State Fault Refusal :=
  .next (countOp leadingZeros pre s)

/-- R109 -/
def execPopc (pre : Prefixes) (s : State) : Host.Outcome State Fault Refusal :=
  .next (countOp popCount pre s)

/-- R115, with the other register's f32 value -/
def execFaddX (pre : Prefixes) (s : State) : Host.Outcome State Fault Refusal :=
  .next (runScalar pre s fun _ k => .ok (.regs (faddOp pre k (Ty.f32.value (k.aux pre.ha).toNat))))

/-- R115, with the other register's f32 value -/
def execFmulX (pre : Prefixes) (s : State) : Host.Outcome State Fault Refusal :=
  .next (runScalar pre s fun _ k => .ok (.regs (fmulOp pre k (Ty.f32.value (k.aux pre.ha).toNat))))

/-- R115: round(1 / a) -/
def execFrcp (pre : Prefixes) (s : State) : Host.Outcome State Fault Refusal :=
  .next (runScalar pre s fun _ k =>
    let x := k.f32 pre.ha
    .ok (.regs (k.setF32 pre.ha (finish32 (k.mode32 pre.rnd) (FV.recip x, sigFlags [x])))))

/-- FCVT in its four directions (R117): the new register and the flags. -/
def convert (dir : CvtDir) (t : Ty) (md : RMode) (sat : Bool) (d : Word64) : Word64 × FFlags :=
  match dir with
  | .itof =>
    let r := (FV.ofInt d.toInt).round t md sat
    (BitVec.ofNat 64 r.1, r.2)
  | .ftoi =>
    let r := (t.value d.toNat).toInt 64 (-(2 ^ 63)) (2 ^ 63 - 1) md sat
    (BitVec.ofNat 64 r.1, r.2)
  | .narrow =>
    let r := (Ty.f32.value d.toNat).round t md sat
    (BitVec.ofNat 64 r.1, r.2)
  | .widen =>
    let r := (t.value d.toNat).round .f32 .nearest false
    (BitVec.ofNat 64 r.1, r.2)

/-- R117 -/
def execFcvt (dir : CvtDir) (pre : Prefixes) (s : State) : Host.Outcome State Fault Refusal :=
  .next (runScalar pre s fun _ k =>
    let r := convert dir (floatTy pre) (k.mode32 pre.rnd) pre.sat (k.acc pre.ha)
    .ok (.regs { k.setAcc pre.ha r.1 with f := flagsFP k.f r.2 }))

/-- R112: a pointer copied from a pointer, or from the register -/
def execMovp (pd ps : BitVec 3) (acc : Bool) (pre : Prefixes) (s : State) : Host.Outcome State Fault Refusal :=
  .next (runScalar pre s fun _ k =>
    let d := k.acc pre.ha
    .ok (.regs (k.setPtr pd.toNat (if acc then ⟨d.extractLsb' 48 16, d.extractLsb' 0 48⟩ else k.ptr ps.toNat))))

/-- R112: the address moved by signed bytes -/
def execAddp (pd : BitVec 3) (pre : Prefixes) (s : State) : Host.Outcome State Fault Refusal :=
  .next (runScalar pre s fun _ k => .ok (.regs (k.setAddr pd.toNat (Addr.move (k.ptr pd.toNat).addr (k.acc pre.ha).toInt))))

/-- R112: the stride set from the immediate -/
def execSets (pd : BitVec 3) (imm : BitVec 5) (pre : Prefixes) (s : State) : Host.Outcome State Fault Refusal :=
  .next (runScalar pre s fun _ k =>
    .ok (.regs (k.setPtr pd.toNat { k.ptr pd.toNat with stride := BitVec.ofInt 16 (pre.extInt 5 imm.toNat) })))

/-- R112: both fields of a pointer read -/
def execGetp (p : BitVec 3) (pre : Prefixes) (s : State) : Host.Outcome State Fault Refusal :=
  .next (runScalar pre s fun _ k => .ok (.regs (k.setAcc pre.ha ((k.ptr p.toNat).stride ++ (k.ptr p.toNat).addr))))

/-- R119: the return address popped from the stack at P7 -/
def execRet (pre : Prefixes) (s : State) : Host.Outcome State Fault Refusal :=
  .next (runScalar pre s fun s k =>
    let ea := (k.ptr 7).addr
    match checkLocal ea 8 8 with
    | .error e => .error e
    | .ok o =>
      match s.readLocal o 8 with
      | .error e => .error e
      | .ok v =>
        if v % 2 = 1 then .error (stopTrap kAlign 0x02 (BitVec.ofNat 48 v))
        else .ok { k := k.setAddr 7 (Addr.move ea 8), writes := [], words := wordsOf' o 8, pc := some (BitVec.ofNat 48 v) })

/-- R113: F := d[15:0], the reserved bits ignored -/
def execMovf (pre : Prefixes) (s : State) : Host.Outcome State Fault Refusal :=
  .next (runScalar pre s fun _ k => .ok (.regs { k with f := (k.acc pre.ha).extractLsb' 0 16 &&& flagBits }))

/-- R113: d := zext(F, 64) -/
def execGetf (pre : Prefixes) (s : State) : Host.Outcome State Fault Refusal :=
  .next (runScalar pre s fun _ k => .ok (.regs (k.setAcc pre.ha (k.f.setWidth 64))))

/-- R113 -/
def execNop (pre : Prefixes) (s : State) : Host.Outcome State Fault Refusal :=
  .next (runScalar pre s fun _ k => .ok (.regs k))

/-- R118 -/
def execJmp (off : BitVec 9) (pre : Prefixes) (s : State) : Host.Outcome State Fault Refusal :=
  .next (branch (fun _ => true) off pre s)

/-- R118, under R42 -/
def execBrZ (off : BitVec 9) (pre : Prefixes) (s : State) : Host.Outcome State Fault Refusal :=
  .next (branch (fun k => k.fz) off pre s)

/-- R118, under R42 -/
def execBrNz (off : BitVec 9) (pre : Prefixes) (s : State) : Host.Outcome State Fault Refusal :=
  .next (branch (fun k => !k.fz) off pre s)

/-- R118, under R42 -/
def execBrN (off : BitVec 9) (pre : Prefixes) (s : State) : Host.Outcome State Fault Refusal :=
  .next (branch (fun k => k.fn) off pre s)

/-- R118, under R42 -/
def execBrNn (off : BitVec 9) (pre : Prefixes) (s : State) : Host.Outcome State Fault Refusal :=
  .next (branch (fun k => !k.fn) off pre s)

/-- R118, under R42 -/
def execBrC (off : BitVec 9) (pre : Prefixes) (s : State) : Host.Outcome State Fault Refusal :=
  .next (branch (fun k => k.fc) off pre s)

/-- R118, under R42 -/
def execBrNc (off : BitVec 9) (pre : Prefixes) (s : State) : Host.Outcome State Fault Refusal :=
  .next (branch (fun k => !k.fc) off pre s)

/-- R118, under R42 -/
def execBrV (off : BitVec 9) (pre : Prefixes) (s : State) : Host.Outcome State Fault Refusal :=
  .next (branch (fun k => k.fv) off pre s)

/-- R118, under R42 -/
def execBrNv (off : BitVec 9) (pre : Prefixes) (s : State) : Host.Outcome State Fault Refusal :=
  .next (branch (fun k => !k.fv) off pre s)

/-- R118, under R42 -/
def execBrGt (off : BitVec 9) (pre : Prefixes) (s : State) : Host.Outcome State Fault Refusal :=
  .next (branch (fun k => !k.fz && (k.fn == k.fv)) off pre s)

/-- R118, under R42 -/
def execBrGe (off : BitVec 9) (pre : Prefixes) (s : State) : Host.Outcome State Fault Refusal :=
  .next (branch (fun k => k.fn == k.fv) off pre s)

/-- R118, under R42 -/
def execBrLt (off : BitVec 9) (pre : Prefixes) (s : State) : Host.Outcome State Fault Refusal :=
  .next (branch (fun k => k.fn != k.fv) off pre s)

/-- R118, under R42 -/
def execBrLe (off : BitVec 9) (pre : Prefixes) (s : State) : Host.Outcome State Fault Refusal :=
  .next (branch (fun k => k.fz || (k.fn != k.fv)) off pre s)

/-- R119 -/
def execCall (off : BitVec 9) (pre : Prefixes) (s : State) : Host.Outcome State Fault Refusal :=
  .next (runScalar pre s fun s k => callTo (brTarget off pre k) pre s k)

/-- R122 -/
def execLoop (off : BitVec 9) (pre : Prefixes) (s : State) : Host.Outcome State Fault Refusal :=
  .next (runScalar pre s fun _ k =>
    let n : Word32 := k.x.setWidth 32
    if k.loop.lact then .error (stopTrap kLoop 0x01 0)
    else if n = 0 then .ok { Effect.regs k with pc := some (brTarget off pre k) }
    else .ok (.regs { k with loop := ⟨true, n, k.next pre, brTarget off pre k⟩ }))

/-- R120: jumps to A[47:0] -/
def execJmpA (pre : Prefixes) (s : State) : Host.Outcome State Fault Refusal :=
  .next (runScalar pre s fun _ k =>
    let a : Addr := k.a.setWidth 48
    if a.getLsbD 0 then .error (stopTrap kAlign 0x02 a) else .ok { Effect.regs k with pc := some a })

/-- R120: calls A[47:0]. DESIGN CHOICE (log 75): an odd address is refused before the stack slot is checked -/
def execCallA (pre : Prefixes) (s : State) : Host.Outcome State Fault Refusal :=
  .next (runScalar pre s fun s k =>
    let a : Addr := k.a.setWidth 48
    if a.getLsbD 0 then .error (stopTrap kAlign 0x02 a) else callTo a pre s k)

/-- An illegal-instruction trap (02 R61). It is precise: the record's PC is the instruction's address. -/
def execIllegalInstruction (detail : BitVec 8) (s : State) : Host.Outcome State Fault Refusal :=
  .next (s.raise (trapOf kIllegal detail 0))

end Sys2Proof.Machine
end

