-- ==== Sys2Proof/Machine/Vector.lean ====
section
/-! DEFINITION. Vector instructions: what they check and queue at issue, and what they do when they are bound to a lane group (05_scalar_vector R124 to R138; 01_tile_in_a_cycle R21 to R23). -/

namespace Sys2Proof.Machine

/-- A vector register number from its base field and its RGX bit (02 R52). -/
def vreg (b : BitVec 4) (hi : Bool) : Nat := b.toNat + 16 * hi.toNat

/-- The registers of layout B: destination and two sources (02 R52). -/
def binaryRegs (vd vs : BitVec 4) (pre : Prefixes) : Nat × Nat × Nat :=
  match pre.rgx with
  | none => (vd.toNat, vd.toNat, vs.toNat)
  | some r => (vreg vd r.ha, vreg vs r.hb, r.vt.toNat)

/-- The registers of layouts U, F and T: destination, vs, vt. -/
def ternaryRegs (vd vs : BitVec 4) (pre : Prefixes) : Nat × Nat × Nat :=
  (vreg vd pre.ha, vreg vs pre.hb, pre.vt.toNat)

/-- An f32 result of exact parts, as a pattern (R125: no report). -/
def roundLane (md : RMode) (v : FV) : Nat := (v.round .f32 md false).1

def f32 (x : Nat) : FV := Ty.f32.value x
def i32 (x : Nat) : Int := signedOf 32 x

/-- An i32 result wrapped, or clamped with SAT (R129). -/
def intLane (sat : Bool) (x : Int) : Nat := (Ty.i32.narrowInt sat x).1

/-- Is the lane type f32? -/
def isF32 (pre : Prefixes) : Bool := pre.ty = some .f32

/-- Lane functions (R129, R130): an integer or an f32 operation on two lanes. -/
def arithLane (fi : Int → Int → Int) (ff : RMode → FV → FV → FV) (pre : Prefixes) (x y : Nat) : Nat :=
  if isF32 pre then roundLane (rndMode pre.rnd) (ff (rndMode pre.rnd) (f32 x) (f32 y)) else intLane pre.sat (fi (i32 x) (i32 y))

/-- A comparison of two lanes (R130). -/
def cmpLane (fi : Int → Int → Bool) (ff : Option Int → Bool) (pre : Prefixes) (x y : Nat) : Nat :=
  (if isF32 pre then ff (FV.compare (f32 x) (f32 y)) else fi (i32 x) (i32 y)).toNat

/-- VCVT by function code (R132). -/
def cvtLane (pre : Prefixes) (x : Nat) : Nat :=
  let t := pre.ty.getD .f32
  match pre.vt.toNat with
  | 0 => roundLane .nearest (t.value x)
  | 1 => ((f32 x).round t (rndMode pre.rnd) pre.sat).1
  | 2 => if t = .f32 then ((f32 x).toInt 32 (-(2 ^ 31)) (2 ^ 31 - 1) (rndMode pre.rnd) pre.sat).1 else wrapNat 32 (t.intOf x)
  | _ => if t = .f32 then roundLane (rndMode pre.rnd) (FV.ofInt (i32 x)) else (t.narrowInt pre.sat (i32 x)).1

/-- An element-wise instruction: its registers and the new lane from the old lane of vd and two source lanes. -/
structure Lanewise where
  vd : Nat
  x : Nat
  y : Nat
  f : Nat → Nat → Nat → Nat

def lanes (r : Nat × Nat × Nat) (f : Nat → Nat → Nat → Nat) : Option Lanewise := some ⟨r.1, r.2.1, r.2.2, f⟩

/-- The element-wise instructions (R129 to R132, R134). -/
def lanewise : Instr → Option Lanewise
  | .vmov vd vs pre => lanes (ternaryRegs vd vs pre) fun _ x _ => x
  | .vadd vd vs pre => lanes (binaryRegs vd vs pre) fun _ => arithLane (· + ·) (fun md a b => (FV.add md a b).1) pre
  | .vsub vd vs pre =>
    lanes (binaryRegs vd vs pre) fun _ => arithLane (· - ·) (fun md a b => (FV.add md a b.negate).1) pre
  | .vmul vd vs pre => lanes (binaryRegs vd vs pre) fun _ => arithLane (· * ·) (fun _ a b => (FV.mul a b).1) pre
  | .vfma vd vs pre => lanes (ternaryRegs vd vs pre) fun d x y =>
      roundLane (rndMode pre.rnd) (FV.fma (rndMode pre.rnd) (f32 x) (f32 y) (f32 d)).1
  | .vmin vd vs pre =>
    lanes (binaryRegs vd vs pre) fun _ => arithLane min (fun _ a b => (FV.min a b).1) pre
  | .vmax vd vs pre =>
    lanes (binaryRegs vd vs pre) fun _ => arithLane max (fun _ a b => (FV.max a b).1) pre
  | .vabs vd vs pre => lanes (ternaryRegs vd vs pre) fun _ x _ =>
      if isF32 pre then x % 2 ^ 31 else intLane pre.sat (i32 x).natAbs
  | .vneg vd vs pre => lanes (ternaryRegs vd vs pre) fun _ x _ =>
      if isF32 pre then x ^^^ 2 ^ 31 else intLane pre.sat (-(i32 x))
  | .vand vd vs pre => lanes (binaryRegs vd vs pre) fun _ x y => x &&& y
  | .vor vd vs pre => lanes (binaryRegs vd vs pre) fun _ x y => x ||| y
  | .vxor vd vs pre => lanes (binaryRegs vd vs pre) fun _ x y => x ^^^ y
  | .vshl vd vs pre => lanes (binaryRegs vd vs pre) fun _ x y => x * 2 ^ (y % 32) % 2 ^ 32
  | .vshr vd vs pre => lanes (binaryRegs vd vs pre) fun _ x y =>
      if pre.ty = some .i32 then wrapNat 32 (i32 x / 2 ^ (y % 32)) else x / 2 ^ (y % 32)
  | .vcmpEq vd vs pre => lanes (binaryRegs vd vs pre) fun _ =>
      cmpLane (fun a b => decide (a = b)) (fun c => decide (c = some 0)) pre
  | .vcmpLt vd vs pre => lanes (binaryRegs vd vs pre) fun _ =>
      cmpLane (fun a b => decide (a < b)) (fun c => decide (c = some (-1))) pre
  | .vcmpLe vd vs pre => lanes (binaryRegs vd vs pre) fun _ =>
      cmpLane (fun a b => decide (a ≤ b)) (fun c => decide (c = some (-1)) || decide (c = some 0)) pre
  | .vsel vd vs pre => lanes (ternaryRegs vd vs pre) fun d x y => if d % 2 = 1 then x else y
  | .vcvt vd vs pre => lanes (ternaryRegs vd vs pre) fun _ x _ => cvtLane pre x
  | .vexp2 vd vs pre => lanes (ternaryRegs vd vs pre) fun _ x _ => roundLane (rndMode pre.rnd) (f32 x).exp2
  | .vlog2 vd vs pre => lanes (ternaryRegs vd vs pre) fun _ x _ => roundLane (rndMode pre.rnd) (f32 x).log2
  | .vrcp vd vs pre => lanes (ternaryRegs vd vs pre) fun _ x _ => roundLane (rndMode pre.rnd) (f32 x).recip
  | .vrsq vd vs pre => lanes (ternaryRegs vd vs pre) fun _ x _ => roundLane (rndMode pre.rnd) (f32 x).rsqrt
  | .vclamp vd vs pre => lanes (ternaryRegs vd vs pre) fun d x y =>
      if isF32 pre then roundLane .nearest (FV.min (FV.max (f32 d) (f32 x)).1 (f32 y)).1
      else intLane false (min (max (i32 d) (i32 x)) (i32 y))
  | _ => none

/-- A function of VRED and VSCAN on two values, rounded (04 R99). -/
def combine (fn : Nat) (pre : Prefixes) (x y : Nat) : Nat :=
  match fn with
  | 0 => arithLane (· + ·) (fun md a b => (FV.add md a b).1) pre x y
  | 1 => arithLane min (fun _ a b => (FV.min a b).1) pre x y
  | 2 => arithLane max (fun _ a b => (FV.max a b).1) pre x y
  | 3 => x &&& y
  | 4 => x ||| y
  | _ => x ^^^ y

/-- The identity that an inactive lane contributes (04 R99). -/
def identityOf (fn : Nat) (float : Bool) : Nat :=
  match fn, float with
  | 0, true => 0x80000000
  | 1, true => 0x7F800000
  | 2, true => 0xFF800000
  | 1, false => 0x7FFFFFFF
  | 2, false => 0x80000000
  | 3, _ => 0xFFFFFFFF
  | _, _ => 0

/-- One level of the pairwise tree. -/
def pairUp (f : Nat → Nat → Nat) : List Nat → List Nat
  | a :: b :: l => f a b :: pairUp f l
  | l => l

/-- The tree over 64 values: six levels (04 R99). -/
def tree (f : Nat → Nat → Nat) (l : List Nat) : Nat :=
  ((List.range 6).foldl (fun l _ => pairUp f l) l).headD 0

/-- The inclusive prefixes of a list, the first kept as it is (04 R99). -/
def scanFrom (f : Nat → Nat → Nat) (acc : Nat) : List Nat → List Nat
  | [] => []
  | x :: l => f acc x :: scanFrom f (f acc x) l
def scan (f : Nat → Nat → Nat) : List Nat → List Nat
  | [] => []
  | x :: l => x :: scanFrom f x l

/-- The post-mode of a vector memory form: bit 1 is HB (02 R52). -/
def vecPost (m : Bool) (pre : Prefixes) : PostMode :=
  match pre.hb, m with
  | false, false => .none
  | false, true => .plusStride
  | true, false => .minusStride
  | true, true => .plusElem

/-- The element type of a vector memory form. -/
def vecTy (pre : Prefixes) : Ty := pre.ty.getD .i32

def isNibble (t : Ty) : Bool := t = .i4 || t = .ui4

/-- The address of a lane's element, and of the byte that holds its nibble for the 4-bit types (R126, R127). -/
def laneAddr (t : Ty) (a : Addr) (stride : Int) (i : Nat) : Addr :=
  if isNibble t then Addr.move a (i / 2) else Addr.move a (i * stride * t.size)

/-- Lane `i` of a register of a core. -/
def Core.lane (c : Core) (v i : Nat) : Nat := (Tab.get (0 : Word32) c.vregs (64 * v + i)).toNat
def Core.setLane (c : Core) (v i x : Nat) : Core := { c with vregs := Tab.set 0 c.vregs (64 * v + i) (BitVec.ofNat 32 x) }

/-- Is a lane active under the mask that PRED names (02 R40, R41)? -/
def Core.active (c : Core) (pre : Prefixes) (i : Nat) : Bool :=
  decide (pre.pred = 0) || decide (c.lane (24 + pre.pred.toNat) i % 2 = 1)

/-- Every active lane of `vd` gets a new value; the sources are read before any lane is written (R131). -/
def Core.writeLanes (c : Core) (pre : Prefixes) (vd : Nat) (f : Nat → Nat) : Core :=
  ((List.range 64).filter (c.active pre)).foldl (fun d i => d.setLane vd i (f i)) c

/-- What a lane receives from an element (R126). -/
def loadLane (t : Ty) (x : Nat) : Nat := if t.isFloat then x % 2 ^ t.bits else wrapNat 32 (t.intOf x)

/-- What an element receives from a lane: its low bits, clamped as i32 with SAT and an integer type (R126). -/
def storeLane (t : Ty) (sat : Bool) (x : Nat) : Nat :=
  if sat && !t.isFloat then (t.narrowInt true (i32 x)).1 else x % 2 ^ t.bits

/-- One lane of a vector load: the value, or all ones from a poisoned word (R126; 21 R420). -/
def State.loadElem (s : State) (tile : Nat) (t : Ty) (a : Addr) (stride : Int) (i : Nat) : Nat × Option Addr :=
  let ea := laneAddr t a stride i
  let key := scratchKey tile ((localOff ea).getD 0)
  match s.poisonIn key t.size with
  | some p => (0xFFFFFFFF, some (ea + BitVec.ofNat 48 p))
  | none =>
    let x := s.rdNat key t.size
    (loadLane t (if isNibble t then x / 16 ^ (i % 2) else x), none)

/-- A load into the lanes of a register. The first poisoned element is reported to the task (21 R420). -/
def State.vecLoad (s : State) (g : Nat) (e : VEntry) (pre : Prefixes) (vd : Nat) (a : Addr) (stride : Int) : State :=
  let t := vecTy pre
  let c := s.core g
  let act := (List.range 64).filter (c.active pre)
  let vals := act.map fun i => (i, s.loadElem (g / 8) t a stride i)
  let s' := s.setCore g (vals.foldl (fun d v => d.setLane vd v.1 v.2.1) c)
  match vals.findSome? fun v => v.2.2 with
  | some ea => s'.fault { s.issuerOf g e.ctx with opc := ((encodeBase e.instr).map Prod.snd).getD 0 }
      (endedInfo stPoisoned ea.toNat 0)
  | none => s'

/-- A store from the lanes of a register. The lanes of a beat that fall into one word write it at once, so that a word
which they store whole loses its poison (01 R28; 21 R420). -/
def State.vecStore (s : State) (g : Nat) (pre : Prefixes) (vd : Nat) (a : Addr) : State :=
  let t := vecTy pre
  let c := s.core g
  let act := (List.range 64).filter (c.active pre)
  let key (i : Nat) : Nat := scratchKey (g / 8) ((localOff (laneAddr t a 1 i)).getD 0)
  let s := act.foldl (fun s i =>
    let v := storeLane t pre.sat (c.lane vd i)
    if isNibble t then
      let old := s.rdNat (key i) 1
      s.wrNat (key i) 1 (putBits (4 * (i % 2)) 4 v old)
    else s.wrNat (key i) t.size v) s
  if s.poison.isEmpty then s
  else (List.range 4).foldl (fun s b =>
    let beat := (List.range 16).map (16 * b + ·)
    let bytes := (beat.filter fun i => c.active pre i && (!isNibble t || (decide (i % 2 = 0) && c.active pre (i + 1)))).flatMap
      fun i => (List.range t.size).map (key i + ·)
    (bytes.filter fun k => decide (k % 4 = 0) && [k + 1, k + 2, k + 3].all (bytes.contains ·)).foldl
      (fun s k => s.wrN k (s.rdN k 4)) s) s

/-- The instruction of a queue entry with the vector registers of its fields moved by `d` (01 R23; 05 R137). -/
def staggered (n d : Nat) : Nat := (n + d) % 32

/-- Does an element-wise instruction read one source register alone, its VT naming none (R129, R131, R132, R134)? -/
def oneSource : Instr → Bool
  | .vmov _ _ _ | .vabs _ _ _ | .vneg _ _ _ | .vcvt _ _ _ | .vexp2 _ _ _ | .vlog2 _ _ _ | .vrcp _ _ _ | .vrsq _ _ _ => true
  | _ => false

/-- The destination and the source registers that an instruction names, for the issue test of 01 R21. -/
def vecRegs : Instr → List Nat × List Nat
  | .vld vd _ _ pre => ([vreg vd pre.ha], [])
  | .vldt vd _ _ pre => ([vreg vd pre.ha], [])
  | .vst vd _ _ pre => ([], [vreg vd pre.ha])
  | .vbcast vd pre => ([vreg vd pre.ha], [])
  | .vred vd vs pre => ([vreg vd pre.ha], [vreg vs pre.hb])
  | .vscan vd vs pre => ([vreg vd pre.ha], [vreg vs pre.hb])
  | .vperm vd vs pre =>
    let r := binaryRegs vd vs pre
    ([r.1], [r.2.1, r.2.2])
  | i =>
    match lanewise i with
    | some l => ([l.vd], if oneSource i then [l.x] else [l.x, l.y])
    | none => ([], [])

/-- The cycles from binding to readable results (R135). -/
def vecLatency : Instr → Nat
  | .vperm _ _ _ | .vred _ _ _ | .vscan _ _ _ => 6
  | .vexp2 _ _ _ | .vlog2 _ _ _ | .vrcp _ _ _ | .vrsq _ _ _ => 8
  | _ => 4

/-- A bound instruction does its work (R125), in pass `pass` with its registers moved by `d`. -/
def State.vecRun (s : State) (g : Nat) (e : VEntry) (pass d : Nat) : State :=
  let c := s.core g
  let a := Addr.move e.addr (pass * e.step)
  match e.instr with
  | .vld vd _ _ pre => s.vecLoad g e pre (staggered (vreg vd pre.ha) d) a 1
  | .vldt vd _ _ pre => s.vecLoad g e pre (staggered (vreg vd pre.ha) d) a e.stride
  | .vst vd _ _ pre => s.vecStore g pre (staggered (vreg vd pre.ha) d) a
  | .vbcast vd pre => s.setCore g (c.writeLanes pre (staggered (vreg vd pre.ha) d) fun _ => e.bcast.toNat)
  | .vperm vd vs pre =>
    let r := binaryRegs vd vs pre
    s.setCore g (c.writeLanes pre (staggered r.1 d) fun i =>
      c.lane (staggered r.2.1 d) (c.lane (staggered r.2.2 d) i % 64))
  | .vred vd vs pre =>
    let fn := pre.vt.toNat
    let xs := (List.range 64).map fun i =>
      if c.active pre i then c.lane (staggered (vreg vs pre.hb) d) i else identityOf fn (isF32 pre)
    s.setCore g (c.setLane (staggered (vreg vd pre.ha) d) 0 (tree (combine fn pre) xs))
  | .vscan vd vs pre =>
    let fn := pre.vt.toNat
    let xs := (List.range 64).map fun i =>
      if c.active pre i then c.lane (staggered (vreg vs pre.hb) d) i else identityOf fn (isF32 pre)
    let ys := scan (combine fn pre) xs
    s.setCore g (c.writeLanes pre (staggered (vreg vd pre.ha) d) fun i => ys.getD i 0)
  | i =>
    match lanewise i with
    | none => s
    | some l =>
      let pre := i.pre
      s.setCore g (c.writeLanes pre (staggered l.vd d) fun n =>
        l.f (c.lane (staggered l.vd d) n) (c.lane (staggered l.x d) n) (c.lane (staggered l.y d) n))

/-! ### Issue -/

/-- The lowest lane of the first pass with an element outside the scratchpad: the address that the record names where
several lie there (log 66). -/
def firstOutside (t : Ty) (a : Addr) (stride step : Int) (passes : Nat) : Option Addr :=
  (List.range passes).findSome? fun (j : Nat) => (List.range 64).findSome? fun (i : Nat) =>
    let ea := laneAddr t (Addr.move a (j * step)) stride i
    if (insideLocal ea t.size).isNone then some ea else none

/-- The checks of a vector memory instruction on every lane of every pass (R125, R126): ACCESS, then ALIGN; and the
span of offsets that the lanes cover (R128). Lane addresses and pass addresses are linear, so the corners decide, and
so do the first two passes for the alignment. -/
def vecCheck (t : Ty) (a : Addr) (stride step : Int) (passes : Nat) : Except Stop (Nat × Nat) :=
  let corners := [(0, 0), (0, 63), (passes - 1, 0), (passes - 1, 63)].map fun (p : Nat × Nat) =>
    laneAddr t (Addr.move a (p.1 * step)) stride p.2
  match corners.mapM fun c => insideLocal c t.size with
  | none => .error (stopTrap kAccess 0x01 ((firstOutside t a stride step passes).getD a))
  | some os =>
    match ((List.range (min passes 2)).map fun (j : Nat) => Addr.move a (j * step)).find? fun b =>
        decide (b.toNat % (if isNibble t then 4 else t.size) ≠ 0) with
    | some b => .error (stopTrap kAlign 0x01 b)
    | none => .ok (os.foldl min (2 ^ 21), os.foldl max 0 + t.size - 1)

/-- How far the post-mode moves the pointer (02 R35). -/
def postStep (p : Ptr) (pm : PostMode) (size : Nat) : Int :=
  match pm with
  | .none => 0
  | .plusStride => p.stride.toInt * size
  | .minusStride => -(p.stride.toInt * size)
  | .plusElem => size

/-- The queue entry of a vector instruction issued by context `c` with registers `k`, for `passes` passes, and the
registers after its post-mode (R125, R137). -/
def vecEntry (i : Instr) (c : Nat) (k : Ctx) (passes : Nat) : Except Stop (VEntry × Ctx) :=
  let plain : VEntry := ⟨i, c, 0, 0, 0, k.a.setWidth 32, false, 0, 0⟩
  let memory (p : BitVec 3) (m : Bool) (pre : Prefixes) (transposed : Bool) : Except Stop (VEntry × Ctx) :=
    let q := k.ptr p.toNat
    let stride : Int := if transposed then q.stride.toInt else 1
    let step := postStep q (vecPost m pre) (vecTy pre).size
    match vecCheck (vecTy pre) q.addr stride step passes with
    | .error e => .error e
    | .ok (lo, hi) =>
      .ok (⟨i, c, q.addr, stride, step, 0, true, lo, hi⟩, k.setAddr p.toNat (Addr.move q.addr (passes * step)))
  match i with
  | .vld _ p m pre => memory p m pre false
  | .vst _ p m pre => memory p m pre false
  | .vldt _ p m pre => memory p m pre true
  | _ => .ok (plain, k)

/-- A vector instruction issues (R125): it stalls on a full queue, traps, or is queued. -/
def issueVec (i : Instr) (pre : Prefixes) (s : State) : State :=
  if 32 ≤ (s.core s.me).vq.length then s.stall
  else
    match vecEntry i s.myCtx s.strand 1 with
    | .error (.trap t) => s.raise t
    | .error .stall => s.stall
    | .ok (e, k) =>
      let npc := s.strand.next pre
      ((s.modCore s.me fun c => { c with vq := c.vq ++ [e] }).complete k npc).due [.num .vectorBind s.myTile]

/-- R126: checked and queued; done at binding by `State.vecRun`. -/
def execVld (vd : BitVec 4) (p : BitVec 3) (m : Bool) (pre : Prefixes) (s : State) : Host.Outcome State Fault Refusal :=
  .next (issueVec (.vld vd p m pre) pre s)

/-- R126: checked and queued; done at binding by `State.vecRun`. -/
def execVst (vd : BitVec 4) (p : BitVec 3) (m : Bool) (pre : Prefixes) (s : State) : Host.Outcome State Fault Refusal :=
  .next (issueVec (.vst vd p m pre) pre s)

/-- R127: checked and queued; done at binding by `State.vecRun`. -/
def execVldt (vd : BitVec 4) (p : BitVec 3) (m : Bool) (pre : Prefixes) (s : State) : Host.Outcome State Fault Refusal :=
  .next (issueVec (.vldt vd p m pre) pre s)

/-- R131: A[31:0] is read at issue; done at binding by `State.vecRun`. -/
def execVbcast (vd : BitVec 4) (pre : Prefixes) (s : State) : Host.Outcome State Fault Refusal :=
  .next (issueVec (.vbcast vd pre) pre s)

/-- R131: queued; done at binding by `State.vecRun`. -/
def execVmov (vd vs : BitVec 4) (pre : Prefixes) (s : State) : Host.Outcome State Fault Refusal :=
  .next (issueVec (.vmov vd vs pre) pre s)

/-- R129: queued; done at binding by `State.vecRun`. -/
def execVadd (vd vs : BitVec 4) (pre : Prefixes) (s : State) : Host.Outcome State Fault Refusal :=
  .next (issueVec (.vadd vd vs pre) pre s)

/-- R129: queued; done at binding by `State.vecRun`. -/
def execVsub (vd vs : BitVec 4) (pre : Prefixes) (s : State) : Host.Outcome State Fault Refusal :=
  .next (issueVec (.vsub vd vs pre) pre s)

/-- R129: queued; done at binding by `State.vecRun`. -/
def execVmul (vd vs : BitVec 4) (pre : Prefixes) (s : State) : Host.Outcome State Fault Refusal :=
  .next (issueVec (.vmul vd vs pre) pre s)

/-- R129: queued; done at binding by `State.vecRun`. -/
def execVfma (vd vs : BitVec 4) (pre : Prefixes) (s : State) : Host.Outcome State Fault Refusal :=
  .next (issueVec (.vfma vd vs pre) pre s)

/-- R129: queued; done at binding by `State.vecRun`. -/
def execVmin (vd vs : BitVec 4) (pre : Prefixes) (s : State) : Host.Outcome State Fault Refusal :=
  .next (issueVec (.vmin vd vs pre) pre s)

/-- R129: queued; done at binding by `State.vecRun`. -/
def execVmax (vd vs : BitVec 4) (pre : Prefixes) (s : State) : Host.Outcome State Fault Refusal :=
  .next (issueVec (.vmax vd vs pre) pre s)

/-- R129: queued; done at binding by `State.vecRun`. -/
def execVabs (vd vs : BitVec 4) (pre : Prefixes) (s : State) : Host.Outcome State Fault Refusal :=
  .next (issueVec (.vabs vd vs pre) pre s)

/-- R129: queued; done at binding by `State.vecRun`. -/
def execVneg (vd vs : BitVec 4) (pre : Prefixes) (s : State) : Host.Outcome State Fault Refusal :=
  .next (issueVec (.vneg vd vs pre) pre s)

/-- R129: queued; done at binding by `State.vecRun`. -/
def execVand (vd vs : BitVec 4) (pre : Prefixes) (s : State) : Host.Outcome State Fault Refusal :=
  .next (issueVec (.vand vd vs pre) pre s)

/-- R129: queued; done at binding by `State.vecRun`. -/
def execVor (vd vs : BitVec 4) (pre : Prefixes) (s : State) : Host.Outcome State Fault Refusal :=
  .next (issueVec (.vor vd vs pre) pre s)

/-- R129: queued; done at binding by `State.vecRun`. -/
def execVxor (vd vs : BitVec 4) (pre : Prefixes) (s : State) : Host.Outcome State Fault Refusal :=
  .next (issueVec (.vxor vd vs pre) pre s)

/-- R129: queued; done at binding by `State.vecRun`. -/
def execVshl (vd vs : BitVec 4) (pre : Prefixes) (s : State) : Host.Outcome State Fault Refusal :=
  .next (issueVec (.vshl vd vs pre) pre s)

/-- R129: queued; done at binding by `State.vecRun`. -/
def execVshr (vd vs : BitVec 4) (pre : Prefixes) (s : State) : Host.Outcome State Fault Refusal :=
  .next (issueVec (.vshr vd vs pre) pre s)

/-- R130: queued; done at binding by `State.vecRun`. -/
def execVcmpEq (vd vs : BitVec 4) (pre : Prefixes) (s : State) : Host.Outcome State Fault Refusal :=
  .next (issueVec (.vcmpEq vd vs pre) pre s)

/-- R130: queued; done at binding by `State.vecRun`. -/
def execVcmpLt (vd vs : BitVec 4) (pre : Prefixes) (s : State) : Host.Outcome State Fault Refusal :=
  .next (issueVec (.vcmpLt vd vs pre) pre s)

/-- R130: queued; done at binding by `State.vecRun`. -/
def execVcmpLe (vd vs : BitVec 4) (pre : Prefixes) (s : State) : Host.Outcome State Fault Refusal :=
  .next (issueVec (.vcmpLe vd vs pre) pre s)

/-- R130: queued; done at binding by `State.vecRun`. -/
def execVsel (vd vs : BitVec 4) (pre : Prefixes) (s : State) : Host.Outcome State Fault Refusal :=
  .next (issueVec (.vsel vd vs pre) pre s)

/-- R132: queued; done at binding by `State.vecRun`. -/
def execVcvt (vd vs : BitVec 4) (pre : Prefixes) (s : State) : Host.Outcome State Fault Refusal :=
  .next (issueVec (.vcvt vd vs pre) pre s)

/-- R133: queued; done at binding by `State.vecRun`. -/
def execVred (vd vs : BitVec 4) (pre : Prefixes) (s : State) : Host.Outcome State Fault Refusal :=
  .next (issueVec (.vred vd vs pre) pre s)

/-- R133: queued; done at binding by `State.vecRun`. -/
def execVscan (vd vs : BitVec 4) (pre : Prefixes) (s : State) : Host.Outcome State Fault Refusal :=
  .next (issueVec (.vscan vd vs pre) pre s)

/-- R131: queued; done at binding by `State.vecRun`. -/
def execVperm (vd vs : BitVec 4) (pre : Prefixes) (s : State) : Host.Outcome State Fault Refusal :=
  .next (issueVec (.vperm vd vs pre) pre s)

/-- R134: queued; done at binding by `State.vecRun`. -/
def execVexp2 (vd vs : BitVec 4) (pre : Prefixes) (s : State) : Host.Outcome State Fault Refusal :=
  .next (issueVec (.vexp2 vd vs pre) pre s)

/-- R134: queued; done at binding by `State.vecRun`. -/
def execVlog2 (vd vs : BitVec 4) (pre : Prefixes) (s : State) : Host.Outcome State Fault Refusal :=
  .next (issueVec (.vlog2 vd vs pre) pre s)

/-- R134: queued; done at binding by `State.vecRun`. -/
def execVrcp (vd vs : BitVec 4) (pre : Prefixes) (s : State) : Host.Outcome State Fault Refusal :=
  .next (issueVec (.vrcp vd vs pre) pre s)

/-- R134: queued; done at binding by `State.vecRun`. -/
def execVrsq (vd vs : BitVec 4) (pre : Prefixes) (s : State) : Host.Outcome State Fault Refusal :=
  .next (issueVec (.vrsq vd vs pre) pre s)

/-- R130: queued; done at binding by `State.vecRun`. -/
def execVclamp (vd vs : BitVec 4) (pre : Prefixes) (s : State) : Host.Outcome State Fault Refusal :=
  .next (issueVec (.vclamp vd vs pre) pre s)

/-! ### Repetition groups (R136, R137) -/

/-- Is an instruction of the VX format, other than REP (R104)? -/
def isVx (i : Instr) : Bool :=
  match i with
  | .vld _ _ _ _ | .vst _ _ _ _ | .vldt _ _ _ _ | .vbcast _ _ | .vred _ _ _ | .vscan _ _ _ | .vperm _ _ _ => true
  | i => (lanewise i).isSome

/-- What fetching an instruction gives: the words are not all in the cache, a trap, or a decoded instruction. -/
inductive Fetched where
  | miss (va : Addr)
  | trap (t : Trap)
  | instr (i : Instr) (words : Nat)
deriving DecidableEq, Repr

/-- The fetch of an instruction word by word (01 R20; 02 R32, R61), with `fuel` words to go. -/
def fetchFrom (x : Tile) (va : Addr) (ws : List Half) : Nat → Fetched
  | 0 => .trap (trapOf kIllegal 0x01 0)
  | n + 1 =>
    if 0xF0 ≤ field va 40 8 then .trap (trapOf kAccess 0x02 va)
    else
      match x.word va with
      | none => .miss va
      | some w =>
        match decode (ws ++ [w]) with
        | .more => fetchFrom x (va + 2) (ws ++ [w]) n
        | .illegal d => .trap (trapOf kIllegal d 0)
        | .instr i n => .instr i n

/-- The instruction at an address: at most four prefixes and a base word, and the fifth prefix that is refused. -/
def Tile.fetch (x : Tile) (va : Addr) : Fetched := fetchFrom x va [] 5

/-- What the body of a REP comes to. -/
inductive Body where
  | miss (va : Addr)
  | stop (idx : Nat) (t : Trap)
  | ok (es : List VEntry) (k : Ctx) (pc : Addr)
deriving DecidableEq, Repr

/-- The `n` body instructions from `pc`, in order: each is fetched, decoded and checked with the pointers as the
earlier ones leave them (R136, R137). -/
def bodyFrom (x : Tile) (c passes : Nat) (k : Ctx) (pc : Addr) (idx : Nat) : Nat → Body
  | 0 => .ok [] k pc
  | n + 1 =>
    match x.fetch pc with
    | .miss va => .miss va
    | .trap t => .stop idx t
    | .instr i w =>
      if !isVx i then .stop idx (trapOf kIllegal 0x09 0)
      else
        match vecEntry i c k passes with
        | .error (.trap t) => .stop idx t
        | .error .stall => .stop idx (trapOf kIllegal 0x09 0)
        | .ok (e, k) =>
          match bodyFrom x c passes k (pc + BitVec.ofNat 48 (2 * w)) (idx + 1) n with
          | .ok es k pc => .ok (e :: es) k pc
          | b => b

/-- A fetch miss: an off-core load of the context (01 R20). -/
def State.fetchMiss (s : State) (g c : Nat) (va : Addr) : State :=
  (s.leaveRunning g c .waitLoad).due [⟨.icacheMissFill, .fetch g c va true false⟩]

/-- REP and its body issue as one indivisible group (R136): with too few free entries the context stalls; a trap of a
body instruction leaves everything as it was and names its index. -/
def execRep (n s_ : BitVec 4) (pre : Prefixes) (s : State) : Host.Outcome State Fault Refusal :=
  let len := n.toNat + 1
  let passes := pre.extNat 0 0 + 1
  if 32 < (s.core s.me).vq.length + len + 1 then .next s.stall
  else
    match bodyFrom (s.tile s.myTile) s.myCtx passes s.strand (s.strand.next pre) 0 len with
    | .miss va => .next (s.fetchMiss s.me s.myCtx va)
    | .stop idx t => .next (s.raise { t with body := BitVec.ofNat 4 idx })
    | .ok es k pc =>
      let head : VEntry := ⟨.rep n s_ pre, s.myCtx, 0, 0, 0, 0, false, 0, 0⟩
      .next (((s.modCore s.me fun c => { c with vq := c.vq ++ head :: es }).complete k pc).due
        [.num .vectorBind s.myTile])

/-! ### The arbiter -/

/-- What a core presents as the head of its queue: the entry, the pass and the stagger of it (01 R23). -/
def Core.head (c : Core) : Option (VEntry × Nat × Nat) :=
  match c.rep with
  | some r => (r.body[r.pos]?).map fun e => (e, r.pass, r.pass * r.stagger)
  | none =>
    match c.vq with
    | e :: _ => match e.instr with
      | .rep _ _ _ => none
      | _ => some (e, 0, 0)
    | [] => none

/-- Is a REP at the head of the queue? -/
def Core.repWaits (c : Core) : Bool :=
  c.rep.isNone && match c.vq with
    | e :: _ => match e.instr with
      | .rep _ _ _ => true
      | _ => false
    | [] => false

/-- Is the head issuable: do none of its registers wait for results (01 R21)? The mask register is a source. -/
def Core.issuable (c : Core) (now : Nat) : Bool :=
  match c.head with
  | none => false
  | some (e, _, d) =>
    let r := vecRegs e.instr
    let mask := if e.instr.pre.pred = 0 then [] else [24 + e.instr.pre.pred.toNat]
    ((r.1 ++ r.2).map (staggered · d) ++ mask).all fun v => decide (Tab.get 0 c.vready v ≤ now)

/-- Has the core nothing queued and no body instruction left (01 R22)? -/
def Core.vecEmpty (c : Core) : Bool := c.rep.isNone && c.vq.isEmpty

/-- The queue after its head has been bound. -/
def Core.popHead (c : Core) : Core :=
  match c.rep with
  | some r =>
    if r.pos + 1 < r.body.length then { c with rep := some { r with pos := r.pos + 1 } }
    else if r.pass + 1 < r.passes then { c with rep := some { r with pos := 0, pass := r.pass + 1 } }
    else { c with rep := none }
  | none => { c with vq := c.vq.drop 1 }

/-- The deficits after the refill of the arbiter (01 R22). -/
def refill (c : Core) : Core := { c with defi := if c.vecEmpty then 0 else min (c.defi + c.vw) 15 }

/-- The candidate with the largest deficit, ties to the lowest (01 R22). -/
def largest (f : Nat → Nat) : List Nat → Option Nat
  | [] => none
  | k :: ks =>
    match largest f ks with
    | none => some k
    | some j => if f j ≤ f k then some k else some j

/-- A REP that has reached the head of a queue moves its body next (01 R23). -/
def State.callReps (s : State) (t : Nat) : State :=
  s.due (((List.range 8).filter fun k => (s.core (8 * t + k)).repWaits).map fun k => .num .repBodyLoad (8 * t + k))

/-- The arbiter of tile `t` (01 R22): at most one head is bound, to the lowest free lane group, and does its work.
While a queue holds anything the arbiter runs again. -/
def bindVector (t : Nat) (s : State) : State :=
  let s := s.callReps t
  let again (s : State) : State :=
    if (List.range 8).all fun k => ((s.core (8 * t + k)).head).isNone then s else s.due [.num .vectorBind t]
  match lowest 4 fun l => decide (Tab.get 0 (s.tile t).groups l ≤ s.now) with
  | none => again s
  | some l =>
    let cand := (List.range 8).filter fun k => (s.core (8 * t + k)).issuable s.now
    if cand.isEmpty then again s
    else
      let s := if cand.any fun k => decide (1 ≤ (s.core (8 * t + k)).defi) then s
        else (List.range 8).foldl (fun s k => s.modCore (8 * t + k) refill) s
      match largest (fun k => (s.core (8 * t + k)).defi) cand with
      | none => s
      | some w =>
        let g := 8 * t + w
        match (s.core g).head with
        | none => s
        | some (e, pass, d) =>
          let ready := s.now + vecLatency e.instr
          let s := s.modCore g fun c =>
            let c := { c with defi := c.defi - 1 }.popHead
            { c with vready := (vecRegs e.instr).1.foldl (fun r v => Tab.set 0 r (staggered v d) ready) c.vready }
          let s := s.modTile t fun x => { x with groups := Tab.set 0 x.groups l (s.now + 4) }
          again ((s.vecRun g e pass d).callReps t)

/-- R22: a step of the arbiter of a tile. -/
def execVectorBind (s : State) : Host.Outcome State Fault Refusal :=
  match s.arg with
  | .num t _ _ _ => .next (if s.holdsBack then s.due [.num .vectorBind t] else bindVector t s)
  | _ => .next s

/-- R23: REP at the head of the queue moves its body into the repetition buffer. -/
def execRepBodyLoad (s : State) : Host.Outcome State Fault Refusal :=
  match s.arg with
  | .num g _ _ _ =>
    let c := s.core g
    match c.rep, c.vq with
    | none, e :: rest =>
      match e.instr with
      | .rep n st pre =>
        let len := n.toNat + 1
        let r : RepState := ⟨rest.take len, pre.extNat 0 0 + 1, st.toNat + 16 * pre.ha.toNat, 0, 0⟩
        .next ((s.setCore g { c with vq := rest.drop len, rep := some r }).due [.num .vectorBind (g / 8)])
      | _ => .next s
    | _, _ => .next s
  | _ => .next s

end Sys2Proof.Machine
end

