-- ==== Sys2Proof/Machine/Sync.lean ====
section
/-! DEFINITION. Counters, helper strands, fences, barriers, TRAP, and the steps by which a core selects a context, receives a reply and fills its instruction cache (09_copies_strands_sync R199 to R205, R215 to R222; 01_tile_in_a_cycle R13 to R20). -/

namespace Sys2Proof.Machine

/-! ### Counters (R200, R201) -/

/-- The value of a counter instruction: A[31:0], or the extended immediate (02 R53). -/
def counterValue (imm : Bool) (i : BitVec 3) (pre : Prefixes) (k : Ctx) : Word32 :=
  if imm then BitVec.ofNat 32 (pre.extNat 3 i.toNat) else k.a.setWidth 32

/-- The instruction completes and its context waits in WAIT-SYNC (01 R13). -/
def State.waitSync (s : State) (w : Wait) (pre : Prefixes) : State :=
  (s.skip pre).leaveRunning s.me s.myCtx (.waitSync w)

/-- R201: not reached, the context keeps the core and tests again -/
def execWaitc (c : BitVec 4) (imm : Bool) (i : BitVec 3) (pre : Prefixes) (s : State) : Host.Outcome State Fault Refusal :=
  .next (guarded pre s fun s =>
    if reached (s.counter s.me c.toNat) (counterValue imm i pre s.strand) then s.skip pre else s)

/-- R201: not reached, the context sleeps -/
def execSleep (c : BitVec 4) (imm : Bool) (i : BitVec 3) (pre : Prefixes) (s : State) : Host.Outcome State Fault Refusal :=
  .next (guarded pre s fun s =>
    let v := counterValue imm i pre s.strand
    if reached (s.counter s.me c.toNat) v then s.skip pre else s.waitSync (.counter c.toNat v) pre)

/-- R201: Cn := v -/
def execSetc (c : BitVec 4) (imm : Bool) (i : BitVec 3) (pre : Prefixes) (s : State) : Host.Outcome State Fault Refusal :=
  .next (guarded pre s fun s => (s.setCounter s.me c.toNat (counterValue imm i pre s.strand)).skip pre)

/-- R201: Cn := wrap(Cn + v, 32) -/
def execAddc (c : BitVec 4) (imm : Bool) (i : BitVec 3) (pre : Prefixes) (s : State) : Host.Outcome State Fault Refusal :=
  .next (guarded pre s fun s =>
    (s.setCounter s.me c.toNat (s.counter s.me c.toNat + counterValue imm i pre s.strand)).skip pre)

/-! ### Barriers (R216; 22 R439) -/

/-- The domain of a tile at a scope (00 R9). -/
def domainOf (g : Nat) : Scope → Nat
  | .context | .core => g
  | .tile => g / 8
  | .cluster => clusterOf (g / 8)
  | .die => dieOf (g / 8)
  | .package | .pod => 0

/-- The cores of a task that lie in a domain. -/
def Task.coresIn (t : Task) (sc : Scope) (domain : Nat) : List Nat :=
  ((t.tiles.flatMap fun x => (List.range 8).map (8 * x + ·))).filter fun g => decide (domainOf g sc = domain)

/-- The participants of a barrier, by core: at the scopes of a strand only the one that issues. -/
def State.participants (s : State) (m : Meeting) : List Nat :=
  match m.scope with
  | .context | .core => [m.domain]
  | sc =>
    match (s.part m.pid).taskSlot m.tcb with
    | some n => (s.task m.pid n).coresIn sc m.domain
    | none => []

/-- Has every participant arrived? One whose context 0 has exited counts as arrived. -/
def State.allHere (s : State) (m : Meeting) : Bool :=
  (s.participants m).all fun g => (m.arrived.any fun r => decide (r.by_.core = g)) || !(s.ctx g 0).live

/-- Do an arrival and a meeting belong together? The kind 0 is a BAR, 1 a NETRED, 2 an NBAR. -/
def Meeting.fits (m : Meeting) (kind : BitVec 2) (r : RedArr) : Bool :=
  decide (m.kind = kind) && decide (m.pid = r.by_.pid) && decide (m.tcb = r.by_.tcb) && decide (m.scope = r.scope) &&
  decide (m.domain = r.domain) && decide (m.tag = r.tag)

/-- An arrival joins its meeting, or opens it. -/
def State.join (s : State) (kind : BitVec 2) (r : RedArr) : State :=
  if s.meetings.any fun m => m.fits kind r then
    { s with meetings := s.meetings.map fun m => if m.fits kind r then { m with arrived := m.arrived ++ [r] } else m }
  else { s with meetings := s.meetings ++ [⟨kind, r.by_.pid, r.by_.tcb, r.scope, r.domain, r.tag, r.p, [r]⟩] }

/-- The pod gang of a meeting's task; 0 where it has none (22 R439). -/
def State.gangOf (s : State) (pid : Nat) (tcb : BitVec 32) : Nat :=
  match (s.part pid).taskSlot tcb with
  | some n => (s.task pid n).pgang
  | none => 0

/-- The package that combines the pod's events, and the number of members (17 R373). -/
def Part.proot (p : Part) : Nat := field p.record 784 12
def Part.pmem (p : Part) : Nat := field p.record 768 16

/-- The Jorrin ports over which messages to a package may leave: its route entry without the retired ports (22 R436;
21 R424). The entry of the package itself is 0. -/
def State.route (s : State) (pkg : Nat) : List Nat :=
  if pkg = s.pod.pkgn.toNat then []
  else (bitList 16 (Tab.get 0 s.pod.routes pkg).toNat).filter fun p => !s.isRetired (unitJorrin p)

/-- A message for a package of the pod: served here, or sent; it fails where no route delivers it within 2^24 cycles, or where
it has none (22 R438). It stays in the outbox until it is known to be delivered, a request of this package until it is known
to be performed. `own` says that it comes from this package. -/
def State.sendPacket (s : State) (pkg : Nat) (own : Bool) (m : PodMsg) : State :=
  if pkg = s.pod.pkgn.toNat then s.due [⟨.podMessageReceive, .pod m⟩]
  else
    let s := { s with pod := { s.pod with outbox := s.pod.outbox ++ [(⟨pkg, s.now, false, own, m⟩ : Sent)] } }
    let d : Due := ⟨.podDeliveryTimeout, .packet pkg m⟩
    if (s.route pkg).isEmpty then s.due [d] else s.dueIn (2 ^ 24) d

/-- Messages that have lost their last route fail (22 R438). -/
def State.failUnrouted (s : State) : State :=
  s.due ((s.pod.outbox.filter fun e => !e.delivered && (s.route e.dst).isEmpty).map fun e =>
    ⟨.podDeliveryTimeout, .packet e.dst e.msg⟩)

def State.sendPod (s : State) (pkg : Nat) (m : PodMsg) : State := s.sendPacket pkg true m

/-- The 48-bit tag of a request (22 R438; log 54): the issuing logical tile in [47:39], its context with its core in
[38:32], and the number `n` in the sequence of that context. -/
def State.podTag (s : State) (i : Issuer) (n : BitVec 32) : Nat :=
  mkRecord [(0, 32, n.toNat), (32, 4, i.ctx), (36, 3, i.core % 8), (39, 9, ((s.logTile i.pid (i.core / 8)).getD 0))]

/-- A request is sent for its issuer under the next tag of its context; `f` makes the message from this package's number,
the pod job and the tag. -/
def State.sendRequest (s : State) (i : Issuer) (pkg : Nat) (f : Nat → Nat → Nat → PodMsg) : State :=
  let key := 16 * i.core + i.ctx
  let n := Tab.get 0 s.pod.numbers key
  ({ s with pod := { s.pod with numbers := Tab.set 0 s.pod.numbers key (n + 1) } }).sendPod pkg
    (f s.pod.pkgn.toNat (s.part i.pid).pjob (s.podTag i n))

/-- Is a task being pre-empted or saved? Its barriers wait (16 R350). -/
def State.barsHeld (s : State) (pid : Nat) (tcb : BitVec 32) : Bool :=
  match (s.part pid).taskSlot tcb with
  | some n => (s.task pid n).stopping || (s.task pid n).saved
  | none => false

/-- Every barrier of a task that has become complete is released; at pod scope its arrival goes to PROOT, once (`need`
says that it has). A barrier of a task that is being pre-empted waits (16 R350). -/
def State.checkBars (s : State) (pid : Nat) (tcb : BitVec 32) : State :=
  let mine (m : Meeting) : Bool := decide (m.kind = 0) && decide (m.pid = pid) && decide (m.tcb = tcb)
  if s.barsHeld pid tcb then s
  else (s.meetings.filter fun m => mine m && s.allHere m).foldl (fun s m =>
    match m.arrived with
    | [] => s
    | r :: _ =>
      if m.scope = .pod then
        let p := s.part pid
        if m.need ≠ 0 then s
        else ({ s with meetings := s.meetings.map fun x => if x = m then { m with need := 1 } else x }).sendPod p.proot
          (.barArrive s.pod.pkgn.toNat p.pjob (s.gangOf pid tcb) m.tag)
      else s.due [⟨.barRelease, .arr r⟩]) s

/-- A gang's task whose every context 0 has exited has arrived at every later barrier: PROOT is told (R216; 22 R439). -/
def State.gangExit (s : State) (pid : Nat) (tcb : BitVec 32) : State :=
  match (s.part pid).taskSlot tcb with
  | some n =>
    let t := s.task pid n
    if t.pgang ≠ 0 ∧ t.saved = false ∧ (t.tiles.flatMap fun x => (List.range 8).map (8 * x + ·)).all (fun g => !(s.ctx g 0).live) = true then
      s.sendPod (s.part pid).proot (.memberDone s.pod.pkgn.toNat (s.part pid).pjob t.pgang)
    else s
  | none => s

/-- Is a message to another package the work of a posted write, or with `copies` of any posted operation or copy? -/
def podPosted (p : Issuer → Bool) (copies : Bool) (m : PodMsg) : Bool :=
  match m with
  | .put _ _ _ m => p m.by_
  | .copyWords _ _ _ m _ _ _ => copies && p m.by_
  | .signal _ _ _ m _ => copies && p m.by_
  | .atom _ _ _ m => !m.returning && p m.by_
  | _ => false

/-- Is a device step the work of a posted write that `p` names, or with `copies` of any posted operation or copy
(08 R180)? -/
def Due.isPosted (p : Issuer → Bool) (copies : Bool) (d : Due) : Bool :=
  match d.arg with
  | .put m => p m.by_
  | .atom m => !m.returning && p m.by_
  | .replica i _ _ _ _ => p i
  | .copy m _ => copies && p m.by_
  | .copyFault m _ _ => copies && p m.by_
  | .post i _ _ _ _ => copies && p i
  | .tok r _ => copies && decide (r.kind = .tokn) && p r.by_
  | .pod m => decide (d.what = .podFlitReplay) && podPosted p copies m
  | _ => false

/-- The operations that are due, wait for a hand-over, or are held for replay. -/
def State.openOps (s : State) : List Due :=
  let op (h : Held) : List Due := match h with
    | .op d _ => [d]
    | .strand _ _ _ => []
  s.steps ++ s.parts.flatMap fun e => (e.2.held.flatMap fun h => (h.2.map op).getD []) ++ e.2.heldWait.flatMap fun h => op h.1

/-- Is an operation of the issuers that `p` names outstanding: due, held for replay, or with another package? -/
def State.outstanding (s : State) (p : Issuer → Bool) (copies : Bool) : Bool :=
  (s.openOps.any fun d => d.isPosted p copies) || s.pod.outbox.any fun m => m.own && podPosted p copies m.msg

/-- An access to memory whose address has been translated and that is still to be performed: its issuer, the cycle of the
translation, the address with the number of bytes, the places that they go to with the size of the pieces there, and whether
a copy makes it. -/
structure Access where
  by_ : Issuer
  cycle : Nat
  addr : Addr
  size : Nat
  dest : Dest
  piece : Nat
  copy : Bool
deriving DecidableEq, Repr

/-- The access of `n` bytes that a strand issued. -/
def strandAccess (i : Issuer) (a : Addr) (n : Nat) (d : Dest) : Access :=
  ⟨i, i.cycle, a, n, d, match d with
    | .mem ks => n / ks.length
    | _ => n, false⟩

def putAccesses (m : PutMsg) : List Access :=
  strandAccess m.by_ m.addr m.data.length m.dest ::
    m.rest.toList.map fun r => strandAccess m.by_ r.addr r.data.length r.dest
def atomAccess (m : AtomMsg) : Access := strandAccess m.by_ m.addr (sizeOf' m.ty) m.dest

def cpDst (d : BitVec 256) : Addr := d.extractLsb' 64 48

/-- The accesses that a request to another package makes there; `since` is the cycle in which it was sent. -/
def podAccesses (since : Nat) : PodMsg → List Access
  | .put _ _ _ m => putAccesses m
  | .atom _ _ _ m => [atomAccess m]
  | .copyWords pkg _ _ m a data _ =>
    [⟨m.by_, since, cpDst m.desc + BitVec.ofNat 48 m.done, data.length, .remote pkg a, data.length, true⟩]
  | _ => []

/-- The accesses of an operation. A replica lies in a die store, whose addresses are not translated. -/
def Due.accesses (d : Due) : List Access :=
  match d.arg with
  | .put m => putAccesses m
  | .atom m => [atomAccess m]
  | .load m keys => [strandAccess m.by_ m.addr m.size (.mem keys)]
  | .replica i k data _ _ => [strandAccess i 0xF20000000000 data.length (.mem [k])]
  | .pod m => if d.what = .podFlitReplay then podAccesses 0 m else []
  | _ => []

/-- Every access of this package's strands and copies that is still to be performed. -/
def State.accesses (s : State) : List Access :=
  s.openOps.flatMap Due.accesses ++ (s.pod.outbox.filter (·.own)).flatMap fun e => podAccesses e.since e.msg

/-- Was an access translated, up to a cycle, in one of some pages (16 R366)? -/
def Access.inPages (a : Access) (cycle : Nat) (pages : List (Nat × Nat)) : Bool :=
  decide (a.cycle ≤ cycle) && pages.any fun q => decide (a.addr.toNat < q.1 + q.2) && decide (q.1 < a.addr.toNat + a.size)

/-- Was an access translated, up to a cycle, to memory of this package (17 R395)? -/
def Access.local_ (a : Access) (cycle : Nat) : Bool :=
  decide (a.cycle ≤ cycle) && match a.dest with
    | .mem _ => true
    | _ => false

/-- Has a context a vector memory instruction that has not finished (R215; 05 R138)? -/
def Core.vecMem (c : Core) (n : Nat) : Bool :=
  c.vecLeft.any fun e => e.mem && decide (e.ctx = n)

/-- Have the accesses of a strand before one that it issued been performed (08 R182; R215)? All but its posted writes
and its vector memory instructions are performed at issue. -/
def State.releasedFor (s : State) (i : Issuer) : Bool :=
  !(s.core i.core).vecMem i.ctx &&
  !s.outstanding (fun j => decide (j.core = i.core) && decide (j.ctx = i.ctx) && decide (j.cycle < i.cycle)) false

/-- Is a release of the issuing context satisfied now (R215)? -/
def State.released (s : State) : Bool :=
  !(s.core s.me).vecMem s.myCtx &&
  !s.outstanding (fun i => decide (i.core = s.me) && decide (i.ctx = s.myCtx)) false

/-- The scope at which a task synchronises: one that names no gang treats pod scope as package scope (22 R439). -/
def State.scopeFor (s : State) (sc : Scope) : Scope :=
  if sc = .pod ∧ s.gangOf (s.pidOf s.me) (s.tcbOf s.me) = 0 then .package else sc

/-- The code of a scope (00 R9). -/
def scopeNum : Scope → Nat
  | .context => 0
  | .core => 1
  | .tile => 2
  | .cluster => 3
  | .die => 4
  | .package => 5
  | .pod => 6

/-- R216: arrival of the issuing context, which waits until the barrier releases it -/
def execBar (s_ : Scope) (pre : Prefixes) (s : State) : Host.Outcome State Fault Refusal :=
  .next (guarded pre s fun s =>
    if s.myCtx ≠ 0 then s.raise (trapOf kHelper 0x05 0)
    else if s.outstanding (fun i => decide (i.core = s.me)) true || !s.released then s
    else
      let sc := s.scopeFor s_
      let n := Tab.get 0 s.strand.bars (scopeNum sc)
      let r : RedArr := ⟨s.issuer, .add, none, sc, domainOf s.me sc, 0, n % 2 ^ 32, 0⟩
      let s := s.waitSync (.barrier sc (n % 2 ^ 32)) pre
      (s.modCtx s.me 0 fun k => { k with bars := Tab.set 0 k.bars (scopeNum sc) (n + 1) }).due [⟨.barArrival, .arr r⟩])

/-- R216: an arrival is counted -/
def execBarArrival (s : State) : Host.Outcome State Fault Refusal :=
  match s.arg with
  | .arr r => .next ((s.join 0 r).checkBars r.by_.pid r.by_.tcb)
  | _ => .next s

/-- R216: every participant that waits becomes READY. While the task is being pre-empted none is released: a release from
PROOT waits, and any other is made again when it is known whether the task is saved (16 R350, R372) -/
def execBarRelease (s : State) : Host.Outcome State Fault Refusal :=
  match s.arg with
  | .arr r =>
    if (match (s.part r.by_.pid).taskSlot r.by_.tcb with
        | some n => (s.task r.by_.pid n).stopping
        | none => false) then
      .next (if r.scope = .pod then s.dueIn 64 ⟨.barRelease, .arr r⟩ else s)
    else
    let gone := s.meetings.filter fun m => m.fits 0 r
    let s := { s with meetings := s.meetings.filter fun m => !m.fits 0 r }
    let s := if gone.isEmpty then s else s.traceAt r.by_.pid 2 (scopeNum r.scope + r.tag * 2 ^ 32) 0 0 (dieOf (r.by_.core / 8))
    .next (gone.foldl (fun s m => m.arrived.foldl (fun s a =>
      if s.pidOf a.by_.core = r.by_.pid ∧ s.tcbOf a.by_.core = r.by_.tcb then
        s.wakeAll a.by_.core fun w => match w with
          | .barrier sc n => decide (sc = r.scope) && decide (n = r.tag)
          | _ => false
      else s) s) s)
  | _ => .next s

/-! ### Fences (R215) -/

/-- R215: full fence -/
def execFence (_ : Scope) (pre : Prefixes) (s : State) : Host.Outcome State Fault Refusal :=
  .next (guarded pre s fun s => if s.released then s.skip pre else s)

/-- R215: earlier loads and atomics have returned before any later instruction of the context issues (01 R13) -/
def execFenceAcq (_ : Scope) (pre : Prefixes) (s : State) : Host.Outcome State Fault Refusal :=
  .next (guarded pre s fun s => s.skip pre)

/-- R215: release fence -/
def execFenceRel (_ : Scope) (pre : Prefixes) (s : State) : Host.Outcome State Fault Refusal :=
  .next (guarded pre s fun s => if s.released then s.skip pre else s)

/-! ### Helper strands (R202 to R205) -/

/-- A helper as HSTART makes it. -/
def Ctx.helper (k : Ctx) : Ctx :=
  { Ctx.idle with live := true, pc := k.a.setWidth 48, a := k.x }.setPtr 0 (k.ptr 0)

/-- LIVE of a core's task moves by one (14 R307). -/
def State.liveUp (s : State) (g : Nat) : State :=
  s.withTask (s.pidOf g) (s.tcbOf g) fun t => t.set 288 17 (t.live + 1)
def State.liveDown (s : State) (g : Nat) : State :=
  (s.withTask (s.pidOf g) (s.tcbOf g) fun t => t.set 288 17 (t.live - 1)).settle (s.pidOf g) (s.tcbOf g)

/-- R202 -/
def execHstart (h : BitVec 4) (pre : Prefixes) (s : State) : Host.Outcome State Fault Refusal :=
  .next (guarded pre s fun s =>
    let helpers := match s.taskOf s.me with
      | some (_, t) => t.helpers
      | none => 0
    let a : Addr := s.strand.a.setWidth 48
    if s.myCtx ≠ 0 then s.raise (trapOf kHelper 0x03 0)
    else if helpers < h.toNat then s.raise (trapOf kHelper 0x01 0)
    else if (s.ctx s.me h.toNat).live then s.raise (trapOf kHelper 0x02 0)
    else if a.getLsbD 0 then s.raise (trapOf kAlign 0x02 a)
    else ((s.setCtx s.me h.toNat s.strand.helper).liveUp s.me).skip pre)

/-- A refused put that is reported to the task (08 R196). -/
def refusedInfo (r : Refused) : FaultInfo := ⟨4, stRefused, 0x06, r.detail.toNat, r.dest.toNat, 0, 0⟩

/-- A context ceases to be live (R203): its queued refusals become records of the task, joiners wake, and barriers
that waited for it are looked at again. -/
def State.endStrand (s : State) (g c : Nat) : State :=
  let i := s.issuerOf g c
  let mine := (s.core g).refusals.filter fun r => decide (r.ctx = c)
  let s := s.modCore g fun x => { x with refusals := x.refusals.filter fun r => decide (r.ctx ≠ c) }
  let s := mine.foldl (fun s r => s.fault { i with opc := r.opc } (refusedInfo r)) s
  let s := if (s.core g).running = some c then s.leaveRunning g c .ready else s
  let s := s.setCtx g c Ctx.idle
  let s := s.wakeAll g fun w => decide (w = .helper c)
  (if c = 0 then (s.checkBars (s.pidOf g) (s.tcbOf g)).gangExit (s.pidOf g) (s.tcbOf g) else s).liveDown g

/-- R203 -/
def execHexit (pre : Prefixes) (s : State) : Host.Outcome State Fault Refusal :=
  .next (guarded pre s fun s => s.endStrand s.me s.myCtx)

/-- R204 -/
def execHjoin (h : BitVec 4) (pre : Prefixes) (s : State) : Host.Outcome State Fault Refusal :=
  .next (guarded pre s fun s =>
    if h.toNat = s.myCtx then s.raise (trapOf kHelper 0x04 0)
    else if (s.ctx s.me h.toNat).live then s.waitSync (.helper h.toNat) pre
    else s.skip pre)

/-- R205 -/
def execYield (pre : Prefixes) (s : State) : Host.Outcome State Fault Refusal :=
  .next (guarded pre s fun s => (s.skip pre).leaveRunning s.me s.myCtx .ready)

/-- R222: the record's PC is the address of the next instruction -/
def execTrap (code : BitVec 8) (pre : Prefixes) (s : State) : Host.Outcome State Fault Refusal :=
  .next (guarded pre s fun s =>
    s.takeTrap s.me s.myCtx { trapOf kSoftware 0 0 with code := code, pc := s.strand.next pre })

/-! ### Steps of a core -/

/-- 01 R14: the first READY context in ring order becomes RUNNING -/
def execContextSelect (s : State) : Host.Outcome State Fault Refusal :=
  match s.arg with
  | .num g _ _ _ =>
    let c := s.core g
    if c.running.isSome then .next s
    else
      match ringFind 16 c.from_ fun n => (c.ctx n).live && decide ((c.ctx n).mode = .ready) with
      | some n => .next (s.setCore g { c.setCtx n { c.ctx n with mode := .running } with running := some n })
      | none => .next s
  | _ => .next s

/-- The reply due to a context in WAIT-LOAD lands (01 R13). -/
def State.landReply (s : State) (g c : Nat) : State :=
  let k := s.ctx g c
  if k.mode ≠ .waitLoad then s
  else
    match k.reply, k.await with
    | some r, some w =>
      match r.trap with
      | some t => ((s.setCtx g c { k with await := none, reply := none }).wake g c).takeTrap g c { t with pc := k.pc }
      | none => (s.setCtx g c (k.land w r)).wake g c
    | _, _ => s

/-- A strand that waits for a fetch or a walk is selected again, and issues the instruction again (01 R13, R20). -/
def State.retry (s : State) (g c : Nat) : State :=
  if (s.ctx g c).mode = .waitLoad then s.wake g c else s

/-- 01 R20: the word is translated and taken from memory as it stood at the launch; what the translation lacks is
walked for, once the tile can take another miss (16 R355), and a fault is the instruction's (02 R32). DESIGN CHOICE (log 70): a word on a page of another package (REM = 1)
raises XLATE with detail 0x05, as a word that no memory of this package holds. -/
def execIcacheMissFill (s : State) : Host.Outcome State Fault Refusal :=
  match s.arg with
  | .fetch g c va _ _ =>
    let t := g / 8
    match s.translate t (s.pidOf g) va.toNat true false with
    | .miss => .next (if s.missRoom t va then s.sendWalk g c va true false else s.dueIn 16 ⟨.icacheMissFill, s.arg⟩)
    | .fault d =>
      if (s.ctx g c).mode = .waitLoad then
        .next ((s.wake g c).takeTrap g c { trapOf kXlate d (s.ctx g c).pc with pc := (s.ctx g c).pc })
      else .next s
    | .page e =>
      match (if e.rem then none else s.physKey (e.phys va.toNat)) with
      | some k =>
        let w : Half := BitVec.ofNat 16 (bytesToNat ((s.tile t).code.readN k 2))
        .next ((s.modTile t fun x => x.fill va w).retry g c)
      | none =>
        .next ((s.wake g c).takeTrap g c { trapOf kXlate 0x05 (s.ctx g c).pc with pc := (s.ctx g c).pc })
  | _ => .next s

/-- 01 R27: the core tries its unserved accesses again -/
def execScalarAccessRetry (s : State) : Host.Outcome State Fault Refusal :=
  match s.arg with
  | .num g _ _ _ => .next (s.modCore g fun c => { c with stalled := false })
  | _ => .next s

/-- 01 R18: an engine's increment of a counter -/
def execCounterIncrement (s : State) : Host.Outcome State Fault Refusal :=
  match s.arg with
  | .num g n _ _ => .next (s.setCounter g n (s.counter g n + 1))
  | _ => .next s

end Sys2Proof.Machine
end

