-- ==== Sys2Proof/Machine/Kmem.lean ====
section
/-! DEFINITION. The instructions of page 2: global and die-store accesses, windows, puts, atomics and multicast (08_kernel_memory R168 to R198). -/

namespace Sys2Proof.Machine

/-! ### Addresses (R168 to R171) -/

/-- What an address names. -/
inductive Aperture where
  | global
  | localMem (off : Nat)
  | window (tile core win off : Nat)
  | dieStore (die off : Nat)
  | reserved
deriving DecidableEq, Repr

/-- The aperture of an address; a bit that its layout does not name makes it reserved (R168, R177). -/
def apertureOf (a : Addr) : Aperture :=
  let top := field a 40 8
  if top < 0xF0 then .global
  else if top = 0xF0 then (if field a 21 19 = 0 then .localMem (field a 0 21) else .reserved)
  else if top = 0xF1 then
    (if field a 33 7 = 0 then .window (field a 24 9) (field a 21 3) (field a 18 3) (field a 0 18) else .reserved)
  else if top = 0xF2 then (if field a 30 10 = 0 then .dieStore (field a 28 2) (field a 0 28) else .reserved)
  else .reserved

/-- Why an instruction does not go on now: a trap, a stall, or a translation that must be walked for (R178). -/
inductive Block where
  | trap (t : Trap)
  | stall
  | walk (va : Addr) (rd wr : Bool)
deriving DecidableEq, Repr

def blockTrap (kind detail : BitVec 8) (a : Addr) : Block := .trap (trapOf kind detail a)

/-- The families of R176. -/
inductive Family where
  | ldg | ldw | put | atom
deriving DecidableEq, Repr

/-- Does a family accept an aperture (R176)? The own die is that of the issuing tile. -/
def Family.accepts (u : Family) (die : Nat) (a : Aperture) : Bool :=
  match u, a with
  | .ldg, .global => true
  | .ldg, .dieStore d _ => decide (d = die)
  | .ldw, .window _ _ _ _ => true
  | .put, .global => true
  | .put, .window _ _ _ _ => true
  | .put, .dieStore _ _ => true
  | .atom, .global => true
  | .atom, .dieStore _ _ => true
  | _, _ => false

/-- The checks of R177 on a window's tile: its physical tile. -/
def State.windowTile (s : State) (u : Family) (t pid l : Nat) (ea : Addr) : Except Block Nat :=
  match s.reachTile pid l with
  | none => .error (blockTrap kAccess 0x03 ea)
  | some x =>
    if u = .ldw ∧ (clusterOf x ≠ clusterOf t ∨ x = t) then .error (blockTrap kAccess 0x05 ea)
    else if !s.permitted pid t l then .error (blockTrap kAccess 0x08 ea)
    else .ok x

/-- The translation of one global address and the checks of R177 on it. -/
def State.globalDest (s : State) (u : Family) (t pid : Nat) (ea : Addr) (rd wr : Bool) : Except Block Dest :=
  match s.translate t pid ea.toNat rd wr with
  | .miss => .error (.walk ea rd wr)
  | .fault d => .error (blockTrap kXlate d ea)
  | .page e =>
    if e.rem then
      if u = .put ∨ u = .atom then .ok (.remote e.pkg (BitVec.ofNat 48 (e.phys ea.toNat)))
      else .error (blockTrap kAccess 0x02 ea)
    else
      let pa := e.phys ea.toNat
      match s.physKey pa with
      | none => .error (blockTrap kXlate 0x05 ea)
      | some k =>
        match s.stackOf pa with
        | some h =>
          if s.ownerFor (dieOf t) h ≠ dieOf t ∧ !e.ra then .error (blockTrap kAccess 0x04 ea) else .ok (.mem [k])
        | none => if u = .atom then .error (blockTrap kAccess 0x07 ea) else .ok (.mem [k])

/-- The destinations of words from a global address on: each word is translated, as a line may end a page or a granule. -/
def State.globalLine (s : State) (t pid : Nat) (ea : Addr) : Nat → Except Block (List Dest)
  | 0 => .ok []
  | n + 1 =>
    match s.globalDest .put t pid ea false true with
    | .error b => .error b
    | .ok d => (s.globalLine t pid (ea + 4) n).map (d :: ·)

/-- Words that go to one place in one message: those of this package's memory, or at consecutive addresses of another; with
the number of words. -/
def joinWords : List Dest → List (Dest × Nat)
  | [] => []
  | d :: l =>
    match d, joinWords l with
    | .mem ks, (.mem ks', n) :: more => (.mem (ks ++ ks'), n + 1) :: more
    | .remote p a, (.remote p' a', n) :: more =>
      if p' = p ∧ a' = a + 4 then (.remote p a, n + 1) :: more else (.remote p a, 1) :: (.remote p' a', n) :: more
    | d, more => (d, 1) :: more

/-- The checks of R177 on the target from its second line on: `align` is what the address must be a multiple of. -/
def State.target (s : State) (u : Family) (ea : Addr) (size align : Nat) (rd wr : Bool) : Except Block Dest :=
  let t := s.myTile
  let pid := s.pidOf s.me
  let ap := apertureOf ea
  if !u.accepts (dieOf t) ap then .error (blockTrap kAccess 0x02 ea)
  else if ea.toNat % align ≠ 0 then .error (blockTrap kAlign 0x01 ea)
  else
    match ap with
    | .window l c w o => (s.windowTile u t pid l ea).map fun x => .window x c w o
    | .dieStore d o =>
      if (s.part pid).dssSize d < o + size then .error (blockTrap kAccess 0x03 ea)
      else .ok (.mem [dieKey d ((s.part pid).dssBase d + o)])
    | .global => s.globalDest u t pid ea rd wr
    | _ => .error (blockTrap kAccess 0x02 ea)

/-- The parts of the 64 bytes of a PUTC (R188), checked as one target: where each goes, and its number of words. -/
def State.lineParts (s : State) (ea : Addr) : Except Block (List (Dest × Nat)) :=
  match apertureOf ea with
  | .global =>
    if ea.toNat % 4 ≠ 0 then .error (blockTrap kAlign 0x01 ea)
    else (s.globalLine s.myTile (s.pidOf s.me) ea 16).map joinWords
  | _ => (s.target .put ea 64 4 false true).map fun d => [(d, 16)]

/-- Do two destinations share a byte, of `n` and `m` bytes from each of their places? -/
def destsMeet (d : Dest) (n : Nat) (e : Dest) (m : Nat) : Bool :=
  match d, e with
  | .mem ks, .mem js => ks.any fun a => js.any fun b => decide (a < b + m) && decide (b < a + n)
  | .remote p a, .remote q b => decide (p = q) && decide (a.toNat < b.toNat + m) && decide (b.toNat < a.toNat + n)
  | _, _ => false

/-- The size of the pieces of a destination of `n` words (R188). -/
def pieceSize (e : Dest × Nat) : Nat :=
  match e.1 with
  | .mem ks => 4 * e.2 / ks.length
  | _ => 4 * e.2

/-- Is an access of the issuing context to one of these `n` bytes from each place still to be performed (R181)? It may wait
for what it releases, for a hand-over, for the earlier part of its PUTC, for a replay or for another package. -/
def State.accessPending (s : State) (d : Dest) (n : Nat) : Bool :=
  s.accesses.any fun a => !a.copy && decide (a.by_.core = s.me) && decide (a.by_.ctx = s.myCtx) && destsMeet a.dest a.piece d n

/-- The first line of R177, and then the rest; an access to what an earlier one of the context will still access waits for
it, as the context's accesses to one location take effect in program order (R181). -/
def State.checked (s : State) (u : Family) (ea : Addr) (size : Nat) (rd wr : Bool) : Except Block Dest :=
  if apertureOf ea = .reserved then .error (blockTrap kAccess 0x03 ea)
  else
    match s.target u ea size size rd wr with
    | .ok d => if s.accessPending d size then .error .stall else .ok d
    | r => r

/-- Does a put go to a span of the issuing tile's own windows that a vector instruction of the core has still to access
(R181; 05 R128)? -/
def State.vecOverlaps (s : State) (d : Dest) (n : Nat) : Bool :=
  match d with
  | .window t c w o =>
    decide (t = s.myTile) &&
    (s.core s.me).vecPending (0x40000 * c + field (Tab.get 0 (s.core (8 * t + c)).wins w) 0 18 + o) n
  | _ => false

/-- Does a counter target name a tile that the issuing tile may not send to (17 R376)? -/
def State.targetBarred (s : State) (t pid pkg : Nat) (x : Word64) : Bool :=
  targetV x && decide (pkg = s.pod.pkgn.toNat) && !s.permitted pid t (targetCore x / 8)

/-- The package of a destination. -/
def State.destPkg (s : State) (d : Dest) : Nat :=
  match d with
  | .remote p _ => p
  | _ => s.pod.pkgn.toNat

/-- The checks on the counter target of a put (R187; 17 R376). -/
def State.targetOk (s : State) (d : Dest) (ea : Addr) (x : Word64) : Except Block Unit :=
  let pid := s.pidOf s.me
  let pkg := s.destPkg d
  if s.targetBad pid pkg x then .error (blockTrap kAccess 0x06 ea)
  else if s.targetBarred s.myTile pid pkg x then .error (blockTrap kAccess 0x08 ea)
  else .ok ()

/-- The same for the parts of a PUTC: a target that counts must name the package of every part (log 64). -/
def State.partsTargetOk (s : State) (ds : List (Dest × Nat)) (ea : Addr) (x : Word64) : Except Block Unit :=
  match ds with
  | [] => .ok ()
  | (d, _) :: more =>
    if targetV x && more.any fun e => decide (s.destPkg e.1 ≠ s.destPkg d) then .error (blockTrap kAccess 0x06 ea)
    else s.targetOk d ea x

/-! ### Issue -/

/-- An instruction that was stopped: it traps, waits for a walk as for an off-core load, or stalls; with 16 misses of its
tile outstanding a miss to another page stalls (16 R355). -/
def State.blocked (s : State) : Block → State
  | .trap t => s.raise t
  | .stall => s.stall
  | .walk va rd wr =>
    let g := s.me
    let c := s.myCtx
    if s.missRoom s.myTile va then (s.leaveRunning g c .waitLoad).sendWalk g c va rd wr else s.stall

/-- An instruction of page 2 under its predicate. -/
def runKmem (pre : Prefixes) (s : State) (f : State → Except Block State) : State :=
  guarded pre s fun s =>
    match f s with
    | .error b => s.blocked b
    | .ok s => s

/-- A value read from memory, extended (R179). -/
def memExt (t : Option Ty) (x : Nat) : Word64 := if t = some .f32 then BitVec.ofNat 64 x else extend t x

/-- The bytes at the keys of a destination. -/
def State.rdKeys (s : State) (n : Nat) (keys : List Nat) : List Byte := keys.flatMap fun k => s.rdN k (n / keys.length)
def State.wrKeys (s : State) (data : List Byte) (keys : List Nat) : State :=
  let n := data.length / keys.length
  (keys.zip (List.range keys.length)).foldl (fun s p => s.wrN p.1 ((data.drop (n * p.2)).take n)) s

/-- The context waits for the reply of its access. -/
def State.awaitPtr (s : State) (p : BitVec 3) (pm : PostMode) (size : Nat) (pre : Prefixes) (ty : Option Ty) : State :=
  let k := s.strand
  s.await ⟨k.next pre, false, some (p.toNat, (k.ptr p.toNat).post pm size), ty, none⟩

/-- The hand-over for which a request of the issuing tile to some keys waits (17 R398). -/
def State.heldFor (s : State) (keys : List Nat) : Option Nat := s.heldBy (dieOf s.myTile) (keyStacks keys)

/-- A load of the die store or of global memory (R183): it is performed at issue, or once the hand-over of its stack has
ended (17 R399), and its value lands later. -/
def loadGlobal (p : BitVec 3) (pm : PostMode) (pre : Prefixes) (s : State) : State :=
  runKmem pre s fun s =>
    let n := sizeOf' pre.ty
    let ea := (s.strand.ptr p.toNat).addr
    match s.checked .ldg ea n true false with
    | .error b => .error b
    | .ok (.mem [k]) =>
      match s.heldFor [k] with
      | some h =>
        let m : WinReq := ⟨s.issuer, ea, 0, 0, 0, 0, false, n, [], pre.ty, false, false, []⟩
        .ok ((s.awaitPtr p pm n pre pre.ty).waitFor h ⟨.loadReply, .load m [k]⟩)
      | none =>
        match s.poisonIn k n with
        | some o => .error (blockTrap kMemory 0x03 (ea + BitVec.ofNat 48 o))
        | none =>
          .ok ((s.awaitPtr p pm n pre pre.ty).reply s.me s.myCtx
            { Reply.plain with a := some (memExt pre.ty (s.rdNat k n)) })
    | .ok _ => .error (blockTrap kAccess 0x02 ea)

/-- A load that a hand-over held is performed (17 R399). -/
def State.landLoad (s : State) (m : WinReq) (keys : List Nat) : State :=
  match keys with
  | [k] =>
    match s.poisonIn k m.size with
    | some o => s.reply m.by_.core m.by_.ctx (Reply.trapped kMemory 0x03 (m.addr + BitVec.ofNat 48 o))
    | none => s.reply m.by_.core m.by_.ctx { Reply.plain with a := some (memExt m.ty (s.rdNat k m.size)) }
  | _ => s

/-- A posted operation enters the queue of its core and the count of its task (R180). -/
def State.postBegin (s : State) (g : Nat) : State :=
  (s.modCore g fun c => { c with posted := c.posted + 1 }).opBegin (s.pidOf g) (s.tcbOf g)

/-- A posted store (R183): it is performed at issue; a release holds its place in the queue until what it releases has
been performed, and the context goes on (R182). -/
def storeGlobal (rel : Bool) (p : BitVec 3) (pm : PostMode) (pre : Prefixes) (s : State) : State :=
  runKmem pre s fun s =>
    let n := sizeOf' pre.ty
    let k := s.strand
    let ea := (k.ptr p.toNat).addr
    match s.checked .ldg ea n false true with
    | .error b => .error b
    | .ok (.mem keys) =>
      if 32 ≤ (s.core s.me).posted then .error .stall
      else
        let d := storeBytes pre k.a
        let k := { k.applyPost p pm n with f := flagsSat k.f d.2 }
        let m : PutMsg := ⟨s.issuer, ea, .mem keys, d.1, 0, [], rel, none, false⟩
        if rel && !s.released then .ok (((s.postBegin s.me).complete k (k.next pre)).due [⟨.putDelivery, .put m⟩])
        else match s.heldFor keys with
        | some h => .ok (((s.postBegin s.me).complete k (k.next pre)).waitFor h ⟨.putDelivery, .put m⟩)
        | none => .ok ((s.wrKeys d.1 keys).complete k (k.next pre))
    | .ok _ => .error (blockTrap kAccess 0x02 ea)

/-- A window access is sent to its target tile (R183). -/
def windowAccess (write rel : Bool) (p : BitVec 3) (pm : PostMode) (pre : Prefixes) (s : State) : State :=
  runKmem pre s fun s =>
    let n := sizeOf' pre.ty
    let ea := (s.strand.ptr p.toNat).addr
    match s.checked .ldw ea n (!write) write with
    | .error b => .error b
    | .ok (.window x c w o) =>
      let d := storeBytes pre s.strand.a
      let m : WinReq := ⟨s.issuer, ea, x, c, w, o, write, n, if write then d.1 else [], pre.ty, write && d.2, rel, []⟩
      .ok ((s.awaitPtr p pm n pre pre.ty).due [⟨.windowAccessCheck, .win m⟩])
    | .ok _ => .error (blockTrap kAccess 0x02 ea)

/-- R183 -/
def execLdg (p : BitVec 3) (pm : PostMode) (pre : Prefixes) (s : State) : Host.Outcome State Fault Refusal :=
  .next (loadGlobal p pm pre s)

/-- R182: no later access of the context is performed before the value has returned -/
def execLdgAcq (p : BitVec 3) (pm : PostMode) (_ : Scope) (pre : Prefixes) (s : State) : Host.Outcome State Fault Refusal :=
  .next (loadGlobal p pm pre s)

/-- R183 -/
def execStg (p : BitVec 3) (pm : PostMode) (pre : Prefixes) (s : State) : Host.Outcome State Fault Refusal :=
  .next (storeGlobal false p pm pre s)

/-- R182 -/
def execStgRel (p : BitVec 3) (pm : PostMode) (_ : Scope) (pre : Prefixes) (s : State) : Host.Outcome State Fault Refusal :=
  .next (storeGlobal true p pm pre s)

/-- R183 -/
def execLdw (p : BitVec 3) (pm : PostMode) (pre : Prefixes) (s : State) : Host.Outcome State Fault Refusal :=
  .next (windowAccess false false p pm pre s)

/-- R182 -/
def execLdwAcq (p : BitVec 3) (pm : PostMode) (_ : Scope) (pre : Prefixes) (s : State) : Host.Outcome State Fault Refusal :=
  .next (windowAccess false false p pm pre s)

/-- R183 -/
def execStw (p : BitVec 3) (pm : PostMode) (pre : Prefixes) (s : State) : Host.Outcome State Fault Refusal :=
  .next (windowAccess true false p pm pre s)

/-- R182: the access waits at its target for what it releases -/
def execStwRel (p : BitVec 3) (pm : PostMode) (_ : Scope) (pre : Prefixes) (s : State) : Host.Outcome State Fault Refusal :=
  .next (windowAccess true true p pm pre s)

/-! ### Windows (R184 to R186) -/

/-- Is a window descriptor well formed (R185)? -/
def windowOk (a : Word64) : Bool :=
  let len := field a 20 19
  let base := field a 0 18
  if field a 62 2 = 0 then decide (a = 0)
  else decide (field a 62 2 ≠ 3) && decide (field a 39 20 = 0) && decide (field a 18 2 = 0) && decide (len % 4 = 0) &&
    decide (4 ≤ len) && decide (base % 4 = 0) && decide (base + len ≤ 0x40000)

/-- R185 -/
def execWinset (w : BitVec 3) (pre : Prefixes) (s : State) : Host.Outcome State Fault Refusal :=
  .next (runKmem pre s fun s =>
    let a := s.strand.a
    if !windowOk a then .error (blockTrap kAccess 0x06 0)
    else .ok ((s.modCore s.me fun c => { c with wins := Tab.set 0 c.wins w.toNat a }).skip pre))

/-- The kinds of window access: the bit of the descriptor that permits each (R184). -/
inductive WinUse where
  | put | store | load
deriving DecidableEq, Repr

def WinUse.bit : WinUse → Nat
  | .put => 61
  | .store => 60
  | .load => 59

/-- The check at the target (R186): the refusal's detail, or the scratchpad key of the first byte. -/
def State.windowCheck (s : State) (tile core win off size : Nat) (u : WinUse) : Except (BitVec 8) Nat :=
  let d := Tab.get 0 (s.core (8 * tile + core)).wins win
  if field d 62 2 = 0 then .error 0x02
  else if field d 62 2 = 2 then .error 0x03
  else if !d.getLsbD u.bit then .error 0x04
  else if field d 20 19 < off + size then .error 0x01
  else .ok (scratchKey tile (0x40000 * core + field d 0 18 + off))

/-- R186: a window access is checked and served at its target tile, or refused; a borrowed tile that its owner has taken
back meanwhile lies outside the partition (17 R377) -/
def execWindowAccessCheck (s : State) : Host.Outcome State Fault Refusal :=
  match s.arg with
  | .win m =>
    if m.rel && !s.releasedFor m.by_ then .next (s.dueIn 4 ⟨.windowAccessCheck, .win m⟩)
    else if s.heldBack m.tile && decide (entryBpid (s.tileEntry m.tile) = m.by_.pid) then
      .next (s.reply m.by_.core m.by_.ctx (Reply.trapped kAccess 0x03 m.addr))
    else
    match s.windowCheck m.tile m.core m.win m.off m.size (if m.write then .store else .load) with
    | .error d => .next (s.reply m.by_.core m.by_.ctx (Reply.trapped kNack d m.addr))
    | .ok k =>
      if m.write then
        .next ((s.wrBad k m.data m.bad).reply m.by_.core m.by_.ctx
          { Reply.plain with fmask := if m.sat then 0x100 else 0, fval := 0x100 })
      else
        match s.poisonIn k m.size with
        | some o => .next (s.reply m.by_.core m.by_.ctx (Reply.trapped kMemory 0x03 (m.addr + BitVec.ofNat 48 o)))
        | none => .next (s.reply m.by_.core m.by_.ctx { Reply.plain with a := some (memExt m.ty (s.rdNat k m.size)) })
  | _ => .next s

/-! ### Posted operations (R180, R187 to R190, R196) -/

/-- A posted operation leaves the tile. -/
def State.postLeave (s : State) (i : Issuer) : State := s.modCore i.core fun c => { c with posted := c.posted - 1 }

/-- It has left the tile and completed. -/
def State.postEnd (s : State) (i : Issuer) : State := (s.postLeave i).opEnd i.pid i.tcb

/-- R188: PUT -/
def execPut (p : BitVec 3) (pm : PostMode) (pre : Prefixes) (s : State) : Host.Outcome State Fault Refusal :=
  .next (runKmem pre s fun s =>
    let n := sizeOf' pre.ty
    let k := s.strand
    let ea := (k.ptr p.toNat).addr
    match s.checked .put ea n false true with
    | .error b => .error b
    | .ok d =>
      match s.targetOk d ea k.x with
      | .error b => .error b
      | .ok _ =>
        if 32 ≤ (s.core s.me).posted ∨ s.vecOverlaps d n = true then .error .stall
        else
          let v := storeBytes pre k.a
          let k' := { k.applyPost p pm n with f := flagsSat k.f v.2 }
          .ok (((s.postBegin s.me).complete k' (k.next pre)).due
            [⟨.putDelivery, .put ⟨s.issuer, ea, d, v.1, k.x, [], false, none, false⟩⟩]))

/-- The poisoned 4-byte words of a scratchpad span, by offset. -/
def State.badWords (s : State) (key n : Nat) : List Nat :=
  if s.poison.isEmpty then [] else ((List.range (n / 4)).map (4 * ·)).filter fun o => (s.poisonIn (key + o) 4).isSome

/-- A report of a poisoned source word (21 R420). -/
def State.reportPoison (s : State) (i : Issuer) (a : Option Addr) (aux : Nat) : State :=
  match a with
  | some a => s.fault i (endedInfo stPoisoned a.toNat aux)
  | none => s

/-- R188: PUTC. DESIGN CHOICE (log 27): a source in a reserved aperture raises ACCESS with detail 0x03, one that is not
local 0x02, one that runs past the scratchpad's end 0x01, each at the place of that check among the target's -/
def execPutc (p : BitVec 3) (pm : PostMode) (pre : Prefixes) (s : State) : Host.Outcome State Fault Refusal :=
  .next (runKmem pre s fun s =>
    let k := s.strand
    let src := (k.ptr p.toNat).addr
    let ea : Addr := k.a.setWidth 48
    if field k.a 48 16 ≠ 0 ∨ apertureOf ea = .reserved then .error (blockTrap kAccess 0x03 ea)
    else if apertureOf src = .reserved then .error (blockTrap kAccess 0x03 src)
    else if !Family.put.accepts 0 (apertureOf ea) then .error (blockTrap kAccess 0x02 ea)
    else
      match apertureOf src with
      | .localMem o =>
        if 2 ^ 21 < o + 64 then .error (blockTrap kAccess 0x01 src)
        else if o % 4 ≠ 0 then .error (blockTrap kAlign 0x01 src)
        else
          match s.lineParts ea with
          | .error b => .error b
          | .ok [] => .error (blockTrap kAccess 0x02 ea)
          | .ok ((d, n) :: more) =>
            match s.partsTargetOk ((d, n) :: more) ea k.x with
            | .error b => .error b
            | .ok _ =>
              let again := ((d, n) :: more).any fun e => s.accessPending e.1 (pieceSize e) || s.vecOverlaps e.1 64
              if 32 ≤ (s.core s.me).posted ∨ (s.core s.me).vecPending o 64 ∨ again = true then .error .stall
              else
                let key := scratchKey s.myTile o
                let bad := s.badWords key 64
                let data := s.rdN key 64
                let cut := 4 * n
                let rest : Option PutRest := more.head?.map fun e =>
                  ⟨e.1, ea + BitVec.ofNat 48 cut, data.drop cut, (bad.filter fun b => decide (cut ≤ b)).map (· - cut)⟩
                let m : PutMsg := ⟨s.issuer, ea, d, data.take cut, k.x, bad.filter fun b => decide (b < cut), false, rest, false⟩
                let s' := (s.postBegin s.me).complete (k.applyPost p pm 64) (k.next pre)
                .ok ((s'.reportPoison s.issuer (bad.head?.map fun b => localAddr (o + b)) 0).due [⟨.putDelivery, .put m⟩])
      | _ => .error (blockTrap kAccess 0x02 src))

/-- Data of a put is written, its poisoned words with it (21 R420). -/
def State.land (s : State) (m : PutMsg) (keys : List Nat) : State :=
  let s := s.wrKeys m.data keys
  let n := m.data.length / keys.length
  m.bad.foldl (fun s o => s.poisonAt (keys.getD (o / n) 0 + o % n) 4) s

/-- A refused put: a deferred NACK, or a record where it cannot be raised (R190). -/
def State.refusePut (s : State) (m : PutMsg) (d : BitVec 8) : State :=
  let c := s.core m.by_.core
  let live := (c.ctx m.by_.ctx).live && decide (s.tcbOf m.by_.core = m.by_.tcb)
  if live && decide (c.refusals.length < 16) then
    (s.setCore m.by_.core { c with refusals := c.refusals ++ [⟨m.by_.ctx, m.by_.opc, m.addr, d⟩] }).postEnd m.by_
  else s.due [⟨.postedOpFailure, .failed m.by_ stRefused d m.addr⟩]

/-- A put that has landed completes; it may have left its tile's queue before. -/
def State.putEnd (s : State) (m : PutMsg) : State := if m.left then s.opEnd m.by_.pid m.by_.tcb else s.postEnd m.by_

/-- A part of a put has landed: the rest goes on, or the counter is incremented and the put completes (R189). -/
def State.putOn (s : State) (m : PutMsg) : State :=
  match m.rest with
  | some r => s.due [⟨.putDelivery, .put { m with addr := r.addr, dest := r.dest, data := r.data, bad := r.bad, rest := none }⟩]
  | none => (s.signal m.by_.pid m.target).putEnd m

/-- R189: a put's data lands, and then its counter is incremented; during a hand-over of its stack it waits (17 R399) -/
def execPutDelivery (s : State) : Host.Outcome State Fault Refusal :=
  match s.arg with
  | .put m =>
    if m.rel && !s.releasedFor m.by_ then .next (s.dueIn 4 ⟨.putDelivery, .put m⟩)
    else
    match m.dest with
    | .mem keys =>
      match s.heldBy (dieOf (m.by_.core / 8)) (keyStacks keys) with
      | some h => .next (s.waitFor h ⟨.putDelivery, .put m⟩)
      | none => .next ((s.land m keys).putOn m)
    | .window t c w o =>
      if s.heldBack t && decide (entryBpid (s.tileEntry t) = m.by_.pid) then
        .next (s.due [⟨.postedOpFailure, .failed m.by_ stRefused 0 m.addr⟩])
      else
        match s.windowCheck t c w o m.data.length .put with
        | .error d => .next (s.refusePut m d)
        | .ok k => .next ((s.wrBad k m.data m.bad).putOn m)
    | .remote pkg _ =>
      let s := if m.left then s else s.postLeave m.by_
      .next (s.sendRequest m.by_ pkg fun p j t => .put p j t { m with left := true })
  | _ => .next s

/-- R190: the first refusal queued for a context is raised at an instruction boundary; a copy that has stalled there is
issued anew after it (09 R208) -/
def execDeferredRefusal (s : State) : Host.Outcome State Fault Refusal :=
  match s.arg with
  | .num g c _ _ =>
    let x := s.core g
    match x.refusals.find? fun r => decide (r.ctx = c) with
    | none => .next s
    | some r =>
      let s := (s.setCore g { x with refusals := x.refusals.erase r }).modCtx g c fun k => { k with copyHeld := none }
      .next (s.takeTrap g c { trapOf kNack r.detail r.dest with
        deferred := true, pc := (s.ctx g c).pc, opc := some r.opc })
  | _ => .next s

/-- R196: a posted operation is discarded, completes, and is reported to its task -/
def execPostedOpFailure (s : State) : Host.Outcome State Fault Refusal :=
  match s.arg with
  | .failed i st d a => .next ((s.fault i { endedInfo st a.toNat 0 with kind := nackKind d, detail := d.toNat }).postEnd i)
  | _ => .next s

/-! ### Atomics (R191 to R195) -/

def orderRel : AtomOrder → Bool
  | .release | .acqRel => true
  | _ => false

/-- The new value of the location (R191). -/
def atomNew (op : AtomOp) (t : Option Ty) (old v cmp : Nat) : Nat :=
  let n := 8 * sizeOf' t
  let float := decide (t = some .f32)
  let i (f : Int → Int → Int) (g : FV → FV → FV) : Nat :=
    if float then ((g (f32 old) (f32 v)).round .f32 .nearest false).1 else wrapNat n (f (signedOf n old) (signedOf n v))
  match op with
  | .add => i (· + ·) fun a b => (FV.add .nearest a b).1
  | .min => i min fun a b => (FV.min a b).1
  | .max => i max fun a b => (FV.max a b).1
  | .and => old &&& v % 2 ^ n
  | .or => old ||| v % 2 ^ n
  | .xor => old ^^^ v % 2 ^ n
  | .xchg => v % 2 ^ n
  | .cas => if old = cmp % 2 ^ n then v % 2 ^ n else old

/-- The reply of an atomic that was performed (R192, R195); `old` is none where the response lost it. DESIGN CHOICE (log 81): F.Z of a
CAS that completes as APPLIED-ERROR with its old value is as for one that completes without error. -/
def atomReply (m : AtomMsg) (old : Option Nat) (error : Bool) : Reply :=
  let n := 8 * sizeOf' m.ty
  let cas := decide (m.op = .cas)
  let z := match old with
    | some o => decide (o = m.cmp.toNat % 2 ^ n)
    | none => false
  { Reply.plain with
    a := old.map (memExt m.ty)
    fmask := 0xC + if cas then 1 else 0
    fval := (if old.isSome then 4 else 0) + (if error then 8 else 0) + if z then 1 else 0 }

/-- A returning atomic (R192): the operand in X, compared with A. -/
def atomReturning (op : AtomOp) (p : BitVec 3) (o : AtomOrder) (pre : Prefixes) (s : State) : State :=
  runKmem pre s fun s =>
    let n := sizeOf' pre.ty
    let k := s.strand
    let ea := (k.ptr p.toNat).addr
    match s.checked .atom ea n true true with
    | .error b => .error b
    | .ok d =>
      .ok ((s.await ⟨k.next pre, false, none, pre.ty, some k.a⟩).due
        [⟨.atomicPerform, .atom ⟨s.issuer, ea, d, op, pre.ty, true, k.x, k.a, orderRel o, false⟩⟩])

/-- A posted atomic (R191): the operand in A. -/
def atomPosted (op : AtomOp) (p : BitVec 3) (o : AtomOrder) (pre : Prefixes) (s : State) : State :=
  runKmem pre s fun s =>
    let n := sizeOf' pre.ty
    let k := s.strand
    let ea := (k.ptr p.toNat).addr
    match s.checked .atom ea n true true with
    | .error b => .error b
    | .ok d =>
      if 32 ≤ (s.core s.me).posted then .error .stall
      else
        .ok (((s.postBegin s.me).skip pre).due
          [⟨.atomicPerform, .atom ⟨s.issuer, ea, d, op, pre.ty, false, k.a, 0, orderRel o, false⟩⟩])

/-- The first poisoned byte that keeps an atomic on `n` bytes from being applied (21 R420): of its location, or of its operands in
a router buffer. -/
def State.atomPoison (s : State) (m : AtomMsg) (k n : Nat) : Option Nat := if m.bad then some 0 else s.poisonIn k n

/-- R194: an atomic is performed at its location, once. DESIGN CHOICE (log 84): one whose operands have been poisoned on the way is
not applied, as one on a poisoned location (21 R420) -/
def execAtomicPerform (s : State) : Host.Outcome State Fault Refusal :=
  match s.arg with
  | .atom m =>
    let i := m.by_
    let n := sizeOf' m.ty
    if m.rel && !s.releasedFor i then .next (s.dueIn 4 ⟨.atomicPerform, .atom m⟩)
    else
    match m.dest with
    | .mem [k] =>
      match s.heldBy (dieOf (i.core / 8)) (keyStacks [k]) with
      | some h => .next (s.waitFor h ⟨.atomicPerform, .atom m⟩)
      | none =>
      match s.atomPoison m k n with
      | some o =>
        let a := m.addr + BitVec.ofNat 48 o
        if m.returning then .next (s.reply i.core i.ctx (Reply.trapped kMemory 0x01 a))
        else .next (s.due [⟨.postedOpFailure, .failed i stNotApplied 0 a⟩])
      | none =>
        let old := s.rdNat k n
        let s := s.wrNat k n (atomNew m.op m.ty old m.v.toNat m.cmp.toNat)
        if m.returning then .next (s.reply i.core i.ctx (atomReply m (some old) false)) else .next (s.postEnd i)
    | .remote pkg _ =>
      let s := if m.returning then s else s.postLeave i
      .next (s.sendRequest i pkg fun p j t => .atom p j t m)
    | _ => .next s
  | _ => .next s

/-- R192 -/
def execAtomAdd (p : BitVec 3) (o : AtomOrder) (_ : Scope) (pre : Prefixes) (s : State) : Host.Outcome State Fault Refusal :=
  .next (atomReturning .add p o pre s)

/-- R192 -/
def execAtomMin (p : BitVec 3) (o : AtomOrder) (_ : Scope) (pre : Prefixes) (s : State) : Host.Outcome State Fault Refusal :=
  .next (atomReturning .min p o pre s)

/-- R192 -/
def execAtomMax (p : BitVec 3) (o : AtomOrder) (_ : Scope) (pre : Prefixes) (s : State) : Host.Outcome State Fault Refusal :=
  .next (atomReturning .max p o pre s)

/-- R192 -/
def execAtomAnd (p : BitVec 3) (o : AtomOrder) (_ : Scope) (pre : Prefixes) (s : State) : Host.Outcome State Fault Refusal :=
  .next (atomReturning .and p o pre s)

/-- R192 -/
def execAtomOr (p : BitVec 3) (o : AtomOrder) (_ : Scope) (pre : Prefixes) (s : State) : Host.Outcome State Fault Refusal :=
  .next (atomReturning .or p o pre s)

/-- R192 -/
def execAtomXor (p : BitVec 3) (o : AtomOrder) (_ : Scope) (pre : Prefixes) (s : State) : Host.Outcome State Fault Refusal :=
  .next (atomReturning .xor p o pre s)

/-- R192 -/
def execAtomXchg (p : BitVec 3) (o : AtomOrder) (_ : Scope) (pre : Prefixes) (s : State) : Host.Outcome State Fault Refusal :=
  .next (atomReturning .xchg p o pre s)

/-- R192 -/
def execAtomCas (p : BitVec 3) (o : AtomOrder) (_ : Scope) (pre : Prefixes) (s : State) : Host.Outcome State Fault Refusal :=
  .next (atomReturning .cas p o pre s)

/-- R191 -/
def execAtomnAdd (p : BitVec 3) (o : AtomOrder) (_ : Scope) (pre : Prefixes) (s : State) : Host.Outcome State Fault Refusal :=
  .next (atomPosted .add p o pre s)

/-- R191 -/
def execAtomnMin (p : BitVec 3) (o : AtomOrder) (_ : Scope) (pre : Prefixes) (s : State) : Host.Outcome State Fault Refusal :=
  .next (atomPosted .min p o pre s)

/-- R191 -/
def execAtomnMax (p : BitVec 3) (o : AtomOrder) (_ : Scope) (pre : Prefixes) (s : State) : Host.Outcome State Fault Refusal :=
  .next (atomPosted .max p o pre s)

/-- R191 -/
def execAtomnAnd (p : BitVec 3) (o : AtomOrder) (_ : Scope) (pre : Prefixes) (s : State) : Host.Outcome State Fault Refusal :=
  .next (atomPosted .and p o pre s)

/-- R191 -/
def execAtomnOr (p : BitVec 3) (o : AtomOrder) (_ : Scope) (pre : Prefixes) (s : State) : Host.Outcome State Fault Refusal :=
  .next (atomPosted .or p o pre s)

/-- R191 -/
def execAtomnXor (p : BitVec 3) (o : AtomOrder) (_ : Scope) (pre : Prefixes) (s : State) : Host.Outcome State Fault Refusal :=
  .next (atomPosted .xor p o pre s)

/-! ### Multicast (R197) -/

/-- One replica to write per die, the last marked. -/
def replicas (i : Issuer) (data : List Byte) : List Nat → List Due
  | [] => []
  | [k] => [⟨.mcstReplicaWrite, .replica i k data [] true⟩]
  | k :: ks => ⟨.mcstReplicaWrite, .replica i k data [] false⟩ :: replicas i data ks

/-- R197; it waits for the earlier accesses of the context to a word that it writes (R181) -/
def execMcst (p : BitVec 3) (pm : PostMode) (pre : Prefixes) (s : State) : Host.Outcome State Fault Refusal :=
  .next (runKmem pre s fun s =>
    let n := sizeOf' pre.ty
    let k := s.strand
    let ea := (k.ptr p.toNat).addr
    let part := s.part (s.pidOf s.me)
    let dies := bitList 4 k.x.toNat
    match apertureOf ea with
    | .reserved => .error (blockTrap kAccess 0x03 ea)
    | .dieStore die off =>
      if die ≠ 0 then .error (blockTrap kAccess 0x03 ea)
      else if ea.toNat % n ≠ 0 then .error (blockTrap kAlign 0x01 ea)
      else if dies.any fun d => decide (part.dssSize d < off + n) then .error (blockTrap kAccess 0x03 ea)
      else if field k.x 4 60 ≠ 0 then .error (blockTrap kAccess 0x06 ea)
      else
        let v := storeBytes pre k.a
        let k' := { k.applyPost p pm n with f := flagsSat k.f v.2 }
        let keys := dies.map fun d => dieKey d (part.dssBase d + off)
        if dies.isEmpty then .ok (s.complete k' (k.next pre))
        else if 32 ≤ (s.core s.me).posted ∨ s.accessPending (.mem keys) n = true then .error .stall
        else .ok (((s.postBegin s.me).complete k' (k.next pre)).due (replicas s.issuer v.1 keys))
    | _ => .error (blockTrap kAccess 0x02 ea))

/-- R197: one replica is written; the multicast completes with the last -/
def execMcstReplicaWrite (s : State) : Host.Outcome State Fault Refusal :=
  match s.arg with
  | .replica i k data bad last => .next (if last then (s.wrBad k data bad).postEnd i else s.wrBad k data bad)
  | _ => .next s

end Sys2Proof.Machine
end

