-- ==== Sys2Proof/Machine/Count.lean ====
section
/-! DEFINITION. Counting instances, the instructions of page 3, and the requests and combining traffic in flight on the fabric (11_kreil_fabric R259 to R284; 17_partitions_stacks R378). -/

namespace Sys2Proof.Machine

/-! ### The network (R260, R261, R265) -/

/-- The layers of a network of width 2^m: `(M, X)` pairs each wire i with i mod M < M/2 and the wire i xor X. -/
def netLayers (m : Nat) : List (Nat × Nat) :=
  (List.range m).flatMap fun t =>
    (2 ^ (t + 1), 2 ^ (t + 1) - 1) :: (List.range t).map fun u => (2 ^ (t - u), 2 ^ (t - 1 - u))

/-- The two wires that a balancer of a layer joins, the lower first. -/
def pairOf (l : Nat × Nat) (wire : Nat) : Nat × Nat :=
  if wire % l.1 < l.1 / 2 then (wire, Nat.xor wire l.2) else (Nat.xor wire l.2, wire)

/-- Where a balancer stands in its layer, in ascending order of its lower wire (R261). -/
def rankOf (l : Nat × Nat) (i : Nat) : Nat := i / l.1 * (l.1 / 2) + i % l.1

/-- One layer passed (R265): the wire it leaves on, and the cells, `n` cells to a layer. -/
def passLayer (cells : Tab Bool) (n layer : Nat) (l : Nat × Nat) (anti : Bool) (wire : Nat) : Nat × Tab Bool :=
  let p := pairOf l wire
  let at_ := n * layer + rankOf l p.1
  let c := Tab.get false cells at_
  let taken := if anti then !c else c
  (if taken then p.2 else p.1, Tab.set false cells at_ (!c))

/-- Every layer passed in one go, from layer `k` on. -/
def passAll (n : Nat) (anti : Bool) : Nat → List (Nat × Nat) → Tab Bool → Nat → Nat × Tab Bool
  | _, [], cells, wire => (wire, cells)
  | k, l :: ls, cells, wire =>
    let r := passLayer cells n k l anti wire
    passAll n anti (k + 1) ls r.2 r.1

/-! ### Exits (R263, R267 to R269) -/

/-- An exit entry: CNT, VAC and the pinholes in ascending order. -/
structure Exit where
  cnt : Int
  vac : Nat
  ph : List Nat
deriving DecidableEq, Repr

def exitOf (x : BitVec 256) : Exit :=
  ⟨signedOf 40 (field x 0 40), field x 40 40, (List.range (field x 240 3)).map fun i => field x (80 + 40 * i) 40⟩

def Exit.word (x : Exit) : BitVec 256 :=
  BitVec.ofNat 256 (mkRecord ([(0, 40, wrapNat 40 x.cnt), (40, 40, x.vac), (240, 3, x.ph.length)] ++
    (x.ph.zip (List.range 4)).map fun p => (80 + 40 * p.2, 40, p.1)))

/-- Statuses of page 3 (R275). -/
def ctOk : Nat := 0
def ctAbsorbed : Nat := 1
def ctVacant : Nat := 2
def ctDefer : Nat := 3
def ctPinholed : Nat := 4
def ctNotlive : Nat := 5
def ctFull : Nat := 6
def ctSpent : Nat := 7
def ctEmpty : Nat := 8
def ctOvercount : Nat := 9
def ctShort : Nat := 10
def ctMismatch : Nat := 11

/-- What an exit answers: the status, the index or the steps, and the entry after it. -/
structure Served where
  status : Nat
  value : Option Nat
  exit : Exit
deriving DecidableEq, Repr

/-- The pinholes at the top of the exit's sequence become vacancies (R268); the pinholes are given from the top down. -/
def collapseFrom (cnt : Int) (vac : Nat) : List Nat → Exit
  | [] => ⟨cnt, vac, []⟩
  | k :: ks => if (k : Int) = cnt - 1 then collapseFrom (cnt - 1) (vac + 1) ks else ⟨cnt, vac, (k :: ks).reverse⟩

def Exit.collapse (x : Exit) : Exit := collapseFrom x.cnt x.vac x.ph.reverse

/-- A token at exit `e` of an instance of width `w` (R267). -/
def Exit.token (x : Exit) (w e : Nat) : Served :=
  if x.cnt < 0 then ⟨ctAbsorbed, none, { x with cnt := x.cnt + 1 }⟩
  else
    match x.ph with
    | k :: ks => ⟨ctOk, some (e + w * k), { x with ph := ks, vac := x.vac + 1 }⟩
    | [] =>
      if x.cnt = 2 ^ 39 - 1 then ⟨ctSpent, none, { x with vac := x.vac + 1 }⟩
      else ⟨ctOk, some (e + w * x.cnt.toNat), { x with cnt := x.cnt + 1 }⟩

/-- An antitoken at exit `e` (R268). -/
def Exit.antitoken (x : Exit) (w e : Nat) : Served :=
  if 0 < x.vac then ⟨ctVacant, some (e + w * (x.cnt + x.vac - 1).toNat), { x with vac := x.vac - 1 }⟩
  else if x.cnt ≤ 0 then ⟨ctDefer, none, { x with cnt := x.cnt - 1 }⟩
  else ⟨ctOk, some (e + w * (x.cnt - 1).toNat), ({ x with cnt := x.cnt - 1 } : Exit).collapse⟩

/-- A pinhole put among the others in ascending order. -/
def insertHole (k : Nat) : List Nat → List Nat
  | [] => [k]
  | j :: js => if k < j then k :: j :: js else j :: insertHole k js

/-- A cancellation of count position `k` (R269); the value is the number of steps. -/
def Exit.cancel (x : Exit) (k : Nat) : Served :=
  if x.cnt ≤ 0 ∨ x.cnt ≤ (k : Int) ∨ k ∈ x.ph then ⟨ctNotlive, some 0, x⟩
  else if (k : Int) = x.cnt - 1 then
    let y := ({ x with cnt := x.cnt - 1, vac := x.vac + 1 } : Exit).collapse
    ⟨ctOk, some (x.cnt - y.cnt).toNat, y⟩
  else if x.ph.length = 4 then ⟨ctFull, some 0, x⟩
  else ⟨ctPinholed, some 0, { x with ph := insertHole k x.ph }⟩

/-! ### Instances (R262, R273; 17 R378) -/

def Inst.lw (x : Inst) : Nat := field x.header 0 3
def Inst.width (x : Inst) : Nat := 2 ^ x.lw
def Inst.isSeq (x : Inst) : Bool := x.header.getLsbD 23
def Inst.rbase (x : Inst) : Nat := field x.header 3 9
def Inst.rstep (x : Inst) : Nat := field x.header 12 9
def Inst.live (x : Inst) : Bool := decide (field x.header 21 2 = 1)
def Inst.exit (x : Inst) (e : Nat) : Exit := exitOf (Tab.get 0 x.exits e)
def Inst.setExit (x : Inst) (e : Nat) (y : Exit) : Inst := { x with exits := Tab.set 0 x.exits e y.word }

/-- The logical tiles whose routers hold an instance (R261); RSTEP 0 says that it has no router (log 32). -/
def Inst.routers (x : Inst) : List Nat :=
  if x.rstep = 0 then [] else (List.range (x.width / 2)).map fun q => x.rbase + q * x.rstep

def Part.inst (p : Part) (n : Nat) : Inst := Tab.get Inst.free p.insts n
def Part.setInst (p : Part) (n : Nat) (x : Inst) : Part := { p with insts := Tab.set Inst.free p.insts n x }

/-- The slot of an instance handle (R273, R274 detail 0x01). -/
def Part.instSlot (p : Part) (h : BitVec 32) : Option Nat :=
  let n := handleSlot h
  if (p.inst n).live ∧ (Tab.get 0 p.instGen n).toNat = handleGen h then some n else none

/-- An instance that a request names is changed. -/
def State.modInst (s : State) (pid n : Nat) (f : Inst → Inst) : State :=
  s.modPart pid fun p => p.setInst n (f (p.inst n))

/-- Cells and exit entries that a partition's instances hold on the router of a logical tile. -/
def Part.routerLoad (p : Part) (l : Nat) : Nat × Nat :=
  p.insts.foldl (fun a e => if e.2.live ∧ l ∈ e.2.routers then (a.1 + (netLayers e.2.lw).length, a.2 + 2) else a) (0, 0)

/-- Has the router of a logical tile of a partition room for an instance of `m` layers wide 2^m (17 R378)? -/
def State.routerRoom (s : State) (pid l m : Nat) : Bool :=
  match s.physTile pid l with
  | none => false
  | some t =>
    let e := s.tileEntry t
    let owner := if entryPid e = 0 then (0, 0) else (s.part (entryPid e)).routerLoad (field e 16 9)
    let lent := if entryBpid e = 0 then (0, 0) else (s.part (entryBpid e)).routerLoad (field e 48 9)
    let c := (netLayers m).length
    decide (owner.1 + lent.1 + c ≤ 4096) && decide (owner.2 + lent.2 + 2 ≤ 64) &&
    (decide (entryPid e = pid) || (decide (lent.1 + c ≤ 2048) && decide (lent.2 + 2 ≤ 32)))

/-- May an instance be placed so (R261, R378)? -/
def State.placeable (s : State) (pid m rbase rstep : Nat) : Bool :=
  decide (0 < rstep) && decide (rbase + (2 ^ (m - 1) - 1) * rstep ≤ 511) &&
  (List.range (2 ^ (m - 1))).all fun q => s.routerRoom pid (rbase + q * rstep) m

/-- The first placement that fits: the lowest step, then the lowest base (log 8). The routers are different ones, so a
partition with fewer tiles has no place. -/
def State.findPlace (s : State) (pid m : Nat) : Option (Nat × Nat) :=
  if (s.board.layout.tiles.filter fun e => (s.logTile pid e.1).isSome).length < 2 ^ (m - 1) then none
  else ((List.range 511).map (· + 1)).findSome? fun st =>
    (lowest 512 fun b => s.placeable pid m b st).map fun b => (b, st)

/-- The configured instance table slots (17 R373). -/
def Part.ninst (p : Part) : Nat := field p.record 176 16

/-- The outcome of a request for an instance: made, with the answers of the host that are left; none free; or the host must
be asked (17 R378), with the operands of the question: LW in [2:0] and SEQ in [3] (log 34). `bad` is how many answers were
left when one failed its check, which with the rest are treated as not given (22 R444). -/
inductive Placed where
  | made (s : State) (h : BitVec 32) (rest : List Word64)
  | full
  | ask (bad body : Nat)
deriving DecidableEq, Repr

/-- The header of a live instance (R262). -/
def instHeader (pid m rbase rstep : Nat) (seq : Bool) (h : BitVec 32) : BitVec 256 :=
  BitVec.ofNat 256 (mkRecord [(0, 3, m), (3, 9, rbase), (12, 9, rstep), (21, 2, 1), (23, 1, seq.toNat),
    (64, 16, pid), (96, 32, h.toNat)])

/-- An instance in a slot, every cell and exit entry zero (R263). -/
def State.makeInst (s : State) (pid n m rbase rstep : Nat) (seq : Bool) : State × BitVec 32 :=
  let p := s.part pid
  let h := mkHandle n (Tab.get 0 p.instGen n)
  (s.setPart pid (p.setInst n ⟨instHeader pid m rbase rstep seq h, [], []⟩), h)

/-- The number of the instance of a tier's chunk pool (15 R333), above every slot that a handle can name. -/
def poolSlot (tier : Nat) : Nat := 2 ^ 20 + tier

/-- The instance of a tier's chunk pool, of width 64 with SEQ = 1, exists, as yet without routers (15 R333; log 32). -/
def State.makePool (s : State) (pid tier : Nat) : State :=
  if ((s.part pid).inst (poolSlot tier)).live then s
  else s.modPart pid fun p => p.setInst (poolSlot tier) ⟨instHeader pid 6 0 0 true 0, [], []⟩

/-- An instance is placed: RBASE and RSTEP are written in its header (17 R379). -/
def State.setPlace (s : State) (pid n : Nat) (place : Nat × Nat) : State :=
  s.modInst pid n fun x => { x with header := setField (setField x.header 3 9 place.1) 12 9 place.2 }

/-- The host's answer for the placement of a tier's pool is awaited by this step (22 R444). -/
def poolDue (pid tier : Nat) : Due := ⟨.layoutSwitch, .record pid tier⟩

/-- A pool's instance that has no routers gets its placement (17 R378), in host-assisted mode from the host, which is asked
once; where none fits it has no router, and is placed when a later layout gives it room (log 32). -/
def State.placePool (s : State) (pid tier : Nat) : State :=
  let s := s.makePool pid tier
  if ((s.part pid).inst (poolSlot tier)).rstep ≠ 0 then s
  else
    match s.findPlace pid 6 with
    | none => s
    | some place =>
      if !s.isAssisted 2 then s.setPlace pid (poolSlot tier) place
      else if s.host.assisted.any fun a => decide (a.due = poolDue pid tier) then s
      else s.ask 2 pid (6 + 8) (poolDue pid tier)

/-- The host has answered for a pool, or its placement is the device's again (22 R444, R445): the answer is checked, and one that
fails the check is asked for again. -/
def State.poolAnswer (s : State) (pid tier : Nat) : State :=
  let d := poolDue pid tier
  let x := (s.part pid).inst (poolSlot tier)
  if !x.live ∨ x.rstep ≠ 0 then s.forget 2 d
  else if !s.isAssisted 2 then (s.forget 2 d).placePool pid tier
  else
    match s.answers 2 d with
    | [] => s
    | a :: _ =>
      if s.placeable pid 6 (field a 3 9) (field a 12 9) then
        (s.forget 2 d).setPlace pid (poolSlot tier) (field a 3 9, field a 12 9)
      else s.askAgain 2 pid (6 + 8) 1 d

/-- The instances of both pools of a partition. -/
def State.placePools (s : State) (pid : Nat) : State := (s.placePool pid 0).placePool pid 1

/-- A new instance of width 2^m for a partition. Its slot and its routers are the lowest that are free (log 8); in
host-assisted mode the host's answers give the routers, RBASE and RSTEP as the header holds them. -/
def State.newInst (s : State) (pid m : Nat) (seq : Bool) (answers : List Word64) : Placed :=
  let p := s.part pid
  match ringFind p.ninst 1 fun n => !(p.inst n).live with
  | none => .full
  | some n =>
    if s.isAssisted 2 then
      match answers with
      | [] => .ask 0 (m + 8 * seq.toNat)
      | a :: rest =>
        if s.placeable pid m (field a 3 9) (field a 12 9) then
          let r := s.makeInst pid n m (field a 3 9) (field a 12 9) seq
          .made r.1 r.2 rest
        else .ask (rest.length + 1) (m + 8 * seq.toNat)
    else
      match s.findPlace pid m with
      | none => .full
      | some (b, st) =>
        let r := s.makeInst pid n m b st seq
        .made r.1 r.2 answers

/-- An instance is released and its slot's generation advances (R273). -/
def State.dropInst (s : State) (pid : Nat) (h : BitVec 32) : State :=
  let p := s.part pid
  match p.instSlot h with
  | none => s
  | some n =>
    s.setPart pid { p.setInst n Inst.free with instGen := Tab.set 0 p.instGen n (Tab.get 0 p.instGen n + 1) }

/-! ### Page 3: tokens (R272 to R280) -/

/-- A check at the instance table (R274): the trap's detail, or the slot. -/
def Part.instCheck (p : Part) (h : BitVec 32) (plain : Bool) : Except (BitVec 8) Nat :=
  match p.instSlot h with
  | none => .error 0x01
  | some n => if plain && (p.inst n).isSeq then .error 0x02 else .ok n

/-- The issuing strand's wait for a reply that writes registers. -/
def State.awaitReply (s : State) (pre : Prefixes) : State :=
  s.await ⟨s.strand.next pre, false, none, none, none⟩

/-- A waiting instruction of page 3 (R272, R274): a check that fails comes back as a trap. -/
def runCount (pre : Prefixes) (s : State) (f : State → Except (BitVec 8) Due) : State :=
  guarded pre s fun s =>
    match f s with
    | .error d => (s.awaitReply pre).reply s.me s.myCtx (Reply.trapped kCount d 0)
    | .ok d => (s.awaitReply pre).due [d]

/-- The request of the issuing strand at an instance (R265): it enters on its tile's logical number. -/
def State.tokReq (s : State) (k : TokKind) (h : BitVec 32) (lw arg : Nat) : TokReq :=
  ⟨s.issuer, h, k, (s.logCore s.me / 8) % 2 ^ lw, 0, arg, 0, 0⟩

/-- TOK, ATOK, CVOID and CPEEK: their checks in the order of R274, and the step that begins them. -/
def countReq (k : TokKind) (what : Instr) (s : State) : Except (BitVec 8) Due :=
  let a := s.strand.a
  let x := s.strand.x
  let p := s.part (s.pidOf s.me)
  let badX := match k with
    | .cvoid => decide (field x 46 18 ≠ 0)
    | .peek => decide (field x 9 55 ≠ 0) || decide (4 < field x 6 3)
    | _ => false
  if field a 32 32 ≠ 0 ∨ badX = true then .error 0x03
  else
    match p.instCheck (a.setWidth 32) (decide (k ≠ .peek)) with
    | .error d => .error d
    | .ok n =>
      let lw := (p.inst n).lw
      if k = .peek ∧ 2 ^ lw ≤ field x 0 6 then .error 0x03
      else .ok ⟨what, .tok (s.tokReq k (a.setWidth 32) lw x.toNat) 0⟩

/-- R276 -/
def execTok (pre : Prefixes) (s : State) : Host.Outcome State Fault Refusal :=
  .next (runCount pre s (countReq .tok .balancerTraversal))

/-- R276 -/
def execAtok (pre : Prefixes) (s : State) : Host.Outcome State Fault Refusal :=
  .next (runCount pre s (countReq .atok .balancerTraversal))

/-- R278 -/
def execCvoid (pre : Prefixes) (s : State) : Host.Outcome State Fault Refusal :=
  .next (runCount pre s (countReq .cvoid .cancellationArrival))

/-- R279 -/
def execCpeek (pre : Prefixes) (s : State) : Host.Outcome State Fault Refusal :=
  .next (runCount pre s (countReq .peek .peekArrival))

/-- R277: the context moves on, and the token is counted (08 R180) -/
def execTokn (pre : Prefixes) (s : State) : Host.Outcome State Fault Refusal :=
  .next (guarded pre s fun s =>
    let a := s.strand.a
    let x : Addr := s.strand.x.setWidth 48
    let p := s.part (s.pidOf s.me)
    if field a 36 28 ≠ 0 ∨ field s.strand.x 48 16 ≠ 0 ∨ x.toNat % 8 ≠ 0 ∨ (insideLocal x 8).isNone then
      s.raise (trapOf kCount 0x04 0)
    else
      match p.instCheck (a.setWidth 32) true with
      | .error d => s.raise (trapOf kCount d 0)
      | .ok n =>
        if 32 ≤ (s.core s.me).posted then s.stall
        else
          let r := { s.tokReq .tokn (a.setWidth 32) (p.inst n).lw 0 with result := x, counter := field a 32 4 }
          ((s.postBegin s.me).skip pre).due [⟨.balancerTraversal, .tok r 0⟩])

/-- A request that found its instance released. -/
def State.unserved (s : State) (r : TokReq) : State :=
  s.reply r.by_.core r.by_.ctx (Reply.trapped (if r.kind = .res then kSequence else kCount) 0x01 0)

/-- R265: one layer is passed; after the last the exit serves the request. A request whose instance has been released
meanwhile comes back as a trap, or is discarded. -/
def execBalancerTraversal (s : State) : Host.Outcome State Fault Refusal :=
  match s.arg with
  | .tok r v =>
    let pid := r.by_.pid
    let s := if r.kind = .tokn ∧ r.layer = 0 then s.postLeave r.by_ else s
    match (s.part pid).instSlot r.inst with
    | none =>
      if r.kind = .tokn then .next (s.opEnd pid r.by_.tcb)
      else .next (s.unserved r)
    | some n =>
      let x := (s.part pid).inst n
      let exit_ : Instr := if r.kind = .atok then .exitServeAntitoken else .exitServeToken
      match (netLayers x.lw)[r.layer]? with
      | none => .next (s.due [⟨exit_, .tok r v⟩])
      | some l =>
        let q := passLayer x.cells (x.width / 2) r.layer l (decide (r.kind = .atok)) r.wire
        let r := { r with wire := q.1, layer := r.layer + 1 }
        let last := decide ((netLayers x.lw).length ≤ r.layer)
        .next ((s.modInst pid n fun x => { x with cells := q.2 }).due
          [⟨if last then exit_ else .balancerTraversal, .tok r v⟩])
  | _ => .next s

/-- The reply of a waiting request of page 3 (R275 to R278): A carries the value, or all ones. -/
def countReply (status : Nat) (v : Option Nat) : Reply :=
  Reply.status status (some (match v with
    | some n => BitVec.ofNat 64 n
    | none => BitVec.allOnes 64))

/-- An exit of an instance that is still live serves a request; where it is not, the request is not served. -/
def State.serveExit (s : State) (r : TokReq) (e : Nat) (f : Nat → Exit → Served) : State × Option Served :=
  match (s.part r.by_.pid).instSlot r.inst with
  | none => (s, none)
  | some n =>
    let x := (s.part r.by_.pid).inst n
    let y := f x.width (x.exit e)
    (s.modInst r.by_.pid n fun x => x.setExit e y.exit, some y)

/-- R268 -/
def execExitServeAntitoken (s : State) : Host.Outcome State Fault Refusal :=
  match s.arg with
  | .tok r _ =>
    match s.serveExit r r.wire fun w x => x.antitoken w r.wire with
    | (s, some y) => .next (s.reply r.by_.core r.by_.ctx (countReply y.status y.value))
    | (s, none) => .next (s.unserved r)
  | _ => .next s

/-- R269, R278 -/
def execCancellationArrival (s : State) : Host.Outcome State Fault Refusal :=
  match s.arg with
  | .tok r _ =>
    match (s.part r.by_.pid).instSlot r.inst with
    | none => .next (s.unserved r)
    | some n =>
      let w := ((s.part r.by_.pid).inst n).width
      match s.serveExit r (r.arg % w) fun w x => x.cancel (r.arg / w) with
      | (s, some y) => .next (s.reply r.by_.core r.by_.ctx (countReply y.status y.value))
      | (s, none) => .next (s.unserved r)
  | _ => .next s

/-- R279 -/
def execPeekArrival (s : State) : Host.Outcome State Fault Refusal :=
  match s.arg with
  | .tok r _ =>
    match (s.part r.by_.pid).instSlot r.inst with
    | none => .next (s.unserved r)
    | some n =>
      let i := (s.part r.by_.pid).inst n
      let e := bitsAt 0 6 r.arg
      let sel := bitsAt 6 3 r.arg
      let x := i.exit e
      let reply : Reply :=
        if sel = 0 then
          { Reply.status 0 (some (BitVec.ofInt 64 x.cnt)) with x := some (BitVec.ofNat 64 (x.vac + x.ph.length * 2 ^ 40)) }
        else
          countReply 0 ((x.ph[sel - 1]?).map fun k => e + i.width * k)
      .next (s.reply r.by_.core r.by_.ctx reply)
  | _ => .next s

/-- R277: the result word is written, and the counter is incremented in the next cycle -/
def execToknResultWrite (s : State) : Host.Outcome State Fault Refusal :=
  match s.arg with
  | .tok r v =>
    match localOff r.result with
    | some o =>
      .next (((s.wrNat (scratchKey (r.by_.core / 8) o) 8 v.toNat).due
        [.num .counterIncrement r.by_.core r.counter]).opEnd r.by_.pid r.by_.tcb)
    | none => .next s
  | _ => .next s

/-- The result word of a TOKN (R277). -/
def toknWord (status : Nat) (v : Option Nat) : Word64 :=
  BitVec.ofNat 64 (status * 2 ^ 56 + (match v with
    | some n => n % 2 ^ 48
    | none => 2 ^ 48 - 1))

/-! ### Reductions and counting barriers (R281 to R283; 22 R439) -/

/-- The number of a reduction's function in `combine`. -/
def redNum : RedFn → Nat
  | .add => 0
  | .min => 1
  | .max => 2
  | .and => 3
  | .or => 4
  | .xor => 5

/-- Two operands of a reduction combined, at the width of its type (R281). -/
def redCombine (fn : RedFn) (ty : Option Ty) (x y : Nat) : Nat :=
  match ty with
  | some t => combine (redNum fn) ⟨[], none, true, some ⟨false, .dflt, t⟩⟩ x y
  | none =>
    match fn with
    | .add => (x + y) % 2 ^ 64
    | .min => if signedOf 64 x ≤ signedOf 64 y then x else y
    | .max => if signedOf 64 x ≤ signedOf 64 y then y else x
    | .and => x &&& y
    | .or => x ||| y
    | .xor => x ^^^ y

/-- The identity of a function (R282; 04 R99). -/
def redIdentity (fn : RedFn) (ty : Option Ty) : Nat :=
  match ty with
  | some t => identityOf (redNum fn) (decide (t = .f32))
  | none =>
    match fn with
    | .min => 2 ^ 63 - 1
    | .max => 2 ^ 63
    | .and => 2 ^ 64 - 1
    | _ => 0

/-- A result as A receives it (R281). -/
def redResult (ty : Option Ty) (x : Nat) : Word64 :=
  match ty with
  | some .f32 => BitVec.ofNat 64 x
  | some t => BitVec.ofInt 64 (t.intOf x)
  | none => BitVec.ofNat 64 x

/-- The domain of a reduction or a counting barrier (R281). -/
def netDomain (g : Nat) (sc : Scope) : Nat :=
  match sc with
  | .context | .core => g / 8
  | sc => domainOf g sc

/-- Does the layout switch under way take a tile from a partition: has its logical number no tile in the layout to come
(R282)? -/
def State.leaving (s : State) (pid t : Nat) : Bool :=
  match s.board.next, s.logTile pid t with
  | some l, some n => !(l.tiles.any fun e =>
      (decide (entryPid e.2 = pid) && decide (field e.2 16 9 = n)) || (decide (entryBpid e.2 = pid) && decide (field e.2 48 9 = n)))
  | _, _ => false

/-- The most participants a reduction of the issuing task can have at a scope (R282): at pod scope the task names a gang. -/
def State.liveTiles (s : State) (sc : Scope) : Nat :=
  match s.taskOf s.me with
  | none => 1
  | some (_, t) =>
    let pid := s.pidOf s.me
    match sc with
    | .context | .core | .tile => 1
    | .pod => 512 * (s.part pid).pmem
    | sc => (t.tiles.filter fun x => !s.tileRetired x && !s.leaving pid x &&
        decide (netDomain (8 * x) sc = netDomain s.me sc)).length

/-- A reduction or counting barrier that completes at issue. -/
def State.doneAtIssue (s : State) (status : Nat) (a : Option Word64) (pre : Prefixes) : State :=
  let k := s.strand
  let k := { k with a := a.getD k.a, x := BitVec.ofNat 64 status, f := setBit k.f 0 (decide (status = 0)) }
  s.complete k (k.next pre)

/-- NETRED and NBAR at issue (R282, R283). -/
def combineIssue (what : Instr) (fn : RedFn) (noTrap : Bool) (sc : Scope) (v : Word64) (identity : Option Word64)
    (pre : Prefixes) (s : State) : State :=
  guarded pre s fun s =>
    let x := s.strand.x
    let p := field x 0 16
    let sc := s.scopeFor sc
    if field x 32 32 ≠ 0 then s.raise (trapOf kCount 0x07 0)
    else if p = 0 then s.doneAtIssue ctEmpty identity pre
    else if p = 1 then s.doneAtIssue ctOk none pre
    else if s.liveTiles sc < p then
      if noTrap then s.doneAtIssue ctOvercount none pre else s.raise (trapOf kCount 0x06 0)
    else
      let r : RedArr := ⟨s.issuer, fn, pre.ty, sc, netDomain s.me sc, p, field x 16 16, v⟩
      (s.awaitReply pre).due [⟨what, .arr r⟩]

/-- R281, R282 -/
def execNetred (fn : RedFn) (noTrap : Bool) (s_ : Scope) (pre : Prefixes) (s : State) : Host.Outcome State Fault Refusal :=
  let v : Word64 := if pre.ty.isSome then (s.strand.a.setWidth 32).setWidth 64 else s.strand.a
  .next (combineIssue .reductionArrival fn noTrap s_ v (some (redResult pre.ty (redIdentity fn pre.ty))) pre s)

/-- R283 -/
def execNbar (s_ : Scope) (pre : Prefixes) (s : State) : Host.Outcome State Fault Refusal :=
  .next (combineIssue .countingBarrierArrival .add false s_ 0 none pre s)

/-- Every participant of a meeting is answered, and the meeting ends: a reduction with the result `v`. -/
def State.endMeeting (s : State) (m : Meeting) (status v : Nat) : State :=
  let s := { s with meetings := s.meetings.erase m }
  m.arrived.foldl (fun s r =>
    s.reply r.by_.core r.by_.ctx
      (Reply.status status (if m.kind = 1 then some (redResult r.ty v) else none))) s

/-- The operands joined so far, combined in arrival order (R281). -/
def Meeting.sum (m : Meeting) : Nat :=
  match m.arrived with
  | [] => 0
  | r :: rs => rs.foldl (fun a q => redCombine r.fn r.ty a q.v.toNat) r.v.toNat

/-- Does an arrival agree with the one that opened its meeting, and come from a new tile (R281)? -/
def Meeting.agrees (m : Meeting) (r : RedArr) : Bool :=
  decide (m.need = r.p) &&
  (match m.arrived with
    | [] => true
    | q :: _ => decide (q.fn = r.fn) && decide (q.ty = r.ty)) &&
  !(m.arrived.any fun q => decide (q.by_.core / 8 = r.by_.core / 8))

/-- An arrival at a reduction (kind 1) or a counting barrier (kind 2). At pod scope the package PROOT counts, and decides
which arrivals agree (22 R439); here the participants only wait. -/
def State.combineArrive (s : State) (kind : BitVec 2) (r : RedArr) : State :=
  let pid := r.by_.pid
  if r.scope = .pod then
    (s.join kind r).sendPod (s.part pid).proot
      (.sumArrive s.pod.pkgn.toNat (s.part pid).pjob (s.gangOf pid r.by_.tcb) r kind.toNat)
  else
    let refused := match s.meetings.find? fun m => m.fits kind r with
      | some m => !m.agrees r
      | none => false
    if refused then s.reply r.by_.core r.by_.ctx (Reply.status ctMismatch none)
    else
      let s := s.join kind r
      match s.meetings.find? fun m => m.fits kind r with
      | some m => if m.arrived.length = m.need then s.endMeeting m ctOk m.sum else s
      | none => s

/-- R281 -/
def execReductionArrival (s : State) : Host.Outcome State Fault Refusal :=
  match s.arg with
  | .arr r => .next (s.combineArrive 1 r)
  | _ => .next s

/-- R283 -/
def execCountingBarrierArrival (s : State) : Host.Outcome State Fault Refusal :=
  match s.arg with
  | .arr r => .next (s.combineArrive 2 r)
  | _ => .next s

/-- Open reductions and counting barriers that `p` names complete with SHORT (R282, R283); those at pod scope at PROOT,
which is told (22 R439). -/
def State.shorten (s : State) (p : Meeting → Bool) : State :=
  (s.meetings.filter fun m => decide (m.kind ≠ 0) && p m).foldl (fun s m =>
    if m.scope = .pod then
      s.sendPod (s.part m.pid).proot (.sumShort s.pod.pkgn.toNat (s.part m.pid).pjob (s.gangOf m.pid m.tcb))
    else s.endMeeting m ctShort m.sum) s

end Sys2Proof.Machine
end

