-- ==== Sys2Proof/Machine/Graph.lean ====
section
/-! DEFINITION. Graph records, the states of tasks and graphs, successors, and the dependence counter (14_tasks_graphs R294 to R300, R315). -/

namespace Sys2Proof.Machine

/-! ### Graph records (R297) -/

def gState (g : BitVec 512) : Nat := field g 224 3
def gHold (g : BitVec 512) : Bool := g.getLsbD 227
def gNchild (g : BitVec 512) : Nat := field g 192 32
def gNtask (g : BitVec 512) : Nat := field g 160 32
def gCreator (g : BitVec 512) : BitVec 32 := g.extractLsb' 128 32
def gSib (g : BitVec 512) : BitVec 32 := g.extractLsb' 96 32
def gChild (g : BitVec 512) : BitVec 32 := g.extractLsb' 64 32
def gSelf (g : BitVec 512) : BitVec 32 := g.extractLsb' 32 32
def gParent (g : BitVec 512) : BitVec 32 := g.extractLsb' 0 32
def gDisc (g : BitVec 512) : Nat := field g 352 32

/-- States of a graph. -/
def gOpen : Nat := 1
def gActive : Nat := 2
def gComplete : Nat := 3
def gCancelling : Nat := 4
def gCancelled : Nat := 5

def Part.graph (p : Part) (n : Nat) : BitVec 512 := Tab.get 0 p.graphs n
def Part.setGraph (p : Part) (n : Nat) (g : BitVec 512) : Part := { p with graphs := Tab.set 0 p.graphs n g }

/-- The slot of a graph handle that is not stale (R294). -/
def Part.graphSlot (p : Part) (h : BitVec 32) : Option Nat :=
  let n := handleSlot h
  if n ≠ 0 ∧ gState (p.graph n) ≠ 0 ∧ (Tab.get 0 p.graphGen n).toNat = handleGen h then some n else none

def State.graph (s : State) (pid n : Nat) : BitVec 512 := (s.part pid).graph n
def State.modGraph (s : State) (pid n : Nat) (f : BitVec 512 → BitVec 512) : State :=
  s.modPart pid fun p => p.setGraph n (f (p.graph n))

/-- Does a graph accept new tasks, children, links and arms (R300)? -/
def gAccepts (g : BitVec 512) : Bool := decide (gState g = gOpen) || decide (gState g = gActive)

/-- A graph changes state, and the change is traced (17 R392). -/
def State.graphTo (s : State) (pid n st : Nat) : State :=
  let g := s.graph pid n
  (s.modGraph pid n fun g => setField g 224 3 st).trace pid 1
    (mkRecord [(0, 32, (gSelf g).toNat), (32, 3, gState g), (36, 3, st)])

/-! ### States of a task (R299) -/

def tBuilding : Nat := 1
def tWaiting : Nat := 2
def tReady : Nat := 3
def tEarly : Nat := 4
def tRunning : Nat := 5
def tDraining : Nat := 6
def tComplete : Nat := 7
def tCancelled : Nat := 8

def Task.nsucc (t : Task) : Nat := field t.tcb 240 4
def Task.novf (t : Task) : Nat := field t.tcb 544 16
def Task.ovf (t : Task) : Nat := field t.tcb 512 32
def Task.nwait (t : Task) : Nat := field t.tcb 560 16
def Task.prio (t : Task) : Nat := field t.tcb 174 3
def Task.prio0 (t : Task) : Nat := field t.tcb 177 3
def Task.readyc (t : Task) : Nat := field t.tcb 320 64
def Task.early (t : Task) : Bool := t.tcb.getLsbD 180

/-- The k-th handle of an overflow block, and the index of the next block: the handles lie from bit 0 up, the index
above them (R296; log 31). -/
def ovfHandle (b : BitVec 512) (k : Nat) : BitVec 32 := b.extractLsb' (32 * k) 32
def ovfNext (b : BitVec 512) : Nat := field b 480 32

/-- `n` handles from an overflow chain. -/
def Part.chain (p : Part) : Nat → Nat → Nat → List (BitVec 32)
  | 0, _, _ => []
  | fuel + 1, block, n =>
    let b := Tab.get 0 p.ovf block
    if n ≤ 15 then (List.range n).map (ovfHandle b)
    else (List.range 15).map (ovfHandle b) ++ p.chain fuel (ovfNext b) (n - 15)

/-- The blocks of an overflow chain. -/
def Part.blocks (p : Part) : Nat → Nat → List Nat
  | 0, _ => []
  | fuel + 1, block => if block = 0 then [] else block :: p.blocks fuel (ovfNext (Tab.get 0 p.ovf block))

/-- The successors of a task in the order in which they are released (R296). -/
def Part.successors (p : Part) (t : Task) : List (BitVec 32) :=
  ((List.range t.nsucc).map fun k => t.tcb.extractLsb' (768 + 32 * k) 32) ++ p.chain (t.novf / 15 + 1) t.ovf t.novf

/-- A successor appended to those of a task; none where the overflow pool is empty (R296). -/
def Part.addSuccessor (p : Part) (slot : Nat) (h : BitVec 32) : Option Part :=
  let t := p.task slot
  if t.nsucc < 8 then some (p.setTask slot ((t.set (768 + 32 * t.nsucc) 32 h.toNat).set 240 4 (t.nsucc + 1)))
  else
    let n := t.novf
    let chain := p.blocks (n / 15 + 1) t.ovf
    let put (p : Part) (b k : Nat) : Part :=
      { p with ovf := Tab.set 0 p.ovf b (setField (Tab.get 0 p.ovf b) (32 * k) 32 h.toNat) }
    if n % 15 ≠ 0 then some ((put p (chain.getLastD 0) (n % 15)).setTask slot (t.set 544 16 (n + 1)))
    else
      match ((List.range (field p.record 192 16)).map (· + 1)).find? fun b => decide (Tab.get 0 p.ovf b = 0) with
      | none => none
      | some b =>
        let p := match chain.getLast? with
          | some l => { p with ovf := Tab.set 0 p.ovf l (setField (Tab.get 0 p.ovf l) 480 32 b) }
          | none => p
        let t := if chain.isEmpty then t.set 512 32 b else t
        some ((put p b 0).setTask slot (t.set 544 16 (n + 1)))

/-- A task changes state, and the change is traced. When it leaves BUILDING or WAITING, NWAIT of each of its successors
falls by 1 (R299). -/
def State.taskTo (s : State) (pid slot st : Nat) : State :=
  let t := s.task pid slot
  let before (x : Nat) : Bool := decide (x = tBuilding) || decide (x = tWaiting)
  let s := (s.modTask pid slot fun t => t.set 244 4 st).trace pid 0
    (mkRecord [(0, 32, t.self.toNat), (32, 4, t.state), (36, 4, st)])
  if before t.state && !before st then
    ((s.part pid).successors t).foldl (fun s h => s.withTask pid h fun u => u.set 560 16 (u.nwait - 1)) s
  else s

/-- The level at which a READY task stands (R305). -/
def State.levelOf (s : State) (t : Task) : Nat :=
  if t.prio0 = 0 then 0 else max 1 (t.prio0 - (s.now - t.readyc) / 2 ^ 20)

/-- A task enters READY (R299), and the scheduler looks for a place for it (R306); its level falls as it waits (R305). -/
def State.taskReady (s : State) (pid slot : Nat) : State :=
  let s := s.modTask pid slot fun t => (t.set 320 64 s.now).set 174 3 t.prio0
  let s := (s.taskTo pid slot tReady).due [.num .placementPass pid]
  if 1 < (s.task pid slot).prio0 then s.dueIn (2 ^ 20) (.num .priorityAging pid slot) else s

/-- The cores that a placed task holds. -/
def Task.cores (t : Task) : List Nat := t.tiles.flatMap fun x => (List.range 8).map (8 * x + ·)

/-- A GWAIT of a context ends: A, X and F.Z are written (R311, R318), and the context becomes READY. -/
def State.endGwait (s : State) (g c : Nat) (a : Option Word64) (st : Nat) : State :=
  (s.modCtx g c fun k =>
    { k with a := a.getD k.a, x := BitVec.ofNat 64 st, f := setBit k.f 0 (decide (st = 0)) }).wake g c

/-- The waiting contexts of a saved task whose GWAIT ends: their save records are written (16 R364, R371). -/
def State.wakeSaved (s : State) (pid slot : Nat) (h : BitVec 32) (a : Option Nat) (st : Nat) : State :=
  let gs := (s.task pid slot).cores
  (gs.flatMap fun g => (List.range 16).map fun c => (g, c)).foldl (fun s w =>
    let e := s.savedEntry pid w.1 w.2
    if entryLive e ∧ entryCst e = 3 ∧ entryWval e = h.toNat then
      let e := putBits 867 3 0 (putBits 880 32 0 (putBits 64 64 st (putBits 704 1 (if st = 0 then 1 else 0) e)))
      s.setSavedEntry pid w.1 w.2 (match a with
        | some v => putBits 0 64 v e
        | none => e)
    else s) s

/-- Statuses of page 4 (R313). -/
def tkOk : Nat := 0
def tkDone : Nat := 1
def tkLate : Nat := 2
def tkFull : Nat := 3
def tkUnder : Nat := 4
def tkCancelled : Nat := 5
def tkBadimg : Nat := 6
def tkQfull : Nat := 7
def tkBadcmd : Nat := 8

/-- A counter of dependences has reached 0 (R299). -/
def State.depZero (s : State) (pid slot : Nat) : State :=
  let t := s.task pid slot
  if t.state = tWaiting then s.taskReady pid slot
  else if t.state = tEarly then
    let s := if t.saved then s.wakeSaved pid slot 0 none tkOk
      else t.cores.foldl (fun s g =>
        ((s.core g).waiters fun w => decide (w = .leaveEarly)).foldl (fun s c => s.endGwait g c none tkOk) s) s
    (s.taskTo pid slot tRunning).due [.num .taskCompletion pid slot]
  else s

/-- Is a task cancelled or cancelling (R315)? -/
def State.taskDead (s : State) (pid slot : Nat) : Bool :=
  let t := s.task pid slot
  let g := gState (s.graphOf pid t.graph)
  decide (t.state = tCancelled) ||
  (decide (t.state ≠ tComplete) && (t.nofit || decide (g = gCancelling) || decide (g = gCancelled)))

/-- DEPDEC at its TCB (R315). -/
def State.depDec (s : State) (pid slot : Nat) : State × Nat :=
  let t := s.task pid slot
  if t.state = tComplete ∨ s.taskDead pid slot = true then (s, tkCancelled)
  else if t.dep = 0 then (s, tkUnder)
  else
    let s := s.modTask pid slot fun t => t.set 224 16 (t.dep - 1)
    (if t.dep = 1 then s.depZero pid slot else s, tkOk)

/-- ARM at its TCB (R315). -/
def State.armTask (s : State) (pid slot : Nat) : State × Nat :=
  let t := s.task pid slot
  if s.taskDead pid slot || !gAccepts (s.graphOf pid t.graph) then (s, tkCancelled)
  else if t.state ≠ tBuilding then (s, tkLate)
  else if t.dep = 0 then (s.taskReady pid slot, tkOk)
  else (s.taskTo pid slot tWaiting, tkOk)

end Sys2Proof.Machine
end

