-- ==== Sys2Proof/Machine/Seqs.lean ====
section
/-! DEFINITION. Grow-only sequences: records, chunks and pools, the instructions of page 5, and the exit service of tokens, which an SQRES continues (15_sequences R329 to R347; 11_kreil_fabric R267). -/

namespace Sys2Proof.Machine

/-! ### Records (R330, R332) -/

def seqCap (r : BitVec 512) : Nat := field r 288 32
def seqClen (r : BitVec 512) : Nat := field r 256 32
def seqBase (r : BitVec 512) : Nat := field r 224 32
def seqOwner (r : BitVec 512) : BitVec 32 := r.extractLsb' 160 32
def seqInst (r : BitVec 512) : BitVec 32 := r.extractLsb' 128 32
def seqLw (r : BitVec 512) : Nat := field r 114 3

/-- Slots in a chunk (R329). -/
def seqPer (r : BitVec 512) : Nat := 2 ^ (16 - seqLog2S r)

def Part.seq (p : Part) (n : Nat) : BitVec 512 := Tab.get 0 p.seqs n
def Part.setSeq (p : Part) (n : Nat) (r : BitVec 512) : Part := { p with seqs := Tab.set 0 p.seqs n r }

/-- The slot of a sequence handle (R294, R335 detail 0x01). -/
def Part.seqSlot (p : Part) (h : BitVec 32) : Option Nat :=
  let n := handleSlot h
  if n ≠ 0 ∧ seqState (p.seq n) ≠ 0 ∧ (Tab.get 0 p.seqGen n).toNat = handleGen h then some n else none

def State.seq (s : State) (pid n : Nat) : BitVec 512 := (s.part pid).seq n
def State.modSeq (s : State) (pid n : Nat) (f : BitVec 512 → BitVec 512) : State :=
  s.modPart pid fun p => p.setSeq n (f (p.seq n))

/-- States of a slot. -/
def slFree : BitVec 2 := 0
def slHeld : BitVec 2 := 1
def slCommitted : BitVec 2 := 2
def slVoid : BitVec 2 := 3
def slFinal (x : BitVec 2) : Bool := decide (x = slCommitted) || decide (x = slVoid)

/-- Statuses of page 5 (R336). -/
def sqOk : Nat := 0
def sqDone : Nat := 1
def sqVoid : Nat := 2
def sqPending : Nat := 3
def sqNotlive : Nat := 4
def sqFull : Nat := 5
def sqClosed : Nat := 6
def sqLimit : Nat := 7
def sqRange : Nat := 8
def sqCancelled : Nat := 9

/-- Chunk records by tier and number (R332). -/
def chunkKey (tier c : Nat) : Nat := tier * 2 ^ 24 + c
def Part.chunk (p : Part) (tier c : Nat) : Chunk := Tab.get Chunk.free p.chunks (chunkKey tier c)
def Part.setChunk (p : Part) (tier c : Nat) (x : Chunk) : Part :=
  { p with chunks := Tab.set Chunk.free p.chunks (chunkKey tier c) x }

/-! ### The chunk pool (R333) -/

def Part.poolSize (p : Part) (tier : Nat) : Nat := if tier = 0 then field p.record 208 24 else field p.record 232 24
def Part.pool (p : Part) (tier : Nat) : Pool := Tab.get Pool.full p.pools tier
def Part.setPool (p : Part) (tier : Nat) (x : Pool) : Part := { p with pools := Tab.set Pool.full p.pools tier x }
def Part.poolFree (p : Part) (tier : Nat) : Nat := p.poolSize tier - (p.pool tier).taken

/-- RING[x]. -/
def Pool.at_ (x : Pool) (i : Nat) : Nat := (Tab.get none x.ring i).getD i
def Pool.put (x : Pool) (i c : Nat) : Pool := { x with ring := Tab.set none x.ring i (if i = c then none else some c) }

/-- A traversal of a pool's instance of width 64, served at its exit; the engine enters on wire 0 (log 32). -/
def Part.pass (p : Part) (tier : Nat) (anti : Bool) : Nat × Served × Part :=
  let x := p.inst (poolSlot tier)
  let r := passAll 32 anti 0 (netLayers 6) x.cells 0
  let y := if anti then (x.exit r.1).antitoken 64 r.1 else (x.exit r.1).token 64 r.1
  (r.1, y, p.setInst (poolSlot tier) (({ x with cells := r.2 } : Inst).setExit r.1 y.exit))

/-- A take: the chunk, and the partition after it. -/
def Part.take (p : Part) (tier : Nat) : Nat × Part :=
  let r := p.pass tier false
  let y := { p.pool tier with taken := (p.pool tier).taken + 1 }
  match r.2.1.value with
  | some i => (y.at_ i, r.2.2.setPool tier y)
  | none =>
    let q := p.poolSize tier + 4 * r.1
    (y.at_ q, r.2.2.setPool tier
      (((List.range 3).foldl (fun (z : Pool) d => z.put (q + d) (y.at_ (q + d + 1))) y).put (q + 3) (q + 3)))

/-- A give of a chunk. -/
def Part.give (p : Part) (tier c : Nat) : Part :=
  let r := p.pass tier true
  let y := { p.pool tier with taken := (p.pool tier).taken - 1 }
  r.2.2.setPool tier (match r.2.1.value with
    | some i => y.put i c
    | none => y.put (p.poolSize tier + 4 * r.1 + ((-r.2.1.exit.cnt).toNat - 1)) c)

/-- A chunk is taken from a tier's pool, if it has one; chunks that lie where no memory is are lost to it (21 R424). -/
def State.takeFrom (s : State) (pid tier : Nat) : Nat → Option (Nat × State)
  | 0 => none
  | fuel + 1 =>
    if (s.part pid).poolFree tier = 0 then none
    else
      let s := if ((s.part pid).inst (poolSlot tier)).live then s else s.placePool pid tier
      let r := (s.part pid).take tier
      let s := s.setPart pid r.2
      let a := (s.part pid).chunkAddr tier r.1
      if cxlBase ≤ a ∧ (s.physKey a).isNone then s.takeFrom pid tier fuel else some (r.1, s)

def State.takeChunk (s : State) (pid tier : Nat) : Option (Nat × State) :=
  s.takeFrom pid tier ((s.part pid).poolFree tier)

def State.giveChunk (s : State) (pid tier c : Nat) : State := s.modPart pid fun p => p.give tier c

/-! ### Directories (R331) -/

/-- The 64 KiB of a chunk become zero, page by page as the region table may spread them (08 R173). -/
def State.zeroChunk (s : State) (pid tier c : Nat) : State :=
  let a := (s.part pid).chunkAddr tier c
  (List.range 16).foldl (fun s i =>
    match s.physKey (a + 4096 * i) with
    | some k => s.clearKeys k 4096
    | none => s) s

/-- Bytes of one chunk copied to another: `n` bytes from offset 0, in pieces of 64 bytes. -/
def State.copyChunk (s : State) (pid tier src dst n : Nat) : State :=
  let p := s.part pid
  (List.range (n / 64)).foldl (fun s i =>
    match s.physKey (p.chunkAddr tier src + 64 * i), s.physKey (p.chunkAddr tier dst + 64 * i) with
    | some a, some b => s.copyKeys a b 64
    | _, _ => s) s

/-- Entry `c` of a sequence's directory, and a change of it. -/
def State.dirAt (s : State) (pid : Nat) (r : BitVec 512) (c : Nat) : Nat := s.dirEntry (s.part pid) r c
def State.setDir (s : State) (pid : Nat) (r : BitVec 512) (c v : Nat) : State :=
  match s.physKey ((s.part pid).chunkAddr (seqTier r) (seqDir r) + 4 * c) with
  | some k => s.wrNat k 4 v
  | none => s

def dirWord (wp : Bool) (c : Nat) : Nat := 2 ^ 31 + (if wp then 2 ^ 30 else 0) + c % 2 ^ 24

/-- Translations that `p` names leave every TLB (16 R366). -/
def State.dropTlb (s : State) (p : TlbEntry → Bool) : State :=
  { s with tiles := s.tiles.filterMap fun e =>
      let x := { e.2 with tlb := e.2.tlb.filter fun t => !p t }
      if x = Tile.idle then none else some (e.1, x) }

/-- The translations of page `c` of a sequence's region; `wr` picks those that grant write permission. -/
def ofPage (pid : Nat) (r : BitVec 512) (c : Nat) (wr : Bool) (t : TlbEntry) : Bool :=
  decide (t.pid = pid) && decide (t.vbase = seqVbase r + 2 ^ 16 * c) && (!wr || t.wr)

/-- The state of slot `i` of a sequence (R332): FREE where its chunk is not mapped. -/
def State.slotState (s : State) (pid : Nat) (r : BitVec 512) (i : Nat) : BitVec 2 :=
  let d := s.dirAt pid r (i / seqPer r)
  if d.testBit 31 then Tab.get 0 ((s.part pid).chunk (seqTier r) (bitsAt 0 24 d)).st (i % seqPer r) else slFree

/-- Slot `i` of a mapped chunk changes state. -/
def State.setSlot (s : State) (pid : Nat) (r : BitVec 512) (i : Nat) (x : BitVec 2) (hold : Nat) : State :=
  let c := bitsAt 0 24 (s.dirAt pid r (i / seqPer r))
  let j := i % seqPer r
  s.modPart pid fun p =>
    let y := p.chunk (seqTier r) c
    p.setChunk (seqTier r) c { y with st := Tab.set 0 y.st j x, hold := Tab.set 0 y.hold j (BitVec.ofNat 16 hold) }

/-- The page of slot `i` is mapped, with a chunk from the pool where it has none; none where the pool is empty. -/
def State.mapSlot (s : State) (pid : Nat) (r : BitVec 512) (i : Nat) : Option State :=
  let c := i / seqPer r
  if (s.dirAt pid r c).testBit 31 then some s
  else
    match s.takeChunk pid (seqTier r) with
    | none => none
    | some (n, s) =>
      some ((s.modPart pid fun p => p.setChunk (seqTier r) n ⟨1, [], []⟩).setDir pid r c (dirWord false n))

/-- CLEN passes over the run of final slots above it (R341). -/
def State.runLen (s : State) (pid : Nat) (r : BitVec 512) : Nat → Nat → Nat
  | 0, l => l
  | fuel + 1, l => if slFinal (s.slotState pid r l) then s.runLen pid r fuel (l + 1) else l

/-- After slot `i` has become final (R341): CLEN advances, and a chunk whose every slot is final is protected. -/
def State.advance (s : State) (pid n i : Nat) : State :=
  let r := s.seq pid n
  let l := s.runLen pid r (seqCap r - seqClen r) (seqClen r)
  let s := s.modSeq pid n fun r => setField r 256 32 l
  let c := i / seqPer r
  if (List.range (seqPer r)).all fun j => slFinal (s.slotState pid r (c * seqPer r + j)) then
    let d := s.dirAt pid r c
    if d.testBit 31 && !d.testBit 30 then
      (s.dropTlb (ofPage pid r c true)).setDir pid r c (dirWord true (bitsAt 0 24 d))
    else s
  else s

/-! ### Reserving, committing and voiding (R338 to R341) -/

/-- The instance of a sequence: its slot. -/
def instSlotOf (r : BitVec 512) : Nat := handleSlot (seqInst r)

/-- Slot `i` of sequence `n` becomes final. -/
def State.finish (s : State) (pid n i : Nat) (x : BitVec 2) : State :=
  (s.setSlot pid (s.seq pid n) i x 0).advance pid n i

/-- SQCMT at the record (R340). -/
def State.commitSlot (s : State) (pid n i : Nat) : State × Nat :=
  let st := s.slotState pid (s.seq pid n) i
  if slFinal st then (s, sqDone)
  else if st = slHeld then (s.finish pid n i slCommitted, sqOk)
  else (s, sqNotlive)

/-- SQVOID with m = 0 at the record (R340). -/
def State.cancelSlot (s : State) (pid n i : Nat) : State × Nat :=
  let r := s.seq pid n
  let st := s.slotState pid r i
  if slFinal st then (s, sqDone)
  else if st ≠ slHeld then (s, sqNotlive)
  else
    let m := instSlotOf r
    let x := (s.part pid).inst m
    let j := i - seqBase r
    let y := (x.exit (j % x.width)).cancel (j / x.width)
    if y.status = ctFull then (s, sqFull)
    else ((s.modInst pid m fun x => x.setExit (j % x.width) y.exit).setSlot pid r i slFree 0, sqOk)

/-- SQVOID with m = 1 at the record (R340); none while the chunk that it needs is waited for, as SQRES does (R338). -/
def State.voidSlot (s : State) (pid n i : Nat) : Option (State × Nat) :=
  let r := s.seq pid n
  let st := s.slotState pid r i
  if slFinal st then some (s, sqDone)
  else if st = slHeld then some (s.finish pid n i slVoid, sqOk)
  else if i < seqBase r then some (s, sqNotlive)
  else
    let m := instSlotOf r
    let x := (s.part pid).inst m
    let j := i - seqBase r
    let e := j % x.width
    let k := j / x.width
    let y := x.exit e
    let close (z : Exit) : Option (State × Nat) :=
      (s.mapSlot pid r i).map fun s => ((s.modInst pid m fun x => x.setExit e z).finish pid n i slVoid, sqOk)
    if k ∈ y.ph then close { y with ph := y.ph.erase k }
    else if (k : Int) = y.cnt ∧ 0 < y.vac then close { y with cnt := y.cnt + 1, vac := y.vac - 1 }
    else some (s, sqNotlive)

/-- Does the strand that issued a request still wait for its reply? -/
def State.awaits (s : State) (i : Issuer) : Bool :=
  let k := s.ctx i.core i.ctx
  k.live && decide (k.mode = .waitLoad) && decide (s.tcbOf i.core = i.tcb)

/-! ### Creating, forking, closing and dropping (R337, R344 to R346) -/

/-- The outcome of a request for a sequence: made, with the chunk that was asked for beside the directory; a table or pool
exhausted; the host must be asked for the place of its instance (17 R378), as `Placed` says. -/
inductive SeqMade where
  | made (s : State) (h : BitVec 32) (extra : Nat) (rest : List Word64)
  | full
  | ask (bad body : Nat)
deriving DecidableEq, Repr

/-- A chunk is taken where `want` says so; with `want` false the number is 0. -/
def State.takeIf (s : State) (pid tier : Nat) (want : Bool) : Option (Nat × State) :=
  if want then s.takeChunk pid tier else some (0, s)

/-- A new sequence: a table slot, an instance, a region, a directory chunk, and with `extra` one more chunk, all or none
(R337, R344). The lowest free slot is taken, and its region is that of the same number (log 8). -/
def State.newSeq (s : State) (pid : Nat) (owner : BitVec 32) (log2s tier lw : Nat) (extra : Bool) (answers : List Word64) :
    SeqMade :=
  let p := s.part pid
  match ((List.range p.nseq).map (· + 1)).find? fun n => decide (seqState (p.seq n) = 0) with
  | none => .full
  | some n =>
    match s.takeChunk pid tier with
    | none => .full
    | some (d, s) =>
      match s.takeIf pid tier extra with
      | none => .full
      | some (x, s) =>
        match s.newInst pid lw true answers with
        | .full => .full
        | .ask bad body => .ask bad body
        | .made s inst rest =>
          let r : BitVec 512 := BitVec.ofNat 512 (mkRecord [(0, 48, p.seqwin + (n - 1) * 2 ^ 30), (64, 24, d),
            (109, 5, log2s), (114, 3, lw), (117, 1, tier), (118, 2, 1), (128, 32, inst.toNat), (160, 32, owner.toNat),
            (288, 32, 2 ^ (30 - log2s))])
          let s := (s.zeroChunk pid tier d).modPart pid fun p => (p.setChunk tier d ⟨1, [], []⟩).setSeq n r
          .made s (mkHandle n (Tab.get 0 p.seqGen n)) x rest

/-- Is a descriptor of SQNEW malformed (R337)? -/
def seqDescBad (d : Nat) : Bool :=
  decide (bitsAt 64 64 d ≠ 0) || decide (bitsAt 15 17 d ≠ 0) || decide (bitsAt 9 3 d ≠ 0) || decide (bitsAt 5 3 d ≠ 0) ||
  decide (bitsAt 12 3 d = 0) || decide (bitsAt 12 3 d = 7) || decide (bitsAt 0 5 d < 6) || decide (16 < bitsAt 0 5 d)

/-- The highest count position that any exit of an instance has reached, plus one. -/
def Inst.reach (x : Inst) : Nat :=
  (List.range x.width).foldl (fun m e => max m ((x.exit e).cnt + (x.exit e).vac).toNat) 0

/-- T of an instance (11 R270). -/
def Inst.total (x : Inst) : Nat :=
  ((List.range x.width).foldl (fun m e => m + (x.exit e).cnt + (x.exit e).vac) (0 : Int)).toNat

/-- How many pages of its region a sequence can have mapped: those below the highest index it has given out. -/
def State.seqPages (s : State) (pid : Nat) (r : BitVec 512) : Nat :=
  let x := (s.part pid).inst (instSlotOf r)
  min ((seqBase r + x.width * x.reach + seqPer r - 1) / seqPer r) (2 ^ 14)

/-- One page of a sequence that is dropped: its entry is cleared, and its chunk given back when nothing else maps it
(R346 step 4). The number says how many chunks have been given. -/
def State.dropPage (s : State) (pid : Nat) (r : BitVec 512) (c : Nat) (given : Nat) : State × Nat :=
  let d := s.dirAt pid r c
  if !d.testBit 31 then (s, given)
  else
    let n := bitsAt 0 24 d
    let s := (s.dropTlb (ofPage pid r c false)).setDir pid r c (d - 2 ^ 31)
    let x := (s.part pid).chunk (seqTier r) n
    if x.refc ≤ 1 then
      ((s.modPart pid fun p => p.setChunk (seqTier r) n Chunk.free).giveChunk pid (seqTier r) n, given + 1)
    else (s.modPart pid fun p => p.setChunk (seqTier r) n { x with refc := x.refc - 1 }, given)

/-- A sequence is dropped (R346): the number of chunks given back. -/
def State.dropSeq (s : State) (pid n : Nat) : State × Nat :=
  let r := s.seq pid n
  let pages := s.seqPages pid r
  let s := s.modPart pid fun p =>
    { p.setSeq n 0 with seqGen := Tab.set 0 p.seqGen n (Tab.get 0 p.seqGen n + 1) }
  let s := s.dropInst pid (seqInst r)
  let q := (List.range pages).foldl (fun a c => State.dropPage a.1 pid r c a.2) (s, 0)
  ((q.1.modPart pid fun p => p.setChunk (seqTier r) (seqDir r) Chunk.free).giveChunk pid (seqTier r) (seqDir r), q.2 + 1)

/-- Void commits of the holes of a closing sequence, in ascending index order (R345): whether all have been closed, or
a chunk is waited for. An index from CAP on has no slot (R338). -/
def State.closeHoles (s : State) (pid n : Nat) : State × Bool :=
  let r := s.seq pid n
  let x := (s.part pid).inst (instSlotOf r)
  (List.range (x.width * x.reach)).foldl (fun a j =>
    let y := x.exit (j % x.width)
    let k := j / x.width
    if a.2 && decide (seqBase r + j < seqCap r) && (decide (k ∈ y.ph) || (decide (y.cnt ≤ (k : Int)) && decide ((k : Int) < y.cnt + y.vac))) then
      match a.1.voidSlot pid n (seqBase r + j) with
      | some q => (q.1, true)
      | none => (a.1, false)
    else a) (s, true)

/-- A chunk that a fork shares (R344). -/
def State.shareChunk (s : State) (pid : Nat) (r child : BitVec 512) (c : Nat) : State :=
  let d := s.dirAt pid r c
  let n := bitsAt 0 24 d
  let s := s.setDir pid child c (dirWord true n)
  s.modPart pid fun p => p.setChunk (seqTier r) n { p.chunk (seqTier r) n with refc := (p.chunk (seqTier r) n).refc + 1 }

/-- The fork of a sequence at `at_` ≤ CLEN (R344): the state with the child filled in; `new` is the chunk of its partial
page. -/
def State.fillFork (s : State) (pid n m at_ : Nat) (parent : BitVec 32) (new : Nat) : State :=
  let r := s.seq pid n
  let child := s.seq pid m
  let per := seqPer r
  let s := (List.range (at_ / per)).foldl (fun s c => s.shareChunk pid r child c) s
  let s :=
    if at_ % per = 0 then s
    else
      let pc := at_ / per
      let old := bitsAt 0 24 (s.dirAt pid r pc)
      let st := (s.part pid).chunk (seqTier r) old |>.st
      let s := s.copyChunk pid (seqTier r) old new (at_ % per * 2 ^ seqLog2S r)
      let s := s.modPart pid fun p => p.setChunk (seqTier r) new ⟨1, st.filter fun e => decide (e.1 < at_ % per), []⟩
      s.setDir pid child pc (dirWord false new)
  s.modSeq pid m fun c => setField (setField (setField c 224 32 at_) 256 32 at_) 192 32 parent.toNat

/-! ### Requests at a record (R335, R348) -/

/-- What a request comes to at its record: it is served; it must wait, as another request or the same one, for what the
rules name; or the host has been asked (22 R444). -/
inductive SeqDo where
  | served (s : State)
  | later (s : State) (r : Req)
  | asked (s : State)
deriving DecidableEq, Repr

/-- A reply that leaves A as it is. -/
def statusOnly (st : Nat) : Reply := Reply.status st none

/-- The step by which a request is looked at again. -/
def reqDue (r : Req) : Due := ⟨.loadReply, .req r⟩

/-- A request is answered, if its strand still waits for it (R347). -/
def State.replyTo (s : State) (q : Req) (alive : Bool) (r : Reply) : State :=
  if alive then s.reply q.by_.core q.by_.ctx r else s

/-- A request for which the host may have been asked is answered, and what the host has answered is over. -/
def State.answer (s : State) (q : Req) (alive : Bool) (r : Reply) : State := (s.forget 2 (reqDue q)).replyTo q alive r

/-- A check fails at the record (R335). -/
def State.refuse (s : State) (q : Req) (alive : Bool) (d : BitVec 8) : SeqDo :=
  .served (s.answer q alive (Reply.trapped kSequence d 0))

/-- The host is asked for the place of a request's instance (17 R378). -/
def State.askPlace (s : State) (q : Req) (bad body : Nat) : State := s.askAgain 2 q.by_.pid body bad (reqDue q)

/-- Is a reservation of a sequence in flight (R338, R345, R346)? -/
def State.reserving (s : State) (pid : Nat) (h : BitVec 32) : Bool :=
  s.steps.any fun d => match d.arg with
    | .tok r _ => decide (r.kind = .res) && decide (r.by_.pid = pid) && decide (BitVec.ofNat 32 r.arg = h)
    | _ => false

/-- The graph of the task that issued a request. -/
def State.graphFor (s : State) (i : Issuer) : BitVec 32 :=
  match (s.part i.pid).taskSlot i.tcb with
  | some n => (s.task i.pid n).graph
  | none => 0

/-- The reserved bits of the registers of a request of page 5, from a bit of X on, and whether X names a slot (R335). -/
def opBits : ReqOp → (Nat × Nat) × Bool
  | .cmt => ((48, 16), true)
  | .cancel | .void => ((48, 15), true)
  | .addr => ((48, 16), true)
  | .len => ((2, 62), false)
  | .fork => ((48, 16), false)
  | _ => ((0, 0), false)

/-- The slot that an SQRES has reserved is marked HELD (R338); one that needs a chunk that the pool has not waits. A request
whose strand has been halted is not served: its index is given back (R339, R347), or its slot void-committed where no
pinhole is left for it. -/
def State.markAt (s : State) (pid n : Nat) (q : Req) (alive : Bool) (index : Nat) : SeqDo :=
  let r := s.seq pid n
  let i := seqBase r + index
  if seqCap r ≤ i then .served (s.answer q alive (Reply.status sqLimit (some (BitVec.ofNat 64 i))))
  else if alive then
    match s.mapSlot pid r i with
    | none => .later s q
    | some s => .served ((s.setSlot pid r i slHeld (handleSlot q.by_.tcb)).answer q true
        (Reply.status sqOk (some (BitVec.ofNat 64 i))))
  else
    let m := instSlotOf r
    let x := (s.part pid).inst m
    let y := (x.exit (index % x.width)).cancel (index / x.width)
    if y.status = ctFull then
      match s.mapSlot pid r i with
      | none => .later s q
      | some s => .served (s.finish pid n i slVoid)
    else .served (s.modInst pid m fun x => x.setExit (index % x.width) y.exit)

/-- SQFORK at the parent's record (R344). -/
def State.forkAt (s : State) (pid n : Nat) (q : Req) (alive : Bool) : SeqDo :=
  let r := s.seq pid n
  let at_ := field q.x 0 48
  let mine := s.graphFor q.by_
  let accepts := match (s.part pid).graphSlot mine with
    | some g => gAccepts ((s.part pid).graph g)
    | none => false
  if seqCap r < at_ then s.refuse q alive 0x04
  else if !accepts then .served (s.answer q alive (Reply.status sqCancelled (some 0)))
  else if seqClen r < at_ then .served (s.answer q alive (Reply.status sqRange (some 0)))
  else
    match s.newSeq pid mine (seqLog2S r) (seqTier r) (seqLw r) (decide (at_ % seqPer r ≠ 0)) (s.answers 2 (reqDue q)) with
    | .ask bad body => .asked (s.askPlace q bad body)
    | .full => .served (s.answer q alive (Reply.status sqFull (some 0)))
    | .made t h new _ =>
      .served ((t.fillFork pid n (handleSlot h) at_ (q.a.setWidth 32) new).answer q alive
        (Reply.status sqOk (some (h.setWidth 64))))

/-- The steps of SQCLOSE after the first (R345): once every reservation past its check has been served, the holes are
closed; until then, and while a chunk is waited for, the close is under way. -/
def State.closeAt (s : State) (pid n : Nat) (q : Req) (alive : Bool) : SeqDo :=
  let q' : Req := { q with op := .closing }
  if s.reserving pid (q.a.setWidth 32) then .later s q'
  else
    let z := s.closeHoles pid n
    if !z.2 then .later z.1 q'
    else
      let x := (z.1.part pid).inst (instSlotOf (s.seq pid n))
      .served (z.1.answer q alive (Reply.status sqOk (some (BitVec.ofNat 64 (seqBase (s.seq pid n) + x.total)))))

/-- SQDROP, and the drop of a sequence whose graph is freed (R346): it waits for every reservation past its check. -/
def State.dropAt (s : State) (pid n : Nat) (q : Req) (alive : Bool) : SeqDo :=
  if s.reserving pid (q.a.setWidth 32) then .later s q
  else
    let z := s.dropSeq pid n
    .served (z.1.answer q alive (Reply.status sqOk (some (BitVec.ofNat 64 z.2))))

/-- SQLEN at the record (R342): F.Z := 1, and only A is written (R334). -/
def State.lenAt (s : State) (pid n : Nat) (q : Req) (alive : Bool) : SeqDo :=
  let r := s.seq pid n
  let v : Word64 := match field q.x 0 2 with
    | 0 => BitVec.ofNat 64 (seqClen r)
    | 1 => BitVec.ofNat 64 (seqBase r)
    | 2 => (seqInst r).setWidth 64
    | _ => BitVec.ofNat 64 (seqCap r)
  .served (s.answer q alive { Reply.status sqOk (some v) with x := none })

/-- SQADDR at the record (R343). -/
def State.addrAt (s : State) (pid n : Nat) (q : Req) (alive : Bool) : SeqDo :=
  let r := s.seq pid n
  let i := field q.x 0 48
  let st := s.slotState pid r i
  let status := if st = slCommitted then sqOk else if st = slVoid then sqVoid
    else if st = slHeld then sqPending else sqNotlive
  .served (s.answer q alive (Reply.status status (some (BitVec.ofNat 64 (seqVbase r + i * 2 ^ seqLog2S r)))))

/-- SQRES at the record (R338): its token is sent from the issuing tile. -/
def State.resAt (s : State) (pid n : Nat) (q : Req) (alive : Bool) : SeqDo :=
  let r := s.seq pid n
  if seqState r = 2 then .served (s.answer q alive (Reply.status sqClosed (some (BitVec.allOnes 64))))
  else .served (s.due [⟨.balancerTraversal, .tok ⟨q.by_, seqInst r, .res,
    (s.logCore q.by_.core / 8) % 2 ^ seqLw r, 0, (q.a.setWidth 32).toNat, 0, 0⟩ 0⟩])

/-- SQCLOSE at the record (R345): the sequence is closed at once. -/
def State.closeFirst (s : State) (pid n : Nat) (q : Req) (alive : Bool) : SeqDo :=
  let r := s.seq pid n
  if seqState r = 2 then
    let x := (s.part pid).inst (instSlotOf r)
    .served (s.answer q alive (Reply.status sqDone (some (BitVec.ofNat 64 (seqBase r + x.total)))))
  else (s.modSeq pid n fun r => setField r 118 2 2).closeAt pid n q alive

/-- A request at the record of sequence `n`, once its registers and its handle have been checked; `alive` says that its
strand still waits for it. -/
def State.seqServe (s : State) (pid n : Nat) (q : Req) (alive : Bool) : SeqDo :=
  let i := field q.x 0 48
  let done (z : State × Nat) : SeqDo := .served (z.1.answer q alive (statusOnly z.2))
  match q.op with
  | .res => s.resAt pid n q alive
  | .mark index => s.markAt pid n q alive index
  | .cmt => done (s.commitSlot pid n i)
  | .cancel => done (s.cancelSlot pid n i)
  | .void =>
    match s.voidSlot pid n i with
    | some z => done z
    | none => .later s q
  | .len => s.lenAt pid n q alive
  | .fork => s.forkAt pid n q alive
  | .close => s.closeFirst pid n q alive
  | .closing => s.closeAt pid n q alive
  | .drop => s.dropAt pid n q alive
  | .release => s.dropAt pid n q false
  | .addr => s.addrAt pid n q alive
  | _ => .served s

/-- The sequence that a request names, by the checks of R335 in their order: the trap's detail, or the slot. -/
def Part.seqCheck (p : Part) (q : Req) : Except (BitVec 8) Nat :=
  let b := opBits q.op
  if field q.a 32 32 ≠ 0 ∨ field q.x b.1.1 b.1.2 ≠ 0 then .error 0x02
  else
    match p.seqSlot (q.a.setWidth 32) with
    | none => .error 0x01
    | some n => if b.2 && decide (seqCap (p.seq n) ≤ field q.x 0 48) then .error 0x04 else .ok n

/-- A request is checked and served at its record. -/
def State.serveAt (s : State) (q : Req) (alive : Bool) : SeqDo :=
  match (s.part q.by_.pid).seqCheck q with
  | .error d => s.refuse q alive d
  | .ok n => s.seqServe q.by_.pid n q alive

/-- The requests that wait at a record, in the order in which they are served. -/
def State.queueAt (s : State) (pid n : Nat) : List Req := Tab.get [] (s.part pid).waiting n
def State.setQueueAt (s : State) (pid n : Nat) (l : List Req) : State :=
  s.modPart pid fun p => { p with waiting := Tab.set [] p.waiting n l }

/-- Does a request go on though its strand has been halted: a reservation whose token is in flight, and what the device does
of itself (R347)? -/
def goesOn : ReqOp → Bool
  | .mark _ | .closing | .release => true
  | _ => false

/-- The requests at a record are served in order, until one must wait; it is looked at again 64 cycles later (log 2). -/
def State.serveQueue (s : State) (pid n : Nat) : Nat → State
  | 0 => s
  | fuel + 1 =>
    match s.queueAt pid n with
    | [] => s
    | q :: rest =>
      let alive := s.awaits q.by_
      if !alive && !goesOn q.op then ((s.forget 2 (reqDue q)).setQueueAt pid n rest).serveQueue pid n fuel
      else
        match s.serveAt q alive with
        | .served t => (t.setQueueAt pid n rest).serveQueue pid n fuel
        | .later t q' => (t.setQueueAt pid n (q' :: rest)).dueIn 64 ⟨.loadReply, .record pid n⟩
        | .asked t => t

/-- Does a request end a sequence's reservations: has it to wait for those past their check (R345, R346)? -/
def closes : ReqOp → Bool
  | .close | .closing | .drop | .release => true
  | _ => false

/-- A request takes its place at a record: at the end, but the marking of a reserved slot before the requests that wait for
it. -/
def enqueue (q : Req) (l : List Req) : List Req :=
  match q.op with
  | .mark _ => l.takeWhile (fun r => !closes r.op) ++ q :: l.dropWhile fun r => !closes r.op
  | _ => l ++ [q]

/-- A request of page 5 reaches the record that it names (R348): it is served at once where none waits there. -/
def State.arriveAt (s : State) (q : Req) (alive : Bool) : State :=
  let pid := q.by_.pid
  match (s.part pid).seqSlot (q.a.setWidth 32) with
  | none =>
    match s.serveAt q alive with
    | .served t | .later t _ | .asked t => t
  | some n =>
    match s.queueAt pid n with
    | [] =>
      match s.serveAt q alive with
      | .served t => t
      | .later t q' => (t.setQueueAt pid n [q']).dueIn 64 ⟨.loadReply, .record pid n⟩
      | .asked t => t.setQueueAt pid n [q]
    | l => s.setQueueAt pid n (enqueue q l)

/-- A request of page 5 is sent: SQCMT and SQVOID are releases, and are held until what they release has been performed
(R340; 08 R182). -/
def State.sendSeq (s : State) (q : Req) (alive : Bool) : State :=
  let waits := match q.op with
    | .cmt | .cancel | .void => !s.releasedFor q.by_
    | _ => false
  if waits then s.dueIn 4 (reqDue q) else s.arriveAt q alive

/-! ### Page 5 (R334 to R346) -/

/-- A request of the issuing strand. -/
def State.request (s : State) (op : ReqOp) : Req := ⟨s.issuer, op, s.strand.a, s.strand.x⟩

/-- An instruction of page 5 whose operands are registers: its context waits in WAIT-LOAD for the reply. -/
def runSeq (op : ReqOp) (pre : Prefixes) (s : State) : State :=
  guarded pre s fun s => (s.awaitReply pre).sendSeq (s.request op) true

/-- SQNEW, its descriptor read (R337). -/
def State.seqNew (s : State) (q : Req) (d : Nat) (alive : Bool) : SeqDo :=
  let pid := q.by_.pid
  let part := s.part pid
  let owner : BitVec 32 := if bitsAt 32 32 d = 0 then s.graphFor q.by_ else BitVec.ofNat 32 (bitsAt 32 32 d)
  if seqDescBad d then s.refuse q alive 0x03
  else
    match part.graphSlot owner with
    | none => s.refuse q alive 0x03
    | some g =>
      if !gAccepts (part.graph g) then .served (s.answer q alive (Reply.status sqCancelled (some 0)))
      else
        match s.newSeq pid owner (bitsAt 0 5 d) (bitsAt 8 1 d) (bitsAt 12 3 d) false (s.answers 2 (reqDue q)) with
        | .ask bad body => .asked (s.askPlace q bad body)
        | .full => .served (s.answer q alive (Reply.status sqFull (some 0)))
        | .made t h _ _ => .served (t.answer q alive (Reply.status sqOk (some (h.setWidth 64))))

/-- The state that an outcome leaves. -/
def SeqDo.state : SeqDo → State
  | .served s | .later s _ | .asked s => s

/-- R337 -/
def execSqnew (p : BitVec 3) (pm : PostMode) (pre : Prefixes) (s : State) : Host.Outcome State Fault Refusal :=
  .next (guarded pre s fun s =>
    let ptr := s.strand.ptr p.toNat
    match checkLocal ptr.addr 16 8 with
    | .error (.trap t) => s.raise t
    | .error .stall => s.stall
    | .ok o =>
      match s.readLocal o 16 with
      | .error (.trap t) => s.raise t
      | .error .stall => s.stall
      | .ok d =>
        (((s.touched o 16).await ⟨s.strand.next pre, false, some (p.toNat, ptr.post pm 16), none, none⟩).seqNew
          (s.request (.new (BitVec.ofNat 128 d))) d true).state)

/-- R338 -/
def execSqres (pre : Prefixes) (s : State) : Host.Outcome State Fault Refusal := .next (runSeq .res pre s)

/-- R340 -/
def execSqcmt (pre : Prefixes) (s : State) : Host.Outcome State Fault Refusal := .next (runSeq .cmt pre s)

/-- R340: m = 0 -/
def execSqvoidCancel (pre : Prefixes) (s : State) : Host.Outcome State Fault Refusal := .next (runSeq .cancel pre s)

/-- R340: m = 1 -/
def execSqvoidCommit (pre : Prefixes) (s : State) : Host.Outcome State Fault Refusal := .next (runSeq .void pre s)

/-- R342 -/
def execSqlen (pre : Prefixes) (s : State) : Host.Outcome State Fault Refusal := .next (runSeq .len pre s)

/-- R344 -/
def execSqfork (pre : Prefixes) (s : State) : Host.Outcome State Fault Refusal := .next (runSeq .fork pre s)

/-- R345 -/
def execSqclose (pre : Prefixes) (s : State) : Host.Outcome State Fault Refusal := .next (runSeq .close pre s)

/-- R346 -/
def execSqdrop (pre : Prefixes) (s : State) : Host.Outcome State Fault Refusal := .next (runSeq .drop pre s)

/-- R343 -/
def execSqaddr (pre : Prefixes) (s : State) : Host.Outcome State Fault Refusal := .next (runSeq .addr pre s)

/-- 11 R267: an exit serves a token; that of an SQRES goes on at the record (R338) -/
def execExitServeToken (s : State) : Host.Outcome State Fault Refusal :=
  match s.arg with
  | .tok r _ =>
    match s.serveExit r r.wire fun w x => x.token w r.wire with
    | (s, none) =>
      if r.kind = .tokn then .next (s.opEnd r.by_.pid r.by_.tcb) else .next (s.unserved r)
    | (s, some y) =>
      match r.kind with
      | .tokn => .next (s.due [⟨.toknResultWrite, .tok r (toknWord y.status y.value)⟩])
      | .res => .next (s.arriveAt ⟨r.by_, .mark (y.value.getD (2 ^ 30)), BitVec.ofNat 64 r.arg, 0⟩ (s.awaits r.by_))
      | _ => .next (s.reply r.by_.core r.by_.ctx (countReply y.status y.value))
  | _ => .next s

/-! ### The stop bath's treatment of reservations (14 R327 step 4; R347) -/

/-- The slots of sequence `n` that tasks named by `p` hold are cancelled, or void-committed where no pinhole is left. -/
def State.voidHeld (s : State) (pid n : Nat) (p : Nat → Bool) : State :=
  let r := s.seq pid n
  (List.range (s.seqPages pid r)).foldl (fun s c =>
    let d := s.dirAt pid r c
    if !d.testBit 31 then s
    else
      let x := (s.part pid).chunk (seqTier r) (bitsAt 0 24 d)
      (x.st.filter fun e => decide (e.2 = slHeld) && p (Tab.get 0 x.hold e.1).toNat).foldl (fun s e =>
        let i := c * seqPer r + e.1
        let q := s.cancelSlot pid n i
        if q.2 = sqFull then ((s.voidSlot pid n i).map Prod.fst).getD s else q.1) s) s

/-- Has a graph a sequence of its own? -/
def State.ownsSeqs (s : State) (pid : Nat) (owner : BitVec 32) : Bool :=
  (s.part pid).seqs.any fun e => decide (seqState e.2 ≠ 0) && decide (seqOwner e.2 = owner)

/-- The drop of sequence `n` by the device. -/
def State.releaseReq (s : State) (pid n : Nat) : Req :=
  ⟨⟨0, 0, pid, 0, 0, s.now⟩, .release, (mkHandle n (Tab.get 0 (s.part pid).seqGen n)).setWidth 64, 0⟩

/-- The sequences that a graph owns are dropped (R337, R347), each once the requests before the drop have been served. -/
def State.dropOwned (s : State) (pid : Nat) (owner : BitVec 32) : State :=
  ((s.part pid).seqs.filter fun e => decide (seqState e.2 ≠ 0) && decide (seqOwner e.2 = owner)).foldl
    (fun s e => if (s.queueAt pid e.1).any fun q => decide (q.op = .release) then s
      else s.arriveAt (s.releaseReq pid e.1) false) s

end Sys2Proof.Machine
end

