-- ==== Sys2Proof/Machine/Copies.lean ====
section
/-! DEFINITION. Copies and chain copies: the checks of CPY and CPYC, and the engines that serve, hold, complete and forward them (09_copies_strands_sync R206 to R214). -/

namespace Sys2Proof.Machine

/-! ### Descriptors (R206, R214) -/

def cpSrc (d : BitVec 256) : Addr := d.extractLsb' 0 48
def cpLen (d : BitVec 256) : Nat := field d 128 28
def cpCk (d : BitVec 256) : Nat := field d 164 2
def cpHops (d : BitVec 256) : Nat := field d 166 4
def cpTarget (d : BitVec 256) : Word64 := d.extractLsb' 192 64
def hopDst (h : BitVec 128) : Addr := h.extractLsb' 0 48
def hopTarget (h : BitVec 128) : Word64 := h.extractLsb' 64 64

/-- Is a descriptor malformed (R208)? -/
def descBad (chain : Bool) (d : BitVec 256) : Bool :=
  let t := cpTarget d
  decide (field d 170 22 ≠ 0) || decide (field d 112 16 ≠ 0) || decide (field d 48 16 ≠ 0) ||
  decide (cpLen d % 4 ≠ 0) || decide (cpLen d < 4) || decide (cpCk d = 3) ||
  (d.getLsbD 156 && decide (field d 157 3 = 7)) || (d.getLsbD 160 && decide (field d 161 3 = 7)) ||
  (decide (cpCk d = 0) && decide (t ≠ 0)) || (decide (cpCk d = 2) && decide (field t 32 32 ≠ 0)) ||
  (if chain then decide (cpHops d = 0) || decide (8 < cpHops d) else decide (cpHops d ≠ 0))

/-- The logical tile of a window address. -/
def windowTileOf (a : Addr) : Option Nat :=
  match apertureOf a with
  | .window t _ _ _ => some t
  | _ => none

/-- Are the hop entries malformed (R214)? `own` is the logical tile of the issuer. -/
def hopsBad (own : Nat) (hs : List (BitVec 128)) : Bool :=
  let ts := hs.map fun h => windowTileOf (hopDst h)
  (hs.any fun h => decide (field h 48 16 ≠ 0)) || (ts.any fun t => t.isNone || decide (t = some own)) || !decide ts.Nodup

/-- The part of an address that its aperture holds, up to the aperture's end (R208). A reserved aperture and a window tile
outside the partition raise detail 0x03, as the table of R177 says, by which R208 checks the span (log 71). -/
def State.spanCheck (s : State) (a : Addr) (n : Nat) (dst : Bool) : Except Block Unit :=
  let pid := s.pidOf s.me
  match apertureOf a with
  | .reserved => .error (blockTrap kAccess 0x03 a)
  | ap =>
    if a.toNat % 4 ≠ 0 then .error (blockTrap kAlign 0x01 a)
    else
      match ap with
      | .localMem o => if o + n ≤ 2 ^ 21 then .ok () else .error (blockTrap kAccess 0x01 a)
      | .window t _ _ o =>
        if (s.reachTile pid t).isNone then .error (blockTrap kAccess 0x03 a)
        else if dst && !s.permitted pid s.myTile t then .error (blockTrap kAccess 0x08 a)
        else if o + n ≤ 2 ^ 18 then .ok () else .error (blockTrap kAccess 0x03 a)
      | .dieStore d o => if o + n ≤ (s.part pid).dssSize d then .ok () else .error (blockTrap kAccess 0x03 a)
      | _ => if a.toNat + n ≤ 0xF00000000000 then .ok () else .error (blockTrap kAccess 0x03 a)

/-- Do two spans of `n` bytes overlap as addresses? -/
def overlap (a b : Addr) (n : Nat) : Bool := decide (a.toNat < b.toNat + n) && decide (b.toNat < a.toNat + n)

/-- The first page of a global span is translated at issue (R208): the package of the memory it names. -/
def State.firstPage (s : State) (a : Addr) (wr : Bool) : Except Block Nat :=
  match apertureOf a with
  | .global =>
    match s.translate s.myTile (s.pidOf s.me) a.toNat (!wr) wr with
    | .miss => .error (.walk a (!wr) wr)
    | .fault d => .error (blockTrap kXlate d a)
    | .page e =>
      if e.rem then .ok e.pkg
      else if (s.physKey (e.phys a.toNat)).isNone then .error (blockTrap kXlate 0x05 a)
      else .ok s.pod.pkgn.toNat
  | _ => .ok s.pod.pkgn.toNat

/-- A list of checks, the first that fails. -/
def firstBad (l : List (Except Block Unit)) : Except Block Unit :=
  match l with
  | [] => .ok ()
  | .error b :: _ => .error b
  | .ok _ :: l => firstBad l

/-- Does a destination of a copy lie on another package, as far as its issuer can tell? -/
def State.dstPackage (s : State) (a : Addr) : Nat :=
  match apertureOf a with
  | .global =>
    match s.translateFor s.myTile (s.pidOf s.me) a.toNat false true with
    | .ok e => if e.rem then e.pkg else s.pod.pkgn.toNat
    | .error _ => s.pod.pkgn.toNat
  | _ => s.pod.pkgn.toNat

/-- The checks of R208 from the descriptor on; the descriptor address is `d`. DESIGN CHOICE (log 81): the aperture, the alignment and the
span of SRC are checked before those of the destinations, and each address is checked whole before the next. -/
def State.copyCheck (s : State) (d : Addr) (desc : BitVec 256) (hops : List (BitVec 128)) (chain : Bool) :
    Except Block Unit :=
  let pid := s.pidOf s.me
  let n := cpLen desc
  let src := cpSrc desc
  let dsts := if chain then hops.map hopDst else [cpDst desc]
  let pkg := match dsts with
    | [a] => if chain then s.pod.pkgn.toNat else s.dstPackage a
    | _ => s.pod.pkgn.toNat
  let badTarget (p : Nat) (t : Word64) : Bool := s.targetBad pid p t
  let barred (p : Nat) (t : Word64) : Bool := s.targetBarred s.myTile pid p t
  match firstBad (s.spanCheck src n false :: dsts.map fun a => s.spanCheck a n true) with
  | .error b => .error b
  | .ok _ =>
    if dsts.any fun a => overlap src a n then .error (blockTrap kCopy 0x02 d)
    else if (decide (cpCk desc = 1) && badTarget pkg (cpTarget desc)) ||
        hops.any (fun h => badTarget s.pod.pkgn.toNat (hopTarget h)) then .error (blockTrap kAccess 0x06 d)
    else if (decide (cpCk desc = 1) && barred pkg (cpTarget desc)) ||
        hops.any (fun h => barred s.pod.pkgn.toNat (hopTarget h)) then .error (blockTrap kAccess 0x08 d)
    else if cpCk desc = 2 ∧ ((s.part pid).taskSlot ((cpTarget desc).setWidth 32)).isNone = true then
      .error (blockTrap kCopy 0x03 d)
    else
      match s.firstPage src false with
      | .error b => .error b
      | .ok p =>
        if p ≠ s.pod.pkgn.toNat then .error (blockTrap kAccess 0x02 src)
        else
          match dsts with
          | [a] => (s.firstPage a true).map fun _ => ()
          | _ => .ok ()

/-- The checks of CPY and CPYC from the descriptor's address on (R208): the copy that is to be sent. -/
def State.copyAt (s : State) (chain : Bool) (d : Addr) : Except Block CopyMsg :=
  let lift {α : Type} (r : Except Stop α) : Except Block α := match r with
    | .error (.trap t) => .error (.trap t)
    | .error .stall => .error .stall
    | .ok x => .ok x
  match lift (checkLocal d 32 8) with
  | .error b => .error b
  | .ok o =>
    match lift (s.readLocal o 32) with
    | .error b => .error b
    | .ok w =>
      let desc : BitVec 256 := BitVec.ofNat 256 w
      let n := if chain then cpHops desc else 0
      if descBad chain desc then .error (blockTrap kCopy 0x01 d)
      else if 2 ^ 21 < o + 32 + 16 * n then .error (blockTrap kAccess 0x01 d)
      else
        match lift (if n = 0 then .ok 0 else s.readLocal (o + 32) (16 * n)) with
        | .error b => .error b
        | .ok hw =>
          let hops := (List.range n).map fun h => BitVec.ofNat 128 (bitsAt (128 * h) 128 hw)
          if hopsBad (s.logCore s.me / 8) hops then .error (blockTrap kCopy 0x01 d)
          else (s.copyCheck d desc hops chain).map fun _ => ⟨s.issuer, d, desc, hops, chain, 0, false⟩

/-- A copy that has passed its checks: it is sent, or stalls with 512 in flight and is tried again from that test on, with
its descriptor as it was read (R208). -/
def State.sendCopy (s : State) (p : BitVec 3) (pm : PostMode) (pre : Prefixes) (m : CopyMsg) : State :=
  let k := s.strand
  if 512 ≤ (s.core s.me).copies then (s.modCtx s.me s.myCtx fun k => { k with copyHeld := some m }).stall
  else
    let m := { m with by_ := s.issuer }
    let s := (s.modCore s.me fun c => { c with copies := c.copies + 1 }).opBegin (s.pidOf s.me) (s.tcbOf s.me)
    (s.complete { k.applyPost p pm 32 with copyHeld := none } (k.next pre)).due [⟨.copyServe, .copy m 0⟩]

/-- CPY and CPYC at issue (R208). -/
def issueCopy (chain : Bool) (p : BitVec 3) (pm : PostMode) (pre : Prefixes) (s : State) : State :=
  guarded pre s fun s =>
    match s.strand.copyHeld with
    | some m => s.sendCopy p pm pre m
    | none =>
      match s.copyAt chain (s.strand.ptr p.toNat).addr with
      | .error b => s.blocked b
      | .ok m => (s.touched (m.daddr.toNat % 2 ^ 21) (32 + 16 * m.hops.length)).sendCopy p pm pre m

/-- R208 -/
def execCpy (p : BitVec 3) (pm : PostMode) (pre : Prefixes) (s : State) : Host.Outcome State Fault Refusal :=
  .next (issueCopy false p pm pre s)

/-- R208, R214 -/
def execCpyc (p : BitVec 3) (pm : PostMode) (pre : Prefixes) (s : State) : Host.Outcome State Fault Refusal :=
  .next (issueCopy true p pm pre s)

/-! ### The serving engines (R207, R209 to R212) -/

/-- Where a piece of a copy lies: a key and how many of its bytes lie on from there, a translation fault, a refusal with
the detail of its NACK, or another package. -/
inductive Reached where
  | at_ (key n : Nat)
  | xlate (detail : BitVec 8)
  | refused (detail : BitVec 8)
  | remote (pkg : Nat) (addr : Addr)
deriving DecidableEq, Repr

/-- Up to `n` bytes from an address, as an engine that serves an issuer reaches them; `span` is what a window access is
checked for. Pages are translated with the TLB of the issuer's tile (16 R355). -/
def State.reach (s : State) (i : Issuer) (a : Addr) (n : Nat) (u : WinUse) (span : Option Nat) : Reached :=
  match apertureOf a with
  | .localMem o => .at_ (scratchKey (i.core / 8) o) n
  | .window l c w o =>
    match s.reachTile i.pid l with
    | none => .refused 0
    | some t =>
      let len := field (Tab.get 0 (s.core (8 * t + c)).wins w) 20 19
      let n' := match span with
        | some k => k
        | none => min n (max 4 (len - o))
      match s.windowCheck t c w o n' u with
      | .error d => .refused d
      | .ok k => .at_ k (min n n')
  | .dieStore d o => .at_ (dieKey d ((s.part i.pid).dssBase d + o)) n
  | .global =>
    match s.translateFor (i.core / 8) i.pid a.toNat (decide (u = .load)) (decide (u ≠ .load)) with
    | .error d => .xlate d
    | .ok e =>
      if e.rem then .remote e.pkg (BitVec.ofNat 48 (e.phys a.toNat))
      else
        match s.physKey (e.phys a.toNat) with
        | some k => .at_ k (min n (4096 - a.toNat % 4096))
        | none => .xlate 0x05
  | .reserved => .refused 0

/-- The page that an engine walked for an issuer goes into the TLB of its tile (16 R355). -/
def State.fillAt (s : State) (i : Issuer) (a : Addr) (wr : Bool) : State :=
  match apertureOf a with
  | .global => s.fillFor (i.core / 8) i.pid a.toNat (!wr) wr
  | _ => s

/-- The copy has ended: the counts of its core and of its task fall (R211). -/
def State.copyEnd (s : State) (m : CopyMsg) : State :=
  (s.modCore m.by_.core fun c => { c with copies := c.copies - 1 }).opEnd m.by_.pid m.by_.tcb

/-- A copy is discarded after an error (R211): `a` is the address of the first unwritten word. -/
def State.copyFail (s : State) (m : CopyMsg) (status : Nat) (d : BitVec 8) (a : Addr) : State :=
  (s.fault m.by_ { endedInfo status a.toNat m.daddr.toNat with kind := nackKind d, detail := d.toNat }).copyEnd m

/-- The destination of the copy's next word: for a chain copy, on its first hop. -/
def copyDst (m : CopyMsg) : Addr :=
  (match m.hops with
    | h :: _ => if m.chain then hopDst h else cpDst m.desc
    | [] => cpDst m.desc) + BitVec.ofNat 48 m.done

/-- What follows when `n` more bytes of a copy have been written. -/
def State.copyOn (s : State) (m : CopyMsg) (n : Nat) : State :=
  let m := { m with done := m.done + n }
  if m.done < cpLen m.desc then s.due [⟨.copyServe, .copy m 0⟩]
  else if m.chain then s.due [⟨.chainHop, .copy m 1⟩]
  else s.due [⟨.copyComplete, .copy m 0⟩]

/-- The first poisoned word of the source of a copy or a chain hop is reported, once for a copy (21 R420). -/
def State.copyPoison (s : State) (m : CopyMsg) (src : Addr) (bad : List Nat) : State × CopyMsg :=
  match bad with
  | b :: _ =>
    if m.reported then (s, m)
    else (s.reportPoison m.by_ (some (src + BitVec.ofNat 48 b)) m.daddr.toNat, { m with reported := true })
  | [] => (s, m)

/-- R209: an engine moves the next words, up to the end of a page of either side; while the injection of its partition is held
it waits (17 R386) -/
def execCopyServe (s : State) : Host.Outcome State Fault Refusal :=
  match s.arg with
  | .copy m _ =>
    let i := m.by_
    let src := cpSrc m.desc + BitVec.ofNat 48 m.done
    let dst := copyDst m
    let left := cpLen m.desc - m.done
    if (m.done = 0 ∧ s.releasedFor i = false) ∨ i.pid ∈ s.board.draining then .next (s.dueIn 8 ⟨.copyServe, .copy m 0⟩)
    else
      let s := (s.fillAt i src false).fillAt i dst true
      match s.reach i src (min left 4096) .load none with
      | .xlate d => .next (s.due [⟨.copyFaultHold, .copyFault m src d⟩])
      | .refused d => .next (s.copyFail m stRefused d dst)
      | .remote _ _ => .next (s.copyFail m stRefused 0 dst)
      | .at_ k n =>
        let report (n : Nat) : State × CopyMsg := s.copyPoison m src (s.badWords k n)
        match s.reach i dst n .put (if m.chain then some left else none) with
        | .xlate d => .next (s.due [⟨.copyFaultHold, .copyFault m dst d⟩])
        | .refused d => .next (s.copyFail m stRefused d dst)
        | .remote pkg a =>
          let n := min n (4096 - a.toNat % 4096)
          let q := report n
          .next (q.1.sendRequest i pkg fun me job tag => .copyWords me job tag q.2 a (s.rdN k n) (s.badWords k n))
        | .at_ k' n =>
          let q := report n
          .next ((q.1.wrBad k' (s.rdN k n) (s.badWords k n)).copyOn q.2 n)
  | _ => .next s

/-- R212: the copy is held for replay at the faulting page -/
def execCopyFaultHold (s : State) : Host.Outcome State Fault Refusal :=
  match s.arg with
  | .copyFault m va d =>
    .next (s.hold m.by_ (.op ⟨.copyServe, .copy m 0⟩ m.by_.tcb) ⟨3, 0, kXlate.toNat, d.toNat, va.toNat, m.daddr.toNat, 0⟩)
  | _ => .next s

/-- R211: the target is signalled, and the copy is no longer in flight, for a counter of another package once the
increment is known to be performed; a decrement that finds its counter at 0 is reported to the issuing task, and one of a
cancelled task is dropped (14 R315) -/
def execCopyComplete (s : State) : Host.Outcome State Fault Refusal :=
  match s.arg with
  | .copy m _ =>
    let t := cpTarget m.desc
    let pid := m.by_.pid
    if cpCk m.desc = 1 ∧ targetV t = true ∧ targetPkg t ≠ s.pod.pkgn.toNat then
      .next (s.sendRequest m.by_ (targetPkg t) fun me job tag => .signal me job tag m t)
    else
    let s :=
      if cpCk m.desc = 1 then s.signal pid t
      else if cpCk m.desc = 2 then
        match (s.part pid).taskSlot (t.setWidth 32) with
        | none => s
        | some n =>
          let q := s.depDec pid n
          if q.2 = tkUnder then q.1.fault m.by_ (endedInfo stUnder 0 m.daddr.toNat) else q.1
      else s
    .next (s.copyEnd m)
  | _ => .next s

/-- R214: hop `h` has the data; it counts, and forwards the data from its own scratchpad to the next -/
def execChainHop (s : State) : Host.Outcome State Fault Refusal :=
  match s.arg with
  | .copy m h =>
    match m.hops[h - 1]? with
    | none => .next s
    | some e =>
      let n := cpLen m.desc
      let s := s.signal m.by_.pid (hopTarget e)
      match m.hops[h]? with
      | none => .next (s.due [⟨.copyComplete, .copy m 0⟩])
      | some f =>
        match s.reach m.by_ (hopDst e) n .put (some n), s.reach m.by_ (hopDst f) n .put (some n) with
        | .at_ k _, .at_ k' _ =>
          let q := s.copyPoison m (hopDst e) (s.badWords k n)
          .next ((q.1.wrBad k' (s.rdN k n) (s.badWords k n)).due [⟨.chainHop, .copy q.2 (h + 1)⟩])
        | _, .refused d => .next (s.copyFail m stRefused d (hopDst f))
        | _, _ => .next (s.copyFail m stRefused 0 (hopDst f))
  | _ => .next s

end Sys2Proof.Machine
end

