-- ==== Sys2Proof/Machine/Sched.lean ====
section
/-! DEFINITION. The hardware scheduler: completing and freeing graphs and tasks, the stop bath, placement, the start of a task, and the steps of the device that do these (14_tasks_graphs R298 to R310, R327). -/

namespace Sys2Proof.Machine

/-! ### Subtrees and the end of graphs (R298, R300) -/

/-- The live graphs of a partition, by slot. -/
def Part.graphList (p : Part) : List Nat := (p.graphs.filter fun e => decide (gState e.2 ≠ 0)).map Prod.fst

/-- The children, at any depth up to `fuel`, of the graphs in `l`, with those themselves, parents first. -/
def Part.below (p : Part) : Nat → List Nat → List Nat
  | 0, l => l
  | fuel + 1, l =>
    let hs := l.map fun n => gSelf (p.graph n)
    let new := p.graphList.filter fun n => decide (n ∉ l) && decide (gParent (p.graph n) ∈ hs)
    if new.isEmpty then l else p.below fuel (l ++ new)

/-- A graph and all its descendants (R327). -/
def Part.subtree (p : Part) (n : Nat) : List Nat := p.below p.graphs.length [n]

/-- The tasks of the graphs in `l`, by slot. -/
def Part.tasksOf (p : Part) (l : List Nat) : List Nat :=
  let hs := l.map fun n => gSelf (p.graph n)
  (p.tasks.filter fun e => decide (e.2.state ≠ 0) && decide (e.2.graph ∈ hs)).map Prod.fst

/-- The contexts that wait for a graph (R318), by core and context. -/
def State.graphWaiters (s : State) (pid : Nat) (h : BitVec 32) : List (Nat × Nat) :=
  (s.cores.filter fun e => decide (s.pidOf e.1 = pid)).flatMap fun e =>
    (e.2.waiters fun w => decide (w = .graph h)).map fun c => (e.1, c)

/-- Every GWAIT on a graph that is final returns (R318). -/
def State.wakeGraph (s : State) (pid n : Nat) : State :=
  let g := s.graph pid n
  let v := if gState g = gComplete then 0 else gDisc g
  let st := if gState g = gComplete then tkOk else tkCancelled
  let s := (s.graphWaiters pid (gSelf g)).foldl (fun s w => s.endGwait w.1 w.2 (some (BitVec.ofNat 64 v)) st) s
  (((s.part pid).tasks.filter (·.2.saved)).map Prod.fst).foldl (fun s t => s.wakeSaved pid t (gSelf g) (some v) st) s

/-- A task's TCB is freed: its instances are released, its overflow blocks too, and its slot's generation advances. -/
def State.freeTask (s : State) (pid slot : Nat) : State :=
  let t := s.task pid slot
  let s := (t.objects.filter fun o => !o.1).foldl (fun s o => s.dropInst pid o.2) s
  s.modPart pid fun p =>
    let bs := p.blocks (t.novf / 15 + 1) t.ovf
    { p.setTask slot Task.absent with
      ovf := bs.foldl (fun o b => Tab.set 0 o b 0) p.ovf
      taskGen := Tab.set 0 p.taskGen slot (Tab.get 0 p.taskGen slot + 1) }

/-- A graph leaves its parent's list of children. -/
def Part.unlink (p : Part) (n : Nat) : Part :=
  let g := p.graph n
  let self := gSelf g
  let p := match p.graphSlot (gParent g) with
    | some m => if gChild (p.graph m) = self then p.setGraph m (setField (p.graph m) 64 32 (gSib g).toNat) else p
    | none => p
  (p.graphList.filter fun m => decide (gSib (p.graph m) = self)).foldl
    (fun p m => p.setGraph m (setField (p.graph m) 96 32 (gSib g).toNat)) p

/-- The cancellation that names a graph is over. DESIGN CHOICE (log 34): the event goes to the host for a cancellation that the host asked
for, and never for one by a GCANCEL of the job (R327 gives no way to ask for it). -/
def State.dropCancel (s : State) (pid n : Nat) : State :=
  match (s.part pid).cancels.find? fun c => decide (c.1 = n) with
  | none => s
  | some c =>
    let g := s.graph pid n
    let s := s.modPart pid fun p => { p with cancels := p.cancels.filter fun c => decide (c.1 ≠ n) }
    if c.2.1 then s.event 0x04 pid (mkRecord [(0, 32, (gSelf g).toNat), (32, 32, gDisc g)]) else s

/-- A final graph whose hold has been released is freed, with every TCB of it and every descendant not yet freed (R298);
the sequences that they own are dropped (15 R337), and a cancellation of one of them is over. -/
def State.freeGraph (s : State) (pid n : Nat) : State :=
  ((s.part pid).subtree n).reverse.foldl (fun s m =>
    let g := s.graph pid m
    let s := (s.dropOwned pid (gSelf g)).dropCancel pid m
    let s := ((s.part pid).tasksOf [m]).foldl (fun s t => s.freeTask pid t) s
    let s := (s.graphTo pid m 0)
    s.modPart pid fun p =>
      { (p.unlink m).setGraph m 0 with graphGen := Tab.set 0 p.graphGen m (Tab.get 0 p.graphGen m + 1) }) s

def gFinal (g : BitVec 512) : Bool := decide (gState g = gComplete) || decide (gState g = gCancelled)

/-- A graph that is final and not held is freed. -/
def State.tryFree (s : State) (pid n : Nat) : State :=
  let g := s.graph pid n
  if gFinal g && !gHold g then s.freeGraph pid n else s

/-- A graph that has become COMPLETE or CANCELLED: its parent's NCHILD falls, and its waiters return. -/
def State.graphFinal (s : State) (pid n st : Nat) : State :=
  let g := s.graph pid n
  let s := (s.graphTo pid n st).wakeGraph pid n
  match (s.part pid).graphSlot (gParent g) with
  | some m => s.modGraph pid m fun x => setField x 192 32 (gNchild x - 1)
  | none => s

/-- A graph whose counts have changed completes when HOLD, NTASK and NCHILD are all 0, and then its parent is looked at
in the same way (R300). -/
def State.checkGraphs (s : State) (pid : Nat) : Nat → Nat → State
  | 0, n => s.tryFree pid n
  | fuel + 1, n =>
    let g := s.graph pid n
    if gAccepts g && !gHold g && decide (gNtask g = 0) && decide (gNchild g = 0) then
      let s := s.graphFinal pid n gComplete
      let s := match (s.part pid).graphSlot (gParent g) with
        | some m => s.checkGraphs pid fuel m
        | none => s
      if (s.graph pid n) ≠ 0 then s.tryFree pid n else s
    else s.tryFree pid n

def State.checkGraph (s : State) (pid n : Nat) : State := s.checkGraphs pid (s.part pid).graphs.length n

/-- The hold of a graph is released (R298, R300). -/
def State.releaseHold (s : State) (pid n : Nat) : State :=
  let g := s.graph pid n
  if !gHold g then s
  else
    let s := s.modGraph pid n fun g => setField g 227 1 0
    let s := if gState g = gOpen then s.graphTo pid n gActive else s
    s.checkGraph pid n

/-- The holds of the graphs that a task created are released. -/
def State.releaseHolds (s : State) (pid : Nat) (tcb : BitVec 32) : State :=
  ((s.part pid).graphList.filter fun n => decide (gCreator ((s.part pid).graph n) = tcb)).foldl
    (fun s n => s.releaseHold pid n) s

/-! ### The end of a task (R301, R310, R327) -/

/-- The tiles of a task are free again, and the partitions that can use them look for a task. -/
def State.freeTiles (s : State) (ts : List Nat) : State :=
  ts.foldl (fun s t =>
    let e := s.tileEntry t
    let s := s.modTile t fun x => { x with tcb := 0 }
    s.due ((if entryPid e = 0 then [] else [.num .placementPass (entryPid e)]) ++
      (if entryBpid e = 0 then [] else [.num .placementPass (entryBpid e)]))) s

/-- Is a message an arrival at a pod-scope reduction or counting barrier of the issuers that `p` names? -/
def sumOfPart (p : RedArr → Bool) : PodMsg → Bool
  | .sumArrive _ _ _ r _ => p r
  | _ => false

/-- The meetings of a task are discarded (11 R284): PROOT is told where it counts some of them at pod scope, and arrivals
that have not left the package do not. -/
def State.dropMeetings (s : State) (pid : Nat) (tcb : BitVec 32) : State :=
  let mine (m : Meeting) : Bool := decide (m.pid = pid) && decide (m.tcb = tcb)
  let sums := s.meetings.any fun m => mine m && decide (m.kind ≠ 0) && decide (m.scope = .pod)
  let gang := s.gangOf pid tcb
  let s := { s with meetings := s.meetings.filter fun m => !mine m }
  if sums then
    ({ s with pod := { s.pod with outbox := s.pod.outbox.filter fun e =>
        e.delivered || !e.own || !sumOfPart (fun r => decide (r.by_.pid = pid) && decide (r.by_.tcb = tcb)) e.msg } }).sendPod (s.part pid).proot (.sumCancel s.pod.pkgn.toNat (s.part pid).pjob gang)
  else s

/-- The task's graph has one task fewer that is not final. -/
def State.taskGone (s : State) (pid : Nat) (graph : BitVec 32) : State :=
  match (s.part pid).graphSlot graph with
  | some n => (s.modGraph pid n fun g => setField g 160 32 (gNtask g - 1)).checkGraph pid n
  | none => s

/-- A task that is final leaves its tiles; a member of a pod gang arrives at every later barrier (22 R439). -/
def State.endPlacing (s : State) (pid slot : Nat) : State :=
  let t := s.task pid slot
  let s := if t.saved then s else s.freeTiles t.tiles
  let s := if t.pgang = 0 then s
    else s.sendPod (s.part pid).proot (.memberDone s.pod.pkgn.toNat (s.part pid).pjob t.pgang)
  (s.modTask pid slot fun t => { t with tiles := [], saved := false, stopping := false, kept := [] }).dropMeetings pid t.self

/-- A task completes (R301): its successors are released in their order, and then its graph and its holds. -/
def State.completeTask (s : State) (pid slot : Nat) : State :=
  let t := s.task pid slot
  let s := (s.taskTo pid slot tComplete).endPlacing pid slot
  let s := ((s.part pid).successors t).foldl (fun s h =>
    match (s.part pid).taskSlot h with
    | some n => (s.depDec pid n).1
    | none => s) s
  let s := s.releaseHolds pid t.self
  s.taskGone pid t.graph

/-- A task becomes CANCELLED (R310, R327 step 6): a successor that `told` names keeps its counter, and is told. -/
def State.cancelTask (s : State) (pid slot : Nat) (told : Nat → Bool) : State :=
  let t := s.task pid slot
  let s := (s.taskTo pid slot tCancelled).endPlacing pid slot
  let s := ((s.part pid).successors t).foldl (fun s h =>
    match (s.part pid).taskSlot h with
    | some n =>
      if told n then s.fault ⟨0, 0, pid, h, 0, s.now⟩ ⟨5, stCancelled, 0, 0, 0, t.self.toNat, 0⟩ else s
    | none => s) s
  s.releaseHolds pid t.self

/-- The held-fault entry of a suspended strand is freed, or its place among those that wait for one (16 R357). -/
def State.dropHeld (s : State) (g c : Nat) : State :=
  let pid := s.pidOf g
  match (s.ctx g c).mode with
  | .suspended tag =>
    match (s.part pid).heldAt tag with
    | some (n, _) => s.unhold pid n
    | none => s.modPart pid fun p => { p with heldWait := p.heldWait.filter fun h => match h.1 with
        | .strand g' c' t => decide (g' ≠ g) || decide (c' ≠ c) || decide (t ≠ s.tcbOf g)
        | .op _ _ => true }
  | _ => s

/-- A strand is halted (R327 step 3): its held-fault entry is freed, and LIVE falls. -/
def State.haltCtx (s : State) (g c : Nat) : State :=
  let s := s.dropHeld g c
  let s := if (s.core g).running = some c then s.leaveRunning g c .ready else s
  (s.setCtx g c Ctx.idle).liveDown g

/-- Every strand of a core is halted; what the matrix port has not granted is withdrawn (06 R164). -/
def State.haltCore (s : State) (g : Nat) : State :=
  let s := ((List.range 16).filter fun c => ((s.core g).ctx c).live).foldl (fun s c => s.haltCtx g c) s
  s.modCore g fun c =>
    { c with mreq := c.mreq.filter (·.granted), refusals := [], stalled := false, posted := 0, copies := 0 }

/-- Every strand of a task is halted; of one that is saved, the held faults are freed and the save records forgotten. -/
def State.haltTask (s : State) (pid slot : Nat) : State :=
  let t := s.task pid slot
  if t.saved then
    let held := (s.part pid).held.filterMap fun e => match e.2 with
      | some (.strand _ _ h) => if h = t.self then some e.1 else none
      | _ => none
    let s := s.modPart pid fun p => { p with heldWait := p.heldWait.filter fun h => match h.1 with
      | .strand _ _ h => decide (h ≠ t.self)
      | .op _ _ => true }
    held.foldl (fun s n => s.unhold pid n) (s.modTask pid slot fun t => t.set 288 17 0)
  else t.cores.foldl (fun s g => s.haltCore g) s

/-- The issuer of a step that is the work of an outstanding operation (08 R180). -/
def Due.opIssuer (d : Due) : Option Issuer :=
  match d.arg with
  | .put m => some m.by_
  | .atom m => if m.returning then none else some m.by_
  | .replica i _ _ _ last => if last then some i else none
  | .failed i _ _ _ => some i
  | .copy m _ => some m.by_
  | .copyFault m _ _ => some m.by_
  | .post i _ _ _ _ => some i
  | .pod (.put _ _ _ m) => if d.what = .podFlitReplay then some m.by_ else none
  | .pod (.atom _ _ _ m) => if d.what = .podFlitReplay ∧ m.returning = false then some m.by_ else none
  | _ => none

/-- Does a step belong to a task, as an operation that can be discarded? -/
def Due.ofTask (pid : Nat) (tcb : BitVec 32) (d : Due) : Bool :=
  (match d.opIssuer with
    | some i => decide (i.pid = pid) && decide (i.tcb = tcb)
    | none => false) ||
  (match d.arg with
    | .replica i _ _ _ _ => decide (i.pid = pid) && decide (i.tcb = tcb)
    | .atom m => decide (m.by_.pid = pid) && decide (m.by_.tcb = tcb)
    | .win m => decide (m.by_.pid = pid) && decide (m.by_.tcb = tcb)
    | .load m _ => decide (m.by_.pid = pid) && decide (m.by_.tcb = tcb)
    | _ => false)

/-- Is a message of the outbox a request of a task? -/
def podOfTask (pid : Nat) (tcb : BitVec 32) (m : PodMsg) : Bool :=
  let mine (i : Issuer) : Bool := decide (i.pid = pid) && decide (i.tcb = tcb)
  match m with
  | .put _ _ _ m => mine m.by_
  | .copyWords _ _ _ m _ _ _ => mine m.by_
  | .signal _ _ _ m _ => mine m.by_
  | .atom _ _ _ m => mine m.by_
  | _ => false

/-- The operations of a task that have not ended are discarded, those held for replay too; each counts in AOPS, and in
DISC of the task's graph (R327 step 5). -/
def State.discardOps (s : State) (pid slot : Nat) : State :=
  let t := s.task pid slot
  let mine := Due.ofTask pid t.self
  let heldOp (h : Held) : Bool := match h with
    | .op d _ => mine d
    | .strand _ _ _ => false
  let p := s.part pid
  let held := p.held.filterMap fun e => match e.2 with
    | some h => if heldOp h then some e.1 else none
    | none => none
  let gone := s.steps.filter mine ++
    (p.held.filterMap fun e => match e.2 with
      | some (.op d _) => if mine d then some d else none
      | _ => none) ++
    p.heldWait.filterMap fun h => match h.1 with
      | .op d _ => if mine d then some d else none
      | _ => none
  let n := (gone.filter fun d => d.opIssuer.isSome).length +
    (s.pod.outbox.filter fun m => m.own && podOfTask pid t.self m.msg && podPosted (fun _ => true) true m.msg).length
  let s := s.dropSteps mine
  let s := { s with pod := { s.pod with outbox := s.pod.outbox.filter fun m => !(m.own && podOfTask pid t.self m.msg) } }
  let s := s.modPart pid fun p => { p with heldWait := p.heldWait.filter fun h => !heldOp h.1 }
  let s := held.foldl (fun s k => s.unhold pid k) s
  let s := s.modTask pid slot fun t => t.set 256 32 (t.aops - n)
  match (s.part pid).graphSlot t.graph with
  | some g => s.modGraph pid g fun x => setField x 352 32 (gDisc x + n)
  | none => s

/-- Is a traversal of a task in flight (11 R284)? -/
def State.traversing (s : State) (pid : Nat) (tcb : BitVec 32) : Bool :=
  s.steps.any fun d => match d.arg with
    | .tok r _ => decide (r.by_.pid = pid) && decide (r.by_.tcb = tcb)
    | _ => false

/-- Have the vector queues and the matrix unit of a tile nothing to do? -/
def State.tileQuiet (s : State) (t : Nat) : Bool :=
  (s.tile t).arrays.isEmpty && (List.range 8).all fun k =>
    (s.core (8 * t + k)).vecEmpty && (s.core (8 * t + k)).mreq.isNone

/-- Has a task no strand, no operation and no traversal left? -/
def State.taskQuiet (s : State) (pid slot : Nat) : Bool :=
  let t := s.task pid slot
  decide (t.live = 0) && decide (t.aops = 0) && !s.traversing pid t.self && t.tiles.all fun x => t.saved || s.tileQuiet x

/-- R301: a task whose strands and operations have ended completes or drains; one whose cancellation is under way is
looked at by it -/
def execTaskCompletion (s : State) : Host.Outcome State Fault Refusal :=
  match s.arg with
  | .num pid slot _ _ =>
    let t := s.task pid slot
    if t.nofit ∨ gState (s.graphOf pid t.graph) = gCancelling then .next s
    else if (t.state = tRunning ∨ t.state = tDraining) ∧ t.live = 0 then
      if t.aops = 0 then .next (s.completeTask pid slot)
      else if t.state = tRunning then .next (s.taskTo pid slot tDraining)
      else .next s
    else .next s
  | _ => .next s

/-! ### Cancellation (R317, R327) -/

/-- A cancellation is accepted: every graph of the subtree that is not final becomes CANCELLING, and its tasks that have
not been placed become CANCELLED (R327 steps 1 and 2). The status is that of GCANCEL (R317). -/
def State.cancelGraph (s : State) (pid n : Nat) (host : Bool) : State × Nat :=
  let g := s.graph pid n
  if gState g = gComplete then (s, tkDone)
  else if !gAccepts g then (s, tkCancelled)
  else
    let sub := (s.part pid).subtree n
    let open_ := sub.filter fun m => gAccepts (s.graph pid m)
    let s := open_.foldl (fun s m =>
      (s.modGraph pid m fun g => setField g 320 32 s.now).graphTo pid m gCancelling) s
    let s := (s.trace pid 5 (1 + (gSelf g).toNat * 2 ^ 32)).trace pid 5 (2 + (gSelf g).toNat * 2 ^ 32)
    let tasks := (s.part pid).tasksOf sub
    let s := (tasks.filter fun t => decide ((s.task pid t).state < tEarly)).foldl (fun s t =>
      let gr := (s.task pid t).graph
      (s.cancelTask pid t fun u => decide (u ∉ tasks)).taskGone pid gr) s
    let s := s.modPart pid fun p => { p with cancels := p.cancels ++ [(n, host, 2)] }
    (s.due [.num .stopBathSettle pid n], tkOk)

/-- A graph whose tasks and children are all final ends its cancellation. -/
def State.endCancel (s : State) (pid m : Nat) : State :=
  let g := s.graph pid m
  if gState g = gCancelling ∧ gNtask g = 0 ∧ gNchild g = 0 then s.graphFinal pid m gCancelled else s

/-- A cancellation reaches a step, which is traced once (17 R392). -/
def State.bathStep (s : State) (pid n : Nat) (step : Nat) : State :=
  if (s.part pid).cancels.any fun c => decide (c.1 = n) && decide (c.2.2 < step) then
    (s.modPart pid fun p => { p with cancels := p.cancels.map fun c => if c.1 = n then (n, c.2.1, step) else c }).trace
      pid 5 (step + (gSelf (s.graph pid n)).toNat * 2 ^ 32)
  else s

/-- R327 steps 3 to 7: the strands of the subtree are halted, reservations voided, operations discarded; each task that
has nothing left becomes CANCELLED; when all have, the graphs become CANCELLED from the leaves up -/
def execStopBathSettle (s : State) : Host.Outcome State Fault Refusal :=
  match s.arg with
  | .num pid n _ _ =>
    match (s.part pid).cancels.find? fun c => decide (c.1 = n) with
    | none => .next s
    | some _ =>
      let sub := (s.part pid).subtree n
      let tasks := (s.part pid).tasksOf sub
      let active := tasks.filter fun t => decide (tEarly ≤ (s.task pid t).state) && decide ((s.task pid t).state < tComplete)
      let s := active.foldl (fun s t => (s.haltTask pid t).dropMeetings pid (s.task pid t).self) (s.bathStep pid n 3)
      if active.any fun t => s.traversing pid (s.task pid t).self then .next (s.dueIn 64 (.num .stopBathSettle pid n))
      else
        let s := s.bathStep pid n 4
        let owned := sub.map fun m => gSelf (s.graph pid m)
        let s := ((s.part pid).seqs.filter fun e => decide (seqState e.2 ≠ 0) && decide (seqOwner e.2 ∉ owned)).foldl
          (fun s e => s.voidHeld pid e.1 fun t => decide (t ∈ tasks)) s
        let s := sub.foldl (fun s m =>
          if gState (s.graph pid m) = gCancelling then s.dropOwned pid (gSelf (s.graph pid m)) else s) s
        if sub.any fun m => decide (gState (s.graph pid m) = gCancelling) && s.ownsSeqs pid (gSelf (s.graph pid m)) then
          .next (s.dueIn 64 (.num .stopBathSettle pid n))
        else
        let s := active.foldl (fun s t => s.discardOps pid t) (s.bathStep pid n 5)
        let s := ((active.filter fun t => s.taskQuiet pid t).foldl (fun s t =>
          let gr := (s.task pid t).graph
          (s.cancelTask pid t fun u => decide (u ∉ tasks)).taskGone pid gr) s).bathStep pid n 6
        let s := sub.reverse.foldl (fun s m => s.endCancel pid m) s
        let g := s.graph pid n
        if gState g = gCancelling then .next (s.dueIn 64 (.num .stopBathSettle pid n))
        else
          let s := (s.bathStep pid n 7).dropCancel pid n
          let s := match (s.part pid).graphSlot (gParent g) with
            | some m => s.checkGraph pid m
            | none => s
          .next (sub.reverse.foldl (fun s m => if s.graph pid m ≠ 0 then s.tryFree pid m else s) s)
  | _ => .next s

/-- R310: a task that can no longer be placed is cancelled alone -/
def execTaskNofitCancel (s : State) : Host.Outcome State Fault Refusal :=
  match s.arg with
  | .num pid slot _ _ =>
    let t := s.task pid slot
    if t.state = 0 ∨ tComplete ≤ t.state then .next s
    else
      let s := if t.nofit then s
        else (s.modTask pid slot fun t => { t with nofit := true }).fault ⟨0, 0, pid, t.self, 0, s.now⟩
          ⟨5, stNofit, 0, 0, 0, 0, 0⟩
      let s := (s.haltTask pid slot).dropMeetings pid t.self
      if s.traversing pid t.self then .next (s.dueIn 64 (.num .taskNofitCancel pid slot))
      else
        let s := (s.part pid).seqs.foldl (fun s e =>
          if seqState e.2 = 0 then s else s.voidHeld pid e.1 fun u => decide (u = slot)) s
        let s := s.discardOps pid slot
        if s.taskQuiet pid slot then
          .next ((s.cancelTask pid slot fun _ => true).taskGone pid t.graph)
        else .next (s.dueIn 64 (.num .taskNofitCancel pid slot))
  | _ => .next s

/-! ### Placement (R304 to R309; 17 R377) -/

/-- The physical tiles that a partition owns or borrows. -/
def State.tilesOf (s : State) (pid : Nat) : List Nat :=
  (s.board.layout.tiles.map Prod.fst).filter fun t => (s.logTile pid t).isSome

/-- How many tiles a partition's task can have at most (R309). -/
def State.capacity (s : State) (pid : Nat) : Nat := ((s.tilesOf pid).filter fun t => !s.tileRetired t).length

/-- The logical tiles that saved tasks of a partition will come back to (16 R372; log 33). -/
def Part.reserved (p : Part) : List Nat := (p.tasks.filter fun e => e.2.saved).flatMap fun e => e.2.tiles

/-- Is a tile free, and quiet? -/
def State.tileFree (s : State) (t : Nat) : Bool := decide ((s.tile t).tcb = 0) && !s.tileRetired t && s.tileQuiet t

/-- May a partition use a tile now? The owner uses a lent tile only while it holds it back, the borrower only while the
owner neither holds nor wants it (17 R377). -/
def State.usable (s : State) (pid t : Nat) : Bool :=
  let e := s.tileEntry t
  let x := s.tile t
  if entryBpid e = 0 then decide (entryPid e = pid)
  else if entryPid e = pid then x.held
  else decide (entryBpid e = pid) && !x.held && !x.wanted

/-- The free tiles of a partition, in ascending logical order. -/
def State.freeTilesOf (s : State) (pid : Nat) : List Nat :=
  let kept := (s.part pid).reserved
  ((List.range 512).filterMap fun l => if l ∈ kept then none else s.physTile pid l).filter fun t =>
    s.usable pid t && s.tileFree t

/-- The READY tasks of a partition, in the order of R304. -/
def State.readyTasks (s : State) (pid : Nat) : List Nat :=
  let l := (s.part pid).tasks.filter fun e => decide (e.2.state = tReady) && !e.2.nofit
  let before (a b : Nat × Task) : Bool :=
    let x := s.levelOf a.2
    let y := s.levelOf b.2
    decide (x < y) || (decide (x = y) && (decide (a.2.readyc < b.2.readyc) ||
      (decide (a.2.readyc = b.2.readyc) && decide (a.1 ≤ b.1))))
  (sortBy before l).map Prod.fst

/-- Is placement of a partition stopped, by a layout switch (17 R385) or a reset (17 R401)? -/
def State.frozen (s : State) (pid : Nat) : Bool := (s.part pid).discarding || decide (pid ∈ s.board.moved)

/-- A piece of a task's data image as it lies in memory, up to a page's end; bytes that cannot be read are free values, and a
poisoned unit is read as its bytes, without poison or record (DESIGN CHOICE, log 73). -/
def State.imageBytes (s : State) (pid : Nat) : Nat → Nat → Nat → List Byte
  | 0, _, _ => []
  | fuel + 1, va, n =>
    if n = 0 then []
    else
      let m := min n (4096 - va % 4096)
      (match s.vKey pid va true false with
        | .ok k => s.rdN k m
        | .error _ => (List.range m).map fun i => Config.unreadByte (va + i)) ++ s.imageBytes pid fuel (va + m) (n - m)

/-- Context 0 of a core as a task starts (03 R77). -/
def Task.start (t : Task) : Ctx :=
  let p (n : Nat) : Word64 := t.params.getD n 0
  let ptr (w : Word64) : Ptr := ⟨w.extractLsb' 48 16, w.extractLsb' 0 48⟩
  (({ Ctx.idle with live := true, pc := BitVec.ofNat 48 t.code + t.entryAt, a := p 0, x := p 1 }).setPtr 0 (ptr (p 2))).setPtr
    1 (ptr (p 3))

/-- The vector weight of core `k` (01 R22; 03 R76). -/
def Task.weight (t : Task) (k : Nat) : Nat :=
  let w := field t.tcb (192 + 4 * k) 4
  if w = 0 then 2 else w

/-- A tile takes up a task: its instruction cache is empty, its code is memory as it stands (01 R20). -/
def State.occupy (s : State) (pid t : Nat) (tcb : BitVec 32) : State :=
  s.modTile t fun x => { x with pid := pid, tcb := tcb, icache := [], fills := [], code := s.mem, job := pid }

/-- A task starts on a tile (R307; 03 R77; 06 R140). DESIGN CHOICE (log 81): of two request records that name one place for their
handles the later one's stays there. -/
def State.startTile (s : State) (pid slot t : Nat) (image : List Byte) : State :=
  let k := s.task pid slot
  let s := if (s.tile t).job = pid then s else s.clearKeys (weightKey t 0 0) (2 ^ 22)
  let s := (s.occupy pid t k.self).clearKeys (scratchKey t 0) (2 ^ 21)
  let s := s.wrN (scratchKey t k.dataOff) image
  let s := k.handles.foldl (fun s h => s.wrNat (scratchKey t h.1) 4 h.2.toNat) s
  (List.range 8).foldl (fun s c =>
    (s.setCore (8 * t + c) ({ Core.idle with vw := k.weight c }.setCtx 0 k.start)).due
      [.num .contextSelect (8 * t + c)]) s

/-- A task is placed on tiles (R306, R307). DESIGN CHOICE (log 73): its data image is read now, as its code image is, and not
when SPAWN ran. -/
def State.place (s : State) (pid slot : Nat) (ts : List Nat) (early : Bool) : State :=
  let t := s.task pid slot
  let image := s.imageBytes pid (t.dataSize / 4096 + 2) (t.code + t.codeSize) t.dataSize
  let s := s.modTask pid slot fun t => { t.set 288 17 (8 * ts.length) with tiles := ts }
  let s := ts.foldl (fun s x => s.startTile pid slot x image) s
  s.taskTo pid slot (if early then tEarly else tRunning)

/-- Lent tiles that an owner can take back, the idle ones first: enough of them to bring `have_` tiles up to `need`. -/
def State.toReclaim (s : State) (pid have_ need : Nat) : List Nat :=
  let lent := (s.tilesOf pid).filter fun t =>
    let e := s.tileEntry t
    decide (entryPid e = pid) && decide (entryBpid e ≠ 0) && !(s.tile t).held && !s.tileRetired t
  if have_ + lent.length < need then []
  else ((lent.filter fun t => decide ((s.tile t).tcb = 0)) ++ (lent.filter fun t => decide ((s.tile t).tcb ≠ 0))).take
    (need - have_)

/-- The head does not fit: lent tiles that would make it fit are reclaimed (17 R377). -/
def State.reclaimFor (s : State) (pid need have_ : Nat) : State :=
  (s.toReclaim pid have_ need).foldl (fun s t =>
    (s.modTile t fun x => { x with wanted := true }).due [.num .tileReclaim pid t]) s

/-- Lent tiles that the owner holds and does not need, not even for a saved task, go back to their borrowers (17 R377). -/
def State.giveBack (s : State) (pid : Nat) : State :=
  ((s.tilesOf pid).filter fun t =>
    decide (entryPid (s.tileEntry t) = pid) && (s.tile t).held && decide ((s.tile t).tcb = 0) &&
    decide (field (s.tileEntry t) 16 9 ∉ (s.part pid).reserved)).foldl (fun s t =>
      (s.modTile t fun x => { x with held := false, wanted := false }).due
        [.num .placementPass (entryBpid (s.tileEntry t))]) s

/-- The head that the scheduler places next: the first READY task, or the one that the host has chosen (22 R444). -/
def State.headOf (s : State) (pid : Nat) : Option Nat :=
  if s.isAssisted 1 then
    match s.answers 1 (.num .placementPass pid) with
    | a :: _ => (s.readyTasks pid).find? fun n => decide ((s.task pid n).self = a.setWidth 32)
    | [] => none
  else (s.readyTasks pid).head?

/-- The normal placements of a pass (R306). -/
def State.placeHeads (s : State) (pid : Nat) : Nat → State
  | 0 => s
  | fuel + 1 =>
    match s.headOf pid with
    | none => if (s.readyTasks pid).isEmpty then s.giveBack pid else s
    | some h =>
      let s := s.forget 1 (.num .placementPass pid)
      let free := s.freeTilesOf pid
      let need := (s.task pid h).nTiles
      if need ≤ free.length then (s.place pid h (free.take need) false).placeHeads pid fuel
      else s.reclaimFor pid need free.length

/-- The early candidates (R308), by PRIO0 and then by slot. -/
def State.earlyTasks (s : State) (pid : Nat) : List Nat :=
  let l := (s.part pid).tasks.filter fun e => decide (e.2.state = tWaiting) && e.2.early && decide (e.2.nwait = 0) && !e.2.nofit
  (sortBy (fun a b =>
    decide (a.2.prio0 < b.2.prio0) || (decide (a.2.prio0 = b.2.prio0) && decide (a.1 ≤ b.1))) l).map Prod.fst

/-- The early placements of a pass (R306). -/
def State.placeEarly (s : State) (pid : Nat) : State :=
  let r := ((s.readyTasks pid).map fun n => (s.task pid n).nTiles).sum
  (s.earlyTasks pid).foldl (fun s n =>
    let free := s.freeTilesOf pid
    let need := (s.task pid n).nTiles
    if need + r ≤ free.length then s.place pid n (free.take need) true else s) s

/-- In host-assisted mode the host is asked for the next head while tasks are READY (22 R444). -/
def State.askHead (s : State) (pid : Nat) : State :=
  let d : Due := .num .placementPass pid
  if s.isAssisted 1 && !(s.readyTasks pid).isEmpty && !(s.host.assisted.any fun a => decide (a.due = d)) then
    s.ask 1 pid (mkRecord (((s.readyTasks pid).take 56).zip (List.range 56) |>.map fun e =>
      (32 * e.2, 32, (s.task pid e.1).self.toNat))) d
  else s

/-- Saved tasks whose tiles are free again are restored (17 R377; 16 R372), but not those of a graph that is being cancelled
(R327). -/
def State.restorable (s : State) (pid : Nat) : List Nat :=
  ((s.part pid).tasks.filter fun e => e.2.saved && !e.2.nofit &&
    decide (gState (s.graphOf pid e.2.graph) ≠ gCancelling) && e.2.tiles.all fun l =>
    match s.physTile pid l with
    | some t => s.usable pid t && s.tileFree t
    | none => false).map Prod.fst

/-- R306: a placement pass. DESIGN CHOICE (log 81): a saved task that can no longer be placed is cancelled alone whatever its state, one
in EARLY too (21 R426; R299 lists READY and RUNNING) -/
def execPlacementPass (s : State) : Host.Outcome State Fault Refusal :=
  match s.arg with
  | .num pid _ _ _ =>
    if s.frozen pid then .next s
    else
      let lost := ((s.part pid).tasks.filter fun e => decide (s.capacity pid < e.2.nTiles) && !e.2.nofit &&
        (decide (e.2.state = tReady) || e.2.saved)).map Prod.fst
      if !lost.isEmpty then
        .next (s.due (lost.map (fun n => .num .taskNofitCancel pid n) ++ [.num .placementPass pid]))
      else
        let back := s.restorable pid
        if !back.isEmpty then
          .next (s.due (back.map (fun n => .num .preemptRestore pid n) ++ [.num .placementPass pid]))
        else
          let s := (s.placeHeads pid ((s.readyTasks pid).length + 1)).placeEarly pid
          let s := (if (s.answers 1 (.num .placementPass pid)).isEmpty then s
            else s.forget 1 (.num .placementPass pid)).askHead pid
          .next (if (s.tilesOf pid).any fun t => decide ((s.tile t).tcb = 0) && !s.tileQuiet t
            then s.dueIn 16 (.num .placementPass pid) else s)
  | _ => .next s

/-- R305: the level of a READY task that has waited another 2^20 cycles falls -/
def execPriorityAging (s : State) : Host.Outcome State Fault Refusal :=
  match s.arg with
  | .num pid slot _ _ =>
    let t := s.task pid slot
    if t.state = tReady then
      let l := s.levelOf t
      let s := s.modTask pid slot fun t => t.set 174 3 l
      .next (if 1 < l then s.dueIn (2 ^ 20) (.num .priorityAging pid slot) else s)
    else .next s
  | _ => .next s

end Sys2Proof.Machine
end

