-- ==== Sys2Proof/Machine/Tasks.lean ====
section
/-! DEFINITION. Creating tasks and graphs, the instructions of page 4, and the work queues of the host (14_tasks_graphs R311 to R326; 03_assembly_notations R76, R78). -/

namespace Sys2Proof.Machine

/-! ### Launch records and spawn descriptors (03 R76, R78; R314) -/

/-- Is a spawn descriptor malformed (R314)? -/
def spawnBad (d : Nat) : Bool :=
  decide (bitsAt 240 16 d ≠ 0) || decide (bitsAt 181 11 d ≠ 0) || decide (bitsAt 122 6 d ≠ 0) ||
  decide (bitsAt 112 2 d ≠ 0) || decide (bitsAt 48 16 d ≠ 0) || decide (bitsAt 192 48 d % 8 ≠ 0) ||
  decide (bitsAt 0 48 d % 64 ≠ 0) ||
  (if d.testBit 120 then
    decide (bitsAt 160 21 d % 64 ≠ 0) || decide (0x200000 < bitsAt 160 21 d + 0x2000) || decide (bitsAt 128 32 d % 2 ≠ 0)
  else decide (bitsAt 160 21 d ≠ 0) || decide (bitsAt 128 32 d ≠ 0))

/-- Fields of a launch record (03 R76). -/
def lrTiles (l : Nat) : Nat := bitsAt 64 10 l
def lrCode (l : Nat) : Nat := bitsAt 128 32 l
def lrNreq (l : Nat) : Nat := bitsAt 224 8 l + bitsAt 232 8 l
def lrGang (l : Nat) : Nat := bitsAt 240 16 l

/-- Is a launch record malformed (03 R76)? DESIGN CHOICE (log 72): an ENTRY that is not inside the code image is none of
these. -/
def launchBad (l : Nat) : Bool :=
  decide (bitsAt 213 11 l ≠ 0) || decide (bitsAt 81 15 l ≠ 0) || decide (bitsAt 48 16 l ≠ 0) ||
  decide (bitsAt 0 48 l % 2 ≠ 0) || decide (lrTiles l = 0) || decide (512 < lrTiles l) || decide (lrCode l % 2 ≠ 0) ||
  decide (bitsAt 192 21 l % 4 ≠ 0) || decide (0x200000 < bitsAt 192 21 l + bitsAt 160 32 l)

/-- Is a request record malformed (03 R78)? -/
def requestBad (r : Nat) : Bool :=
  decide (bitsAt 53 75 r ≠ 0) || decide (bitsAt 24 8 r ≠ 0) || decide (bitsAt 32 21 r % 4 ≠ 0) ||
  (match bitsAt 0 8 r with
    | 1 => decide (1 < bitsAt 16 8 r) || decide (bitsAt 8 8 r < 6) || decide (16 < bitsAt 8 8 r)
    | 2 => decide (bitsAt 16 8 r ≠ 0) || decide (bitsAt 8 8 r = 0) || decide (6 < bitsAt 8 8 r)
    | _ => true)

/-- Are the request records those that the launch record counts, each well formed? -/
def requestsBad (l : Nat) (rs : List Nat) : Bool :=
  rs.any requestBad || decide ((rs.filter fun r => decide (bitsAt 0 8 r = 1)).length ≠ bitsAt 224 8 l)

/-! ### New graphs and tasks (R314, R316) -/

/-- A new graph in the lowest free slot (R316, R322; log 8). `creator` is 0 for the host, `parent` is none for a root. -/
def State.newGraph (s : State) (pid : Nat) (parent : Option Nat) (creator : BitVec 32) (fq : Nat) :
    Option (State × Nat) :=
  let p := s.part pid
  match ((List.range (field p.record 144 16)).map (· + 1)).find? fun n => decide (gState (p.graph n) = 0) with
  | none => none
  | some n =>
    let self := mkHandle n (Tab.get 0 p.graphGen n)
    let up : Nat × Nat := match parent with
      | some m => ((gSelf (p.graph m)).toNat, (gChild (p.graph m)).toNat)
      | none => (0, 0)
    let g : BitVec 512 := BitVec.ofNat 512 (mkRecord [(0, 32, up.1), (32, 32, self.toNat), (96, 32, up.2),
      (128, 32, creator.toNat), (224, 3, 0), (227, 1, 1), (256, 48, fq)])
    let s := (s.modGraph pid n fun _ => g).graphTo pid n gOpen
    some (match parent with
      | some m => s.modGraph pid m fun x => setField (setField x 64 32 self.toNat) 192 32 (gNchild x + 1)
      | none => s, n)

/-- The objects of a task's request records (R307): each handle with the place of its word. -/
inductive Objects where
  | made (s : State) (l : List (Nat × Bool × BitVec 32))
  | full
  | ask (bad body : Nat)
deriving DecidableEq, Repr

/-- The request records are served in their order: a sequence as SQNEW with LW = 3 and the task's graph (15 R337), an
instance at its width. -/
def State.makeObjects (s : State) (pid : Nat) (graph : BitVec 32) (answers : List Word64) : List Nat → Objects
  | [] => .made s []
  | r :: rs =>
    let off := bitsAt 32 21 r
    let size := bitsAt 8 8 r
    if bitsAt 0 8 r = 1 then
      match s.newSeq pid graph size (bitsAt 16 8 r) 3 false answers with
      | .full => .full
      | .ask bad body => .ask bad body
      | .made s h _ rest =>
        match s.makeObjects pid graph rest rs with
        | .made s l => .made s ((off, true, h) :: l)
        | o => o
    else
      match s.newInst pid size false answers with
      | .full => .full
      | .ask bad body => .ask bad body
      | .made s h rest =>
        match s.makeObjects pid graph rest rs with
        | .made s l => .made s ((off, false, h) :: l)
        | o => o

/-- The TCB of a new task (R295), from its descriptor, its launch record, its handle and its graph. -/
def newTcb (d l : Nat) (self graph : BitVec 32) : BitVec 1024 :=
  let prio := if d.testBit 117 then bitsAt 114 3 d else bitsAt 78 3 l
  BitVec.ofNat 1024 (mkRecord [(0, 48, bitsAt 0 48 d), (64, 32, bitsAt 128 32 d), (96, 21, bitsAt 160 21 d),
    (127, 1, bitsAt 120 1 d), (128, 32, bitsAt 0 32 l), (160, 10, lrTiles l), (170, 4, bitsAt 74 4 l), (174, 3, prio),
    (177, 3, prio), (180, 1, bitsAt 119 1 d), (192, 32, bitsAt 96 32 l), (224, 16, bitsAt 96 16 d), (384, 32, graph.toNat),
    (416, 32, self.toNat), (448, 48, bitsAt 192 48 d)])

/-- Does a launch record's gang take another task (22 R439)? -/
def State.gangTakes (s : State) (pid gang : Nat) : Bool :=
  decide (gang = 0) || (decide ((s.part pid).pjob ≠ 0) &&
    !((s.part pid).tasks.any fun e => decide (e.2.pgang = gang) && decide (e.2.state ≠ 0) && decide (e.2.state < tComplete)))

/-- What a spawn comes to (R314). -/
inductive Spawned where
  | malformed
  | stale
  | xlate (va : Nat) (detail : BitVec 8)
  | status (st : Nat)
  | made (s : State) (h : BitVec 32)
  | ask (bad body : Nat)
deriving DecidableEq, Repr

/-- A spawn into the graph of slot `g` (R314), once its descriptor has been checked; the image is read with the TLB of the tile
`t`, by the host with none. -/
def State.spawnIn (s : State) (t : Option Nat) (pid g d : Nat) (answers : List Word64) : Spawned :=
  let image := bitsAt 0 48 d
  if !gAccepts (s.graph pid g) then .status tkCancelled
  else
    match s.keysFor t pid image 8 true false 8 with
    | .error e => .xlate e.1 e.2
    | .ok ks =>
      let l := bytesToNat (ks.flatMap fun k => s.rdN k 8)
      let n := if launchBad l then 0 else lrNreq l
      match s.keysFor t pid (image + 64) 16 true false n with
      | .error e => .xlate e.1 e.2
      | .ok ks =>
        let rs := ks.map fun k => s.rdNat k 16
        if launchBad l || requestsBad l rs || decide (s.capacity pid < lrTiles l) ||
            (d.testBit 120 && decide (lrCode l ≤ bitsAt 128 32 d)) || !s.gangTakes pid (lrGang l) then .status tkBadimg
        else
          let p := s.part pid
          match ((List.range (field p.record 128 16)).map (· + 1)).find? fun n => decide ((p.task n).state = 0) with
          | none => .status tkFull
          | some slot =>
            let graph := gSelf (s.graph pid g)
            match s.makeObjects pid graph answers rs with
            | .full => .status tkFull
            | .ask bad body => .ask bad body
            | .made s objs =>
              let self := mkHandle slot (Tab.get 0 p.taskGen slot)
              let param (n : Nat) : Word64 :=
                BitVec.ofNat 64 (if d.testBit 121 then bitsAt (256 + 64 * n) 64 d else bitsAt (256 + 64 * n) 64 l)
              let t : Task := { Task.absent with
                tcb := newTcb d l self graph
                params := (List.range 4).map param
                entryAt := BitVec.ofNat 48 (bitsAt 0 48 l)
                dataOff := bitsAt 192 21 l
                dataSize := bitsAt 160 32 l
                codeSize := lrCode l
                nreq := lrNreq l
                pgang := lrGang l
                handles := objs.map fun o => (o.1, o.2.2)
                objects := objs.map Prod.snd }
              let s := (s.modPart pid fun p => p.setTask slot t).taskTo pid slot tBuilding
              let s := s.modGraph pid g fun x => setField x 160 32 (gNtask x + 1)
              .made (if d.testBit 118 then (s.armTask pid slot).1 else s) self

/-- A spawn by a task of the graph `mine` (R314). -/
def State.spawn (s : State) (t : Option Nat) (pid : Nat) (mine : BitVec 32) (d : Nat) (answers : List Word64) : Spawned :=
  let h : BitVec 32 := BitVec.ofNat 32 (bitsAt 64 32 d)
  if spawnBad d then .malformed
  else
    match (s.part pid).graphSlot (if h = 0 then mine else h) with
    | none => .stale
    | some g => s.spawnIn t pid g d answers

/-- LINK at its records (R315). -/
def State.linkTasks (s : State) (pid p q : Nat) : State × Nat :=
  let a := s.task pid p
  let b := s.task pid q
  if s.taskDead pid q || s.taskDead pid p || !gAccepts (s.graphOf pid b.graph) then (s, tkCancelled)
  else if b.state ≠ tBuilding ∨ p = q then (s, tkLate)
  else if a.state = tComplete then (s, tkDone)
  else if b.dep = 0xFFFF then (s, tkFull)
  else
    match (s.part pid).addSuccessor p b.self with
    | none => (s, tkFull)
    | some part =>
      ((s.setPart pid part).modTask pid q fun t =>
        let t := t.set 224 16 (t.dep + 1)
        if a.state = tBuilding ∨ a.state = tWaiting then t.set 560 16 (t.nwait + 1) else t, tkOk)

/-! ### Page 4 (R311 to R319) -/

/-- What an instruction of page 4 comes to at its table: a precise trap, or a reply. -/
inductive TaskDo where
  | trap (detail : BitVec 8)
  | done (s : State) (r : Reply)
deriving DecidableEq, Repr

/-- An instruction of page 4 that waits in WAIT-LOAD (R311, R312). -/
def runTask (pre : Prefixes) (s : State) (f : State → Nat → TaskDo) : State :=
  guarded pre s fun s =>
    match f s (s.pidOf s.me) with
    | .trap d => (s.awaitReply pre).reply s.me s.myCtx (Reply.trapped kTask d 0)
    | .done t r => (t.awaitReply pre).reply s.me s.myCtx r

/-- The task that A names (R312). -/
def withTcb (s : State) (pid : Nat) (f : Nat → TaskDo) : TaskDo :=
  let a := s.strand.a
  if field a 32 32 ≠ 0 then .trap 0x04
  else
    match (s.part pid).taskSlot (a.setWidth 32) with
    | none => .trap 0x01
    | some n => f n

/-- The issuer's graph. -/
def State.myGraph (s : State) : BitVec 32 :=
  match s.taskOf s.me with
  | some (_, t) => t.graph
  | none => 0

/-- The pages of an image that a spawn reads go into the tile's TLB (08 R172; 16 R355). -/
def State.fillImage (s : State) (t pid image : Nat) : State :=
  let n := match s.tKeys t pid image 8 true false 8 with
    | .ok ks => lrNreq (bytesToNat (ks.flatMap fun k => s.rdN k 8))
    | .error _ => 0
  s.fillAll t pid (image :: (List.range n).map fun i => image + 64 + 16 * i) true false

/-- SPAWN, its descriptor read (R314): a fault in reading the image is the instruction's. -/
def State.spawnAt (s : State) (q : Req) (d : Nat) (alive : Bool) : State :=
  let t := q.by_.core / 8
  let read (s : State) : State := s.fillImage t q.by_.pid (bitsAt 0 48 d)
  match s.spawn (some t) q.by_.pid (s.graphFor q.by_) d (s.answers 2 (reqDue q)) with
  | .malformed => s.answer q alive (Reply.trapped kTask 0x03 0)
  | .stale => s.answer q alive (Reply.trapped kTask 0x01 0)
  | .xlate va x => s.answer q alive (Reply.trapped kXlate x (BitVec.ofNat 48 va))
  | .status st => (if st = tkCancelled then s else read s).answer q alive { Reply.status st (some 0) with post := false }
  | .made u h => (read u).answer q alive (Reply.status tkOk (some (h.setWidth 64)))
  | .ask bad body => s.askPlace q bad body

/-- SPAWN that arms its task at creation is a release, as ARM is (R302, R314): it is held until what it releases has been
performed. -/
def State.sendSpawn (s : State) (q : Req) (d : Nat) (alive : Bool) : State :=
  if d.testBit 118 && !s.releasedFor q.by_ then s.dueIn 4 (reqDue q) else s.spawnAt q d alive

/-- R314 -/
def execSpawn (p : BitVec 3) (pm : PostMode) (pre : Prefixes) (s : State) : Host.Outcome State Fault Refusal :=
  .next (guarded pre s fun s =>
    let ptr := s.strand.ptr p.toNat
    match checkLocal ptr.addr 64 8 with
    | .error (.trap t) => s.raise t
    | .error .stall => s.stall
    | .ok o =>
      match s.readLocal o 64 with
      | .error (.trap t) => s.raise t
      | .error .stall => s.stall
      | .ok d =>
        ((s.touched o 64).await ⟨s.strand.next pre, false, some (p.toNat, ptr.post pm 64), none, none⟩).sendSpawn
          (s.request (.spawn (BitVec.ofNat 512 d))) d true)

/-- ARM and DEPDEC at the table (R312, R315). -/
def State.taskAt (s : State) (q : Req) (alive : Bool) : State :=
  let pid := q.by_.pid
  if field q.a 32 32 ≠ 0 then s.replyTo q alive (Reply.trapped kTask 0x04 0)
  else
    match (s.part pid).taskSlot (q.a.setWidth 32) with
    | none => s.replyTo q alive (Reply.trapped kTask 0x01 0)
    | some n =>
      let z := if q.op = .arm then s.armTask pid n else s.depDec pid n
      z.1.replyTo q alive (statusOnly z.2)

/-- ARM and DEPDEC are releases (R302): they are held until what they release has been performed (08 R182). -/
def State.sendTask (s : State) (q : Req) (alive : Bool) : State :=
  if s.releasedFor q.by_ then s.taskAt q alive else s.dueIn 4 (reqDue q)

/-- R315 -/
def execArm (pre : Prefixes) (s : State) : Host.Outcome State Fault Refusal :=
  .next (guarded pre s fun s => (s.awaitReply pre).sendTask (s.request .arm) true)

/-- R315 -/
def execLink (pre : Prefixes) (s : State) : Host.Outcome State Fault Refusal :=
  .next (runTask pre s fun s pid =>
    if field s.strand.x 32 32 ≠ 0 then .trap 0x04
    else withTcb s pid fun n =>
      match (s.part pid).taskSlot (s.strand.x.setWidth 32) with
      | none => .trap 0x01
      | some m =>
        let q := s.linkTasks pid n m
        .done q.1 (statusOnly q.2))

/-- R315 -/
def execDepdec (pre : Prefixes) (s : State) : Host.Outcome State Fault Refusal :=
  .next (guarded pre s fun s => (s.awaitReply pre).sendTask (s.request .depdec) true)

/-- R316 -/
def execGnew (pre : Prefixes) (s : State) : Host.Outcome State Fault Refusal :=
  .next (runTask pre s fun s pid =>
    let a := s.strand.a
    let x := s.strand.x
    if field a 32 32 ≠ 0 ∨ field x 48 16 ≠ 0 ∨ field x 0 3 ≠ 0 then .trap 0x04
    else
      match (s.part pid).graphSlot (if a = 0 then s.myGraph else a.setWidth 32) with
      | none => .trap 0x01
      | some g =>
        if !gAccepts (s.graph pid g) then .done s (Reply.status tkCancelled (some 0))
        else
          match s.newGraph pid (some g) (s.tcbOf s.me) (field x 0 48) with
          | none => .done s (Reply.status tkFull (some 0))
          | some (t, n) => .done t (Reply.status tkOk (some ((gSelf (t.graph pid n)).setWidth 64))))

/-- The graph that A names (R312): the trap's detail, or the slot. -/
def State.graphArg (s : State) (pid : Nat) : Except (BitVec 8) Nat :=
  let a := s.strand.a
  if field a 32 32 ≠ 0 then .error 0x04
  else
    match (s.part pid).graphSlot (a.setWidth 32) with
    | none => .error 0x01
    | some n => .ok n

/-- A precise trap of page 4 that a table returns (R312). -/
def State.taskTrap (s : State) (pre : Prefixes) (d : BitVec 8) : State :=
  (s.awaitReply pre).reply s.me s.myCtx (Reply.trapped kTask d 0)

/-- R317: the strand is halted, if it is of the subtree, once it has its reply -/
def execGcancel (pre : Prefixes) (s : State) : Host.Outcome State Fault Refusal :=
  .next (guarded pre s fun s =>
    let pid := s.pidOf s.me
    match s.graphArg pid with
    | .error d => s.taskTrap pre d
    | .ok n =>
      let g := s.graph pid n
      let st := if gState g = gComplete then tkDone else if gAccepts g then tkOk else tkCancelled
      (((s.awaitReply pre).reply s.me s.myCtx (statusOnly st)).cancelGraph pid n false).1)

/-- Does the issuing task lie in a graph or in one of its descendants? -/
def State.inGraph (s : State) (pid n : Nat) : Bool :=
  match (s.part pid).graphSlot s.myGraph with
  | some m => decide (m ∈ (s.part pid).subtree n)
  | none => false

/-- R318 -/
def execGwait (pre : Prefixes) (s : State) : Host.Outcome State Fault Refusal :=
  .next (guarded pre s fun s =>
    let pid := s.pidOf s.me
    let early := match s.taskOf s.me with
      | some (_, t) => decide (t.state = tEarly)
      | none => false
    if s.strand.a = 0 then
      if early then s.waitSync .leaveEarly pre else s.doneAtIssue tkOk none pre
    else
      match s.graphArg pid with
      | .error d => s.taskTrap pre d
      | .ok n =>
        if s.inGraph pid n then s.taskTrap pre 0x05
        else
          let g := s.graph pid n
          let t := s.waitSync (.graph (gSelf g)) pre
          let t := if gFinal g then t.wakeGraph pid n else t
          if gCreator g = s.tcbOf s.me then t.releaseHold pid n else t)

/-- R319: only A is written (R311) -/
def execTcbrd (d : BitVec 4) (pre : Prefixes) (s : State) : Host.Outcome State Fault Refusal :=
  .next (runTask pre s fun s pid => withTcb s pid fun n =>
    .done s { Reply.plain with a := some ((s.task pid n).tcb.extractLsb' (64 * d.toNat) 64) })

/-! ### Work queues (R321 to R326) -/

def qBase (q : BitVec 192) : Nat := field q 0 48
def qSize (q : BitVec 192) : Nat := 2 ^ field q 48 4
def qLoc (q : BitVec 192) : Bool := q.getLsbD 62
def qEn (q : BitVec 192) : Bool := q.getLsbD 63
def qNote (q : BitVec 192) : Nat := field q 64 32
def qPart (q : BitVec 192) : Nat := field q 112 16
def qTail (q : BitVec 192) : Nat := field q 128 32
def qHead (q : BitVec 192) : Nat := field q 160 32

def State.queue (s : State) (q : Nat) : BitVec 192 := Tab.get 0 s.host.queues q
def State.modQueue (s : State) (q : Nat) (f : BitVec 192 → BitVec 192) : State :=
  { s with host := { s.host with queues := Tab.set 0 s.host.queues q (f (s.queue q)) } }

/-- Is a device step of the engine of queue `q` due? -/
def ofQueue (q : Nat) (d : Due) : Bool :=
  match d.arg with
  | .cmd n _ => decide (n = q)
  | .num n _ _ _ => (decide (d.what = .queueRecordFetch) || decide (d.what = .stampRetry)) && decide (n = q)
  | _ => false

/-- A write of NOTE restarts the loop of its queue (R323), unless a record is under way: a fetch that was to be tried again
starts over. -/
def State.startQueue (s : State) (q : Nat) : State :=
  let s := s.dropSteps fun d => decide (d.what = .stampRetry) && ofQueue q d
  if s.agenda.any (ofQueue q) || s.host.assisted.any fun a => ofQueue q a.due then s
  else s.due [.num .queueRecordFetch q]

def State.setNote (s : State) (q v : Nat) : State := (s.modQueue q fun x => setField x 64 32 v).startQueue q

/-- The queue that an instruction names (R312 detail 0x06). -/
def State.jobQueue (s : State) (pid q : Nat) : Option (BitVec 192) :=
  let x := s.queue q
  if qEn x && !qLoc x && decide (qPart x = pid) then some x else none

/-- R325 -/
def execQres (pre : Prefixes) (s : State) : Host.Outcome State Fault Refusal :=
  .next (runTask pre s fun s pid =>
    let a := s.strand.a
    if field a 15 49 ≠ 0 then .trap 0x04
    else
      match s.jobQueue pid a.toNat with
      | none => .trap 0x06
      | some q =>
        if (qTail q + 2 ^ 32 - qHead q) % 2 ^ 32 = qSize q then .done s (statusOnly tkQfull)
        else .done (s.modQueue a.toNat fun x => setField x 128 32 (qTail x + 1))
          (Reply.status tkOk (some (BitVec.ofNat 64 (qTail q)))))

/-- R326: no register and no flag changes but the pointer -/
def execQpost (p : BitVec 3) (pm : PostMode) (pre : Prefixes) (s : State) : Host.Outcome State Fault Refusal :=
  .next (guarded pre s fun s =>
    let k := s.strand
    match checkLocal (k.ptr p.toNat).addr 64 8 with
    | .error (.trap t) => s.raise t
    | .error .stall => s.stall
    | .ok o =>
      match s.readLocal o 64 with
      | .error (.trap t) => s.raise t
      | .error .stall => s.stall
      | .ok rec =>
        let q := field k.x 0 15
        if field k.x 15 49 ≠ 0 then s.raise (trapOf kTask 0x04 0)
        else
          match s.jobQueue (s.pidOf s.me) q with
          | none => s.raise (trapOf kTask 0x06 0)
          | some x =>
            let i := field k.a 0 32
            if (qTail x + 2 ^ 32 - qHead x) % 2 ^ 32 ≤ (i + 2 ^ 32 - qHead x) % 2 ^ 32 then
              s.raise (trapOf kTask 0x07 0)
            else if 32 ≤ (s.core s.me).posted then s.stall
            else
              (((s.touched o 64).postBegin s.me).complete (k.applyPost p pm 64) (k.next pre)).due
                [⟨.qpostDelivery, .post s.issuer q i (BitVec.ofNat 512 rec) false⟩])

/-- R326: the post has left its tile; the record is written with its stamp, and NOTE becomes TAIL; a translation fault holds
the operation for replay, and during a hand-over of its stack it waits (17 R399) -/
def execQpostDelivery (s : State) : Host.Outcome State Fault Refusal :=
  match s.arg with
  | .post i q idx rec left =>
    let s := if left then s else s.postLeave i
    let x := s.queue q
    let a := qBase x + 64 * (idx % qSize x)
    match s.vKeys i.pid a 8 false true 8 with
    | .error e =>
      .next (s.hold i (.op ⟨.qpostDelivery, .post i q idx rec true⟩ i.tcb) ⟨3, 0, kXlate.toNat, e.2.toNat, e.1, 0, 0⟩)
    | .ok ks =>
      match s.heldBy (dieOf (i.core / 8)) (keyStacks ks) with
      | some h => .next (s.waitFor h ⟨.qpostDelivery, .post i q idx rec true⟩)
      | none =>
      let v := putBits 8 8 (idx / qSize x % 256) rec.toNat
      let s := (s.vWrite i.pid a 8 v).getD s
      .next ((s.setNote q (qTail (s.queue q))).opEnd i.pid i.tcb)
  | _ => .next s

/-- The record at HEAD of a queue, with one read of 64 bytes; none where it cannot be read. -/
def State.fetchRecord (s : State) (q : BitVec 192) : Option Nat :=
  let a := qBase q + 64 * (qHead q % qSize q)
  if qLoc q then some (s.rdNat (hostKey a) 64) else s.vRead (qPart q) a 8

/-- Has a command record a reserved bit set (R322)? DESIGN CHOICE (log 55): bits of ARG that a kind does not name are ignored. -/
def cmdReserved (r : Nat) : Bool :=
  decide (bitsAt 192 320 r ≠ 0) || decide (bitsAt 112 16 r ≠ 0) || decide (bitsAt 33 31 r ≠ 0) || decide (bitsAt 16 16 r ≠ 0)

/-- The step that executes a command record (R322). -/
def cmdStep (r : Nat) : Instr :=
  if cmdReserved r then .hostBadcmd
  else
    match bitsAt 0 8 r with
    | 1 => .hostLaunch
    | 2 => .hostGnew
    | 3 => .hostArm
    | 4 => .hostDepdec
    | 5 => .hostGcancel
    | 6 => .hostLink
    | 7 => .grelease
    | _ => .hostBadcmd

/-- The loop of a queue goes on at HEAD (R323): a record whose stamp is not that of its lap is fetched again after 1,880
cycles, up to eight times; one that cannot be read counts as such. While the injection of its partition is held, the engine
waits (17 R386). -/
def State.fetchLoop (s : State) (q tries : Nat) : State :=
  let x := s.queue q
  if !qEn x || decide (qHead x = qNote x) then s
  else if qPart x ∈ s.board.draining then s.dueIn 64 (.num .stampRetry q tries)
  else
    let fresh := match s.fetchRecord x with
      | some r => if bitsAt 8 8 r = qHead x / qSize x % 256 then some r else none
      | none => none
    match fresh with
    | some r => s.due [⟨cmdStep r, .cmd q (BitVec.ofNat 512 r)⟩]
    | none => if tries = 8 then s else s.dueIn 1880 (.num .stampRetry q (tries + 1))

/-- R323 -/
def execQueueRecordFetch (s : State) : Host.Outcome State Fault Refusal :=
  match s.arg with
  | .num q _ _ _ => .next (s.fetchLoop q 0)
  | _ => .next s

/-- R323: fetched again -/
def execStampRetry (s : State) : Host.Outcome State Fault Refusal :=
  match s.arg with
  | .num q tries _ _ => .next (s.fetchLoop q tries)
  | _ => .next s

/-- A command has been executed (R322, R323): its result word is written or its outcome posted, and HEAD advances. The
event's body holds the index, the status, whether the result was lost, the queue and the handle (log 34). -/
def State.cmdDone (s : State) (q : Nat) (rec : BitVec 512) (status handle : Nat) : State :=
  let x := s.queue q
  let res := field rec 64 48
  let body (lost : Bool) : Nat :=
    mkRecord [(0, 32, qHead x), (32, 8, status), (40, 1, lost.toNat), (48, 15, q), (64, 32, handle)]
  let word := mkRecord [(0, 32, handle), (56, 8, status)]
  let s :=
    if res = 0 then (if rec.getLsbD 32 then s.event 0x03 (qPart x) (body false) else s)
    else
      match (if res % 8 = 0 then s.vWrite (qPart x) res 1 word else none) with
      | some s => if rec.getLsbD 32 then s.event 0x03 (qPart x) (body false) else s
      | none => s.event 0x03 (qPart x) (body true)
  (s.modQueue q fun y => setField y 160 32 (qHead y + 1)).due [.num .queueRecordFetch q]

/-- A command record's step: the queue, the partition and the record. -/
def onCmd (s : State) (f : Nat → Nat → BitVec 512 → State) : Host.Outcome State Fault Refusal :=
  match s.arg with
  | .cmd q rec => .next (f q (qPart (s.queue q)) rec)
  | _ => .next s

/-- R322: LAUNCH; the failures of SPAWN are statuses -/
def execHostLaunch (s : State) : Host.Outcome State Fault Refusal :=
  onCmd s fun q pid rec =>
    let me : Due := ⟨.hostLaunch, .cmd q rec⟩
    let answers := s.answers 2 me
    let s' := s.forget 2 me
    match s.vKeys pid (field rec 128 48) 1 true false 64 with
    | .error _ => s'.cmdDone q rec tkBadcmd 0
    | .ok ks =>
      let d := bytesToNat (ks.map fun k => s.rd k)
      let run : Option Spawned :=
        if bitsAt 64 32 d ≠ 0 then some (s'.spawn none pid 0 d answers)
        else if spawnBad d then some .malformed
        else
          match s'.newGraph pid none 0 0 with
          | none => none
          | some (t, g) => some (t.spawnIn none pid g d answers)
      match run with
      | none => s'.cmdDone q rec tkFull 0
      | some .malformed => s'.cmdDone q rec tkBadcmd 0
      | some .stale => s'.cmdDone q rec tkBadcmd 0
      | some (.xlate _ _) => s'.cmdDone q rec tkBadimg 0
      | some (.status st) => s'.cmdDone q rec st 0
      | some (.made t h) => t.cmdDone q rec tkOk h.toNat
      | some (.ask bad body) => s.askAgain 2 pid body bad me

/-- R322: GNEW. DESIGN CHOICE (log 55): a fault queue that is no multiple of 8 is accepted -/
def execHostGnew (s : State) : Host.Outcome State Fault Refusal :=
  onCmd s fun q pid rec =>
    match s.newGraph pid none 0 (field rec 128 48) with
    | none => s.cmdDone q rec tkFull 0
    | some (t, n) => t.cmdDone q rec tkOk (gSelf (t.graph pid n)).toNat

/-- A command on the task that ARG names; a handle error is BADCMD (R322). -/
def cmdTask (s : State) (f : State → Nat → Nat → State × Nat) : Host.Outcome State Fault Refusal :=
  onCmd s fun q pid rec =>
    match (s.part pid).taskSlot (rec.extractLsb' 128 32) with
    | none => s.cmdDone q rec tkBadcmd 0
    | some n =>
      let r := f s pid n
      r.1.cmdDone q rec r.2 0

/-- R322: ARM -/
def execHostArm (s : State) : Host.Outcome State Fault Refusal := cmdTask s State.armTask

/-- R322: DEPDEC -/
def execHostDepdec (s : State) : Host.Outcome State Fault Refusal := cmdTask s State.depDec

/-- R322: GCANCEL -/
def execHostGcancel (s : State) : Host.Outcome State Fault Refusal :=
  onCmd s fun q pid rec =>
    match (s.part pid).graphSlot (rec.extractLsb' 128 32) with
    | none => s.cmdDone q rec tkBadcmd 0
    | some n =>
      let r := s.cancelGraph pid n true
      r.1.cmdDone q rec r.2 0

/-- R322: LINK -/
def execHostLink (s : State) : Host.Outcome State Fault Refusal :=
  onCmd s fun q pid rec =>
    match (s.part pid).taskSlot (rec.extractLsb' 128 32), (s.part pid).taskSlot (rec.extractLsb' 160 32) with
    | some n, some m =>
      let r := s.linkTasks pid n m
      r.1.cmdDone q rec r.2 0
    | _, _ => s.cmdDone q rec tkBadcmd 0

/-- R322: GRELEASE -/
def execGrelease (s : State) : Host.Outcome State Fault Refusal :=
  onCmd s fun q pid rec =>
    match (s.part pid).graphSlot (rec.extractLsb' 128 32) with
    | none => s.cmdDone q rec tkBadcmd 0
    | some n =>
      let g := s.graph pid n
      if gCreator g = 0 ∧ gHold g = true then (s.releaseHold pid n).cmdDone q rec tkOk 0
      else s.cmdDone q rec tkBadcmd 0

/-- R322: a reserved kind, or reserved bits -/
def execHostBadcmd (s : State) : Host.Outcome State Fault Refusal :=
  onCmd s fun q _ rec => s.cmdDone q rec tkBadcmd 0

end Sys2Proof.Machine
end

