-- ==== Sys2Proof/Machine/System.lean ====
section
/-! DEFINITION. Return from a trap, the saving and loading of contexts, TLB invalidation, the reading and resuming of faults, walks, and pre-emption (16_contexts_translation R349 to R372). -/

namespace Sys2Proof.Machine

/-- What an instruction does with the outcome of its checks: a trap, a stall, or the rest of it. -/
def State.orStop {α : Type} (s : State) (r : Except Stop α) (f : α → State) : State :=
  match r with
  | .error (.trap t) => s.raise t
  | .error .stall => s.stall
  | .ok x => f x

def systemTrap (d : BitVec 8) : Stop := stopTrap kSystem d 0

/-! ### ERET (R363) -/

/-- Is a reserved bit of a trap record set (09 R219; 00 R8)? -/
def recordReserved (r : Nat) : Bool :=
  decide (bitsAt 48 16 r ≠ 0) || decide (bitsAt 101 11 r ≠ 0) || decide (bitsAt 120 8 r ≠ 0) ||
  decide (bitsAt 176 16 r ≠ 0) || decide (bitsAt 320 192 r ≠ 0)

/-- R363: the loop test resumes with the next completed instruction. A record with a reserved bit set is rejected (00 R8):
DESIGN CHOICE (log 74), with SYSTEM detail 0x05, the detail of a malformed context entry -/
def execEret (pre : Prefixes) (s : State) : Host.Outcome State Fault Refusal :=
  .next (guarded pre s fun s =>
    if !s.strand.inh then s.raise (trapOf kSystem 0x01 0)
    else
      let trb := match s.taskOf s.me with
        | some (_, t) => t.trb
        | none => 0
      let off := recordOffset trb (s.me % 8) s.myCtx
      s.orStop (s.readLocal off 64) fun rec =>
        if recordReserved rec then s.raise (trapOf kSystem 0x05 0)
        else if rec.testBit 0 then s.raise (trapOf kAlign 0x02 (BitVec.ofNat 48 rec))
        else (s.touched off 64).setCtx s.me s.myCtx (s.strand.returnFrom rec))

/-! ### Context entries (R364) -/

/-- The loop state as R121 lays it out. -/
def Loop.bits (l : Loop) : Nat :=
  mkRecord [(0, 48, l.lend.toNat), (48, 48, l.lstart.toNat), (96, 32, l.lcount.toNat), (128, 1, l.lact.toNat)]
def loopOf (b : Nat) : Loop :=
  ⟨b.testBit 128, BitVec.ofNat 32 (bitsAt 96 32 b), BitVec.ofNat 48 (bitsAt 48 48 b), BitVec.ofNat 48 (bitsAt 0 48 b)⟩

/-- WVAL, WCNT, CST and HTAG of a mode (R364). -/
def Mode.fields : Mode → Nat × Nat × Nat × Nat
  | .ready | .running | .waitLoad => (0, 0, 0, 0)
  | .waitSync (.counter n v) => (v.toNat, n, 1, 0)
  | .waitSync (.helper h) => (0, h, 2, 0)
  | .waitSync .leaveEarly => (0, 0, 3, 0)
  | .waitSync (.graph h) => (h.toNat, 0, 3, 0)
  | .waitSync (.barrier sc n) => (n, scopeNum sc, 5, 0)
  | .suspended tag => (0, 0, 4, tag.toNat)

/-- The scope of a code (00 R9). -/
def scopeOf : Nat → Scope
  | 0 => .context
  | 1 => .core
  | 2 => .tile
  | 3 => .cluster
  | 4 => .die
  | 5 => .package
  | _ => .pod

/-- The mode that an entry describes (R364). -/
def entryMode (e : Nat) : Mode :=
  match entryCst e with
  | 1 => .waitSync (.counter (bitsAt 870 4 e) (BitVec.ofNat 32 (entryWval e)))
  | 2 => .waitSync (.helper (bitsAt 870 4 e))
  | 3 => if entryWval e = 0 then .waitSync .leaveEarly else .waitSync (.graph (BitVec.ofNat 32 (entryWval e)))
  | 4 => .suspended (BitVec.ofNat 32 (bitsAt 912 32 e))
  | 5 => .waitSync (.barrier (scopeOf (bitsAt 870 3 e)) (entryWval e))
  | _ => .ready

def ptrBits (p : Ptr) : Nat := p.addr.toNat + p.stride.toNat * 2 ^ 48
def ptrOf (w : Nat) : Ptr := ⟨BitVec.ofNat 16 (bitsAt 48 16 w), BitVec.ofNat 48 (bitsAt 0 48 w)⟩

/-- The context entry of a live context (R364). -/
def Ctx.entry (k : Ctx) : Nat :=
  let m := k.mode.fields
  mkRecord ([(0, 64, k.a.toNat), (64, 64, k.x.toNat), (640, 48, k.pc.toNat), (704, 16, k.f.toNat),
    (736, 129, k.loop.bits), (865, 1, 1), (866, 1, k.inh.toNat), (867, 3, m.2.2.1), (870, 4, m.2.1), (880, 32, m.1),
    (912, 32, m.2.2.2)] ++ (List.range 8).map fun n => (128 + 64 * n, 64, ptrBits (k.ptr n)))

/-- The context that an entry describes; one that is not live is idle. -/
def entryCtx (e : Nat) : Ctx :=
  if !entryLive e then Ctx.idle
  else
    (List.range 8).foldl (fun k n => k.setPtr n (ptrOf (bitsAt (128 + 64 * n) 64 e)))
      { Ctx.idle with
        live := true, mode := entryMode e, a := BitVec.ofNat 64 (bitsAt 0 64 e), x := BitVec.ofNat 64 (bitsAt 64 64 e),
        pc := BitVec.ofNat 48 (bitsAt 640 48 e), f := BitVec.ofNat 16 (bitsAt 704 16 e) &&& flagBits,
        loop := loopOf (bitsAt 736 129 e), inh := e.testBit 866 }

/-- Is a reserved bit of a context entry set (R364)? -/
def entryReserved (e : Nat) : Bool :=
  decide (bitsAt 944 80 e ≠ 0) || decide (bitsAt 874 6 e ≠ 0) || decide (bitsAt 720 16 e ≠ 0) || decide (bitsAt 688 16 e ≠ 0)

/-- Is an entry one that CLOAD refuses (R365)? -/
def entryBad (e : Nat) : Bool :=
  entryReserved e || !entryLive e || decide (4 ≤ entryCst e) || e.testBit 640 ||
  (!e.testBit 864 && decide (bitsAt 736 128 e ≠ 0))

/-- A wait that is over already ends; a context that is READY is selected. -/
def State.settleWait (s : State) (g c : Nat) : State :=
  match (s.ctx g c).mode with
  | .ready => s.wake g c
  | .waitSync (.counter n v) => if reached (s.counter g n) v then s.wake g c else s
  | .waitSync (.helper h) => if (s.ctx g h).live then s else s.wake g c
  | .waitSync .leaveEarly =>
    match s.taskOf g with
    | some (_, t) => if t.state = tEarly then s else s.endGwait g c none tkOk
    | none => s
  | .waitSync (.graph h) =>
    match (s.part (s.pidOf g)).graphSlot h with
    | some n =>
      let r := s.graph (s.pidOf g) n
      if gState r = gComplete then s.endGwait g c (some 0) tkOk
      else if gState r = gCancelled then s.endGwait g c (some (BitVec.ofNat 64 (gDisc r))) tkCancelled
      else s
    | none => s
  | _ => s

/-- The context that CSAVE or CLOAD names, checked in the order of R362. -/
def State.contextArg (s : State) (load : Bool) : Except Stop Nat :=
  let x := s.strand.x
  let t := field x 0 4
  if s.myCtx ≠ 0 then .error (systemTrap 0x02)
  else if t = 0 ∨ field x 5 59 ≠ 0 ∨ (load = true ∧ x.getLsbD 4 = true) then .error (systemTrap 0x03)
  else if (s.ctx s.me t).live = load then .error (systemTrap 0x04)
  else .ok t

/-- R365: the entry of a context is written, and with STOP the context ends -/
def execCsave (p : BitVec 3) (pm : PostMode) (pre : Prefixes) (s : State) : Host.Outcome State Fault Refusal :=
  .next (guarded pre s fun s =>
    s.orStop (checkLocal (s.strand.ptr p.toNat).addr 128 8) fun off =>
    s.orStop (s.contextArg false) fun t =>
    s.orStop (s.mayWrite off 128) fun _ =>
      if (s.ctx s.me t).mode = .waitLoad then s
      else
        let stop := s.strand.x.getLsbD 4
        let e : Effect := { Effect.regs (s.strand.applyPost p pm 128) with
          writes := [(off, natToBytes 128 (s.ctx s.me t).entry)], words := wordsOf' off 128 }
        let s := s.perform e pre
        if stop then (s.dropHeld s.me t).endStrand s.me t else s)

/-- R365: a context becomes live with the registers of an entry -/
def execCload (p : BitVec 3) (pm : PostMode) (pre : Prefixes) (s : State) : Host.Outcome State Fault Refusal :=
  .next (guarded pre s fun s =>
    let helpers := match s.taskOf s.me with
      | some (_, t) => t.helpers
      | none => 0
    s.orStop (checkLocal (s.strand.ptr p.toNat).addr 128 8) fun off =>
    s.orStop (s.contextArg true) fun t =>
    if helpers < t then s.raise (trapOf kHelper 0x01 0)
    else s.orStop (s.readLocal off 128) fun e =>
      if entryBad e then s.raise (trapOf kSystem 0x05 0)
      else
        let f : Effect := { Effect.regs (s.strand.applyPost p pm 128) with words := wordsOf' off 128 }
        let s := s.perform f pre
        (((s.setCtx s.me t (entryCtx e)).liveUp s.me).settleWait s.me t))

/-! ### TLBINV (R366) -/

/-- TLBINV and RGNWR wait until no access that `p` names is still to be performed (R366; 17 R395). -/
def State.performedAt (s : State) (q : Req) (alive : Bool) (p : Access → Bool) : State :=
  if s.accesses.any p then s.dueIn 16 (reqDue q) else s.replyTo q alive (statusOnly 0)

/-- The wait of TLBINV: for the accesses of the job that the removed pages translated up to a cycle. Copies translate each page
when they reach it. -/
def State.invWait (s : State) (q : Req) (alive : Bool) (cycle : Nat) (pages : List (Nat × Nat)) : State :=
  s.performedAt q alive fun a => decide (a.by_.pid = q.by_.pid) && a.inPages cycle pages

/-- The TLB entries of a page, of all pages, and of a stack, as TLBINV names them (R366). -/
def invPick (q : Req) (e : TlbEntry) : Bool :=
  match q.op with
  | .tlbPage => decide (e.vbase ≤ q.a.toNat) && decide (q.a.toNat < e.vbase + e.size)
  | .tlbStack => e.mask.getLsbD (field q.x 0 3)
  | _ => true

/-- The pages of the TLB entries that `p` names, by first address and size. -/
def State.pagesOf (s : State) (p : TlbEntry → Bool) : List (Nat × Nat) :=
  ((s.tiles.flatMap fun e => e.2.tlb.filter p).map fun e => (e.vbase, e.size)).eraseDups

/-- TLBINV once it has been checked (R366): a release, then the removal of the entries, and the wait for the accesses that
they translated. A walk reads the tables when it is served, so those in flight install nothing older. -/
def State.sendInv (s : State) (q : Req) (alive : Bool) : State :=
  if !s.releasedFor q.by_ then s.dueIn 4 (reqDue q)
  else
    let mine (e : TlbEntry) : Bool := decide (e.pid = q.by_.pid) && invPick q e
    let pages := s.pagesOf mine
    (s.dropTlb mine).invWait { q with op := .performed s.now pages } alive s.now pages

/-- TLBINV: a malformed register operand is SYSTEM detail 0x06 (R362). -/
def runTlbinv (op : ReqOp) (bad : State → Bool) (pre : Prefixes) (s : State) : State :=
  guarded pre s fun s =>
    if bad s then s.raise (trapOf kSystem 0x06 0) else (s.awaitReply pre).sendInv (s.request op) true

/-- R366: mode 00 -/
def execTlbinvPage (pre : Prefixes) (s : State) : Host.Outcome State Fault Refusal :=
  .next (runTlbinv .tlbPage (fun s => decide (0xF00000000000 ≤ s.strand.a.toNat)) pre s)

/-- R366: mode 01 -/
def execTlbinvJob (pre : Prefixes) (s : State) : Host.Outcome State Fault Refusal :=
  .next (runTlbinv .tlbJob (fun _ => false) pre s)

/-- R366: mode 10 -/
def execTlbinvStack (pre : Prefixes) (s : State) : Host.Outcome State Fault Refusal :=
  .next (runTlbinv .tlbStack (fun s => decide (field s.strand.x 3 61 ≠ 0)) pre s)

/-! ### FLTRD (R368) -/

/-- The strand or the operation that a tag names is replayed and its entry freed; none where the tag is stale, or its
task is being cancelled (R368). -/
def State.resume (s : State) (pid : Nat) (tag : BitVec 32) : Option State :=
  match (s.part pid).heldAt tag with
  | none => none
  | some (n, h) =>
    let dead := match (s.part pid).taskSlot h.tcb with
      | some t => s.taskDead pid t
      | none => false
    if dead then none
    else
      match h with
      | .op d _ => some ((s.unhold pid n).due [d])
      | .strand g c t =>
        let s := s.unhold pid n
        if (s.part pid).isSaved t then
          some (s.setSavedEntry pid g c (putBits 912 32 0 (putBits 867 3 0 (s.savedEntry pid g c))))
        else some (s.wake g c)

/-- What TAKE and PEEK read: the record at HEAD and the header, or that there is none. -/
inductive Taken where
  | fault (va : Nat) (detail : BitVec 8)
  | empty
  | record (rec header : Nat)
deriving DecidableEq, Repr

/-- The place of record `i` of the fault queue at `q` with a header (R359). -/
def recordPlace (q h i : Nat) : Nat := q + 64 + 128 * (i % 2 ^ bitsAt 192 4 h)

/-- Record HEAD of the fault queue at `q` (R359, R368), read with the TLB of the tile `t`. DESIGN CHOICE (log 74): a queue
whose header is malformed is taken as absent, as R360 takes it, and so there is no record. -/
def State.takeRecord (s : State) (t pid q : Nat) (wr : Bool) : Taken :=
  match s.tKeys t pid q 8 true wr 8 with
  | .error (va, d) => .fault va d
  | .ok hk =>
    let h := bytesToNat (hk.flatMap fun k => s.rdN k 8)
    if !queueOk h || decide (bitsAt 0 32 h = bitsAt 32 32 h) then .empty
    else
      match s.tKeys t pid (recordPlace q h (bitsAt 0 32 h)) 8 true false 16 with
      | .error (va, d) => .fault va d
      | .ok rk => .record (bytesToNat (rk.flatMap fun k => s.rdN k 8)) h

/-- A reply of FLTRD: on OK it writes A := 0 and applies the post-mode. -/
def fltrdReply (st : Nat) : Reply :=
  if st = 0 then Reply.status 0 (some 0) else { Reply.status st none with post := false }

/-- FLTRD with a pointer: its checks, and the wait for its reply. -/
def runFltrd (p : BitVec 3) (pm : PostMode) (pre : Prefixes) (s : State) (f : State → Nat → Except Stop (State × Nat)) :
    State :=
  guarded pre s fun s =>
    let ptr := s.strand.ptr p.toNat
    s.orStop (checkLocal ptr.addr 128 8) fun off =>
    s.orStop (f s off) fun r =>
      (r.1.await ⟨s.strand.next pre, false, some (p.toNat, ptr.post pm 128), none, none⟩).reply s.me s.myCtx
        (fltrdReply r.2)

/-- TAKE and PEEK; the pages that they read go into the tile's TLB (16 R355). DESIGN CHOICE (log 81): the record is copied into
the scratchpad by no requester class (01 R25), so that no bank pointer moves. -/
def fltrdRead (take : Bool) (s : State) (off : Nat) : Except Stop (State × Nat) :=
  let a := s.strand.a.toNat
  let pid := s.pidOf s.me
  if 0xF00000000000 ≤ a ∨ a % 8 ≠ 0 then .error (systemTrap 0x07)
  else
    match s.takeRecord s.myTile pid a take with
    | .fault va d => .error (stopTrap kXlate d (BitVec.ofNat 48 va))
    | .empty => .ok (s.fillAll s.myTile pid [a, a + 56] true take, 1)
    | .record rec h =>
      match s.mayWrite off 128 with
      | .error e => .error e
      | .ok _ =>
        let r := recordPlace a h (bitsAt 0 32 h)
        let s := (s.fillAll s.myTile pid [a, a + 56] true take).fillAll s.myTile pid [r, r + 120] true false
        let s := s.wrNat (scratchKey s.myTile off) 128 rec
        .ok (if take then (s.vWrite pid a 8 (putBits 0 32 (bitsAt 0 32 h + 1) h)).getD s else s, 0)

/-- R368: TAKE; the functions of X[1:0] that the word does not tell apart have their own meanings, and 3 is refused -/
def execFltrdTake (p : BitVec 3) (pm : PostMode) (pre : Prefixes) (s : State) : Host.Outcome State Fault Refusal :=
  .next (runFltrd p pm pre s fun s off =>
    if field s.strand.x 0 2 = 3 then .error (systemTrap 0x07) else fltrdRead true s off)

/-- R368: PEEK -/
def execFltrdPeek (p : BitVec 3) (pm : PostMode) (pre : Prefixes) (s : State) : Host.Outcome State Fault Refusal :=
  .next (runFltrd p pm pre s (fltrdRead false))

/-- R368: RESUME -/
def execFltrdResume (p : BitVec 3) (pm : PostMode) (pre : Prefixes) (s : State) : Host.Outcome State Fault Refusal :=
  .next (runFltrd p pm pre s fun s _ =>
    let a := s.strand.a
    if field a 32 32 ≠ 0 then .error (systemTrap 0x07)
    else .ok (match s.resume (s.pidOf s.me) (a.setWidth 32) with
      | some s => (s, 0)
      | none => (s, 2)))

/-! ### Walks (R353 to R356) -/

/-- Is a walk one of the fetch of the instruction at which a context waits: of a word of it, or of the body of a REP? -/
def State.fetching (s : State) (g c : Nat) (va : Addr) : Bool :=
  match (s.tile (g / 8)).fetch (s.ctx g c).pc with
  | .miss v => decide (v = va)
  | .instr (.rep _ _ _) _ => true
  | _ => false

/-- R353: the page goes into the TLB of the tile, if an earlier walk has not put it there (R355), and the requester goes on; a
fault is the instruction's, and of a fetch at the instruction's address (R358); a miss that its tile holds is offered to the
walkers again (R356) -/
def execPageWalk (s : State) : Host.Outcome State Fault Refusal :=
  match s.arg with
  | .fetch g c va rd wr =>
    let t := g / 8
    match s.translateFor t (s.pidOf g) va.toNat rd wr with
    | .ok _ => .next ((s.fillFor t (s.pidOf g) va.toNat rd wr).retry g c)
    | .error d =>
      let k := s.ctx g c
      if k.mode = .waitLoad then
        let a := if s.fetching g c va then k.pc else va
        .next ((s.wake g c).takeTrap g c { trapOf kXlate d a with pc := k.pc })
      else .next s
  | .num g c va mode => .next (s.sendWalk g c (BitVec.ofNat 48 va) (mode.testBit 0) (mode.testBit 1))
  | _ => .next s

/-! ### Pre-emption (R350, R370 to R372) -/

/-- Is a context at a point where its task can be saved (R350)? -/
def Ctx.atBoundary (n : Nat) (k : Ctx) : Bool :=
  !k.live ||
  (if n = 0 then match k.mode with
    | .waitSync (.barrier _ _) => true
    | _ => false
  else decide (k.mode ≠ .waitLoad))

/-- Is a barrier, a reduction or a counting barrier of a task in flight? -/
def Due.meets (pid : Nat) (tcb : BitVec 32) (d : Due) : Bool :=
  match d.arg with
  | .arr r => decide (r.by_.pid = pid) && decide (r.by_.tcb = tcb)
  | _ => false

/-- Is a reduction or a counting barrier of a task in flight or open (11 R284)? -/
def State.combining (s : State) (pid : Nat) (tcb : BitVec 32) : Bool :=
  (s.agenda.any fun d => d.meets pid tcb) ||
  s.meetings.any fun m => decide (m.pid = pid) && decide (m.tcb = tcb) && decide (m.kind ≠ 0)

/-- Is an increment of a counter of a task's core due? It is the last of a message to the core. -/
def Due.signals (t : Task) (d : Due) : Bool :=
  match d.arg with
  | .num g _ _ _ => decide (d.what = .counterIncrement) && decide (g / 8 ∈ t.tiles)
  | _ => false

/-- The superstep boundary (R350). -/
def State.boundary (s : State) (pid slot : Nat) : Bool :=
  let t := s.task pid slot
  t.cores.all (fun g => (List.range 16).all fun n => (s.ctx g n).atBoundary n) &&
  decide (t.aops = 0) && !s.traversing pid t.self && !s.combining pid t.self && !(s.agenda.any fun d => d.signals t) &&
  t.tiles.all fun x => s.tileQuiet x

/-- Bytes put into a save record; none of them crosses a multiple of 4 KiB. -/
def State.savePut (s : State) (pid l off : Nat) (bs : List Byte) : State :=
  match s.saveKey pid l off with
  | some k => s.wrN k bs
  | none => s

/-- `n` bytes of a save record as a number. -/
def State.saveGet (s : State) (pid l off n : Nat) : Nat :=
  match s.saveKey pid l off with
  | some k => s.rdNat k n
  | none => 0

/-- Words of a table from `lo` on, 4 bytes each. -/
def wordBytes (t : Tab Word32) (lo n : Nat) : List Byte := (Tab.getMany 0 t lo n).flatMap fun w => natToBytes 4 w.toNat

/-- A table filled from a number, 4 bytes for each of the `n` entries from `lo` on. -/
def fillWords (t : Tab Word32) (lo n x : Nat) : Tab Word32 :=
  Tab.setMany 0 t lo ((List.range n).map fun i => BitVec.ofNat 32 (x / 2 ^ (32 * i)))

/-- A deferred refusal as the core block holds it (R371). -/
def refusalWord (r : Refused) : Nat := r.dest.toNat + r.detail.toNat * 2 ^ 48

/-- The core block of a core (R371). -/
def State.saveCore (s : State) (pid l g : Nat) : State :=
  let c := s.core g
  let o := 0x8000 * (g % 8)
  let s := (List.range 16).foldl (fun s n =>
    if (c.ctx n).live then s.savePut pid l (o + 0x80 * n) (natToBytes 128 (c.ctx n).entry) else s) s
  let s := s.savePut pid l (o + 0x800) (wordBytes c.counters 0 16)
  let s := s.savePut pid l (o + 0x840) ((Tab.getMany (0 : Word64) c.wins 0 8).flatMap fun w => natToBytes 8 w.toNat)
  let s := s.savePut pid l (o + 0x880) (natToBytes 8 c.refusals.length ++
    c.refusals.flatMap fun r => natToBytes 8 (refusalWord r))
  let s := s.savePut pid l (o + 0xA00) (natToBytes 32 c.fctx.toNat)
  let s := s.savePut pid l (o + 0xA20) (natToBytes 8 c.mst.toNat)
  let s := s.savePut pid l (o + 0xA40) (wordBytes c.scol 0 32)
  let s := s.savePut pid l (o + 0xAC0) (wordBytes c.srow 0 128)
  let s := (List.range 4).foldl (fun s i => s.savePut pid l (o + 0x1000 * (i + 1)) (wordBytes c.acc (1024 * i) 1024)) s
  (List.range 2).foldl (fun s i => s.savePut pid l (o + 0x5000 + 0x1000 * i) (wordBytes c.vregs (1024 * i) 1024)) s

/-- Pages of 4 KiB moved between a memory of a tile, from a key on, and its save record. -/
def State.savePages (s : State) (pid l off key n : Nat) (out : Bool) : State :=
  (List.range n).foldl (fun s i =>
    match s.saveKey pid l (off + 4096 * i) with
    | some k => if out then s.copyKeys (key + 4096 * i) k 4096 else s.copyKeys k (key + 4096 * i) 4096
    | none => s) s

/-- The save record of a tile (R370). -/
def State.saveTile (s : State) (pid slot l t : Nat) : State :=
  let s := (List.range 0x641).foldl (fun s i =>
    match s.saveKey pid l (4096 * i) with
    | some k => s.clearKeys k 4096
    | none => s) s
  let s := (List.range 8).foldl (fun s k => s.saveCore pid l (8 * t + k)) s
  let s := s.savePages pid l 0x40000 (scratchKey t 0) 512 true
  let s := s.savePages pid l 0x240000 (weightKey t 0 0) 1024 true
  s.savePut pid l 0x640000 (natToBytes 8 (l + (s.task pid slot).self.toNat * 2 ^ 32))

/-- The held strands of a task get other core numbers, and so do the barrier arrivals that it keeps. -/
def State.renumber (s : State) (pid : Nat) (tcb : BitVec 32) (f : Nat → Nat) : State :=
  let h (x : Held) : Held := match x with
    | .strand g c t => if t = tcb then .strand (f g) c t else x
    | .op _ _ => x
  let s := s.modPart pid fun p =>
    { p with held := p.held.map fun e => (e.1, e.2.map h), heldWait := p.heldWait.map fun e => (h e.1, e.2) }
  { s with meetings := s.meetings.map fun m =>
      if m.pid = pid ∧ m.tcb = tcb then
        { m with arrived := m.arrived.map fun r => { r with by_ := { r.by_ with core := f r.by_.core } } }
      else m }

/-- The pod-scope barriers of a gang stay open while a task of it is saved; the others end with the save (R372; 22 R439). -/
def State.dropBars (s : State) (pid : Nat) (tcb : BitVec 32) : State :=
  { s with meetings := s.meetings.filter fun m =>
      decide (m.pid ≠ pid) || decide (m.tcb ≠ tcb) || decide (m.kind ≠ 0) ||
      (decide (m.scope = .pod) && decide (s.gangOf pid tcb ≠ 0)) }

/-- An event of a task is traced on the die of its first tile (17 R393; log 28). -/
def State.traceTask (s : State) (pid kind pay : Nat) (t : Task) : State :=
  s.traceAt pid kind pay 0 0 (dieOf (t.tiles.headD 0))

/-- A task is saved and its tiles are free (R370). -/
def State.saveTask (s : State) (pid slot : Nat) : State :=
  let t := s.task pid slot
  let ls := t.tiles.map fun x => (s.logTile pid x).getD 0
  let s := (t.tiles.zip ls).foldl (fun s e => s.saveTile pid slot e.2 e.1) s
  let kept : Tab (List (Nat × Half) × Tab Nat) := t.cores.foldl (fun k g =>
    Tab.set ([], []) k (s.logCore g) ((s.core g).refusals.map (fun r => (r.ctx, r.opc)), (s.ctx g 0).bars)) []
  let s := (s.renumber pid t.self fun g => s.logCore g).dropBars pid t.self
  let s := t.cores.foldl (fun s g => s.setCore g Core.idle) s
  let s := s.modTask pid slot fun t => { t with tiles := ls, saved := true, stopping := false, kept := kept }
  (s.traceTask pid 4 (t.self.toNat * 2 ^ 32) t).freeTiles t.tiles

/-- R370: at a boundary the task is saved; until then it is waited for -/
def execPreemptSave (s : State) : Host.Outcome State Fault Refusal :=
  match s.arg with
  | .num pid slot _ _ =>
    let t := s.task pid slot
    if !t.stopping then .next s
    else if s.boundary pid slot then .next (s.saveTask pid slot)
    else .next (s.dueIn 64 (.num .preemptSave pid slot))
  | _ => .next s

/-- Is the core block of a save record malformed: is a reserved bit of it set, or a reserved value there (R364, R371; 00 R8)? -/
def State.blockBad (s : State) (pid l k : Nat) : Bool :=
  let get (off n : Nat) : Nat := s.saveGet pid l (0x8000 * k + off) n
  ((List.range 16).any fun n => entryReserved (get (0x80 * n) 128) || decide (5 < entryCst (get (0x80 * n) 128))) ||
  decide (16 < get 0x880 8) || (List.range 16).any fun i => decide (i < get 0x880 8) && decide (bitsAt 56 8 (get (0x888 + 8 * i) 8) ≠ 0)

/-- Is a tile's save record malformed, in its header or in a core block (R370)? -/
def State.saveBad (s : State) (pid l : Nat) : Bool :=
  decide (bitsAt 10 22 (s.saveGet pid l 0x640000 8) ≠ 0) || (List.range 8).any fun k => s.blockBad pid l k

/-- A core from its core block (R371, R372): `kept` gives the contexts and base words of its refusals and its barrier numbers. -/
def State.savedCore (s : State) (pid l k weight : Nat) (kept : List (Nat × Half) × Tab Nat) : Core :=
  let o := 0x8000 * k
  let get (off n : Nat) : Nat := s.saveGet pid l (o + off) n
  let cs := (List.range 16).foldl (fun c n => Tab.set Ctx.idle c n (entryCtx (get (0x80 * n) 128))) ([] : Tab Ctx)
  let cs := Tab.set Ctx.idle cs 0 (let z := Tab.get Ctx.idle cs 0; if z.live then { z with bars := kept.2 } else z)
  let refusals := (List.range (get 0x880 8 % 32)).map fun i =>
    let w := get (0x888 + 8 * i) 8
    (⟨(kept.1.getD i (0, 0)).1, (kept.1.getD i (0, 0)).2, BitVec.ofNat 48 (bitsAt 0 48 w), BitVec.ofNat 8 (bitsAt 48 8 w)⟩ : Refused)
  { Core.idle with
    ctxs := cs, vw := weight, refusals := refusals,
    counters := fillWords [] 0 16 (get 0x800 64),
    wins := Tab.setMany 0 [] 0 ((List.range 8).map fun i => BitVec.ofNat 64 (get (0x840 + 8 * i) 8)),
    fctx := BitVec.ofNat 256 (get 0xA00 32), mst := BitVec.ofNat 64 (get 0xA20 8),
    scol := fillWords [] 0 32 (get 0xA40 128), srow := fillWords [] 0 128 (get 0xAC0 512),
    acc := (List.range 4).foldl (fun a i => fillWords a (1024 * i) 1024 (get (0x1000 * (i + 1)) 4096)) [],
    vregs := (List.range 2).foldl (fun a i => fillWords a (1024 * i) 1024 (get (0x5000 + 0x1000 * i) 4096)) [] }

/-- A tile of a saved task is restored on a physical tile (R372): its TLB and its instruction cache are empty. -/
def State.restoreTile (s : State) (pid slot l t : Nat) : State :=
  let k := s.task pid slot
  let s := (s.occupy pid t k.self).modTile t fun x => { x with tlb := [] }
  let s := s.savePages pid l 0x40000 (scratchKey t 0) 512 false
  let s := s.savePages pid l 0x240000 (weightKey t 0 0) 1024 false
  (List.range 8).foldl (fun s c =>
    (s.setCore (8 * t + c) (s.savedCore pid l c (k.weight c) (Tab.get ([], []) k.kept (8 * l + c)))).due
      [.num .contextSelect (8 * t + c)]) s

/-- The barrier that held context 0 of a core departs, but for one that stays open (R372; 22 R439). -/
def State.departs (s : State) (pid : Nat) (tcb : BitVec 32) (g : Nat) : State :=
  match (s.ctx g 0).mode with
  | .waitSync (.barrier sc n) =>
    if s.meetings.any fun m => decide (m.kind = 0) && decide (m.pid = pid) && decide (m.tcb = tcb) && decide (m.scope = sc) &&
        decide (m.tag = n) then s
    else s.wake g 0
  | _ => s

/-- R372: a saved task is restored on the tiles of its logical numbers. DESIGN CHOICE (log 74): one with a malformed save record
cannot come back, and is cancelled alone as one that cannot be placed (14 R310) -/
def execPreemptRestore (s : State) : Host.Outcome State Fault Refusal :=
  match s.arg with
  | .num pid slot _ _ =>
    if slot ∈ s.restorable pid then
      let t := s.task pid slot
      if t.tiles.any fun l => s.saveBad pid l then .next (s.due [.num .taskNofitCancel pid slot])
      else
      let ts := t.tiles.map fun l => (s.physTile pid l).getD 0
      let phys (g : Nat) : Nat := 8 * (s.physTile pid (g / 8)).getD 0 + g % 8
      let s := (t.tiles.zip ts).foldl (fun s e => s.restoreTile pid slot e.1 e.2) s
      let s := s.renumber pid t.self phys
      let s := s.modTask pid slot fun t => { t with tiles := ts, saved := false, kept := [] }
      let s := (ts.flatMap fun x => (List.range 8).map (8 * x + ·)).foldl (fun s g => s.departs pid t.self g) s
      .next ((s.traceTask pid 4 (1 + t.self.toNat * 2 ^ 32) { t with tiles := ts }).checkBars pid t.self)
    else .next s
  | _ => .next s

end Sys2Proof.Machine
end

