-- ==== Sys2Proof/Machine/Manage.lean ====
section
/-! DEFINITION. The operations of the management processor: error records, the journal, units and their retirement, and the guarantees of partitions (21_faults_repair R421 to R429). -/

namespace Sys2Proof.Machine

def State.modMgmt (s : State) (f : Mgmt → Mgmt) : State := { s with mgmt := f s.mgmt }
def State.modBoard (s : State) (f : Board → Board) : State := { s with board := f s.board }

/-! ### Error records (R421) -/

/-- What an error record says, and the die whose buffer it waits in. -/
structure ErrInfo where
  die : Nat
  ucls : Nat
  ecode : Nat
  sev : Nat
  unum : Nat
  pid : Nat
  addr : Nat
deriving DecidableEq, Repr

def ErrInfo.record (x : ErrInfo) (now : Nat) : BitVec 256 :=
  BitVec.ofNat 256 (mkRecord [(0, 3, x.sev), (32, 8, x.ecode), (40, 8, x.ucls), (48, 16, x.unum), (64, 16, 1),
    (80, 16, x.pid), (128, 64, now), (192, 64, x.addr)])

/-- May an error be counted in a record: a corrected one of the same unit and code, within 2^20 cycles (R419)? -/
def ErrInfo.merges (x : ErrInfo) (now : Nat) (r : BitVec 256) : Bool :=
  decide (x.ecode = 1) && decide (field r 32 8 = 1) && decide (field r 40 8 = x.ucls) && decide (field r 48 16 = x.unum) &&
  decide (now ≤ field r 128 64 + 2 ^ 20)

/-- One more error in a record (R421). -/
def recordCount (r : BitVec 256) : Nat := min (field r 64 16 + 1) 0xFFFF

/-- An error record waits in the buffer of its die for the host event queue; with the buffer full it is dropped and
counted (R421). A corrected error is counted in the record with which it merges, one that waits or, in host memory, one that
has been posted (R419). -/
def State.errorRec (s : State) (x : ErrInfo) : State :=
  let l := Tab.get [] s.mgmt.errors x.die
  if l.any (x.merges s.now) then
    let l := l.map fun r => if x.merges s.now r then setField r 64 16 (recordCount r) else r
    s.modMgmt fun m => { m with errors := Tab.set [] m.errors x.die l }
  else
    match s.mgmt.posted.find? fun e => x.merges s.now e.2 with
    | some e =>
      let s := s.modMgmt fun m => { m with posted := m.posted.map fun f =>
        if f = e then (e.1, setField e.2 64 16 (recordCount e.2)) else f }
      s.wrNat (e.1 + 8) 2 (recordCount e.2)
    | none =>
      if l.length < 64 then
        (s.modMgmt fun m => { m with errors := Tab.set [] m.errors x.die (l ++ [x.record s.now]) }).due [⟨.eventPost, .none⟩]
      else s.modMgmt fun m => { m with drops := Tab.set 0 m.drops x.die (Tab.get 0 m.drops x.die + 1) }

/-! ### The journal (R429) -/

/-- CRC-32 of the low `n` bits of a number, bit 0 first (IEEE 802.3; log 36). -/
def crcBits (x : Nat) : Nat → Nat → Nat
  | 0, c => c
  | n + 1, c =>
    let c := crcBits x n c
    if (c.testBit 0) = (x.testBit n) then c / 2 else Nat.xor (c / 2) 0xEDB88320
def crc32 (n x : Nat) : Nat := Nat.xor (crcBits x n 0xFFFFFFFF) 0xFFFFFFFF

/-- Does the CRC of a journal record hold? -/
def crcHolds (r : BitVec 512) : Bool := decide (field r 480 32 = crc32 480 (field r 0 480))

/-- The records of the journal; one whose CRC fails is treated as absent. -/
def Mgmt.records (m : Mgmt) : List (BitVec 512) := m.journal.filter crcHolds

/-- The last record of the journal that `p` names. -/
def Mgmt.lastRecord (m : Mgmt) (p : BitVec 512 → Bool) : Option (BitVec 512) := (m.records.filter p).getLast?

def recordKind (r : BitVec 512) : Nat := field r 0 8
def recordArg (r : BitVec 512) : Nat := field r 128 64

/-- A journal record, durable before what it announces begins; the ring holds 256. -/
def State.journal (s : State) (kind ver arg : Nat) : State :=
  let seqn := match s.mgmt.journal.getLast? with
    | some r => field r 448 32 + 1
    | none => 1
  let body := mkRecord [(0, 8, kind), (64, 32, ver), (128, 64, arg), (448, 32, seqn)]
  let r : BitVec 512 := BitVec.ofNat 512 (body + crc32 480 body * 2 ^ 480)
  s.modMgmt fun m =>
    let l := m.journal ++ [r]
    { m with journal := if l.length ≤ 256 then l else l.drop 1 }

def jPrep : Nat := 0x01
def jCmt : Nat := 0x02
def jFlip : Nat := 0x03
def jDone : Nat := 0x04
def jAbort : Nat := 0x05
def jHstep : Nat := 0x10
def jSusp : Nat := 0x11
def jRestore : Nat := 0x12
def jRetire : Nat := 0x13
def jReturn : Nat := 0x14
/-- The leaf of the identity key has advanced (22 R447): R429 names no kind for this record (log 77). -/
def jLeaf : Nat := 0x15

/-- A journal record of a layout (R429): its version, and the address of its image. -/
def State.journalLayout (s : State) (kind : Nat) (l : Layout) : State := s.journal kind l.version.toNat l.image.toNat

/-- The management processor services its watchdog (R430). -/
def State.service (s : State) : State := s.modMgmt fun m => { m with watchdog := s.now }

/-! ### Guarantees (R427) -/

def Part.gtiles (p : Part) : Nat := field p.record 20 10
def Part.rank (p : Part) : Nat := field p.record 32 10
def Part.qmin (p : Part) : Nat := field p.record 48 16
def Part.hbw (p : Part) : Nat := field p.record 64 11
def Part.fbw (p : Part) : Nat := field p.record 80 11
def Part.cls (p : Part) : Nat := field p.record 16 2

/-- The partitions of the layout. -/
def State.partList (s : State) : List (Nat × Part) := s.parts.filter fun e => decide (e.2.record ≠ 0)

def State.liveStacks (s : State) : Nat := ((List.range 8).filter fun k => !s.isRetired (unitStack k)).length
def State.tilesLive (s : State) : Nat := 32 * ((List.range 16).filter fun c => !s.isRetired (unitCluster c)).length

/-- Do the guarantees of these partitions fit together? -/
def State.fits (s : State) (ps : List Part) : Bool :=
  decide ((ps.map Part.gtiles).sum ≤ s.tilesLive) && decide ((ps.map Part.hbw).sum ≤ 1024 * s.liveStacks / 8) &&
  decide ((ps.map Part.fbw).sum ≤ 1024 * s.tilesLive / 512) && decide ((ps.map Part.qmin).sum ≤ 32768)

/-- A guarantee is suspended or restored: the journal, an error record, and a record in the job's fault queue. -/
def State.noteGuarantee (s : State) (pid : Nat) (suspend : Bool) : State :=
  let s := s.journal (if suspend then jSusp else jRestore) s.board.layout.version.toNat pid
  let s := s.modPart pid fun p => { p with suspended := suspend }
  let s := s.errorRec ⟨0, 0x08, if suspend then 7 else 8, 2, 0, pid, 0⟩
  s.fault ⟨0, 0, pid, 0, 0, s.now⟩ ⟨6, stDegraded, 0, 0, 0, 0, 0⟩

def State.active (s : State) : List (Nat × Part) := s.partList.filter fun e => !e.2.suspended

/-- The partition of the highest rank. -/
def highestRank : List (Nat × Part) → Option (Nat × Part)
  | [] => none
  | e :: l => match highestRank l with
    | some f => if e.2.rank < f.2.rank then some f else some e
    | none => some e

/-- After a retirement: the active partition of the highest rank is suspended until the rest fit. -/
def State.suspendAll (s : State) : Nat → State
  | 0 => s
  | fuel + 1 =>
    if s.fits (s.active.map Prod.snd) then s
    else match highestRank s.active with
      | some e => (s.noteGuarantee e.1 true).suspendAll fuel
      | none => s
def State.refitDown (s : State) : State := s.suspendAll s.parts.length

/-- After a return, or when a partition leaves: suspended ones are restored in ascending rank while they fit. -/
def State.restoreAll (s : State) : List (Nat × Part) → State
  | [] => s
  | e :: l => if s.fits (e.2 :: s.active.map Prod.snd) then (s.noteGuarantee e.1 false).restoreAll l else s
def State.refitUp (s : State) : State :=
  s.restoreAll (sortBy (fun a b => decide (a.2.rank ≤ b.2.rank)) (s.partList.filter (·.2.suspended)))

/-! ### Units (R421, R423) -/

/-- HBM channels, beside the units that `unitCluster` and its like name. -/
def unitChannel (k c : Nat) : Nat := 1024 + 64 * k + c

/-- The unit that UCLS and UNUM name for RETIRE and RETURN (22 R443; log 37): a stack by any of its channels, a cluster
by any of its tiles, a die-to-die link by a die and its port to the next die or to the one before. -/
def unitOf (ucls unum : Nat) : Option Nat :=
  if ucls = 0x04 ∧ unum < 512 then some (unitStack (unum / 64))
  else if ucls = 0x05 ∧ unum < 64 ∧ unum % 16 < 2 then
    some (unitLink (if unum % 16 = 0 then unum / 16 else (unum / 16 + 3) % 4))
  else if ucls = 0x07 ∧ unum < 512 then some (unitCluster (unum / 32))
  else if ucls = 0x0B ∧ unum < 8 then some (unitCxl unum)
  else if ucls = 0x0C ∧ unum < 16 then some (unitJorrin unum)
  else none

/-- UCLS, UNUM and the die of a unit. -/
def unitName (u : Nat) : Nat × Nat × Nat :=
  if 1024 ≤ u then (0x04, u - 1024, (u - 1024) / 128)
  else if 48 ≤ u then (0x0C, u - 48, (u - 48) / 4)
  else if 40 ≤ u then (0x0B, u - 40, (u - 40) / 2)
  else if 32 ≤ u then (0x05, 16 * (u - 32), u - 32)
  else if 16 ≤ u then (0x04, 64 * (u - 16), (u - 16) / 2)
  else (0x07, 32 * u, u / 4)

/-- A unit is marked retired, or in service again: the journal and the error record (R423, R424). -/
def State.markUnit (s : State) (u : Nat) (gone : Bool) : State :=
  let n := unitName u
  let s := s.journal (if gone then jRetire else jReturn) s.board.layout.version.toNat (n.2.1 + n.1 * 2 ^ 16)
  (s.modMgmt fun m => { m with retired := Tab.set false m.retired u gone }).errorRec
    ⟨n.2.2, n.1, if gone then 4 else 5, 2, n.2.1, 0, 0⟩

/-- An error of a unit at this cycle counts toward its retirement: the errors within `span` cycles, this one included
(R423, R424). -/
def State.countError (s : State) (key span : Nat) : State × Nat :=
  let l := (Tab.get [] s.mgmt.counts key).filter fun c => decide (s.now < c + span)
  (s.modMgmt fun m => { m with counts := Tab.set [] m.counts key (l ++ [s.now]) }, l.length + 1)

/-! ### The region table (17 R394, R395) -/

/-- The stack-local bytes that a region entry takes on each stack of its mask. -/
def regionSpan (e : Word64) : Nat × Nat :=
  let gran := 2 ^ field e 8 5
  let n := (stacksOf (field e 0 8)).length
  (field e 32 15 * 2 ^ 21, (2 ^ 33 / gran + n - 1) / n * gran)

/-- Is a region entry well formed (R394)? -/
def regionOk (e : Word64) : Bool :=
  decide (field e 47 17 = 0) && decide (field e 13 19 = 0) &&
  if field e 0 8 = 0 then decide (e = 0)
  else decide (12 ≤ field e 8 5) && decide (field e 8 5 ≤ 21) && decide ((regionSpan e).1 % 2 ^ field e 8 5 = 0) &&
    decide ((regionSpan e).1 + (regionSpan e).2 ≤ 2 ^ 36)

/-- Do two populated entries share a stack on which their ranges overlap (R383 detail 0x09)? -/
def regionsMeet (a b : Word64) : Bool :=
  (stacksOf (field a 0 8)).any (fun k => b.getLsbD k) &&
  decide ((regionSpan a).1 < (regionSpan b).1 + (regionSpan b).2) &&
  decide ((regionSpan b).1 < (regionSpan a).1 + (regionSpan a).2)

/-- A region entry is written on every die, and the translations of its pages leave every TLB (R395). -/
def State.writeRegion (s : State) (r : Nat) (e : Word64) : State :=
  (s.modBoard fun b => { b with regions := Tab.set 0 b.regions r e }).dropTlb fun t =>
    !t.rem && decide (t.pbase < 2 ^ 39) && decide (t.pbase / 2 ^ 33 = r)

/-- Is a hand-over of a stack of a mask under way? -/
def State.passing (s : State) (mask : Nat) : Bool := s.board.handovers.any fun h => mask.testBit h.stack

end Sys2Proof.Machine
end

