-- ==== Sys2Proof/Machine/Layout.lean ====
section
/-! DEFINITION. Layouts and their switch, the region table, stack hand-over, reclaimed tiles, function-level reset, planes, and telemetry (17_partitions_stacks R373 to R403). -/

namespace Sys2Proof.Machine

/-! ### Layout images (R381, R382) -/

/-- The first check that fails, as the byte where its field begins. -/
def firstBit (base : Nat) (l : List (Nat × Bool)) : Option Nat := (l.find? fun e => !e.2).map fun e => base + e.1 / 8

/-- The bytes of the records of a partition's tables: the TCBs, graph records, sequence records, instance headers and
overflow blocks (14 R295 to R297; 15 R330; 11 R262), and what the manual does not state. An instance header has 128 bits. -/
def tablesNeed (r : BitVec 1024) : Nat :=
  128 * (field r 128 16 + 1) + 64 * (field r 144 16 + 1) + 64 * (field r 160 16 + 1) + 16 * field r 176 16 +
  64 * field r 192 16 + Config.tableOverhead r

/-- Do two records' shares of die `d` overlap? -/
def sharesMeet (a b : BitVec 1024) (d : Nat) : Bool :=
  let base (r : BitVec 1024) : Nat := field r (96 + 7 * d) 3
  let size (r : BitVec 1024) : Nat := field r (99 + 7 * d) 4
  decide (0 < size a) && decide (0 < size b) && decide (base a < base b + size b) && decide (base b < base a + size a)

/-- The checks of R382 on a record, by the lowest bit of the field, in ascending order; `before` are the records that
stand before it, and `kept` the active record whose fields from MDSIZE to SLB must stay. -/
def recordChecks (expl : BitVec 16) (before : List (BitVec 1024)) (kept : Option (BitVec 1024)) (r : BitVec 1024) :
    List (Nat × Bool) :=
  let zero (lo w : Nat) : Nat × Bool := (lo, decide (field r lo w = 0))
  let most (lo w m : Nat) : Nat × Bool := (lo, decide (field r lo w ≤ m))
  let mult (lo m : Nat) : Nat × Bool := (lo, decide (field r lo 48 % m = 0))
  let fresh (lo w : Nat) : Bool := before.all fun q => decide (field q lo w ≠ field r lo w)
  let same (lo w : Nat) : Bool := match kept with
    | some k => decide (field k lo w = field r lo w)
    | none => true
  let dss (d : Nat) : List (Nat × Bool) :=
    [(96 + 7 * d, decide (field r (96 + 7 * d) 3 + field r (99 + 7 * d) 4 ≤ field expl (4 * d) 4 ∨ field r (99 + 7 * d) 4 = 0) &&
        before.all fun q => !sharesMeet q r d),
      most (99 + 7 * d) 4 8]
  let seqwin := field r 448 48
  let pjob := field r 752 16
  [(0, decide (1 ≤ field r 0 16) && decide (field r 0 16 ≤ 512) && fresh 0 16), zero 19 1, most 20 10 512, zero 30 2,
    (32, fresh 32 10), zero 42 6, most 48 16 32768, most 64 11 1024, zero 75 5, most 80 11 1024, zero 91 5] ++
  dss 0 ++ dss 1 ++ dss 2 ++ dss 3 ++
  [zero 124 4, mult 256 65536, zero 304 16, mult 320 65536, zero 368 16, mult 384 4096, zero 432 16,
    (448, decide (seqwin % 2 ^ 30 = 0) && decide (seqwin + field r 160 16 * 2 ^ 30 ≤ 0xF00000000000)), zero 496 16,
    mult 512 4096, zero 560 16, mult 576 65536, (624, decide (tablesNeed r ≤ field r 624 16 * 65536) && same 624 16),
    (640, same 640 48), zero 688 16, (704, same 704 48),
    (752, pjob = 0 || fresh 752 16),
    (768, if pjob = 0 then decide (field r 768 16 = 0) else decide (1 ≤ field r 768 16) && decide (field r 768 16 ≤ 4096)),
    (784, decide (pjob ≠ 0) || decide (field r 784 12 = 0)), zero 796 228]

/-- The record of a PID. -/
def recordOf (rs : List (BitVec 1024)) (pid : Nat) : Option (BitVec 1024) := rs.find? fun r => decide (field r 0 16 = pid)

/-- How many tiles a PID owns, and how many it borrows. -/
def ownCount (es : List Word64) (pid : Nat) : Nat := (es.filter fun e => decide (entryPid e = pid)).length
def lentCount (es : List Word64) (pid : Nat) : Nat := (es.filter fun e => decide (entryBpid e = pid)).length

/-- The checks of R382 on the entry of a tile; `before` are the entries of the tiles before it. -/
def State.tileChecks (s : State) (rs : List (BitVec 1024)) (es before : List Word64) (t : Nat) (e : Word64) :
    List (Nat × Bool) :=
  let pid := entryPid e
  let bpid := entryBpid e
  let n := ownCount es pid
  let nb := ownCount es bpid
  let cls (p : Nat) : Nat := match recordOf rs p with
    | some r => field r 16 2
    | none => 0
  [(0, decide (pid = 0) || ((recordOf rs pid).isSome && !s.tileRetired t)),
    (16, decide (pid = 0) || (decide (field e 16 9 < n) &&
      before.all fun q => decide (entryPid q ≠ pid) || decide (field q 16 9 ≠ field e 16 9))),
    (25, decide (field e 25 7 = 0)),
    (32, decide (bpid = 0) || ((recordOf rs bpid).isSome && decide (bpid ≠ pid) && decide (pid ≠ 0) && decide (cls pid ≤ 1) &&
      decide (2 ≤ cls bpid))),
    (48, decide (bpid = 0) || (decide (nb ≤ field e 48 9) && decide (field e 48 9 < nb + lentCount es bpid) &&
      before.all fun q => decide (entryBpid q ≠ bpid) || decide (field q 48 9 ≠ field e 48 9))),
    (57, decide (field e 57 7 = 0))]

/-- The state under another layout: its tile entries, records and permission maps (R385 step 3). A partition that the
layout does not hold has left. -/
def State.withLayout (s : State) (l : Layout) : State :=
  let rs := l.records.zip (List.range l.records.length)
  let parts := rs.foldl (fun (ps : Tab Part) e =>
    let pid := field e.1 0 16
    let perm : Tab (BitVec 512) := Tab.setMany 0 [] 0 (Tab.getMany 0 l.perms (512 * e.2) 512)
    Tab.set Part.absent ps pid { s.part pid with record := e.1, perm := perm }) []
  { s with board := { s.board with layout := l }, parts := parts }

/-- Does a switch from layout `s` to `u` take a router of an instance away from it (R379)? The physical tile is named. -/
def routerLost (s u : State) (pid : Nat) (x : Inst) : Option Nat :=
  x.routers.findSome? fun l =>
    match s.physTile pid l with
    | none => none
    | some t =>
      if u.physTile pid l ≠ some t ∧ (entryBpid (s.tileEntry t) = pid ∨ (u.physTile pid l).isNone) then some t else none

/-- The instances that a switch places again, as partition, slot and a router lost. -/
def lostInsts (s u : State) : List (Nat × Nat × Nat) :=
  u.parts.flatMap fun e => (e.2.insts.filter (·.2.live)).filterMap fun x =>
    (routerLost s u e.1 x.2).map fun t => (e.1, x.1, t)

/-- The placement of an instance of width 2^m: the one that the host's answer gives, where it passes the device's check (R378), or
with no answer the device's own. -/
def State.choosePlace (s : State) (pid m : Nat) : List Word64 → Option (Nat × Nat)
  | [] => s.findPlace pid m
  | a :: _ => if s.placeable pid m (field a 3 9) (field a 12 9) then some (field a 3 9, field a 12 9) else none

/-- The instances placed again (R378, R379), with their cells, exit entries and handles as they were, in order by the host's
answers as far as there are any; or the tile whose instance finds no place. -/
def State.replaceInsts (u : State) (answers : List Word64) : List (Nat × Nat × Nat) → Except Nat State
  | [] => .ok u
  | (pid, n, t) :: rest =>
    let x := (u.part pid).inst n
    let v := u.modPart pid fun p => p.setInst n Inst.free
    match v.choosePlace pid x.lw answers with
    | none => .error t
    | some place => (u.setPlace pid n place).replaceInsts answers.tail rest

/-- The state under a layout, the instances that it places again without routers: those are free for all of them. -/
def State.bareLayout (s : State) (l : Layout) : State :=
  let u := s.withLayout l
  (lostInsts s u).foldl (fun u e => u.modInst e.1 e.2.1 fun x => { x with header := setField x.header 12 9 0 }) u

/-- The state under a layout, its instances placed. -/
def State.underLayout (s : State) (l : Layout) (answers : List Word64) : Except Nat State :=
  (s.bareLayout l).replaceInsts answers (lostInsts s (s.withLayout l))

/-- What a prepare comes to (R384). -/
inductive Prepared where
  | bad (offset : Nat)
  | nofit
  | ok (l : Layout)
deriving DecidableEq, Repr

/-- The image of a layout at an address, read by `get off n`, checked under R382. -/
def State.checkImage (s : State) (get : Nat → Nat → Nat) (addr : Nat) : Prepared :=
  let h := get 0 64
  let np := bitsAt 0 16 h
  let expl : BitVec 16 := BitVec.ofNat 16 (bitsAt 64 16 h)
  let head := firstBit 0 ([(16, decide (bitsAt 16 16 h = 0)), (32, decide (s.board.layout.version.toNat < bitsAt 32 32 h))] ++
    ((List.range 4).map fun d => (64 + 4 * d, decide (field expl (4 * d) 4 ≤ 8))) ++ [(80, decide (bitsAt 80 432 h = 0))])
  let rs : List (BitVec 1024) := (List.range np).map fun i => BitVec.ofNat 1024 (get (64 + 128 * i) 128)
  let es : List Word64 := (List.range 512).map fun t => BitVec.ofNat 64 (get (64 + 128 * np + 8 * t) 8)
  let kept (pid : Nat) : Option (BitVec 1024) :=
    let p := s.part pid
    if p.record ≠ 0 ∧ p.tasks.any (fun t => decide (t.2.state ≠ 0)) = true then some p.record else none
  let missing := s.partList.any fun e => (kept e.1).isSome && (recordOf rs e.1).isNone
  let recs := (List.range np).findSome? fun i =>
    let r := rs.getD i 0
    firstBit (64 + 128 * i) (recordChecks expl (rs.take i) (kept (field r 0 16)) r)
  let sizes := rs.map fun r => ownCount es (field r 0 16) + lentCount es (field r 0 16)
  let maps : List (Nat × Nat) := (rs.zip sizes).zip (List.range np) |>.flatMap fun e =>
    (List.range e.1.2).map fun j => (512 * e.2 + j, e.1.2)
  let mapAt (k : Nat) : Nat := 4160 + 128 * np + 64 * k
  let perms : Tab (BitVec 512) := (maps.zip (List.range maps.length)).foldl (fun t e =>
    Tab.set 0 t e.1.1 (BitVec.ofNat 512 (get (mapAt e.2) 64))) []
  let l : Layout := ⟨BitVec.ofNat 48 addr, BitVec.ofNat 32 (bitsAt 32 32 h), expl, rs, Tab.setMany 0 [] 0 es, perms⟩
  let tiles := (List.range 512).findSome? fun t =>
    let own := firstBit (64 + 128 * np + 8 * t) (s.tileChecks rs es (es.take t) t (es.getD t 0))
    match own with
    | some o => some o
    | none => match s.underLayout l [] with
      | .error t' => if t' = t then some (64 + 128 * np + 8 * t + 4) else none
      | .ok _ => none
  let bits := (maps.zip (List.range maps.length)).findSome? fun e =>
    if (Tab.get 0 perms e.1.1).toNat < 2 ^ e.1.2 then none else some (mapAt e.2)
  if missing then .bad 0
  else
    match head, recs, tiles, bits with
    | some o, _, _, _ => .bad o
    | none, some o, _, _ => .bad o
    | none, none, some o, _ => .bad o
    | none, none, none, some o => .bad o
    | none, none, none, none =>
      if s.fits (rs.map fun r => { Part.absent with record := r }) then .ok l else .nofit

/-- The bytes of an image: header, records, tile entries, and a map for each logical tile. -/
def imageSize (get : Nat → Nat → Nat) : Nat :=
  let np := bitsAt 0 16 (get 0 64)
  let es : List Word64 := (List.range 512).map fun t => BitVec.ofNat 64 (get (64 + 128 * np + 8 * t) 8)
  let pids := (List.range np).map fun i => bitsAt 0 16 (get (64 + 128 * i) 16)
  4160 + 128 * np + 64 * (pids.map fun p => ownCount es p + lentCount es p).sum

/-! ### Prepare, commit and abort (R384) -/

/-- Statuses of R383. -/
def stOk : Nat := 0
def stBusy : Nat := 1
def stBadLayout : Nat := 2
def stNoPrep : Nat := 3
def stNofitLayout : Nat := 4
def stRetired : Nat := 5

/-- Can no layout be prepared now: is one prepared or switching (R384), or is the management processor down (21 R430)? -/
def State.layoutBusy (s : State) : Bool :=
  s.board.prepared.isSome || decide (s.board.switching ≠ 0) || s.mgmt.down

/-- Prepare: the state, the status, and A where it is written. -/
def State.prepare (s : State) (get : Nat → Nat → Nat) (addr : Nat) : State × Nat × Option Nat :=
  if s.layoutBusy then (s, stBusy, none)
  else
    match s.checkImage get addr with
    | .bad o => (s, stBadLayout, some o)
    | .nofit => (s, stNofitLayout, some 0)
    | .ok l => ((s.modBoard fun b => { b with prepared := some l }).journalLayout jPrep l, stOk, some 0)

/-- The tile entries that show what a partition lends or borrows. -/
def Layout.lends (l : Layout) (pid : Nat) : List (Nat × Word64) :=
  l.tiles.filter fun e => decide (entryBpid e.2 ≠ 0) && (decide (entryPid e.2 = pid) || decide (entryBpid e.2 = pid))

/-- The partitions that a layout moves (R385). -/
def State.movedBy (s : State) (l : Layout) : List Nat :=
  let u := s.withLayout l
  (s.partList.filter fun e =>
    let pid := e.1
    (List.range 512).any (fun n => decide ((s.physTile pid n).isSome) && decide (u.physTile pid n ≠ s.physTile pid n)) ||
    decide (s.board.layout.lends pid ≠ l.lends pid) ||
    (List.range 4).any fun d => decide ((u.part pid).dssBase d ≠ e.2.dssBase d)).map Prod.fst

/-- A switch to a layout begins (R385). -/
def State.startSwitch (s : State) (l : Layout) (target : Word64) (pid : Nat) : State :=
  (s.modBoard fun b => { b with next := some l, switching := 1, switchTarget := target, switchPid := pid,
                                moved := s.movedBy l }).due [⟨.layoutSwitch, .none⟩]

/-- Commit. -/
def State.commit (s : State) (target : Word64) (pid : Nat) : State × Nat :=
  if s.mgmt.down then (s, stBusy)
  else
    match s.board.prepared with
    | none => (s, stNoPrep)
    | some l =>
      if s.board.switching ≠ 0 then (s, stBusy)
      else
        let s := (s.modBoard fun b => { b with prepared := none }).journalLayout jCmt l
        (s.startSwitch l target pid, stOk)

/-- Abort. -/
def State.abort (s : State) : State × Nat :=
  if s.mgmt.down then (s, stBusy)
  else
    match s.board.prepared with
    | none => (s, stNoPrep)
    | some l => ((s.modBoard fun b => { b with prepared := none }).journalLayout jAbort l, stOk)

/-! ### Page 6 (R383, R384, R395, R397) -/

/-- An instruction that needs the system right (R380). -/
def runRight (pre : Prefixes) (s : State) (f : State → State) : State :=
  guarded pre s fun s =>
    if (s.part (s.pidOf s.me)).sysRight then f s else s.raise (trapOf kSystem 0x08 0)

/-- The reply of page 6: a status, and A where it is written. -/
def State.statusReply (s : State) (pre : Prefixes) (st : Nat) (a : Option Nat) : State :=
  (s.awaitReply pre).reply s.me s.myCtx (Reply.status st (a.map fun v => BitVec.ofNat 64 v))

/-- Is a die out of service: has it no cluster left (log 38)? -/
def State.dieRetired (s : State) (d : Nat) : Bool := (List.range 4).all fun c => s.isRetired (unitCluster (4 * d + c))

/-- Does an RGNWR that is under way touch a stack, by the entry that it writes or by the one that it replaces (R397)? -/
def State.rewriting (s : State) (k : Nat) : Bool :=
  s.steps.any fun d => match d.arg with
    | .req q => match q.op with
      | .rgnwr e => q.a.getLsbD k || (Tab.get 0 s.board.regions e).getLsbD k
      | .written _ => q.a.getLsbD k || q.x.getLsbD k
      | _ => false
    | _ => false

/-- R397 -/
def execStkpass (c : BitVec 4) (k : BitVec 3) (pre : Prefixes) (s : State) : Host.Outcome State Fault Refusal :=
  .next (runRight pre s fun s =>
    let k := k.toNat
    if s.passing (2 ^ k) || s.rewriting k || s.mgmt.down then s.statusReply pre stBusy none
    else if s.dieRetired (s.otherDie k) || s.isRetired (unitLink (k / 2)) || s.isRetired (unitStack k) then
      s.statusReply pre stRetired none
    else
      let i := s.issuer
      let h : HandOver := ⟨k, !Tab.get false s.board.owners k, 1, i, c.toNat, s.now, s.isAssisted 3, false, []⟩
      let s := s.statusReply pre stOk none
      ((s.modBoard fun b => { b with handovers := b.handovers ++ [h] }).opBegin i.pid i.tcb).due [.num .handoverStep k])

/-- R395: no flag is written (R383) -/
def execRgnrd (e : BitVec 6) (pre : Prefixes) (s : State) : Host.Outcome State Fault Refusal :=
  .next (runRight pre s fun s =>
    let own := mkRecord ((List.range 8).map fun k => (2 * k, 2, s.ownerOf k))
    (s.awaitReply pre).reply s.me s.myCtx
      { Reply.plain with a := some (Tab.get 0 s.board.regions e.toNat), x := some (BitVec.ofNat 64 own) })

/-- RGNWR once it has been checked (R395): a release, then the entry is written, and it waits for the accesses translated
through the old one, which `q.x` keeps. -/
def State.rgnwrAt (s : State) (q : Req) (alive : Bool) (e : Nat) : State :=
  if !s.releasedFor q.by_ then s.dueIn 4 (reqDue q)
  else
    (s.writeRegion e q.a).performedAt { q with op := .written s.now, x := Tab.get 0 s.board.regions e } alive fun a =>
      a.local_ s.now

/-- R395 -/
def execRgnwr (e : BitVec 6) (pre : Prefixes) (s : State) : Host.Outcome State Fault Refusal :=
  .next (runRight pre s fun s =>
    let a := s.strand.a
    let old := Tab.get 0 s.board.regions e.toNat
    if !regionOk a || s.board.regions.any fun r => decide (r.1 ≠ e.toNat) && regionsMeet a r.2 then
      s.raise (trapOf kSystem 0x09 0)
    else if s.passing (field old 0 8) || s.passing (field a 0 8) then s.statusReply pre stBusy none
    else (s.awaitReply pre).rgnwrAt (s.request (.rgnwr e.toNat)) true e.toNat)

/-- The reply of a layout request. -/
def State.layoutReply (s : State) (q : Req) (alive : Bool) (st : Nat) (a : Option Nat) : State :=
  s.replyTo q alive (Reply.status st (a.map fun v => BitVec.ofNat 64 v))

/-- In host-assisted mode the host answers a layout request (R384; log 39): status 0 in [7:0] lets the device go on, another
status of R383 is the reply, with A of a prepare from [63:32] for BADLAYOUT and 0 for NOFIT, and anything else asks
again. -/
def State.hostStatus (s : State) (q : Req) (alive : Bool) (body : Nat) (f : State → State) : State :=
  let d := reqDue q
  if !s.isAssisted 4 then f (s.forget 4 d)
  else
    match s.answers 4 d with
    | [] => s.ask 4 q.by_.pid body d
    | v :: _ =>
      let st := field v 0 8
      let a : Option Nat := if q.op ≠ .layout 0 then none
        else if st = stBadLayout then some (field v 32 32) else if st = stNofitLayout then some 0 else none
      if 5 < st then s.askAgain 4 q.by_.pid body 1 d
      else if st = 0 then f (s.forget 4 d)
      else (s.forget 4 d).layoutReply q alive st a

/-- The image of a layout, as a job reads it. -/
def State.readImage (s : State) (pid a off n : Nat) : Nat := (s.vRead pid (a + off) (n / 8)).getD 0

/-- A layout request at the management processor: prepare, commit or abort (R384). -/
def State.layoutAt (s : State) (q : Req) (alive : Bool) (what : Nat) : State :=
  let pid := q.by_.pid
  let a := q.a.toNat
  match what with
  | 0 =>
    if s.layoutBusy then s.layoutReply q alive stBusy none
    else s.hostStatus q alive (mkRecord [(0, 2, 0), (16, 48, a)]) fun s =>
      let r := s.prepare (s.readImage pid a) a
      r.1.layoutReply q alive r.2.1 r.2.2
  | 1 =>
    if s.mgmt.down then s.layoutReply q alive stBusy none
    else if s.board.prepared.isNone then s.layoutReply q alive stNoPrep none
    else s.hostStatus q alive (mkRecord [(0, 2, 1)]) fun s =>
      let r := s.commit q.x pid
      r.1.layoutReply q alive r.2 none
  | _ =>
    if s.mgmt.down then s.layoutReply q alive stBusy none
    else if s.board.prepared.isNone then s.layoutReply q alive stNoPrep none
    else s.hostStatus q alive (mkRecord [(0, 2, 2)]) fun s =>
      let r := s.abort
      r.1.layoutReply q alive r.2 none

/-- R384: prepare from the issuer's global memory -/
def execPlcmtPrep (pre : Prefixes) (s : State) : Host.Outcome State Fault Refusal :=
  .next (runRight pre s fun s =>
    let a := s.strand.a.toNat
    let pid := s.pidOf s.me
    let go : State := (s.awaitReply pre).layoutAt (s.request (.layout 0)) true 0
    if 0xF00000000000 ≤ a ∨ a % 64 ≠ 0 then s.raise (trapOf kSystem 0x0A 0)
    else if s.layoutBusy then go
    else
      match s.vKeys pid a 8 true false (imageSize (s.readImage pid a) / 8) with
      | .error (va, d) => s.raise (trapOf kXlate d (BitVec.ofNat 48 va))
      | .ok _ => go)

/-- R384: commit; a target that the issuing tile may not send to raises ACCESS detail 0x08 as that of a put does (R376; log
76) -/
def execPlcmtCommit (pre : Prefixes) (s : State) : Host.Outcome State Fault Refusal :=
  .next (runRight pre s fun s =>
    let x := s.strand.x
    let pid := s.pidOf s.me
    if s.targetBad pid s.pod.pkgn.toNat x then s.raise (trapOf kSystem 0x0A 0)
    else if s.targetBarred s.myTile pid s.pod.pkgn.toNat x then s.raise (trapOf kAccess 0x08 0)
    else (s.awaitReply pre).layoutAt (s.request (.layout 1)) true 1)

/-- R384: abort -/
def execPlcmtAbort (pre : Prefixes) (s : State) : Host.Outcome State Fault Refusal :=
  .next (runRight pre s fun s => (s.awaitReply pre).layoutAt (s.request (.layout 2)) true 2)

/-! ### The switch (R385, R386) -/

/-- The pod job of a message. -/
def podJob : PodMsg → Nat
  | .put _ j _ _ | .atom _ j _ _ | .copyWords _ j _ _ _ _ _ | .signal _ j _ _ _ | .barArrive _ j _ _ | .barRelease j _ _
  | .memberDone _ j _ | .memberGone j _ | .sumArrive _ j _ _ _ | .sumRelease j _ _ _ | .sumCancel _ j _ | .sumShort _ j _
  | .atomReply j _ _ _ | .performed j _ _ | .faulted j _ | .copied j _ _ => j

/-- The issuer of a request to another package. -/
def podIssuer : PodMsg → Option Issuer
  | .put _ _ _ m => some m.by_
  | .atom _ _ _ m => some m.by_
  | .copyWords _ _ _ m _ _ _ => some m.by_
  | .signal _ _ _ m _ => some m.by_
  | _ => none

/-- Does a message that comes from a package belong to its partition of a PID and a pod job: a request of it, or one of a gang of
the job? -/
def podOf (pid pjob : Nat) (m : PodMsg) : Bool :=
  match m with
  | .atomReply .. | .performed .. | .faulted .. | .copied .. => false
  | m => match podIssuer m with
    | some i => decide (i.pid = pid)
    | none => decide (pjob ≠ 0) && decide (podJob m = pjob)

/-- Does a step belong to a partition, as traffic of it (R401)? -/
def State.trafficOf (s : State) (pid : Nat) (d : Due) : Bool :=
  match d.arg with
  | .fetch g _ _ _ _ => decide (s.pidOf g = pid)
  | .win m => decide (m.by_.pid = pid)
  | .load m _ => decide (m.by_.pid = pid)
  | .put m => decide (m.by_.pid = pid)
  | .atom m => decide (m.by_.pid = pid)
  | .replica i _ _ _ _ => decide (i.pid = pid)
  | .failed i _ _ _ => decide (i.pid = pid)
  | .copy m _ => decide (m.by_.pid = pid)
  | .copyFault m _ _ => decide (m.by_.pid = pid)
  | .tok r _ => decide (r.by_.pid = pid)
  | .arr r => decide (r.by_.pid = pid)
  | .post i _ _ _ _ => decide (i.pid = pid)
  | .cmd q _ => decide (qPart (s.queue q) = pid)
  | .req q => decide (q.by_.pid = pid)
  | .record p _ => decide (p = pid)
  | .pod m => podOf pid (s.part pid).pjob m
  | .num g _ _ _ =>
    (decide (d.what = .counterIncrement) && decide (s.pidOf g = pid)) ||
    ((decide (d.what = .queueRecordFetch) || decide (d.what = .stampRetry)) && decide (qPart (s.queue g) = pid))
  | _ => false

/-- Is a step of a partition that is due no packet in the fabric: one that waits at a table, at an ingress whose injection is
held, or at its destination (R386)? -/
def Due.waits (d : Due) : Bool :=
  match d.what with
  | .barRelease | .queueRecordFetch | .stampRetry | .copyServe | .podMessageReceive | .podBarrierArrival => true
  | _ => match d.arg with
    | .record _ _ => true
    | _ => false

/-- Does the fabric hold a packet of a partition (R386, R401)? -/
def State.hasTraffic (s : State) (pid : Nat) : Bool := s.steps.any fun d => s.trafficOf pid d && !d.waits

/-- The placed tasks of a partition that have not been saved. -/
def Part.placed (p : Part) : List Nat := (p.tasks.filter fun e => !e.2.tiles.isEmpty && !e.2.saved).map Prod.fst

/-- A task is to be pre-empted at its next superstep boundary (16 R350). -/
def State.stopTask (s : State) (pid slot : Nat) : State :=
  if (s.task pid slot).stopping then s
  else (s.modTask pid slot fun t => { t with stopping := true }).due [.num .preemptSave pid slot]

/-- A switch step is traced for the moved partitions (R392), at the management processor's die (log 28). -/
def State.traceSwitch (s : State) (step : Nat) : State :=
  s.board.moved.foldl (fun s pid => s.trace pid 7 (step * 2 ^ 4)) s

/-- `n` bytes of the state `o`, in pages of 4 KiB, put into another place of `s`. -/
def State.pasteFrom (s o : State) (src dst n : Nat) : State :=
  (List.range (n / 4096)).foldl (fun s i =>
    let t := o.copyKeys (src + 4096 * i) (dst + 4096 * i) 4096
    let here (e : Nat) : Bool := decide (dst + 4096 * i ≤ e) && decide (e < dst + 4096 * i + 4096)
    let s := s.clearKeys (dst + 4096 * i) 4096
    { s with mem := (t.mem.filter fun e => here e.1).foldl (fun m e => Memory.write m e.1 e.2) s.mem
             poison := (t.poison.filter fun e => here e.1).foldl (fun p e => Tab.set false p e.1 e.2) s.poison }) s

/-- The state of each moved tile goes to its new tile, and the die-store shares to their new places (R385 step 2). -/
def State.moveTiles (s : State) (l : Layout) : State :=
  let u := s.withLayout l
  let tiles := s.partList.flatMap fun e => (List.range 512).filterMap fun n =>
    match s.physTile e.1 n, u.physTile e.1 n with
    | some a, some b => if a ≠ b then some (a, b) else none
    | _, _ => none
  let r := tiles.foldl (fun r e =>
    let r := (r.pasteFrom s (scratchKey e.1 0) (scratchKey e.2 0) (2 ^ 21)).pasteFrom s (weightKey e.1 0 0)
      (weightKey e.2 0 0) (2 ^ 22)
    r.modTile e.2 fun x => { x with job := (s.tile e.1).job, pid := (s.tile e.1).pid }) s
  u.partList.foldl (fun r e => (List.range 4).foldl (fun r d =>
    let old := s.part e.1
    let m := min (old.dssSize d) (e.2.dssSize d)
    if old.dssBase d = e.2.dssBase d ∧ old.dssSize d = e.2.dssSize d then r
    else ((r.clearKeys (dieKey d (e.2.dssBase d)) (e.2.dssSize d)).pasteFrom s (dieKey d (old.dssBase d))
      (dieKey d (e.2.dssBase d)) m)) r) r

/-- The switch of layouts has ended (R385 step 4). -/
def State.endSwitch (s : State) (l : Layout) : State :=
  let s := (s.signal s.board.switchPid s.board.switchTarget).event 0x06 0 l.version.toNat
  ((s.modBoard fun b => { b with next := none, switching := 0 }).journalLayout jDone l).refitUp

/-- R385: a step of the layout switch. Step 5 is the end of the fourth, once every saved task that can be placed again has
been restored. While the management processor is down it waits (21 R430). With a partition and a tier as operands the host has
answered for the placement of a chunk pool (R378) -/
def execLayoutSwitch (s : State) : Host.Outcome State Fault Refusal :=
  match s.arg with
  | .record pid tier => .next (s.poolAnswer pid tier)
  | _ =>
  match s.board.next with
  | none => .next s
  | some l =>
    let again (s : State) (n : Nat) : State := s.dueIn n ⟨.layoutSwitch, .none⟩
    let goto (s : State) (k : Nat) : State := s.modBoard fun b => { b with switching := k }
    if s.mgmt.down then .next (again s 64)
    else
      let s := s.service
      match s.board.switching with
      | 1 =>
        let busy := s.board.moved.flatMap fun pid => (s.part pid).placed.map fun t => (pid, t)
        let s := busy.foldl (fun s e => s.stopTask e.1 e.2) s
        .next (if busy.isEmpty then (again (goto (s.traceSwitch 1) 2) 0) else again s 64)
      | 2 => .next ((goto (s.traceSwitch 2) 3).due [.num .bankSwap 0])
      | 4 =>
        let s := (goto (s.traceSwitch 4) 5).modBoard fun b => { b with moved := [] }
        .next (again (s.due (s.partList.map fun e => .num .placementPass e.1)) 64)
      | 5 => .next (if s.partList.any fun e => !(s.restorable e.1).isEmpty then again s 64 else s.endSwitch l)
      | _ => .next s

/-- A tile that a layout gives to no job that used it keeps nothing of that job. -/
def State.forgetJobs (s : State) : State :=
  (s.tiles.map Prod.fst).foldl (fun s t =>
    let x := s.tile t
    if (s.logTile x.job t).isSome then s else s.modTile t fun x => { x with job := 0, pid := if x.tcb = 0 then 0 else x.pid }) s

/-- The die-to-die links that are retired (21 R424). -/
def State.retiredLinks (s : State) : BitVec 4 :=
  (List.range 4).foldl (fun m d => if s.isRetired (unitLink d) then m ||| (1#4 <<< d) else m) 0

/-- The key of the routing entry of a bank for a PID and a destination router: the entries of the routers of one die toward those of
one die agree (R386; log 63). -/
def bankKey (bank : Bool) (pid src dst : Nat) : Nat := ((pid * 2 + bank.toNat) * 4 + src) * 4 + dst

/-- The links that the clockwise way from one die to another takes. -/
def clockwiseLinks (src dst : Nat) : List Nat := (List.range ((dst + 4 - src) % 4)).map fun i => (src + i) % 4

/-- The planes whose port toward a die is the counter-clockwise one: every one where the clockwise way meets a retired link (21
R424; log 63). -/
def routeEntry (retired : BitVec 4) (src dst : Nat) : BitVec 4 :=
  if (clockwiseLinks src dst).any fun d => retired.getLsbD d then 0xF else 0

/-- The 16 pairs of dies. -/
def diePairs : List (Nat × Nat) := (List.range 4).flatMap fun a => (List.range 4).map fun b => (a, b)

/-- A bank gets the entries of some partitions, which go around the retired links. -/
def State.writeBank (s : State) (bank : Bool) (pids : List Nat) : State :=
  s.modBoard fun b => { b with banks := pids.foldl (fun t pid => diePairs.foldl (fun t e =>
    Tab.set 0 t (bankKey bank pid e.1 e.2) (routeEntry s.retiredLinks e.1 e.2)) t) b.banks }

/-- Do the entries of a partition differ between the banks? -/
def Board.bankDiffers (b : Board) (pid : Nat) : Bool :=
  diePairs.any fun e => decide (Tab.get 0 b.banks (bankKey true pid e.1 e.2) ≠ Tab.get 0 b.banks (bankKey false pid e.1 e.2))

/-- The inactive bank gets its entries, for the partitions of the layout in force and of the one to come, and the injection of H
is held: of the partitions whose entries differ between the banks, or that are moved (R386; 21 R424). -/
def State.holdInjection (s : State) (moved : List Nat) : State :=
  let pids := s.partList.map Prod.fst
  let next := match s.board.next with
    | some l => l.records.map fun r => field r 0 16
    | none => []
  (s.writeBank (!s.board.selector) (pids ++ next)).modBoard fun b => { b with
    draining := pids.filter fun pid => decide (pid ∈ moved) || b.bankDiffers pid }

/-- The selector flips, and the holds are released (R386). -/
def State.flip (s : State) : State := s.modBoard fun b => { b with selector := !b.selector, draining := [] }

/-- The banks of a layout become those in force (R385 step 3): as the traffic of the moved partitions is held until then, the
copies of step 2 are made here, the instances placed again by the host's answers where there are any. A lent tile to which a
saved task of its owner comes back is held back for it (R377; 16 R372). -/
def State.enterLayout (s : State) (l : Layout) (answers : List Word64) : State :=
  let s := s.moveTiles l
  let u := (match s.underLayout l answers with
    | .ok u => u
    | .error _ => s.withLayout l).forgetJobs
  let u := l.tiles.foldl (fun u e =>
    if e.2 = s.tileEntry e.1 then u
    else u.modTile e.1 fun x => { x with
      held := decide (entryBpid e.2 ≠ 0) && decide (field e.2 16 9 ∈ (s.part (entryPid e.2)).reserved), wanted := false }) u
  u.partList.foldl (fun u e => u.placePools e.1) u

/-- In host-assisted mode the host chooses where the switch to a layout places instances again (R378, R379; 22 R444): the request
that is still to be made of the step `d`, as the answers to drop, the partition and the operands (log 34); none where every
placement has an answer that passes the check. -/
def State.placesToAsk (s : State) (l : Layout) (d : Due) : Option (Nat × Nat × Nat) :=
  let lost := lostInsts s (s.withLayout l)
  let n := min (s.answers 2 d).length lost.length
  let ask (i bad : Nat) : Option (Nat × Nat × Nat) := (lost[i]?).map fun e =>
    let x := (s.part e.1).inst e.2.1
    (bad, e.1, x.lw + 8 * x.isSeq.toNat)
  if !s.isAssisted 2 then none
  else
    match (s.bareLayout l).replaceInsts (s.answers 2 d) (lost.take n) with
    | .error _ => ask (n - 1) 1
    | .ok _ => ask n 0

/-- R386: the injection of H is held (operand 1 is 0), and once the fabric holds no packet of H the selector flips. Operand 0
says whether it is a switch of layouts, or (1) a change of routes alone (21 R424) -/
def execBankSwap (s : State) : Host.Outcome State Fault Refusal :=
  match s.arg with
  | .num routes held _ _ =>
    let again (s : State) (held : Nat) (n : Nat) : State := s.dueIn n (.num .bankSwap routes held)
    if routes = 0 ∧ (s.board.next.isNone = true ∨ s.board.switching ≠ 3) then .next s
    else if s.mgmt.down = true ∨ (held = 0 ∧ s.board.draining ≠ []) then .next (again s held 64)
    else if held = 0 then .next (again (s.holdInjection (if routes = 0 then s.board.moved else [])) 1 0)
    else if s.board.draining.any fun pid => s.hasTraffic pid then .next (again s 1 64)
    else
      match (if routes = 0 then s.board.next else none) with
      | none => .next s.flip
      | some l =>
        let d : Due := .num .bankSwap routes held
        match s.placesToAsk l d with
        | some (bad, pid, body) =>
          .next (if s.host.assisted.any fun a => decide (a.due = d) && a.answer.isNone then s else s.askAgain 2 pid body bad d)
        | none =>
        let u := (((s.enterLayout l (s.answers 2 d)).forget 2 d).flip.traceSwitch 3).modBoard fun b => { b with switching := 4 }
        .next ((u.journalLayout jFlip l).due [⟨.layoutSwitch, .none⟩])
  | _ => .next s

/-! ### Stack hand-over (R398) -/

/-- Is a write that was accepted for a stack before a cycle still to be performed (R398 step 3)? -/
def State.acceptedFor (s : State) (k cycle : Nat) : Bool :=
  let mine (i : Issuer) (d : Dest) : Bool := decide (i.cycle ≤ cycle) && match d with
    | .mem ks => ks.any fun a => decide (a / 2 ^ 36 = k)
    | _ => false
  let hit (d : Due) : Bool := match d.arg with
    | .put m => mine m.by_ m.dest
    | .atom m => mine m.by_ m.dest
    | _ => false
  s.agenda.any hit || s.later.any fun e => hit e.2

/-- The action of a hand-over step; one that has been performed finds it so (21 R430). -/
def State.handStep (s : State) (h : HandOver) : State :=
  match h.step with
  | 5 =>
    let d := if h.owner then h.stack / 2 else (h.stack / 2 + 1) % 4
    { s with tiles := s.tiles.filterMap fun e =>
        let x := if dieOf e.1 = d then { e.2 with tlb := e.2.tlb.filter fun t => !(t.direct && t.mask.getLsbD h.stack) }
          else e.2
        if x = Tile.idle then none else some (e.1, x) }
  | 6 => s.modBoard fun b => { b with owners := Tab.set false b.owners h.stack h.owner }
  | 8 =>
    let s := if h.dropped then s else s.due [.num .counterIncrement h.by_.core h.counter]
    s.opEnd h.by_.pid h.by_.tcb
  | _ => s

/-- R398: the next step of the hand-over of a stack, 128 cycles after the one before it (log 2); one that the host drives
waits for its answer (R397). At the end of step 7 the requests that were held or refused with retry are repeated, in their
order (R399) -/
def execHandoverStep (s : State) : Host.Outcome State Fault Refusal :=
  match s.arg with
  | .num k _ _ _ =>
    match s.board.handovers.find? fun h => decide (h.stack = k) with
    | none => .next s
    | some h =>
      let d : Due := .num .handoverStep k
      if s.mgmt.down then .next (s.dueIn 64 d)
      else if h.assisted && (s.answers 3 d).isEmpty then
        if s.host.assisted.any fun a => decide (a.due = d) then .next s
        else .next (s.ask 3 h.by_.pid (k + h.step * 2 ^ 8) d)
      else if h.step = 3 ∧ s.acceptedFor k h.since = true then .next (s.dueIn 16 d)
      else
        let s := (s.service.forget 3 d).journal jHstep s.board.layout.version.toNat (k + h.step * 2 ^ 8)
        let s := (s.handStep h).trace h.by_.pid 7 (1 + h.step * 2 ^ 4 + k * 2 ^ 8)
        let keep (f : HandOver → Option HandOver) : State := s.modBoard fun b =>
          { b with handovers := b.handovers.filterMap fun x => if x.stack = k then f x else some x }
        if h.step < 8 then
          let repeated := if h.step = 7 then h.waiting else []
          .next (((keep fun x => some { x with
            step := h.step + 1, since := if h.step = 2 then s.now else x.since,
            waiting := if h.step = 7 then [] else x.waiting }).due repeated).dueIn 128 d)
        else .next (keep fun _ => none)
  | _ => .next s

/-! ### Reclaimed tiles (R377) -/

/-- A task is no longer to be pre-empted, unless another tile of it is wanted or its partition is moved. -/
def State.spareTask (s : State) (pid slot : Nat) : State :=
  let t := s.task pid slot
  if !t.stopping ∨ s.frozen pid = true ∨ t.tiles.any (fun x => (s.tile x).wanted) = true then s
  else (s.modTask pid slot fun t => { t with stopping := false }).checkBars pid t.self

/-- R377: the owner takes a lent tile back: a borrower's task on it is pre-empted first -/
def execTileReclaim (s : State) : Host.Outcome State Fault Refusal :=
  match s.arg with
  | .num pid t _ _ =>
    let e := s.tileEntry t
    let x := s.tile t
    let user := (s.part x.pid).taskSlot x.tcb
    if entryPid e ≠ pid ∨ entryBpid e = 0 ∨ !x.wanted ∨ s.tileRetired t = true then .next s
    else if (s.readyTasks pid).isEmpty then
      let s := s.modTile t fun x => { x with wanted := false }
      let s := match user with
        | some n => s.spareTask x.pid n
        | none => s
      .next (s.due [.num .placementPass (entryBpid e)])
    else if s.tileFree t then
      .next ((s.modTile t fun x => { x with held := true, wanted := false }).due [.num .placementPass pid])
    else
      let s := match user with
        | some n => s.stopTask x.pid n
        | none => s
      .next (s.dueIn 64 (.num .tileReclaim pid t))
  | _ => .next s

/-! ### Function-level reset (R401) -/

/-- Traffic of a partition is dropped wherever it is (R401 steps 2 and 4), its messages to other packages and the arrivals that
this package holds for its pod job with it. -/
def State.dropTraffic (s : State) (pid : Nat) : State :=
  let pjob := (s.part pid).pjob
  let asked := s.host.assisted.filter fun a => !s.trafficOf pid a.due
  let s := s.dropSteps (s.trafficOf pid)
  { s with
    meetings := s.meetings.filter fun m => decide (m.pid ≠ pid)
    host := { s.host with assisted := asked }
    pod := { s.pod with
      outbox := s.pod.outbox.filter fun m => !(m.own && podOf pid pjob m.msg)
      arrivals := s.pod.arrivals.filter fun m => decide (pjob = 0) || decide (podJob m ≠ pjob) } }

/-- The tiles that a partition's tasks are on. -/
def State.tilesIn (s : State) (pid : Nat) : List Nat :=
  (s.tiles.filter fun e => decide (e.2.pid = pid)).map Prod.fst

/-- The strands of a partition halt; a granted matrix instruction ends (R401 step 3). -/
def State.haltPart (s : State) (pid : Nat) : State :=
  ((s.tilesIn pid).flatMap fun t => (List.range 8).map (8 * t + ·)).foldl (fun s g => s.modCore g fun c =>
    { c with ctxs := [], running := none, vq := [], rep := none, mreq := c.mreq.filter (·.granted), refusals := [],
             posted := 0, copies := 0, stalled := false }) s

/-- Every generation of a table of slots up to `n` advances. -/
def bumpAll (t : Tab (BitVec 12)) (n : Nat) : Tab (BitVec 12) :=
  (List.range (n + 1)).foldl (fun t i => Tab.set 0 t i (Tab.get 0 t i + 1)) t

/-- The tables, memories and queues of a partition are emptied (R401 step 5). -/
def State.clearPart (s : State) (pid : Nat) : State :=
  let p := s.part pid
  let s := s.setPart pid { Part.absent with
    record := p.record, perm := p.perm, suspended := p.suspended, discarding := true
    taskGen := bumpAll p.taskGen (field p.record 128 16), graphGen := bumpAll p.graphGen (field p.record 144 16)
    seqGen := bumpAll p.seqGen (field p.record 160 16), instGen := bumpAll p.instGen p.ninst
    heldGen := bumpAll p.heldGen 4095 }
  let queues := s.host.queues.foldl (fun t e =>
    if qPart e.2 = pid then Tab.set 0 t e.1 (setField (setField (setField e.2 63 1 0) 128 32 0) 160 32 0) else t) s.host.queues
  let s := { s with host := { s.host with queues := queues } }
  let s := s.dropTlb fun e => decide (e.pid = pid)
  let used := s.tilesIn pid
  let mine := used ++ (s.tilesOf pid).filter fun t =>
    decide (entryPid (s.tileEntry t) = pid) && decide (entryBpid (s.tileEntry t) = 0) && decide (t ∉ used)
  let s := mine.foldl (fun s t =>
    let s := (s.clearKeys (scratchKey t 0) (2 ^ 21)).clearKeys (weightKey t 0 0) (2 ^ 22)
    let s := (List.range 8).foldl (fun s k => s.setCore (8 * t + k) Core.idle) s
    s.modTile t fun x => { Tile.idle with held := x.held, wanted := x.wanted }) s
  let s := ((List.range 4).foldl (fun s d => s.clearKeys (dieKey d (p.dssBase d)) (p.dssSize d)) s).placePools pid
  s.modBoard fun b => { b with
    handovers := b.handovers.map fun h => if h.by_.pid = pid then { h with dropped := true } else h
    traces := b.traces.filterMap fun e =>
      let l := e.2.filter fun r => decide (r.1 ≠ pid)
      if l.isEmpty then none else some (e.1, l) }

/-- R401: the reset waits for granted matrix instructions, and then clears the partition -/
def execFunctionLevelReset (s : State) : Host.Outcome State Fault Refusal :=
  match s.arg with
  | .num pid _ _ _ =>
    if (s.part pid).record = 0 then .next s
    else
      let s := s.modPart pid fun p => { p with discarding := true }
      let s := (s.haltPart pid).dropTraffic pid
      if (s.tilesIn pid).all fun t => s.tileQuiet t then .next ((s.clearPart pid).due [.num .resetDrainEnd pid])
      else .next (s.dueIn 64 (.num .functionLevelReset pid))
  | _ => .next s

/-- R401: the mark is removed when no traffic of the partition remains, and the host is told -/
def execResetDrainEnd (s : State) : Host.Outcome State Fault Refusal :=
  match s.arg with
  | .num pid _ _ _ =>
    if !(s.part pid).discarding then .next s
    else if s.hasTraffic pid then .next (s.dueIn 64 (.num .resetDrainEnd pid))
    else .next (((s.modPart pid fun p => { p with discarding := false }).event 0x05 pid 0).due [.num .placementPass pid])
  | _ => .next s

/-! ### Planes and escape channels (R388) -/

/-- R388: plane p is powered once plane p − 1 has been congested for 1,024 cycles on end, the number that operand 1 gives -/
def execPlanePowerUp (s : State) : Host.Outcome State Fault Refusal :=
  match s.arg with
  | .num p congested _ _ =>
    if 1 ≤ p ∧ p ≤ 3 ∧ s.board.planes.getLsbD (p - 1) = true ∧ 1024 ≤ congested then
      .next (s.modBoard fun b => { b with planes := b.planes ||| (1#4 <<< p) })
    else .next s
  | _ => .next s

/-- R388: a plane is powered down when it has held no packet for 2^16 cycles, the number that operand 1 gives; plane 0 is always
powered -/
def execPlanePowerDown (s : State) : Host.Outcome State Fault Refusal :=
  match s.arg with
  | .num p idle _ _ =>
    if p = 0 ∨ idle < 2 ^ 16 then .next s else .next (s.modBoard fun b => { b with planes := b.planes &&& ~~~(1#4 <<< p) })
  | _ => .next s

/-- The number of the escape channel of a message class and a plane at a router (R388). -/
def escapeKey (router plane cls : Nat) : Nat := (router * 4 + plane) * 8 + cls
def escapeRouter (ch : Nat) : Nat := ch / 32

/-- The next router on the escape route to another (R388; log 63): clockwise around the ring of dies, then by cluster and then by
tile number within the die. -/
def escapeNext (r dst : Nat) : Nat :=
  if dieOf r ≠ dieOf dst then (dieOf r + 1) % 4 * 128 + r % 128
  else if clusterOf r ≠ clusterOf dst then clusterOf dst * 32 + r % 32
  else dst

/-- A packet, its flow and the router to which it goes, joins the end of an escape channel, and is moved on after 64 cycles (log 2). -/
def State.enterEscape (s : State) (ch : Nat) (packet : Nat × Nat) : State :=
  (s.modBoard fun b => { b with escapes := Tab.set [] b.escapes ch (Tab.get [] b.escapes ch ++ [packet]) }).dueIn 64
    (.num .escapeChannelMove ch 1)

/-- R388: a packet of a flow (operand 2: its flow and, above 2^32, the router to which it goes) that has waited 64 cycles (operand
3) moves to the escape channel of its class, and one whose flow the channel holds follows it. With operand 1 the oldest packet
of a channel goes on by the escape route, until it comes to its router -/
def execEscapeChannelMove (s : State) : Host.Outcome State Fault Refusal :=
  match s.arg with
  | .num ch leave packet waited =>
    let l := Tab.get [] s.board.escapes ch
    if leave = 0 then
      let q := (packet % 2 ^ 32, packet / 2 ^ 32 % 512)
      .next (if 64 ≤ waited ∨ (l.any fun e => decide (e.1 = q.1)) = true then s.enterEscape ch q else s)
    else
      match l with
      | [] => .next s
      | q :: rest =>
        let s := s.modBoard fun b => { b with escapes := Tab.set [] b.escapes ch rest }
        let r := escapeNext (escapeRouter ch) q.2
        .next (if escapeRouter ch = q.2 then s else s.enterEscape (escapeKey r 0 0 + ch % 32) q)
  | _ => .next s

/-! ### Arbiters (R389) -/

/-- The share of the fabric that a partition is guaranteed, in 1,024ths; none while its guarantees are suspended (21 R427). -/
def Part.share (p : Part) : Nat := if p.suspended then 0 else p.fbw

/-- The credit of a partition at an arbiter now, in 1,024ths of a cycle: it refills at the share and is capped at 4,096 cycles of
it (R389). -/
def Arbiter.credit (a : Arbiter) (share now pid : Nat) : Nat :=
  let c := Tab.get (0, 0) a.credits pid
  min (c.1 + share * (now - c.2)) (share * 4096)

/-- The first PID in ring order after the one served last. -/
def Arbiter.after (a : Arbiter) (pids : List Nat) : Option Nat :=
  match (sortBy (fun x y => decide (x ≤ y)) pids).find? fun p => decide (a.last < p) with
  | some p => some p
  | none => (sortBy (fun x y => decide (x ≤ y)) pids).head?

/-- The partition whose request an arbiter serves (R389): of those within share the first class that has one, round robin by PID;
then of those over share. A request costs one cycle of the arbiter (log 83). -/
def State.arbitrate (s : State) (a : Arbiter) (pids : List Nat) : Option Nat :=
  let rich := pids.filter fun p => decide (1024 ≤ a.credit (s.part p).share s.now p)
  match (List.range 4).find? fun c => rich.any fun p => decide ((s.part p).cls = c) with
  | some c => a.after (rich.filter fun p => decide ((s.part p).cls = c))
  | none => a.after pids

/-- An arbiter serves a partition, which spends what credit it has for it (R389). -/
def Arbiter.serve (a : Arbiter) (share now pid : Nat) : Arbiter :=
  ⟨Tab.set (0, 0) a.credits pid (a.credit share now pid - 1024, now), pid⟩

/-! ### Telemetry (R391 to R393) -/

/-- A trace record is written into the ring of its partition, or dropped and counted (R391, R393). -/
def State.writeTrace (s : State) (pid : Nat) (rec : BitVec 256) : State :=
  let slb := (s.part pid).slb
  if slb = 0 ∨ (s.part pid).untraced then s
  else
    match s.traceHeader pid with
    | none => s.stopTrace pid
    | some h =>
      let n := 2 ^ bitsAt 192 4 h
      let tail := bitsAt 96 32 h
      if n ≤ (tail + 2 ^ 32 - bitsAt 64 32 h) % 2 ^ 32 then s.dropTrace pid h
      else
        match s.vWrite pid (slb + 64 + 32 * (tail % n)) 4 rec.toNat with
        | none => s.stopTrace pid
        | some s =>
          match s.vWrite pid slb 8 (putBits 96 32 (tail + 1) h) with
          | none => s.stopTrace pid
          | some s => if (tail + 1) % (n / 4) = 0 then s.signal pid (BitVec.ofNat 64 (bitsAt 128 64 h)) else s

/-- R393: of the records that a die buffers, the oldest of the partition that the die's arbiter serves is written (R389; log 83) -/
def execTraceRecordWrite (s : State) : Host.Outcome State Fault Refusal :=
  match s.arg with
  | .num die _ _ _ =>
    let l := Tab.get [] s.board.traces die
    let a := Tab.get Arbiter.idle s.board.arbiters die
    match s.arbitrate a (l.map Prod.fst).eraseDups with
    | none => .next s
    | some pid =>
      match l.find? fun e => decide (e.1 = pid) with
      | none => .next s
      | some e =>
        .next ((s.modBoard fun b => { b with
          traces := Tab.set [] b.traces die (l.erase e)
          arbiters := Tab.set Arbiter.idle b.arbiters die (a.serve (s.part pid).share s.now pid) }).writeTrace pid e.2)
  | _ => .next s

/-- R392: a partition's credit at an arbiter has stayed exhausted: 0 HBM or 1 fabric, the arbiter, and its die -/
def execCreditExhausted (s : State) : Host.Outcome State Fault Refusal :=
  match s.arg with
  | .num pid fabric arb die => .next (s.traceAt pid 6 (fabric % 2 + arb % 2 ^ 16 * 2 ^ 16) 0 0 die)
  | _ => .next s

end Sys2Proof.Machine
end

