-- ==== Sys2Proof/Machine/Errors.lean ====
section
/-! DEFINITION. Soft errors, link errors and the send window, retirement, resets of the management processor and of the module (21_faults_repair R419 to R430; 22_package_host R434, R449). -/

namespace Sys2Proof.Machine

/-! ### Where a word lies, as an error record names it (R421) -/

/-- An HBM physical address of a byte of a stack, found through the region table; 0 where no region holds it. -/
def State.physOf (s : State) (k loc : Nat) : Nat :=
  ((List.range 64).findSome? fun r =>
    let e := Tab.get 0 s.board.regions r
    let ss := stacksOf (field e 0 8)
    let gran := 2 ^ field e 8 5
    let base := field e 32 15 * 2 ^ 21
    let o := ((loc - base) / gran * ss.length + ss.idxOf k) * gran + (loc - base) % gran
    if k ∈ ss ∧ base ≤ loc ∧ o < 2 ^ 33 then some (r * 2 ^ 33 + o) else none).getD 0

/-- The partition whose share of a die's store holds an offset. -/
def State.sharePid (s : State) (d off : Nat) : Nat :=
  ((s.partList.find? fun e => decide (e.2.dssBase d ≤ off) && decide (off < e.2.dssBase d + e.2.dssSize d)).map Prod.fst).getD 0

/-- The error record of a word, by its key; the HBM channel is `c`. -/
def State.wordError (s : State) (key c ecode sev : Nat) : ErrInfo :=
  if key < 2 ^ 48 then
    let k := key / 2 ^ 36
    ⟨k / 2, 0x04, ecode, sev, 64 * k + c, 0, s.physOf k (key % 2 ^ 36)⟩
  else if key < 2 ^ 49 then
    let t := (key - 2 ^ 48) / 2 ^ 21
    ⟨dieOf t, 0x01, ecode, sev, t, entryPid (s.tileEntry t), key % 2 ^ 21⟩
  else if key < 2 ^ 50 then
    let t := (key - 2 ^ 49) / 2 ^ 22
    ⟨dieOf t, 0x02, ecode, sev, t, entryPid (s.tileEntry t), 0⟩
  else
    let d := (key - 2 ^ 50) / 2 ^ 28
    ⟨d, 0x03, ecode, sev, d, s.sharePid d (key % 2 ^ 28), 0⟩

/-- Steps that an error of a word brings about (R423): a channel after more than 1,024 corrected errors in 2^30 cycles or
two poisoned units in 2^36, a cluster after two poisoned words of one tile in 2^30 cycles. -/
def State.wordLimits (s : State) (key c : Nat) (poisoned : Bool) : State :=
  if key < 2 ^ 39 then
    let k := key / 2 ^ 36
    let u := 2 * unitChannel k c
    let r := if poisoned then s.countError (u + 1) (2 ^ 36) else s.countError u (2 ^ 30)
    if (if poisoned then 2 ≤ r.2 else 1024 < r.2) then r.1.due [.num .hbmChannelRetire k c] else r.1
  else if 2 ^ 48 ≤ key ∧ key < 2 ^ 50 ∧ poisoned = true then
    let t := if key < 2 ^ 49 then (key - 2 ^ 48) / 2 ^ 21 else (key - 2 ^ 49) / 2 ^ 22
    let r := s.countError (2 ^ 20 + t) (2 ^ 30)
    if 2 ≤ r.2 then r.1.due [.num .clusterRetire (clusterOf t)] else r.1
  else s

/-- Word `w` of `n` bytes of data, if it is one of them, is among the poisoned ones, which stand by their offsets. -/
def addBad (w n : Nat) (bad : List Nat) : List Nat := if 4 * w < n then 4 * w :: bad.erase (4 * w) else bad

def poisonPut (w : Nat) (m : PutMsg) : PutMsg := { m with bad := addBad w m.data.length m.bad }

/-- Word `w` of the data that a message to another package carries becomes poisoned. -/
def poisonMsg (w : Nat) : PodMsg → PodMsg
  | .put p j t m => .put p j t (poisonPut w m)
  | .atom p j t m => .atom p j t { m with bad := true }
  | .copyWords p j t m a data bad => .copyWords p j t m a data (addBad w data.length bad)
  | m => m

/-- Word `w` of the data that a packet carries becomes poisoned: of a put, a store to a window, an atomic, a replica of a multicast,
or a message to or from another package. -/
def poisonPacket (w : Nat) (d : Due) : Due :=
  ⟨d.what, match d.arg with
    | .put m => .put (poisonPut w m)
    | .win m => .win { m with bad := addBad w m.data.length m.bad }
    | .atom m => .atom { m with bad := true }
    | .replica i k data bad last => .replica i k data (addBad w data.length bad) last
    | .pod m => .pod (poisonMsg w m)
    | .packet dst m => .packet dst (poisonMsg w m)
    | a => a⟩

/-- A word of a packet in the fabric becomes poisoned (R419, R420): of the `n`-th step that is due, or beyond those of a message that
waits to leave the package. -/
def State.poisonNth (s : State) (n w : Nat) : State :=
  let k := s.agenda.length
  { s with
    agenda := (s.agenda.zip (List.range k)).map fun e => if e.2 = n then poisonPacket w e.1 else e.1
    pod := { s.pod with outbox := (s.pod.outbox.zip (List.range s.pod.outbox.length)).map fun e =>
      if e.2 + k = n then { e.1 with msg := poisonMsg w e.1.msg } else e.1 } }

/-- R419: an error of a word: operand 1 found and corrected it, operand 2 poisons the word; operand 3 names the HBM channel, and
operand 4 says that the word is one of the buffers of router port `key`, where it holds a word of the packet that operand 3
names, the word's number from 2^32 up. A CXL device's own uncorrectable error retires its port (R424). The scrubber reads every word so (R420) -/
def execPatrolScrub (s : State) : Host.Outcome State Fault Refusal :=
  match s.arg with
  | .num key found c router =>
    if found = 0 then .next s
    else if router ≠ 0 then
      let s := s.errorRec ⟨key / 16, 0x06, min found 2, min found 2 - 1, key, 0, 0⟩
      .next (if found = 1 then s else s.poisonNth (c % 2 ^ 32) (c / 2 ^ 32))
    else if cxlBase ≤ key ∧ key < 2 ^ 48 then
      match s.cxlPort (key - cxlBase) with
      | some p => .next (if found = 1 then s else s.due [.num .linkRetire 1 p])
      | none => .next s
    else if found = 1 then .next ((s.errorRec (s.wordError key c 1 0)).wordLimits key c false)
    else if (s.poisonIn key 1).isSome then .next s
    else .next (((s.poisonAt key 1).errorRec (s.wordError key c 2 1)).wordLimits key c true)
  | _ => .next s

/-! ### Links and send windows (R419, R422, R424) -/

/-- A link by kind and number: 0 die-to-die, 1 CXL, 2 Jorrin. -/
def linkUnit (kind n : Nat) : Nat := if kind = 0 then unitLink n else if kind = 1 then unitCxl n else unitJorrin n

/-- R419: a flit is replayed; more than 2^20 of them in 2^30 cycles retire the link (R424) -/
def execLinkCrcReplay (s : State) : Host.Outcome State Fault Refusal :=
  match s.arg with
  | .num kind n _ _ =>
    let u := linkUnit kind n
    let m := unitName u
    let s := s.errorRec ⟨m.2.2, m.1, 1, 0, m.2.1, 0, 0⟩
    let r := s.countError (2 ^ 21 + u) (2 ^ 30)
    .next (if 2 ^ 20 < r.2 then r.1.due [.num .linkRetire kind n] else r.1)
  | _ => .next s

/-- The send window of a virtual channel of a link direction: K, F, S and R (R422). -/
def winK (w : BitVec 64) : Nat := field w 0 16
def winF (w : BitVec 64) : Nat := field w 16 16
def winS (w : BitVec 64) : Nat := field w 32 16
def winR (w : BitVec 64) : Nat := field w 48 16

def State.window (s : State) (v : Nat) : BitVec 64 := Tab.get 0 s.mgmt.windows v
def State.setWindow (s : State) (v : Nat) (w : BitVec 64) : State :=
  s.modMgmt fun m => { m with windows := Tab.set 0 m.windows v w }
def State.setStopped (s : State) (v : Nat) (b : Bool) : State :=
  s.modMgmt fun m => { m with stopped := Tab.set false m.stopped v b }

/-- A channel number is 64 times the link's UNUM plus the virtual channel. -/
def windowError (v : Nat) : ErrInfo := ⟨v / 64 / 16, 0x05, 3, 0, v / 64, 0, 0⟩

/-- E of R422, modulo 2^16 as K is. -/
def winE (w : BitVec 64) : Nat := (winF w + 2 ^ 16 - (winS w + 2 ^ 16 - winR w) % 2 ^ 16) % 2 ^ 16

/-- The sender's window after credits have come back and up to `flits` flits have been sent: each takes a unit of K and counts in S,
and with K = 0, or while the channel is stopped, none is sent (R422). -/
def winSend (w : BitVec 64) (stopped : Bool) (flits credits : Nat) : BitVec 64 :=
  let n := if stopped then 0 else min flits (winK w + credits)
  setField (setField w 0 16 (winK w + credits - n)) 32 16 (winS w + n)

def Mgmt.audit (m : Mgmt) (v : Nat) : Nat × Nat := Tab.get (0, 0) m.audits v

/-- The comparison on an audit: where K is not E it becomes E, and a resynchronisation flit carries the audit's number (R422). -/
def State.compareWindow (s : State) (v : Nat) : State :=
  let w := s.window v
  let s := if winK w = winE w then s
    else ((s.setWindow v (setField w 0 16 (winE w))).modMgmt fun m =>
      { m with audits := Tab.set (0, 0) m.audits v ((m.audit v).1, (m.audit v).1) }).errorRec (windowError v)
  s.setStopped v false

/-- The F and R that an audit brings: its operands, or for one that the receiver sends of itself what it holds. -/
def auditBrings (w : BitVec 64) (f r : Nat) : Nat × Nat := if f = 2 ^ 16 then (winF w, winR w) else (f, r)

/-- An audit is counted, and the receiver's next one follows 4,096 cycles later (R422). -/
def State.nextAudit (s : State) (v : Nat) : State :=
  let s := s.modMgmt fun m => { m with audits := Tab.set (0, 0) m.audits v ((m.audit v).1 + 1, (m.audit v).2) }
  let next : Due := .num .sendWindowAudit v (2 ^ 16)
  if s.later.any fun e => decide (e.2 = next) then s else s.dueIn 4096 next

/-- R422: an audit brings F and R, behind the credits sent before it (operand 4, [31:16]; the flits that the sender has had to send
since the last audit in [15:0]); with the function in host-assisted mode the host orders the resynchronisation -/
def execSendWindowAudit (s : State) : Host.Outcome State Fault Refusal :=
  match s.arg with
  | .num v f r sent =>
    let d : Due := .num .sendWindowAudit v f r
    if !(s.answers 5 d).isEmpty then .next ((s.compareWindow v).forget 5 d)
    else
      let w := winSend (s.window v) (Tab.get false s.mgmt.stopped v) (sent % 2 ^ 16) (sent / 2 ^ 16)
      let b := auditBrings w f r
      let t := (s.nextAudit v).setWindow v (setField (setField w 16 16 b.1) 48 16 b.2)
      let w := t.window v
      if !s.isAssisted 5 then .next (t.compareWindow v)
      else if winK w = winE w ∧ Tab.get false s.mgmt.stopped v = false then .next t
      else if s.host.assisted.any fun a => decide (a.due = d) then .next (t.setStopped v true)
      else .next ((t.setStopped v true).ask 5 0 (mkRecord [(0, 16, v / 64), (16, 16, v % 64), (32, 16, winK w),
        (48, 16, winE w)]) d)
  | _ => .next s

/-- R422: a parity error on K or S (operands 0, 1) stops the channel and asks for an audit; on F (operand 2) the receiver
counts its buffers again, which gives operand 3 -/
def execWindowParityError (s : State) : Host.Outcome State Fault Refusal :=
  match s.arg with
  | .num v which f _ =>
    let w := s.window v
    let s := s.errorRec (windowError v)
    .next (if 2 ≤ which then s.setWindow v (setField w 16 16 f) else (s.setStopped v true).due [.num .sendWindowAudit v (winF w) (winR w)])
  | _ => .next s

/-- R424: a link-layer failure: the link retrains, or (operand 1) has not within 2^20 cycles and is retired -/
def execLinkLayerFailure (s : State) : Host.Outcome State Fault Refusal :=
  match s.arg with
  | .num kind n failed _ => .next (if failed = 0 then s else s.dueIn (2 ^ 20) (.num .linkRetire kind n))
  | _ => .next s

/-- The physical range of a CXL port (22 R435). -/
def State.cxlRange (s : State) (p : Nat) : Nat × Nat :=
  (cxlBase + ((List.range p).map fun q => Tab.get 0 s.board.cxl q).sum * 2 ^ 28, Tab.get 0 s.board.cxl p * 2 ^ 28)

/-- Does a span of a partition's addresses touch a physical range? Pages are 64 KiB or more. -/
def State.spanTouches (s : State) (pid va n : Nat) (range : Nat × Nat) : Bool :=
  (List.range (n / 2 ^ 16 + 2)).any fun i =>
    let a := if i = 0 then va else (va / 2 ^ 16 + i) * 2 ^ 16
    decide (a < va + n) && match s.walk pid a false false with
      | .ok e => !e.rem && decide (range.1 ≤ e.phys a) && decide (e.phys a < range.1 + range.2)
      | .error _ => false

/-- Does a copy still move data to or from a physical range? -/
def State.copyTouches (s : State) (m : CopyMsg) (range : Nat × Nat) : Bool :=
  s.spanTouches m.by_.pid (copyDst m).toNat (cpLen m.desc - m.done) range ||
  s.spanTouches m.by_.pid (cpSrc m.desc).toNat (cpLen m.desc) range

/-- Does a destination lie in a physical range? -/
def destInside (range : Nat × Nat) : Dest → Bool
  | .mem ks => ks.any fun k => decide (range.1 ≤ k) && decide (k < range.1 + range.2)
  | _ => false

/-- Does a part of a put lie in a physical range? -/
def putTouches (range : Nat × Nat) (m : PutMsg) : Bool := destInside range m.dest || m.rest.any fun r => destInside range r.dest

/-- Does a step carry an operation to or from a physical range? -/
def State.stepTouches (s : State) (range : Nat × Nat) (d : Due) : Bool :=
  match d.arg with
  | .put m => putTouches range m
  | .atom m => destInside range m.dest
  | .pod (.put _ _ _ m) => decide (d.what = .podFlitReplay) && putTouches range m
  | .copy m _ => s.copyTouches m range
  | .copyFault m _ _ => s.copyTouches m range
  | .post i q idx _ _ => s.spanTouches i.pid (qBase (s.queue q) + 64 * (idx % qSize (s.queue q))) 64 range
  | _ => false

/-- An operation in flight to or from a range that is no memory any more (R424; 08 R194, R196; 09 R211): a posted operation or a
copy is discarded and its task told, and an atomic that waits for its reply traps. -/
def State.stepLost (s : State) (d : Due) : State :=
  match d.arg with
  | .put m =>
    if m.left then (s.fault m.by_ (endedInfo stNotApplied m.addr.toNat 0)).opEnd m.by_.pid m.by_.tcb
    else s.due [⟨.postedOpFailure, .failed m.by_ stNotApplied 0 m.addr⟩]
  | .pod (.put _ _ _ m) => (s.fault m.by_ (endedInfo stNotApplied m.addr.toNat 0)).opEnd m.by_.pid m.by_.tcb
  | .atom m =>
    if m.returning then s.reply m.by_.core m.by_.ctx (Reply.trapped kMemory 0x01 m.addr)
    else s.due [⟨.postedOpFailure, .failed m.by_ stNotApplied 0 m.addr⟩]
  | .copy m _ | .copyFault m _ _ => s.copyFail m stNotApplied 0 (copyDst m)
  | .post i q idx _ left =>
    let a := qBase (s.queue q) + 64 * (idx % qSize (s.queue q))
    let s := s.fault i (endedInfo stNotApplied a 0)
    if left then s.opEnd i.pid i.tcb else s.postEnd i
  | _ => s

/-- A put of this package whose second part lies in a range and whose first is with another package: the second part is discarded, and
with it the increment of its counter. -/
def cutRest (range : Nat × Nat) (e : Sent) : Sent :=
  match e.msg with
  | .put p j t m => if e.own && putTouches range m then { e with msg := .put p j t { m with rest := none, target := 0 } } else e
  | _ => e

/-- The posted operations and copies in flight to or from a CXL port's range are lost, those held for replay too. -/
def State.dropCxl (s : State) (p : Nat) : State :=
  let range := s.cxlRange p
  let hit (d : Due) : Bool := s.stepTouches range d
  let ofHeld (h : Held) : Option Due := match h with
    | .op d _ => if hit d then some d else none
    | .strand _ _ _ => none
  let held := s.parts.flatMap fun e => e.2.held.filterMap fun h => (h.2.bind ofHeld).map fun d => (e.1, h.1, d)
  let waiting := s.parts.flatMap fun e => e.2.heldWait.filterMap fun h => ofHeld h.1
  let sent := s.pod.outbox.filterMap fun e => match e.msg with
    | .copyWords _ _ _ m _ _ _ => if e.own && s.copyTouches m range then some (e, m) else none
    | _ => none
  let lost := s.steps.filter hit ++ waiting ++ held.map fun e => e.2.2
  let s := s.dropSteps hit
  let s := s.parts.foldl (fun s e => s.modPart e.1 fun p =>
    { p with heldWait := p.heldWait.filter fun h => (ofHeld h.1).isNone }) s
  let cut := s.pod.outbox.filterMap fun e => match e.msg with
    | .put _ _ _ m => if e.own && putTouches range m then m.rest.map fun r => (m.by_, r.addr) else none
    | _ => none
  let s := { s with
    pod := { s.pod with outbox := (s.pod.outbox.filter fun e => !sent.any fun x => decide (x.1 = e)).map (cutRest range) } }
  let s := held.foldl (fun s e => s.unhold e.1 e.2.1) s
  let s := lost.foldl State.stepLost s
  let s := cut.foldl (fun s e => s.fault e.1 (endedInfo stNotApplied e.2.toNat 0)) s
  sent.foldl (fun s e => s.copyFail e.2 stNotApplied 0 (copyDst e.2)) s

/-- R424: a link or a port is retired -/
def execLinkRetire (s : State) : Host.Outcome State Fault Refusal :=
  match s.arg with
  | .num kind n _ _ =>
    let u := linkUnit kind n
    if s.mgmt.down then .next (s.dueIn 64 (.num .linkRetire kind n))
    else if s.isRetired u then .next s
    else if kind = 0 then .next ((s.markUnit u true).due [.num .bankSwap 1])
    else if kind = 1 then
      let range := s.cxlRange n
      let s := (s.dropCxl n).dropTlb fun e =>
        !e.rem && decide (range.1 < e.pbase + e.size) && decide (e.pbase < range.1 + range.2)
      .next (s.markUnit u true)
    else .next (s.markUnit u true).failUnrouted
  | _ => .next s

/-! ### Channels, stacks and clusters (R423, R425, R426) -/

/-- Has a stack's spare channel taken over for another? -/
def State.spareUsed (s : State) (k : Nat) : Bool := (List.range 33).any fun c => s.isRetired (unitChannel k c)

/-- R423: the spare takes over for a failing channel, once; with the spare in use for another the stack is retired -/
def execHbmChannelRetire (s : State) : Host.Outcome State Fault Refusal :=
  match s.arg with
  | .num k c _ _ =>
    if s.mgmt.down then .next (s.dueIn 64 (.num .hbmChannelRetire k c))
    else if s.isRetired (unitStack k) ∨ s.isRetired (unitChannel k c) = true then .next s
    else if s.spareUsed k then .next (s.due [.num .stackRetire k])
    else .next (s.markUnit (unitChannel k c) true)
  | _ => .next s

/-- R425: the region entries of a stack become zero, and it is marked; a hand-over of it ends first (17 R395) -/
def execStackRetire (s : State) : Host.Outcome State Fault Refusal :=
  match s.arg with
  | .num k _ _ _ =>
    if s.isRetired (unitStack k) then .next s
    else if s.mgmt.down = true ∨ s.passing (2 ^ k) = true then .next (s.dueIn 64 (.num .stackRetire k))
    else
      let s := s.markUnit (unitStack k) true
      let rs := (s.board.regions.filter fun e => e.2.getLsbD k).map Prod.fst
      .next (rs.foldl (fun s r => s.writeRegion r 0) s).refitDown
  | _ => .next s

/-- Reductions and counting barriers whose domain holds a tile of a cluster complete with SHORT (11 R282, R283), those of a pod
gang at PROOT (22 R439). -/
def State.shortenCluster (s : State) (c : Nat) : State :=
  let s := s.shorten fun m => decide (m.scope ≠ .pod) &&
    match (s.part m.pid).taskSlot m.tcb with
    | some n => (s.task m.pid n).tiles.any fun t => decide (clusterOf t = c) && decide (netDomain (8 * t) m.scope = m.domain)
    | none => false
  let gangs := s.partList.flatMap fun e => (e.2.placed.filter fun n =>
    decide ((e.2.task n).pgang ≠ 0) && (e.2.task n).tiles.any fun t => decide (clusterOf t = c)).map fun n => (e.2, (e.2.task n).pgang)
  gangs.foldl (fun s g => s.sendPod g.1.proot (.sumShort s.pod.pkgn.toNat g.1.pjob g.2)) s

/-- The tasks that hold a tile of a cluster. -/
def State.tasksIn (s : State) (c : Nat) : List (Nat × Nat) :=
  s.partList.flatMap fun e => (e.2.placed.filter fun n => (e.2.task n).tiles.any fun t => decide (clusterOf t = c)).map
    fun n => (e.1, n)

/-- R426: a logic error halts the cluster's strands and cancels the graphs of its tasks at once, those of a cluster too that is
marked retired and whose tasks the switch to another layout has not saved yet -/
def execClusterLogicError (s : State) : Host.Outcome State Fault Refusal :=
  match s.arg with
  | .num c _ _ _ =>
      let tasks := (s.tasksIn c).filter fun e => gAccepts (s.graphOf e.1 (s.task e.1 e.2).graph)
      let cores := (List.range 32).flatMap fun t => (List.range 8).map fun k => 8 * (32 * c + t) + k
      let s := (if s.isRetired (unitCluster c) then s else s.markUnit (unitCluster c) true).shortenCluster c
      let s := (cores.filter fun g => !(s.core g).ctxs.isEmpty).foldl (fun s g => s.haltCore g) s
      let s := tasks.foldl (fun s e =>
        let t := s.task e.1 e.2
        let s := s.fault ⟨0, 0, e.1, t.self, 0, s.now⟩ ⟨6, stCancelled, 0, 0, 0, 0, 0⟩
        match (s.part e.1).graphSlot t.graph with
        | some n => (s.cancelGraph e.1 n false).1
        | none => s) s
      .next s.refitDown
  | _ => .next s

/-- Numbers below `m` for tiles that had the numbers in `l`, in ascending order of those: one below `m` stays, and the
others fill the holes (R426). -/
def compact (l : List Nat) : List (Nat × Nat) :=
  let m := l.length
  let holes := (List.range m).filter fun i => decide (i ∉ l)
  (l.filter (fun i => decide (i < m))).map (fun i => (i, i)) ++ ((sortBy (fun a b => decide (a ≤ b)) l).filter fun i =>
    decide (m ≤ i)).zip holes

def lookup (l : List (Nat × Nat)) (i : Nat) : Nat := ((l.find? fun e => decide (e.1 = i)).map Prod.snd).getD 0

/-- The layout without the tiles of a cluster (R426): each tile that a partition loses is replaced by an unassigned live
one, and where none remains the partition's highest logical tiles are removed. -/
def State.layoutWithout (s : State) (c : Nat) : Layout :=
  let l := s.board.layout
  let all := List.range 512
  let entry (t : Nat) : Word64 := Tab.get 0 l.tiles t
  let lost := all.filter fun t => decide (clusterOf t = c) && decide (entryPid (entry t) ≠ 0)
  let spare := all.filter fun t => decide (clusterOf t ≠ c) && decide (entryPid (entry t) = 0) && !s.tileRetired t
  let kept := (all.filter fun t => decide (clusterOf t ≠ c) && decide (entryPid (entry t) ≠ 0)).map fun t => (t, entry t)
  let es : List (Nat × Word64) := kept ++ (spare.zip (lost.map entry))
  let pids := l.records.map fun r => field r 0 16
  let old (p : Nat) : Nat := ownCount (all.map entry) p
  let own (p : Nat) : List (Nat × Nat) := compact ((es.filter fun e => decide (entryPid e.2 = p)).map fun e => field e.2 16 9)
  let lent (p : Nat) : List (Nat × Nat) :=
    compact ((es.filter fun e => decide (entryBpid e.2 = p)).map fun e => field e.2 48 9 - old p)
  let tiles := es.foldl (fun t e =>
    let p := entryPid e.2
    let b := entryBpid e.2
    let w := setField e.2 16 9 (lookup (own p) (field e.2 16 9))
    let w := if b = 0 then w else setField w 48 9 ((own b).length + lookup (lent b) (field e.2 48 9 - old b))
    Tab.set 0 t e.1 w) ([] : Tab Word64)
  let perm (i p : Nat) : List (BitVec 512) :=
    let n := (own p).length
    let m := n + (lent p).length
    let back (j : Nat) : Nat := if j < n then j else old p + (j - n)
    (List.range 512).map fun j =>
      if m ≤ j then 0
      else
        let o := Tab.get 0 l.perms (512 * i + back j)
        (List.range m).foldl (fun (x : BitVec 512) q => if o.getLsbD (back q) then x ||| (1#512 <<< q) else x) 0
  let perms := (pids.zip (List.range pids.length)).foldl (fun t e => Tab.setMany 0 t (512 * e.2) (perm e.2 e.1)) []
  { l with tiles := tiles, perms := perms }

/-- R426: a cluster is retired by a switch to a layout without its tiles, once no other switch is under way -/
def execClusterRetire (s : State) : Host.Outcome State Fault Refusal :=
  match s.arg with
  | .num c _ _ _ =>
    if s.mgmt.down = true ∨ s.board.switching ≠ 0 then .next (s.dueIn 64 (.num .clusterRetire c))
    else if s.isRetired (unitCluster c) then .next s
    else
      let l := s.layoutWithout c
      let s := (s.markUnit (unitCluster c) true).shortenCluster c
      let s := if s.board.layout = l then s
        else (s.journalLayout jCmt l).startSwitch l 0 0
      .next s.refitDown
  | _ => .next s

/-! ### Resets (R430; 22 R434, R449) -/

/-- Does the processor have a step of a switch of layouts to do? -/
def Due.switches (d : Due) : Bool :=
  match d.what, d.arg with
  | .layoutSwitch, .none => true
  | .bankSwap, .num routes _ _ _ => decide (routes = 0)
  | _, _ => false

/-- A switch of layouts is left at a step, and its steps begin again there; step 0 leaves it altogether. An injection that
is held for a change of routes stays held. -/
def State.switchAt (s : State) (step : Nat) : State :=
  let s := s.dropSteps Due.switches
  let routes := s.steps.any fun d => decide (d.what = .bankSwap)
  let s := s.modBoard fun b => { b with
    switching := step, draining := if routes then b.draining else []
    next := if step = 0 then none else b.next, moved := if step = 0 then [] else b.moved }
  if step = 0 then s else s.due [⟨.layoutSwitch, .none⟩]

/-- The kind of the last valid record of an operation on a layout, by the version and the address of its image; 0 for none. -/
def Mgmt.layoutKind (m : Mgmt) (l : Layout) : Nat :=
  match m.lastRecord fun r => decide (1 ≤ recordKind r) && decide (recordKind r ≤ jAbort) && decide (field r 64 32 = l.version.toNat) &&
      decide (recordArg r = l.image.toNat) with
  | some r => recordKind r
  | none => 0

/-- Each layout operation is recovered by its own last valid record (R430): a layout that is prepared and not committed is rolled
back; a switch whose CMT is valid is rolled forward from step 1 while the selector names the old banks, and from step 4 once it names
the new ones, and one with no valid record after its PREP is left. -/
def State.recoverLayout (s : State) : State :=
  let s := s.modBoard fun b => { b with prepared := none }
  match s.board.next with
  | none => s
  | some l =>
    let kind := s.mgmt.layoutKind l
    if kind = jPrep then (if s.board.switching < 4 then s.switchAt 0 else s)
    else if kind = jCmt ∨ kind = jFlip then s.switchAt (if s.board.switching < 4 then 1 else 4)
    else s

/-- A hand-over is resumed at the step of its last valid record (R430); one that has begun no step yet has none. -/
def State.resumeStep (s : State) (h : HandOver) : Nat :=
  match s.mgmt.lastRecord fun r => decide (recordKind r = jHstep) && decide (recordArg r % 2 ^ 8 = h.stack) with
  | some r => min h.step (recordArg r / 2 ^ 8 % 2 ^ 8)
  | none => h.step

/-- The management processor restarts and recovers from its journal (R430). Every retirement and every suspension has taken
effect with its record, so that of these only the test of R427 is run again. -/
def State.restartManager (s : State) : State :=
  let s := (s.recoverLayout).modBoard fun b => { b with
    handovers := b.handovers.map fun h => { h with step := s.resumeStep h } }
  (((s.modMgmt fun m => { m with down := false }).service.refitDown).errorRec ⟨0, 0x08, 6, 0, 0, 0, 0⟩).due
    [⟨.eventPost, .none⟩]

/-- The management processor is reset; it restarts 64 cycles later (log 78). -/
def State.resetManager (s : State) : State :=
  if s.mgmt.down then s else (s.modMgmt fun m => { m with down := true }).dueIn 64 (.num .watchdogExpiry 1)

/-- R430: the watchdog expires 9,400,000 cycles after its last service; operand 1 is the restart that follows a reset -/
def execWatchdogExpiry (s : State) : Host.Outcome State Fault Refusal :=
  match s.arg with
  | .num 1 _ _ _ => .next (if s.mgmt.down then s.restartManager else s)
  | _ => .next (if s.mgmt.watchdog + 9400000 ≤ s.now then s.resetManager else s)

/-- R419: an uncorrectable error of its memory resets the management processor -/
def execManagementMemoryError (s : State) : Host.Outcome State Fault Refusal := .next s.resetManager

/-- R434: a junction sensor at 105 °C or 115 °C, or below both -/
def execThermalThreshold (s : State) : Host.Outcome State Fault Refusal :=
  match s.arg with
  | .num level _ _ _ => .next (s.modMgmt fun m => { m with hold := BitVec.ofNat 2 (min level 2) })
  | _ => .next s

/-- The version and the length of the code in the header of a firmware image (22 R446). -/
def imageVersion (image : List Byte) : Nat := bitsAt 0 32 (bytesToNat (image.take 64))
def imageLength (image : List Byte) : Nat := bitsAt 64 32 (bytesToNat (image.take 64))

/-- Is a firmware image one that its key has signed: a well-formed header, the code of the length that it gives, and a signature over
both (22 R446)? -/
def imageSigned (image : List Byte) : Bool :=
  let h := bytesToNat (image.take 64)
  let n := 64 + imageLength image
  decide (n < image.length) && decide (bitsAt 32 32 h = 0) && decide (bitsAt 96 416 h = 0) &&
  Config.signatureValid Config.keyHash (image.take n) (image.drop n)

/-- Is it accepted: is its version not below the fuse counter either? -/
def Mgmt.accepts (m : Mgmt) (image : List Byte) : Bool := imageSigned image && decide (m.fuse.toNat ≤ imageVersion image)

/-- What outlasts the loss of power: the non-volatile store and the fuses (22 R432, R446), and host memory, which is not the
module's. -/
def State.powered (s : State) : State :=
  { State.reset with
    fresh := s.fresh, mem := s.mem.filter (fun e => decide (2 ^ 64 ≤ e.1))
    mgmt := { Mgmt.reset with
      journal := s.mgmt.journal, retired := s.mgmt.retired, stored := s.mgmt.stored, fuse := s.mgmt.fuse, leaf := s.mgmt.leaf }
    host := { HostBlock.reset with events := [] } }

/-- The layout in force after the loss of power: one that was committed is rolled forward (R430). -/
def State.layoutAgain (s : State) (r : State) : State :=
  let r := match s.board.next with
    | some l => ((r.withLayout l).journalLayout jFlip l).journalLayout jDone l
    | none => r.withLayout s.board.layout
  let r := s.parts.foldl (fun r e => if e.2.suspended && decide ((r.part e.1).record ≠ 0)
    then r.modPart e.1 fun p => { p with suspended := true } else r) r
  r.partList.foldl (fun r e => r.placePools e.1) r

/-- The management processor runs the stored image, which raises the fuse counter to its version (22 R446), and brings the module up
from a state `r` of it in reset, `s` the state before (22 R449, R450): what lies in the non-volatile store stays, with the layout in
force, the retirements and the suspensions that the journal restores; `failed` are the units that do not train. -/
def State.startModule (r s : State) (failed : List Nat) : State :=
  let r := r.modMgmt fun m => { m with running := m.stored, fuse := BitVec.ofNat 64 (imageVersion m.stored), recovery := false }
  let r := r.modBoard fun b => { b with
    next := none
    cxl := (List.range 8).foldl (fun t p => if unitCxl p ∈ failed then Tab.set 0 t p 0 else t) b.cxl }
  let r := s.layoutAgain r
  let r := (failed.filter fun u => !r.isRetired u).foldl (fun r u => r.markUnit u true) r
  let pids := r.partList.map Prod.fst
  let r := (r.writeBank false pids).writeBank true pids
  let dead := (List.range 8).filter fun k => r.isRetired (unitStack k)
  let r := dead.foldl (fun r k => ((r.board.regions.filter fun e => e.2.getLsbD k).map Prod.fst).foldl
    (fun r n => r.writeRegion n 0) r) r
  (r.event 0x09 0 (mkRecord ((r.mgmt.retired.take 56).zip (List.range 56) |>.map fun e => (32 * e.2, 32,
    (unitName e.1.1).2.1 + (unitName e.1.1).1 * 2 ^ 16)))).refitDown

/-- A module in recovery (22 R448): in reset, but for the layouts and the suspensions that the non-volatile store keeps until a new
image brings the module up. -/
def State.recovering (s : State) : State :=
  let r := s.powered.modBoard fun b => { b with layout := s.board.layout, next := s.board.next }
  { r with
    mgmt := { r.mgmt with recovery := true }
    parts := s.parts.filterMap fun e => if e.2.suspended then some (e.1, { Part.absent with suspended := true }) else none }

/-- The module as power-on leaves it. Where the stored image fails its check the module enters recovery, and no later step follows
(22 R448). -/
def State.bringUp (s : State) (failed : List Nat) : State :=
  if s.powered.mgmt.accepts s.mgmt.stored then s.powered.startModule s failed else s.recovering

/-- R449: power-on runs bring-up. The operand is the set of units that do not train. With operand 1 the management processor restarts
in recovery, with a new image in the store (R448): the module, which has been in reset since power-on, is brought up, and the host
block and host memory keep what they hold -/
def execPowerOn (s : State) : Host.Outcome State Fault Refusal :=
  match s.arg with
  | .num mask restart _ _ =>
    let failed := (bitList 64 mask).filter fun u => decide (16 ≤ u)
    if restart = 0 then .next (s.bringUp failed)
    else if s.mgmt.recovery then .next (s.startModule s failed)
    else .next s
  | _ => .next s

/-- R434: 125 °C resets the module, and the restart posts an error record -/
def execThermalReset (s : State) : Host.Outcome State Fault Refusal :=
  let t := s.bringUp []
  .next (if t.mgmt.recovery then t else t.errorRec ⟨0, 0x08, Config.thermalCode.toNat, 0, 0, 0, 0⟩)

end Sys2Proof.Machine
end

