-- ==== Sys2Proof/Machine/Pod.lean ====
section
/-! DEFINITION. Messages between the packages of a pod: requests served for a pod job, replies, barriers and reductions of gangs, and lost packages (22_package_host R436 to R439). -/

namespace Sys2Proof.Machine

def State.modPod (s : State) (f : Pod → Pod) : State := { s with pod := f s.pod }

/-- The partition of a pod job on this package (R437). -/
def State.podPart (s : State) (pjob : Nat) : Option Nat :=
  if pjob = 0 then none else (s.partList.find? fun e => decide (e.2.pjob = pjob)).map Prod.fst

/-- What a receiver keeps of a request that it has applied: its tag, with the package and the job that it comes from (R438). -/
def appliedKey (pkg pjob tag : Nat) : Nat := mkRecord [(0, 48, tag), (48, 12, pkg), (60, 16, pjob)]

/-- Has a request been applied already, within 2^24 cycles (R438)? -/
def State.repeated (s : State) (key : Nat) : Bool := s.pod.applied.any fun e => decide (e.1 = key) && decide (s.now < e.2 + 2 ^ 24)
def State.apply (s : State) (key : Nat) : State :=
  s.modPod fun p => { p with applied := (p.applied.filter fun e => decide (s.now < e.2 + 2 ^ 24)) ++ [(key, s.now)] }

/-- The job and the tag of a request, by which its reply names it. -/
def requestTag : PodMsg → Option (Nat × Nat)
  | .put _ j t _ | .atom _ j t _ | .copyWords _ j t _ _ _ _ | .signal _ j t _ _ => some (j, t)
  | _ => none

/-- A message leaves the outbox, and its destination is reachable. -/
def State.sentBy (s : State) (e : Sent) : State :=
  s.modPod fun x => { x with outbox := x.outbox.erase e, unreachable := Tab.set false x.unreachable e.dst false }

/-- The request of this package to which a reply answers leaves the outbox. -/
def State.unsend (s : State) (pjob tag : Nat) : State × Option PodMsg :=
  match s.pod.outbox.find? fun e => e.own && decide (requestTag e.msg = some (pjob, tag)) with
  | some e => (s.sentBy e, some e.msg)
  | none => (s, none)

/-- An atomic completes as APPLIED-ERROR, with the old value where the response carried it (08 R195). -/
def State.appliedError (s : State) (m : AtomMsg) (old : Option Nat) : State :=
  let s := s.fault m.by_ (endedInfo stApplied m.addr.toNat 0)
  if m.returning then s.reply m.by_.core m.by_.ctx (atomReply m old true) else s.opEnd m.by_.pid m.by_.tcb

/-- A request ends with a status (R437, R438; 08 R194 to R196; 09 R211): 0 it has been performed; a waiting atomic traps,
a posted operation or a copy is discarded and its task told. What a put has still to send goes on. -/
def State.endRequest (s : State) (m : PodMsg) (status : Nat) : State :=
  match m with
  | .put _ _ _ x =>
    if status = 0 then
      if x.rest.isSome then s.putOn x else s.opEnd x.by_.pid x.by_.tcb
    else (s.fault x.by_ (endedInfo status x.addr.toNat 0)).opEnd x.by_.pid x.by_.tcb
  | .atom _ _ _ x =>
    if status = stApplied ∨ (status = 0 ∧ x.returning = true) then s.appliedError x none
    else if x.returning then
      s.reply x.by_.core x.by_.ctx (Reply.trapped kMemory (if status = stPoisoned then 0x01 else 0x02) x.addr)
    else
      let s := if status = 0 then s
        else s.fault x.by_ (endedInfo (if status = stPoisoned then stNotApplied else status) x.addr.toNat 0)
      s.opEnd x.by_.pid x.by_.tcb
  | .copyWords _ _ _ x _ _ _ => if status = 0 then s else s.copyFail x status 0 (copyDst x)
  | .signal _ _ _ x _ => if status = 0 then s.copyEnd x else s.copyFail x status 0 (copyDst x)
  | _ => s

/-- A request meets a translation fault on the other package (16 R353 detail 0x07; 08 R196; 09 R212): a waiting atomic's
strand is suspended, a posted operation or a copy is held for replay. -/
def State.faultRequest (s : State) (m : PodMsg) : State :=
  let held (i : Issuer) (d : Due) (a aux : Addr) : State :=
    s.hold i (.op d i.tcb) ⟨3, 0, kXlate.toNat, 0x07, a.toNat, aux.toNat, 0⟩
  match m with
  | .put _ _ _ x => held x.by_ ⟨.podFlitReplay, .pod m⟩ x.addr 0
  | .atom _ _ _ x =>
    if x.returning then s.reply x.by_.core x.by_.ctx (Reply.trapped kXlate 0x07 x.addr)
    else held x.by_ ⟨.podFlitReplay, .pod m⟩ x.addr 0
  | .copyWords _ _ _ x _ _ _ => held x.by_ ⟨.copyServe, .copy x 0⟩ (copyDst x) x.daddr
  | _ => s

/-! ### Requests from other packages -/

/-- The address that the job's page tables of this package translate (08 R172). -/
def remoteAddr : Dest → Nat
  | .remote _ a => a.toNat
  | _ => 0

/-- A put is served for a partition, once: each word is translated, and the counter moves with the last part (08 R172, R188,
R189; R438). While its stack is handed over it waits, as one of a die that is not the new owner (17 R398, R399; log 48). -/
def State.servePut (s : State) (pkg j tag pid : Nat) (m : PutMsg) : State :=
  let n := m.data.length
  let key := appliedKey pkg j tag
  let w := min n 4
  if s.repeated key then s.sendPod pkg (.performed j tag 0)
  else
    match s.vKeys pid (remoteAddr m.dest) w false true (n / w) with
    | .error _ => s.sendPod pkg (.faulted j tag)
    | .ok ks =>
      match s.heldBy 4 (keyStacks ks) with
      | some h => s.waitFor h ⟨.podMessageReceive, .pod (.put pkg j tag m)⟩
      | none =>
      let s := (s.apply key).land m ks
      (if m.rest.isSome then s else s.signal pid m.target).sendPod pkg (.performed j tag 0)

/-- An atomic is served at its home slice, once (08 R193, R194): the CXL tier refuses it. While its stack is handed over it waits. -/
def State.serveAtom (s : State) (pkg j tag pid : Nat) (m : AtomMsg) : State :=
  let n := sizeOf' m.ty
  let key := appliedKey pkg j tag
  if s.repeated key then
    s.sendPod pkg (if m.returning then .atomReply j tag none true else .performed j tag 0)
  else
    match s.vKey pid (remoteAddr m.dest) true true with
    | .error _ => s.sendPod pkg (.faulted j tag)
    | .ok k =>
      match s.heldBy 4 (keyStacks [k]) with
      | some h => s.waitFor h ⟨.podMessageReceive, .pod (.atom pkg j tag m)⟩
      | none =>
      if 2 ^ 39 ≤ k then s.sendPod pkg (.performed j tag stNotApplied)
      else if (s.atomPoison m k n).isSome then s.sendPod pkg (.performed j tag stPoisoned)
      else
        let old := s.rdNat k n
        let s := (s.apply key).wrNat k n (atomNew m.op m.ty old m.v.toNat m.cmp.toNat)
        s.sendPod pkg (if m.returning then .atomReply j tag (some (BitVec.ofNat 64 old)) false else .performed j tag 0)

/-- Words of a copy are written for a partition. -/
def State.serveCopy (s : State) (pkg j tag pid : Nat) (a : Addr) (data : List Byte) (bad : List Nat) : State :=
  match s.vKey pid a.toNat false true with
  | .error _ => s.sendPod pkg (.faulted j tag)
  | .ok k => (s.wrBad k data bad).sendPod pkg (.copied j tag data.length)

/-- The counter of a copy is incremented for a partition, once (09 R211). -/
def State.serveSignal (s : State) (pkg j tag pid : Nat) (t : Word64) : State :=
  let key := appliedKey pkg j tag
  (if s.repeated key then s else (s.apply key).signal pid t).sendPod pkg (.performed j tag 0)

/-- A request of a pod job is served for the partition of that job; with none it is refused (R437), a partition that is
being reset drops it (17 R401), and one whose injection is held lets it wait (17 R386). -/
def State.serveFor (s : State) (m : PodMsg) (pkg pjob tag : Nat) (f : Nat → State) : State :=
  match s.podPart pjob with
  | none => s.sendPod pkg (.performed pjob tag stRefused)
  | some pid =>
    if (s.part pid).discarding then s
    else if pid ∈ s.board.draining then s.dueIn 64 ⟨.podMessageReceive, .pod m⟩
    else f pid

/-! ### Gangs (R439) -/

/-- The open barriers, reductions and counting barriers of a gang's task. -/
def State.gangMeeting (s : State) (pjob gang : Nat) (m : Meeting) : Bool :=
  decide (m.scope = .pod) && decide (s.podPart pjob = some m.pid) && decide (s.gangOf m.pid m.tcb = gang)

/-- The packages whose arrival for barrier `n` of a gang PROOT holds; one whose task is final has arrived at each. -/
def State.arrivedAt (s : State) (pjob gang n : Nat) : List Nat :=
  s.pod.arrivals.filterMap fun m => match m with
    | .barArrive p j g k => if j = pjob ∧ g = gang ∧ k = n then some p else none
    | .memberDone p j g => if j = pjob ∧ g = gang then some p else none
    | _ => none

/-- With PMEM arrivals a barrier is released to every member. -/
def State.countBar (s : State) (pjob gang n : Nat) : State :=
  let pmem := match s.podPart pjob with
    | some pid => (s.part pid).pmem
    | none => 0
  let ps := (s.arrivedAt pjob gang n).eraseDups
  if pmem = 0 ∨ ps.length < pmem then s
  else
    let s := s.modPod fun x => { x with arrivals := x.arrivals.filter fun m => match m with
      | .barArrive _ j g k => decide (j ≠ pjob) || decide (g ≠ gang) || decide (k ≠ n)
      | _ => true }
    ps.foldl (fun s p => s.sendPod p (.barRelease pjob gang n)) s

/-- The barriers of a gang for which PROOT holds an arrival. -/
def State.openBars (s : State) (pjob gang : Nat) : List Nat :=
  (s.pod.arrivals.filterMap fun m => match m with
    | .barArrive _ j g k => if j = pjob ∧ g = gang then some k else none
    | _ => none).eraseDups

/-- R439: an arrival reaches PROOT. A member that arrives again has a task that is not final; when every member's task is
final nothing of the gang is kept. -/
def execPodBarrierArrival (s : State) : Host.Outcome State Fault Refusal :=
  match s.arg with
  | .pod (.barArrive p j g n) =>
    let s := s.modPod fun x => { x with
      arrivals := (x.arrivals.filter fun m => decide (m ≠ .memberDone p j g) && decide (m ≠ .barArrive p j g n)) ++
        [.barArrive p j g n] }
    .next (s.countBar j g n)
  | .pod (.memberDone p j g) =>
    let s := s.modPod fun x => { x with
      arrivals := (x.arrivals.filter fun m => decide (m ≠ .memberDone p j g)) ++ [.memberDone p j g] }
    let s := (s.openBars j g).foldl (fun s n => s.countBar j g n) s
    let done := (s.pod.arrivals.filter fun m => match m with
      | .memberDone _ j' g' => decide (j' = j) && decide (g' = g)
      | _ => false).length
    let pmem := match s.podPart j with
      | some pid => (s.part pid).pmem
      | none => 0
    .next (if done < pmem then s
      else s.modPod fun x => { x with arrivals := x.arrivals.filter fun m => match m with
        | .memberDone _ j' g' => decide (j' ≠ j) || decide (g' ≠ g)
        | _ => true })
  | _ => .next s

/-- Do two arrivals at PROOT belong to one reduction or counting barrier? -/
def sameSum (j g kind : Nat) (r : RedArr) (m : PodMsg) : Bool :=
  match m with
  | .sumArrive _ j' g' q k => decide (j' = j) && decide (g' = g) && decide (k = kind) && decide (q.tag = r.tag)
  | _ => false

/-- Operands combined in order, at the function and the type of an arrival (11 R281). -/
def foldSum (r : RedArr) : List Nat → Nat
  | [] => 0
  | v :: vs => vs.foldl (redCombine r.fn r.ty) v

/-- The result of a pod-scope reduction (R439; 11 R281): the operands of each package combined in arrival order, and then those
results, in the order of the packages' first arrivals (log 86). -/
def sumOf (ops : List (Nat × RedArr)) : Nat :=
  match ops with
  | [] => 0
  | e :: _ => foldSum e.2 ((ops.map Prod.fst).eraseDups.map fun pkg =>
      foldSum e.2 ((ops.filter fun q => decide (q.1 = pkg)).map fun q => q.2.v.toNat))

/-- An arrival of a tile at a pod-scope reduction or counting barrier is counted at PROOT (11 R281, R283): the P-th gives
every participant the result; one that does not agree with the first returns MISMATCH. -/
def State.countSum (s : State) (p j g : Nat) (r : RedArr) (kind : Nat) : State :=
  let here := s.pod.arrivals.filter (sameSum j g kind r)
  let bad := here.any fun m => match m with
    | .sumArrive p' _ _ q _ => decide (q.fn ≠ r.fn) || decide (q.ty ≠ r.ty) || decide (q.p ≠ r.p) ||
        (decide (p' = p) && decide (q.by_.core / 8 = r.by_.core / 8))
    | _ => false
  if bad then s.sendPod p (.sumRelease j g r ctMismatch)
  else
    let all := here ++ [.sumArrive p j g r kind]
    if all.length < r.p then s.modPod fun x => { x with arrivals := x.arrivals ++ [.sumArrive p j g r kind] }
    else
      let ops := all.filterMap fun m => match m with
        | .sumArrive p' _ _ q _ => some (p', q)
        | _ => none
      let v := sumOf ops
      let s := s.modPod fun x => { x with arrivals := x.arrivals.filter fun m => !sameSum j g kind r m }
      ops.foldl (fun s e => s.sendPod e.1 (.sumRelease j g { e.2 with v := BitVec.ofNat 64 v } ctOk)) s

/-- The open reductions and counting barriers of a gang complete with SHORT (11 R282, R283), each for the participants that
have joined; those that arrive later open new ones. `p` names the gangs. -/
def State.countShort (s : State) (j : Nat) (p : Nat → Bool) : State :=
  let mine (m : PodMsg) : Option (Nat × Nat × RedArr × Nat) := match m with
    | .sumArrive pkg j' g r k => if j' = j ∧ p g = true then some (pkg, g, r, k) else none
    | _ => none
  let gone := s.pod.arrivals.filterMap mine
  let s := s.modPod fun x => { x with arrivals := x.arrivals.filter fun m => (mine m).isNone }
  gone.foldl (fun s e =>
    let with_ := gone.filter fun f => decide (f.2.1 = e.2.1) && decide (f.2.2.2 = e.2.2.2) && decide (f.2.2.1.tag = e.2.2.1.tag)
    let v := sumOf (with_.map fun f => (f.1, f.2.2.1))
    s.sendPod e.1 (.sumRelease j e.2.1 { e.2.2.1 with v := BitVec.ofNat 64 v } ctShort)) s

/-- The outcome of a pod-scope reduction reaches a participant: the result comes with OK and with SHORT. -/
def State.sumReturns (s : State) (r : RedArr) (status : Nat) : State :=
  match s.meetings.find? fun m => decide (m.kind ≠ 0) && decide (m.scope = .pod) && m.arrived.any fun q => decide (q.by_ = r.by_) with
  | none => s
  | some m =>
    let left := m.arrived.filter fun q => decide (q.by_ ≠ r.by_)
    let s := { s with meetings := if left.isEmpty then s.meetings.erase m
      else s.meetings.map fun x => if x = m then { m with arrived := left } else x }
    s.reply r.by_.core r.by_.ctx (Reply.status status
      (if m.kind = 1 ∧ status ≠ ctMismatch then some (redResult r.ty r.v.toNat) else none))

/-! ### Members lost (R439) -/

/-- The package and the job of an arrival that PROOT holds. -/
def arrivalOf : PodMsg → Nat × Nat
  | .barArrive p j _ _ | .memberDone p j _ | .sumArrive p j _ _ _ => (p, j)
  | _ => (0, 0)

/-- A member package of a partition's pod job is lost: the open pod-scope reductions of its gangs complete with SHORT, at PROOT
or, where PROOT is the package lost, here, where the arrivals that count no more are taken back; and the graphs of its gangs'
tasks are cancelled. -/
def State.memberLost (s : State) (pid pkg : Nat) : State :=
  let p := s.part pid
  let s := if p.proot = pkg then
      let open_ := s.meetings.filter fun m => decide (m.kind ≠ 0) && decide (m.pid = pid) && decide (m.scope = .pod)
      let gangs := (open_.map fun m => s.gangOf pid m.tcb).eraseDups
      let s := open_.foldl (fun s m => s.endMeeting m ctShort m.sum) s
      let s := s.modPod fun x => { x with outbox := x.outbox.filter fun e =>
        e.delivered || !e.own || !sumOfPart (fun r => decide (r.by_.pid = pid)) e.msg }
      gangs.foldl (fun s g => s.sendPod pkg (.sumCancel s.pod.pkgn.toNat p.pjob g)) s
    else if p.proot = s.pod.pkgn.toNat then s.countShort p.pjob fun _ => true
    else s
  let gangs := (p.tasks.filter fun e => decide (e.2.pgang ≠ 0) && decide (e.2.state ≠ 0) && decide (e.2.state < tComplete) &&
    gAccepts (s.graphOf pid e.2.graph)).map Prod.fst
  gangs.foldl (fun s n =>
    let t := s.task pid n
    let s := s.fault ⟨0, 0, pid, t.self, 0, s.now⟩ ⟨5, stCancelled, 0, 0, 0, 0, 0⟩
    match (s.part pid).graphSlot t.graph with
    | some g => (s.cancelGraph pid g false).1
    | none => s) s

/-- A package that can no longer be reached is lost to every job that is known to have a member there, and the packages that can
be reached are told. -/
def State.packageLost (s : State) (pkg : Nat) (m : PodMsg) : State :=
  let lost := s.partList.filter fun p => decide (p.2.pjob ≠ 0) && (decide (p.2.pjob = podJob m) ||
    decide (p.2.proot = pkg) || s.pod.arrivals.any fun a => decide (arrivalOf a = (pkg, p.2.pjob)))
  let others := (s.pod.routes.map Prod.fst).filter fun n => decide (n ≠ pkg) && !(s.route n).isEmpty
  lost.foldl (fun s p => others.foldl (fun s n => s.sendPod n (.memberGone p.2.pjob pkg)) (s.memberLost p.1 pkg)) s

/-! ### Messages (R438) -/

/-- A message that has come to its destination. -/
def State.takeMessage (s : State) (m : PodMsg) : State :=
  match m with
  | .put pkg j t x => s.serveFor m pkg j t fun pid => s.servePut pkg j t pid x
  | .atom pkg j t x => s.serveFor m pkg j t fun pid => s.serveAtom pkg j t pid x
  | .copyWords pkg j t _ a d b => s.serveFor m pkg j t fun pid => s.serveCopy pkg j t pid a d b
  | .signal pkg j t _ c => s.serveFor m pkg j t fun pid => s.serveSignal pkg j t pid c
  | .barArrive .. | .memberDone .. => s.due [⟨.podBarrierArrival, .pod m⟩]
  | .barRelease j g n =>
    match s.meetings.find? fun x => s.gangMeeting j g x && decide (x.kind = 0) && decide (x.tag = n) with
    | some x => match x.arrived with
      | r :: _ => s.due [⟨.barRelease, .arr r⟩]
      | [] => s
    | none => s
  | .memberGone j pkg =>
    match s.podPart j with
    | some pid => s.memberLost pid pkg
    | none => s
  | .sumArrive p j g r k => s.countSum p j g r k
  | .sumRelease _ _ r st => s.sumReturns r st
  | .sumCancel p j g => s.modPod fun x => { x with arrivals := x.arrivals.filter fun a => match a with
      | .sumArrive p' j' g' _ _ => decide (p' ≠ p) || decide (j' ≠ j) || decide (g' ≠ g)
      | _ => true }
  | .sumShort _ j g => s.countShort j fun h => decide (h = g)
  | .atomReply j t old error =>
    match s.unsend j t with
    | (s, some (.atom _ _ _ x)) =>
      if error || old.isNone then s.appliedError x (old.map BitVec.toNat)
      else s.reply x.by_.core x.by_.ctx (atomReply x (old.map BitVec.toNat) false)
    | (s, _) => s
  | .performed j t st =>
    match s.unsend j t with
    | (s, some x) => s.endRequest x st
    | (s, none) => s
  | .faulted j t =>
    match s.unsend j t with
    | (s, some x) => s.faultRequest x
    | (s, none) => s
  | .copied j t n =>
    match s.unsend j t with
    | (s, some (.copyWords _ _ _ x _ _ _)) => s.copyOn x n
    | (s, _) => s

/-- A message arrives at a Jorrin port: one for another package is passed on (R436). -/
def State.arrives (s : State) (dst : Nat) (m : PodMsg) : State :=
  if dst = s.pod.pkgn.toNat then s.takeMessage m else s.sendPacket dst false m

/-- R438: a message is received, with the package to which it is addressed or for this one, and served or passed on; or the oldest
message to a package (operand 1) is known to be delivered, where a request stays until it has its reply -/
def execPodMessageReceive (s : State) : Host.Outcome State Fault Refusal :=
  match s.arg with
  | .pod m => .next (s.takeMessage m)
  | .packet dst m => .next (s.arrives dst m)
  | .num pkg _ _ _ =>
    match s.pod.outbox.find? fun e => decide (e.dst = pkg) && !e.delivered with
    | none => .next s
    | some e =>
      if e.own ∧ (requestTag e.msg).isSome = true then
        .next (s.modPod fun x => { x with
          outbox := x.outbox.map fun f => if f = e then { e with delivered := true } else f
          unreachable := Tab.set false x.unreachable pkg false })
      else .next (s.sentBy e)
  | _ => .next s

/-- R438: flits are replayed on a Jorrin port, which changes timing and counts toward the port's retirement (21 R424); a
request that was held for replay is sent again (08 R196) -/
def execPodFlitReplay (s : State) : Host.Outcome State Fault Refusal :=
  match s.arg with
  | .pod (.put a b c m) => .next (match m.dest with
      | .remote pkg _ => s.sendPod pkg (.put a b c m)
      | _ => s)
  | .pod (.atom a b c m) => .next (match m.dest with
      | .remote pkg _ => s.sendPod pkg (.atom a b c m)
      | _ => s)
  | .num port _ _ _ =>
    let u := unitJorrin port
    let s := s.errorRec ⟨port / 4, 0x0C, 1, 0, port, 0, 0⟩
    let r := s.countError (2 ^ 21 + u) (2 ^ 30)
    .next (if 2 ^ 20 < r.2 then r.1.due [.num .linkRetire 2 port] else r.1)
  | _ => .next s

/-- R438: a message that no port has delivered within 2^24 cycles, or that has no route, fails, and its destination is
unreachable (R439). A request that has been delivered and has no reply 2^24 cycles later has been applied, as far as is
known -/
def execPodDeliveryTimeout (s : State) : Host.Outcome State Fault Refusal :=
  match s.arg with
  | .packet pkg m =>
    match s.pod.outbox.find? fun e => decide (e.dst = pkg) && decide (e.msg = m) with
    | none => .next s
    | some e =>
      let gone : State := s.modPod fun x => { x with outbox := x.outbox.erase e }
      if e.delivered then
        if s.now < e.since + 2 ^ 25 then .next (s.dueIn (2 ^ 24) ⟨.podDeliveryTimeout, .packet pkg m⟩)
        else .next (gone.endRequest m stApplied)
      else if s.now < e.since + 2 ^ 24 ∧ (s.route pkg).isEmpty = false then .next s
      else
        let s := gone.modPod fun x => { x with unreachable := Tab.set false x.unreachable pkg true }
        let s := if e.own then s.endRequest m stNotApplied else s
        .next (s.packageLost pkg m)
  | _ => .next s

end Sys2Proof.Machine
end

