-- ==== Sys2Proof/Machine/Hostblock.lean ====
section
/-! DEFINITION. The host register block, the event ring, and the management commands (22_package_host R440 to R448). -/

namespace Sys2Proof.Machine

def State.modHost (s : State) (f : HostBlock → HostBlock) : State := { s with host := f s.host }

/-! ### Registers and events (R440, R441) -/

/-- R440: a doorbell sets NOTE of a queue; one that a virtual function (operand 2, if not 0) writes for a queue of another
partition is dropped and recorded -/
def execNotifyQueue (s : State) : Host.Outcome State Fault Refusal :=
  match s.arg with
  | .num q v vf _ =>
    if 32768 ≤ q then .next s
    else if vf ≠ 0 ∧ qPart (s.queue q) ≠ vf then .next (s.errorRec ⟨0, 0x0A, 9, 4, vf, vf, 0⟩)
    else .next (s.setNote q v)
  | _ => .next s

/-- The ring of events: its size, and whether it can take a record. -/
def HostBlock.ringSize (h : HostBlock) : Nat := 2 ^ field h.eqctl 0 4
def HostBlock.ringOpen (h : HostBlock) : Bool :=
  h.eqctl.getLsbD 8 && decide (4 ≤ field h.eqctl 0 4) && decide ((h.eqtail - h.eqhead).toNat < h.ringSize)

/-- The next record for the ring: an event that waits, or the oldest error record of a die (R421); with an error record, that record;
and how many error records have been dropped, which LOST reports with the next record that passes. -/
def State.nextEvent (s : State) : Option (BitVec 2048 × Option (BitVec 256) × Nat × State) :=
  let drops := (s.mgmt.drops.map Prod.snd).sum
  let s := s.modMgmt fun m => { m with drops := [] }
  match s.host.events with
  | e :: rest => some (e, none, drops, s.modHost fun h => { h with events := rest })
  | [] =>
    match (List.range 4).find? fun d => !(Tab.get [] s.mgmt.errors d).isEmpty with
    | none => none
    | some d =>
      match Tab.get [] s.mgmt.errors d with
      | [] => none
      | r :: rest =>
        let e : BitVec 2048 := BitVec.ofNat 2048 (mkRecord [(0, 8, 0x01), (32, 16, field r 80 16), (64, 64, s.now), (256, 256, r.toNat)])
        some (e, some r, drops, s.modMgmt fun m => { m with errors := Tab.set [] m.errors d rest })

/-- The records of corrected errors that stand in the host ring (21 R419): those posted within 2^20 cycles and not overwritten, and
the one whose body is written at a key now. -/
def State.notePosted (s : State) (key : Nat) (r : Option (BitVec 256)) : State :=
  let new := match r with
    | some r => if field r 32 8 = 1 then [(key, setField r 128 64 s.now)] else []
    | none => []
  s.modMgmt fun m => { m with
    posted := (m.posted.filter fun e => decide (s.now ≤ field e.2 128 64 + 2 ^ 20) && decide (e.1 ≠ key)) ++ new }

/-- The host moves its ring: the records in the old one are no longer merged with (log 50). -/
def State.forgetPosted (s : State) : State := s.modMgmt fun m => { m with posted := [] }

/-- R441: a record is written to the host ring, EQTAIL advances, and MSI-X vector 0 is raised; with the ring full or
disabled it waits, and while the management processor is down (21 R430) -/
def execEventPost (s : State) : Host.Outcome State Fault Refusal :=
  if !s.host.ringOpen || s.mgmt.down then .next s
  else
    match s.nextEvent with
    | none => .next s
    | some (e, r, drops, s) =>
      let e := setField e 48 16 (min (s.host.lost + drops) 0xFFFF)
      let k := hostKey (s.host.eqbase.toNat + 256 * (s.host.eqtail.toNat % s.host.ringSize))
      let s := (s.wrN k (natToBytes 256 e.toNat)).notePosted (k + 32) r
      .next ((s.modHost fun h => { h with eqtail := h.eqtail + 1, msix := h.msix + 1, lost := 0 }).due [⟨.eventPost, .none⟩])

/-- What a host read of 8 bytes of the PF's BAR0 returns (R440): a write-only register reads as zero (00 R8), as does an offset
at which no register lies. -/
def State.hostRead (s : State) (off : Nat) : Word64 :=
  if off = 0x00 then s.host.eqbase
  else if off = 0x08 then s.host.eqctl
  else if off = 0x10 then s.host.eqhead
  else if off = 0x18 then s.host.eqtail
  else if off = 0x20 then s.host.mpmode
  else if 0x40 ≤ off ∧ off < 0x80 ∧ off % 8 = 0 then s.host.mbox.extractLsb' (8 * (off - 0x40)) 64
  else if off = 0x88 then s.host.mbres
  else 0

/-! ### Commands (R442, R443) -/

/-- The step of a command record. -/
def commandStep (r : BitVec 512) : Instr :=
  if field r 8 56 ≠ 0 then .mboxBadcmd
  else
    match field r 0 8 with
    | 0x01 => .qcfg
    | 0x02 => .setMode
    | 0x03 => match field r 64 2 with
      | 0 => .layoutPrepare
      | 1 => .layoutCommit
      | 2 => .layoutAbort
      | _ => .mboxBadcmd
    | 0x04 => .retire
    | 0x05 => .returnUnit
    | 0x06 => .answer
    | 0x07 => .resumeFault
    | 0x08 => .attest
    | 0x09 => .fwload
    | 0x0A => match field r 64 2 with
      | 0 => .podcfgSetPkgn
      | 1 => .podcfgSetRoute
      | _ => .mboxBadcmd
    | _ => .mboxBadcmd

/-- A management command as its step carries it: the record, and the number of no queue. -/
def mboxArg (r : BitVec 512) : Arg := .cmd 32768 r

/-- R440: EQBASE, EQCTL, EQHEAD and MBOX are written, and any write to MBELL submits MBOX as it stands unless a command is
executing (R442); other registers ignore writes -/
def execRegisterWrite (s : State) : Host.Outcome State Fault Refusal :=
  match s.arg with
  | .value off v =>
    if off = 0x00 then .next (s.modHost fun h => { h with eqbase := v }).forgetPosted
    else if off = 0x08 then .next ((s.modHost fun h => { h with eqctl := v &&& 0x10F }).forgetPosted.due [⟨.eventPost, .none⟩])
    else if off = 0x10 then .next ((s.modHost fun h => { h with eqhead := v }).due [⟨.eventPost, .none⟩])
    else if 0x40 ≤ off ∧ off < 0x80 ∧ off % 8 = 0 then
      .next (s.modHost fun h => { h with mbox := setField h.mbox (8 * (off - 0x40)) 64 v.toNat })
    else if off = 0x80 ∧ s.host.busy = false then
      .next ((s.modHost fun h => { h with busy := true }).due [⟨commandStep s.host.mbox, mboxArg s.host.mbox⟩])
    else .next s
  | _ => .next s

/-- Statuses of R443. -/
def mbOk : Nat := 0
def mbBusy : Nat := 1
def mbBadcmd : Nat := 2
def mbNofit : Nat := 3
def mbRetired : Nat := 4
def mbStale : Nat := 5
def mbBadsig : Nat := 6
def mbRollback : Nat := 7
def mbNofw : Nat := 8
def mbExhausted : Nat := 9

/-- The record of the command that a step executes. -/
def State.command (s : State) : BitVec 512 :=
  match s.arg with
  | .cmd _ r => r
  | _ => s.host.mbox

/-- A command ends: MBRES holds its status, its kind and its result. -/
def State.endCommand (s : State) (status result : Nat) : State :=
  s.modHost fun h => { h with
    mbres := BitVec.ofNat 64 (mkRecord [(0, 8, status), (8, 8, field s.command 0 8), (32, 32, result)]), busy := false }

/-- A command; in recovery it is refused (R442), and while the management processor is down it finds it BUSY (21 R430; log 78). -/
def onCommand (s : State) (f : BitVec 512 → State × Nat × Nat) : Host.Outcome State Fault Refusal :=
  if s.mgmt.recovery then .next (s.endCommand mbNofw 0)
  else if s.mgmt.down then .next (s.endCommand mbBusy 0)
  else
    let r := f s.command
    .next (r.1.service.endCommand r.2.1 r.2.2)

/-- How many queues a partition has enabled. -/
def State.queuesOf (s : State) (pid : Nat) : Nat := (s.host.queues.filter fun e => qEn e.2 && decide (qPart e.2 = pid)).length

/-- May one more queue of a partition be enabled, with QMIN of each partition kept free for it (R443)? -/
def State.queueFits (s : State) (pid : Nat) : Bool :=
  let total := (s.host.queues.filter fun e => qEn e.2).length
  let kept := (s.partList.map fun e =>
    if e.2.suspended then 0 else e.2.qmin - (s.queuesOf e.1 + if e.1 = pid then 1 else 0)).sum
  decide (total + 1 + kept ≤ 32768)

/-- R443 QCFG: a queue's configuration; one that becomes enabled begins at index 0 -/
def execQcfg (s : State) : Host.Outcome State Fault Refusal :=
  onCommand s fun r =>
    let q := field r 64 15
    let new : BitVec 192 := BitVec.ofNat 192 (field r 128 128)
    let old := s.queue q
    let empty := decide (qHead old = if qLoc old then qNote old else qTail old)
    let bad := decide (field new 52 10 ≠ 0) || decide (field new 64 48 ≠ 0) || decide (qBase new % 64 ≠ 0) ||
      decide (field new 48 4 < 4) || (qEn new && decide ((s.part (qPart new)).record = 0))
    if bad then (s, mbBadcmd, 0)
    else if qEn old && !empty then (s, mbBusy, 0)
    else if qEn new && !qEn old && !s.queueFits (qPart new) then (s, mbNofit, 0)
    else
      let keep := if qEn new && !qEn old then 0 else field old 64 32 * 2 ^ 64 + field old 128 64 * 2 ^ 128
      (s.modQueue q fun _ => BitVec.ofNat 192 (new.toNat + keep), mbOk, 0)

/-- R445: MODE; requests of a function that returns to hardware mode are decided by the device -/
def execSetMode (s : State) : Host.Outcome State Fault Refusal :=
  onCommand s fun r =>
    if s.board.switching ≠ 0 then (s, mbBusy, 0)
    else
      let mode : Word64 := BitVec.ofNat 64 (field r 64 6)
      let back := s.host.assisted.filter fun a => !mode.getLsbD a.fn && a.answer.isNone
      let s := s.modHost fun h => { h with mpmode := mode, assisted := h.assisted.filter fun a => mode.getLsbD a.fn || a.answer.isSome }
      let s := if mode.getLsbD 3 then s
        else s.modBoard fun b => { b with handovers := b.handovers.map fun h => { h with assisted := false } }
      (s.due (back.map Assist.due), mbOk, 0)

/-- R443 LAYOUT, prepare: the image is read from host memory -/
def execLayoutPrepare (s : State) : Host.Outcome State Fault Refusal :=
  onCommand s fun r =>
    let a := field r 128 48
    if a % 64 ≠ 0 then (s, stBadLayout, 0)
    else
      let q := s.prepare (fun off n => s.rdNat (hostKey (a + off)) n) a
      (q.1, q.2.1, q.2.2.getD 0)

/-- R443 LAYOUT, commit -/
def execLayoutCommit (s : State) : Host.Outcome State Fault Refusal :=
  onCommand s fun _ =>
    let q := s.commit 0 0
    (q.1, q.2, 0)

/-- R443 LAYOUT, abort -/
def execLayoutAbort (s : State) : Host.Outcome State Fault Refusal :=
  onCommand s fun _ =>
    let q := s.abort
    (q.1, q.2, 0)

/-- Is a change of a unit not possible now? -/
def State.unitBusy (s : State) (u : Nat) : Bool :=
  (decide (u < 16) && decide (s.board.switching ≠ 0)) || (decide (16 ≤ u) && decide (u < 24) && s.passing (2 ^ (u - 16)))

/-- The step that retires a unit. -/
def retireStep (u : Nat) : Due :=
  if u < 16 then .num .clusterRetire u
  else if u < 32 then .num .stackRetire (u - 16)
  else if u < 40 then .num .linkRetire 0 (u - 32)
  else if u < 48 then .num .linkRetire 1 (u - 40)
  else .num .linkRetire 2 (u - 48)

/-- R443 RETIRE -/
def execRetire (s : State) : Host.Outcome State Fault Refusal :=
  onCommand s fun r =>
    match unitOf (field r 80 8) (field r 64 16) with
    | none => (s, mbBadcmd, 0)
    | some u =>
      if s.isRetired u then (s, mbRetired, 0)
      else if s.unitBusy u then (s, mbBusy, 0)
      else (s.due [retireStep u], mbOk, 0)

/-- A unit is in service again (21 R423, R424, R427): of a stack every channel too. -/
def State.returnsUnit (s : State) (u : Nat) : State :=
  let s := s.markUnit u false
  let c := unitChannel (u - 16) 0
  let s := if 16 ≤ u ∧ u < 24 then s.modMgmt fun m => { m with retired := Tab.clearRange m.retired c (c + 64) } else s
  let s := if 32 ≤ u ∧ u < 40 then s.due [.num .bankSwap 1] else s
  (s.refitUp).due (s.partList.map fun e => .num .placementPass e.1)

/-- R443 RETURN: a channel returns where its stack is in service -/
def execReturnUnit (s : State) : Host.Outcome State Fault Refusal :=
  onCommand s fun r =>
    let n := field r 64 16
    match unitOf (field r 80 8) n with
    | none => (s, mbBadcmd, 0)
    | some u =>
      if s.unitBusy u then (s, mbBusy, 0)
      else if s.isRetired u then (s.returnsUnit u, mbOk, 0)
      else if field r 80 8 = 0x04 ∧ s.isRetired (unitChannel (n / 64) (n % 64)) = true then
        (s.returnsUnit (unitChannel (n / 64) (n % 64)), mbOk, 0)
      else (s, mbBadcmd, 0)

/-- R443 ANSWER: the step that asked goes on -/
def execAnswer (s : State) : Host.Outcome State Fault Refusal :=
  onCommand s fun r =>
    let tag := field r 64 32
    match s.host.assisted.find? fun a => decide (a.tag = tag) && a.answer.isNone with
    | none => (s, mbStale, 0)
    | some a =>
      let s := s.modHost fun h => { h with
        assisted := h.assisted.map fun x => if x = a then { a with answer := some (BitVec.ofNat 64 (field r 96 64)) } else x }
      (s.due [a.due], mbOk, 0)

/-- R443 RESUME -/
def execResumeFault (s : State) : Host.Outcome State Fault Refusal :=
  onCommand s fun r =>
    match s.resume (field r 64 16) (BitVec.ofNat 32 (field r 96 32)) with
    | some s => (s, mbOk, 0)
    | none => (s, mbStale, 0)

/-- What a quote states, in the order in which R447 names it (log 85): SHAKE256 of the running image, its version, the version of the
layout in force, MPMODE and the nonce. -/
def quoteBody (image : List Byte) (layout : BitVec 32) (mode : Word64) (nonce : BitVec 256) : List Byte :=
  natToBytes 32 (shake256 image) ++ natToBytes 4 (imageVersion image) ++ natToBytes 4 layout.toNat ++ natToBytes 8 mode.toNat ++
  natToBytes 32 nonce.toNat

/-- R447: each quote takes a leaf of the identity key, which is journalled first (log 77); the signature of the quote under that leaf
follows its body (log 85) -/
def execAttest (s : State) : Host.Outcome State Fault Refusal :=
  onCommand s fun r =>
    if 2 ^ 20 ≤ s.mgmt.leaf.toNat then (s, mbExhausted, 0)
    else
      let m := s.mgmt
      let version := s.board.layout.version
      let body := quoteBody m.running version s.host.mpmode (r.extractLsb' 64 256)
      let quote := body ++ Config.identitySignature m.leaf body
      let s := (s.modMgmt fun m => { m with leaf := m.leaf + 1 }).journal jLeaf version.toNat (m.leaf.toNat + 1)
      (s.wrN (hostKey (field r 320 48)) quote, mbOk, 0)

/-- R448: an image that passes the checks of R446 replaces the stored one; it runs from the next power-on, and where the module is in
recovery the management processor restarts with it at once -/
def execFwload (s : State) : Host.Outcome State Fault Refusal :=
  let r := s.command
  let image := s.rdN (hostKey (field r 64 48)) (field r 128 32)
  if s.mgmt.down then .next (s.endCommand mbBusy 0)
  else if !imageSigned image then .next (s.endCommand mbBadsig 0)
  else if !s.mgmt.accepts image then .next (s.endCommand mbRollback 0)
  else
    let t := s.modMgmt fun m => { m with stored := image, fuse := BitVec.ofNat 64 (imageVersion image) }
    let t := t.service.endCommand mbOk 0
    .next (if s.mgmt.recovery then t.due [.num .powerOn 0 1] else t)

/-- R436: the package number; BUSY where a pod job exists and it would change -/
def execPodcfgSetPkgn (s : State) : Host.Outcome State Fault Refusal :=
  onCommand s fun r =>
    let n := field r 80 12
    if n ≠ s.pod.pkgn.toNat ∧ s.partList.any (fun e => decide (e.2.pjob ≠ 0)) = true then (s, mbBusy, 0)
    else (s.modPod fun p => { p with pkgn := BitVec.ofNat 12 n, routes := Tab.set 0 p.routes n 0 }, mbOk, 0)

/-- R436: a route entry; that of the package itself stays 0 -/
def execPodcfgSetRoute (s : State) : Host.Outcome State Fault Refusal :=
  onCommand s fun r =>
    let n := field r 80 12
    if n = s.pod.pkgn.toNat then (s, mbOk, 0)
    else ((s.modPod fun p => { p with routes := Tab.set 0 p.routes n (BitVec.ofNat 16 (field r 96 16)) }).failUnrouted, mbOk, 0)

/-- R443: a command of a reserved kind -/
def execMboxBadcmd (s : State) : Host.Outcome State Fault Refusal := onCommand s fun _ => (s, mbBadcmd, 0)

end Sys2Proof.Machine
end

