-- ==== Sys2Proof/Machine/Matrix.lean ====
section
/-! DEFINITION. The matrix unit: the format context, the burn lists, the port, and the instructions of page 1 (06_matrix_unit R139 to R164; 04_number_formats R86, R87, R92 to R98, R451; 01_tile_in_a_cycle R29 to R31). -/

namespace Sys2Proof.Machine

/-! ### The format context (R142) -/

abbrev FCtx := BitVec 256

def FCtx.clsA (c : FCtx) : Nat := field c 0 3
def FCtx.sgnA (c : FCtx) : Bool := c.getLsbD 3
def FCtx.clsB (c : FCtx) : Nat := field c 4 3
def FCtx.sgnB (c : FCtx) : Bool := c.getLsbD 7
def FCtx.mode (c : FCtx) : Nat := field c 8 2
def FCtx.gsize (c : FCtx) : Nat := field c 10 2
def FCtx.sat (c : FCtx) : Bool := c.getLsbD 12
def FCtx.escA (c : FCtx) : Bool := c.getLsbD 13
def FCtx.escB (c : FCtx) : Bool := c.getLsbD 14
def FCtx.dreq (c : FCtx) : Bool := c.getLsbD 15
def FCtx.grpA (c : FCtx) : Bool := c.getLsbD 16
def FCtx.grpB (c : FCtx) : Bool := c.getLsbD 17
def FCtx.zpA (c : FCtx) : Nat := field c 24 8
def FCtx.zpB (c : FCtx) : Nat := field c 32 8
def FCtx.baseA (c : FCtx) : Nat := field c 64 12
def FCtx.lenA (c : FCtx) : Nat := field c 76 13
def FCtx.baseB (c : FCtx) : Nat := field c 89 12
def FCtx.lenB (c : FCtx) : Nat := field c 101 13
def FCtx.dtab (c : FCtx) : Nat := field c 128 21
def FCtx.wb (c : FCtx) : Nat := field c 149 15

/-- The type tag of a class and its signedness bit (R142); a reserved class has none. -/
def classTy (cls : Nat) (sgn : Bool) : Option Ty :=
  match cls with
  | 0 => some (if sgn then .i4 else .ui4)
  | 1 => some (if sgn then .i8 else .ui8)
  | 2 => some .bf16
  | 3 => some .f16
  | 4 => some .e4m3
  | 5 => some .e5m2
  | _ => none

/-- The bytes of 128 codes of a type (R141, R151). -/
def codeBytes (t : Ty) : Nat := 16 * t.bits

/-- Is the class int4 or int8? -/
def intClass (cls : Nat) : Bool := decide (cls ≤ 1)

/-- A zero point in a byte, read in its operand's signedness (04 R86), and its encoding (04 R86, R451). -/
def zpValue (t : Ty) (z : Nat) : Int := t.intOf z
def zpEncoded (t : Ty) (z : Nat) : Bool := t.isFloat || decide (wrapNat 8 (t.intOf z) = z)

/-- Are the bits from `lo` to `hi` of a number zero? -/
def zeroBits (x lo hi : Nat) : Bool := decide (bitsAt lo (hi + 1 - lo) x = 0)

/-- The first check of MCTX (R143). -/
def FCtx.fieldsOk (c : FCtx) : Bool :=
  let x := c.toNat
  let ok (cls : Nat) (sgn : Bool) (z : Nat) : Bool :=
    match classTy cls sgn with
    | some t => zpEncoded t z
    | none => true
  zeroBits x 164 255 && zeroBits x 114 127 && zeroBits x 40 63 && zeroBits x 18 23 &&
  decide (c.mode ≠ 3) && decide (c.gsize ≠ 3) && decide (c.dtab + 1024 ≤ 2 ^ 21) &&
  ok c.clsA c.sgnA c.zpA && ok c.clsB c.sgnB c.zpB &&
  (decide (c.mode = 1) || (decide (c.gsize = 0) && !c.grpA && !c.grpB)) &&
  (decide (c.mode = 0) || (decide (c.zpA = 0) && decide (c.zpB = 0))) &&
  decide (c.dtab % 8 = 0) && decide (c.wb % 4 = 0)

/-- The rows of classes (R143). -/
def FCtx.classesOk (c : FCtx) : Bool :=
  if c.mode = 2 then
    !c.sgnA && !c.sgnB &&
    ((decide (4 ≤ c.clsA) && decide (c.clsA ≤ 5) && decide (4 ≤ c.clsB) && decide (c.clsB ≤ 5)) ||
     (decide (c.clsA = c.clsB) && (decide (c.clsA = 2) || decide (c.clsA = 3))))
  else intClass c.clsA && intClass c.clsB

/-- The detail that refuses a format context, in the order of R143. -/
def FCtx.refusal (c : FCtx) : Option (BitVec 8) :=
  if !c.fieldsOk then some 0x01
  else if !c.classesOk then some 0x02
  else if (c.escA && !(intClass c.clsA && c.sgnA)) || (c.escB && !(intClass c.clsB && c.sgnB)) then some 0x03
  else if 4096 < c.baseA + c.lenA ∨ 4096 < c.baseB + c.lenB then some 0x04
  else none

/-- The types of the operands of a context that MCTX has accepted, and its group size in elements. -/
def FCtx.tyA (c : FCtx) : Ty := (classTy c.clsA c.sgnA).getD .ui4
def FCtx.tyB (c : FCtx) : Ty := (classTy c.clsB c.sgnB).getD .ui4
def FCtx.group (c : FCtx) : Nat := 32 * 2 ^ c.gsize
def FCtx.groups (c : FCtx) : Nat := 128 / c.group

/-- The bytes of A in the scratchpad, and of B in one slice (R141, R151). -/
def FCtx.sizeA (c : FCtx) : Nat :=
  32 * codeBytes c.tyA + if c.mode = 1 ∧ c.grpA then 32 * 4 * c.groups else 0
def FCtx.sizeB (c : FCtx) : Nat := codeBytes c.tyB + if c.mode = 1 ∧ c.grpB then 4 * c.groups else 0

/-! ### Codes, escapes and group words -/

/-- Codes in stored order: the low nibble first, 16-bit codes little-endian (R141, R151). -/
def codesOf (t : Ty) : List Byte → List Nat
  | [] => []
  | b :: bs =>
    if t.bits = 4 then b.toNat % 16 :: b.toNat / 16 :: codesOf t bs
    else if t.bits = 8 then b.toNat :: codesOf t bs
    else
      match bs with
      | [] => []
      | b' :: bs' => (b.toNat + 256 * b'.toNat) :: codesOf t bs'

/-- Is a code an escape of its type (04 R92)? -/
def isEscape (t : Ty) (code : Nat) : Bool :=
  match t with
  | .i4 => decide (code = 0x8)
  | .i8 => decide (code = 0x80)
  | _ => false

def countEscapes (esc : Bool) (t : Ty) (cs : List Nat) : Nat := if esc then (cs.filter (isEscape t)).length else 0

/-- An element of an operand: a code, or the burn-list entry of an escape. -/
inductive Elem where
  | code (q : Nat)
  | esc (entry : Nat)
deriving DecidableEq, Repr

/-- Codes with their escapes replaced by entries, the first of them entry `n` (04 R93). -/
def elemsOf (esc : Bool) (t : Ty) (entry : Nat → Nat) (n : Nat) : List Nat → List Elem
  | [] => []
  | q :: qs =>
    if esc && isEscape t q then .esc (entry n) :: elemsOf esc t entry (n + 1) qs
    else .code q :: elemsOf esc t entry n qs

/-- A list cut into pieces of `n`, at most `k` of them. -/
def pieces {α : Type} (n : Nat) : Nat → List α → List (List α)
  | 0, _ => []
  | k + 1, l => l.take n :: pieces n k (l.drop n)

/-- Little-endian words of `n` bytes. -/
def wordsIn (n : Nat) (bs : List Byte) : List Nat := (pieces n (bs.length / n) bs).map bytesToNat

/-- Is a group word well formed for an operand type (04 R451)? -/
def groupWordOk (t : Ty) (w : Nat) : Bool := zeroBits w 24 31 && zpEncoded t (bitsAt 16 8 w)

/-- The scale and the zero point that a group word gives (04 R86, R87); it is read as it stands. -/
def groupOf (t : Ty) (w : Nat) : FV × Int := (Ty.f16.value w, zpValue t (bitsAt 16 8 w))

/-- An ungrouped operand (04 R87). -/
def ungrouped : FV × Int := (.fin false 1 0, 0)

/-- Where an entry of a burn list lies: the lists fill the reserved region of the slices in turn (R141). -/
def burnKey (t list n : Nat) : Nat :=
  let o := 2 ^ 14 * list + 4 * n
  weightKey t (o / 256) (0x7F00 + o % 256)
def State.burnEntry (s : State) (t list n : Nat) : Nat := s.rdNat (burnKey t list n) 4

/-! ### Sums (04 R95 to R98) -/

def r32 (x : FV) : FV := Ty.f32.value (x.round .f32 .nearest false).1

/-- VAL of an entry, as an i16 and as an f16 (04 R94). -/
def entryInt (e : Nat) : Int := signedOf 16 (e / 2 ^ 16)
def entryF16 (e : Nat) : FV := Ty.f16.value (e / 2 ^ 16)

/-- The integer factor of an element (04 R95, R96). -/
def Elem.intFactor (t : Ty) (z : Int) : Elem → Int
  | .code q => t.intOf q - z
  | .esc e => entryInt e - z

/-- The real factor of an element under its group's scale and zero point (04 R87, R95). -/
def Elem.realFactor (t : Ty) (g : FV × Int) : Elem → FV
  | .code q => (FV.mul g.1 (FV.ofInt (t.intOf q - g.2))).1
  | .esc e => entryF16 e

def Elem.isEsc : Elem → Bool
  | .esc _ => true
  | .code _ => false

/-- One group of group mode: the accumulator after it (04 R96). -/
def groupStep (ta tb : Ty) (ga gb : FV × Int) (as bs : List Elem) (acc : FV) : FV :=
  let ps := as.zip bs
  let plain := ps.filter fun p => !p.1.isEsc && !p.2.isEsc
  let sum : Int := (plain.map fun p => p.1.intFactor ta ga.2 * p.2.intFactor tb gb.2).sum
  let g0 := r32 (FV.mul (r32 (FV.ofInt sum)) (FV.mul ga.1 gb.1).1).1
  let g := (ps.filter fun p => p.1.isEsc || p.2.isEsc).foldl (fun g p =>
    r32 (FV.add .nearest g (r32 (FV.mul (p.1.realFactor ta ga) (p.2.realFactor tb gb)).1)).1) g0
  r32 (FV.add .nearest acc g).1

/-- All groups of a chunk in ascending K. -/
def groupChunk (ta tb : Ty) : List (FV × Int) → List (FV × Int) → List (List Elem) → List (List Elem) → FV → FV
  | ga :: gas, gb :: gbs, a :: as, b :: bs, acc => groupChunk ta tb gas gbs as bs (groupStep ta tb ga gb a b acc)
  | _, _, _, _, acc => acc

/-- The exact sum of products, an exact zero signed as R98 says. -/
def exactSum : List FV → FV
  | [] => .fin false 0 0
  | p :: ps => ps.foldl (fun s p => (FV.add .nearest s p).1) p

/-- Four blocks of 32 of float mode (04 R98). -/
def floatChunk (as bs : List FV) (acc : FV) : FV :=
  (pieces 32 4 ((as.zip bs).map fun p => (FV.mul p.1 p.2).1)).foldl
    (fun acc b => r32 (FV.add .nearest acc (r32 (exactSum b))).1) acc

/-- An accumulator with an exact integer added; the bits of MST that report it (R152: ASAT bit 0, AOVF bit 1). -/
def accAdd (sat : Bool) (acc : Nat) (g : Int) : Nat × Nat :=
  let e := i32 acc + g
  if sat then
    let c := clampInt (-(2 ^ 31)) (2 ^ 31 - 1) e
    (wrapNat 32 c, if c = e then 0 else 1)
  else
    let w := wrapNat 32 e
    (w, if i32 w = e then 0 else 2)

/-! ### What the read phase decides (R144) -/

/-- What a granted instruction will do: the scratchpad words it writes in its read phase, what its retirement sets,
how long the read phase takes, and its array phase. -/
structure Grant where
  writes : List (Nat × List Byte)
  fctx : Option FCtx
  ka : Option Nat
  mset : BitVec 64
  ecnt : Option Nat
  clear : Bool
  a : Option Word64
  cycles : Nat
  job : Option (ArrayKind × Nat × List Byte × Nat)

def Grant.plain : Grant := ⟨[], none, none, 0, none, false, none, 1, none⟩

def matrixTrap (d : BitVec 8) : Stop := stopTrap kMatrix d 0

/-- Scratchpad bytes of a tile that a read phase reads; a poisoned one traps (21 R420). DESIGN CHOICE (log 82): MEMORY detail 0x03
stands among the checks of R144 at the read itself, after the checks that come before the read and before those that depend on the
bytes read. -/
def State.readSpan (s : State) (t off n : Nat) : Except Stop (List Byte) :=
  match s.poisonIn (scratchKey t off) n with
  | some p => .error (stopTrap kMemory 0x03 (localAddr (off + p)))
  | none => .ok (s.rdN (scratchKey t off) n)

/-- The check of a span that a field names (R144, step 4). -/
def spanOk (off n : Nat) : Except Stop Unit :=
  if 2 ^ 21 < off + n then .error (stopTrap kAccess 0x01 (localAddr off))
  else if off % 4 ≠ 0 then .error (stopTrap kAlign 0x01 (localAddr off))
  else .ok ()

/-- A list of checks, the first that fails deciding. -/
def firstFailure : List (Except Stop Unit) → Except Stop Unit
  | [] => .ok ()
  | .error e :: _ => .error e
  | .ok _ :: l => firstFailure l

def require (ok : Bool) (d : BitVec 8) : Except Stop Unit := if ok then .ok () else .error (matrixTrap d)

/-- A record or operand at the pointer: checked, then read. -/
def State.operand (s : State) (t : Nat) (a : Addr) (n align : Nat) : Except Stop (List Byte) :=
  match checkLocal a n align with
  | .error e => .error e
  | .ok o => s.readSpan t o n

def ceilDiv (a b : Nat) : Nat := (a + b - 1) / b

/-- MCTX (R143, R148). -/
def grantMctx (s : State) (g : Nat) (a : Addr) : Except Stop Grant :=
  match s.operand (g / 8) a 32 8 with
  | .error e => .error e
  | .ok bs =>
    let c : FCtx := BitVec.ofNat 256 (bytesToNat bs)
    match c.refusal with
    | some d => .error (matrixTrap d)
    | none => .ok { Grant.plain with fctx := some c }

/-- Group words for WPL, which names a class and no signedness: an int4 word may be an i4 or a ui4 word. -/
def wplWordOk (cls w : Nat) : Bool :=
  match classTy cls true, classTy cls false with
  | some t, some u => groupWordOk t w || groupWordOk u w
  | _, _ => false

/-- The bytes that WPL writes, column by column: the codes and then the group words of each (R149). -/
def wplColumns (c gw : Nat) (codes words : List Byte) : Nat → List Byte
  | 0 => []
  | n + 1 => codes.take c ++ words.take gw ++ wplColumns c gw (codes.drop c) (words.drop gw) n

/-- WPL (R149). -/
def grantWpl (s : State) (g : Nat) (a : Addr) : Except Stop Grant :=
  match s.operand (g / 8) a 16 8 with
  | .error e => .error e
  | .ok bs =>
    let d := bytesToNat bs
    let cls := bitsAt 48 3 d
    let wa := bitsAt 32 15 d
    let src := bitsAt 0 21 d
    let c := match classTy cls false with
      | some t => codeBytes t
      | none => 0
    let gw := if d.testBit 51 then 4 * (128 / (32 * 2 ^ bitsAt 52 2 d)) else 0
    let fields := zeroBits d 56 127 && zeroBits d 54 54 && zeroBits d 47 47 && zeroBits d 21 31 &&
      decide (bitsAt 52 2 d ≠ 3) && decide (cls ≤ 5) && decide (wa % 4 = 0)
    let wb (x : Grant) : Grant := { x with fctx := some (setField (s.core g).fctx 149 15 wa) }
    if !fields then .error (matrixTrap 0x01)
    else if d.testBit 55 then .ok (wb Grant.plain)
    else
      match spanOk src (128 * (c + gw)) with
      | .error e => .error e
      | .ok _ =>
        if 0x7F00 < wa + c + gw then .error (matrixTrap 0x08)
        else
          match s.readSpan (g / 8) src (128 * (c + gw)) with
          | .error e => .error e
          | .ok data =>
            let words := data.drop (128 * c)
            if !(wordsIn 4 words).all (wplWordOk cls) then .error (matrixTrap 0x01)
            else .ok (wb { Grant.plain with
              cycles := ceilDiv (4 + 32 * (c + gw)) 64
              job := some (.weights, wa, wplColumns c gw (data.take (128 * c)) words 128, ceilDiv (c + gw) 8) })

/-- The codes of column `j` of the B block, and its group words, as the weight plane holds them (R141). DESIGN CHOICE
(log 67): of a block that runs past the slice only the bytes that the slice holds are counted for escapes (R151). -/
def State.columnB (s : State) (t : Nat) (c : FCtx) (j : Nat) : List Byte := s.rdN (weightKey t j c.wb) (min c.sizeB (0x8000 - c.wb))

/-- The escapes of the B block. DESIGN CHOICE (log 82): a poisoned word of the weight plane that the read phase of an MMA with ESCB = 1
meets raises no trap and its codes count as they lie; the array phase spoils its column (21 R420). -/
def State.escapesB (s : State) (t : Nat) (c : FCtx) : Nat :=
  ((List.range 128).map fun j =>
    countEscapes c.escB c.tyB (codesOf c.tyB ((s.columnB t c j).take (codeBytes c.tyB)))).sum

/-- The array phase of an MMA without outliers (R143). -/
def FCtx.mmaCycles (c : FCtx) : Nat :=
  if c.clsA = 0 ∧ c.clsB = 0 then 16 else if c.clsA = 2 ∨ c.clsA = 3 then 128 else 32

def Core.ka (c : Core) : Nat := field c.mst 32 13

/-- MMA (R151). DESIGN CHOICE (log 82): with ESCA = 0, where no escapes of A are counted, n_A is 0 and KA + n_A > LENA is tested all
the same. -/
def grantMma (s : State) (g : Nat) (a : Addr) : Except Stop Grant :=
  let c : FCtx := (s.core g).fctx
  let t := g / 8
  match s.operand t a c.sizeA 4 with
  | .error e => .error e
  | .ok data =>
    let codes := data.take (32 * codeBytes c.tyA)
    let words := wordsIn 4 (data.drop (32 * codeBytes c.tyA))
    let nA := countEscapes c.escA c.tyA (codesOf c.tyA codes)
    let nB := if c.escB then s.escapesB t c else 0
    let ka := (s.core g).ka
    match firstFailure [require (words.all (groupWordOk c.tyA)) 0x01, require (decide (ka + nA ≤ c.lenA)) 0x06,
        require (decide (nB ≤ c.lenB)) 0x06, require (decide (c.wb + c.sizeB ≤ 0x7F00)) 0x08] with
    | .error e => .error e
    | .ok _ => .ok { Grant.plain with
        ka := some (ka + nA)
        cycles := max (ceilDiv (c.sizeA / 4) 64) (if c.escB then ceilDiv c.sizeB 8 else 0)
        job := some (.mma, ka, data, max c.mmaCycles (ceilDiv (128 * nA + 32 * nB) 1024)) }

/-- MROW and MCOL (R153). -/
def grantSums (kind : ArrayKind) (n cycles : Nat) (s : State) (g : Nat) (a : Addr) : Except Stop Grant :=
  match checkLocal a (4 * n) 4 with
  | .error e => .error e
  | .ok o =>
    if (FCtx.mode (s.core g).fctx) ≠ 0 then .error (matrixTrap 0x05)
    else
      match s.readSpan (g / 8) o (4 * n) with
      | .error e => .error e
      | .ok data => .ok { Grant.plain with cycles := cycles, job := some (kind, 0, data, 32) }

/-- An accumulator element of a core, and of its sums. -/
def Core.accs (c : Core) : List Nat := (Tab.getMany (0 : Word32) c.acc 0 4096).map BitVec.toNat

/-- One element that MDRAIN stores, and whether it was clamped (R155); `d` is its entry of the drain table. -/
def drainInt (t : Ty) (md : RMode) (sat : Bool) (d : Option Nat) (acc : Nat) : Nat × Bool :=
  let v := match d with
    | some e =>
      let p := i32 acc * signedOf 32 e
      (roundInt md (decide (p < 0)) p.natAbs (-(bitsAt 32 6 e : Int))).1 + signedOf 16 (e / 2 ^ 48)
    | none => i32 acc
  t.narrowInt sat v

/-- One element that MDRAINF stores, and whether saturation replaced an infinity (R156). -/
def drainFloat (t : Ty) (md : RMode) (sat intMode : Bool) (d : Option Nat) (acc : Nat) : Nat × Bool :=
  let x := if intMode then FV.ofInt (i32 acc) else f32 acc
  let y := match d with
    | some e => (FV.mul x (f32 (e % 2 ^ 32))).1
    | none => x
  let r := (y.round t md sat).1
  (r, sat && !y.isNaN && decide ((y.round t md false).1 % 2 ^ (t.bits - 1) = t.infinity))

/-- MDRAIN and MDRAINF (R154 to R156). -/
def grantDrain (float : Bool) (t : Ty) (md : RMode) (sat : Bool) (s : State) (g : Nat) (a : Addr) : Except Stop Grant :=
  let c : FCtx := (s.core g).fctx
  match checkLocal a (4096 * t.size) 4 with
  | .error e => .error e
  | .ok o =>
    if !float && decide (c.mode ≠ 0) then .error (matrixTrap 0x05)
    else
      match (if c.dreq then (s.readSpan (g / 8) c.dtab 1024).map some else .ok none) with
      | .error e => .error e
      | .ok tab =>
        let tab := tab.map (wordsIn 8)
        if !((tab.getD []).all fun e => zeroBits e 38 47) then .error (matrixTrap 0x01)
        else
          let entry (n : Nat) : Option Nat := tab.map fun l => l.getD (n % 128) 0
          let out := ((s.core g).accs.zip (List.range 4096)).map fun p =>
            if float then drainFloat t md sat (decide (c.mode = 0)) (entry p.2) p.1
            else drainInt t md sat (entry p.2) p.1
          .ok { Grant.plain with
            writes := [(o, out.flatMap fun r => natToBytes t.size r.1)]
            mset := if out.any Prod.snd then 8 else 0
            cycles := ceilDiv (1024 * t.size + if c.dreq then 256 else 0) 64 }

/-! ### Quantising (R157 to R160) -/

def qGaddr (d : Nat) : Nat := bitsAt 208 21 d
def qGsize (d : Nat) : Nat := bitsAt 200 2 d
def qCol0 (d : Nat) : Nat := bitsAt 192 7 d
def qRow0 (d : Nat) : Nat := bitsAt 184 7 d
def qCols (d : Nat) : Nat := bitsAt 176 8 d
def qLim (d : Nat) : Nat := bitsAt 168 7 d
def qZ (d : Nat) : Nat := bitsAt 160 8 d
def qInv (d : Nat) : Nat := bitsAt 128 32 d
def qGrp (d : Nat) : Bool := d.testBit 95
def qEsc (d : Nat) : Bool := d.testBit 94
def qClamp (d : Nat) : Bool := d.testBit 93
def qList (d : Nat) : Nat := bitsAt 92 1 d
def qStart (d : Nat) : Nat := bitsAt 80 12 d
def qN (d : Nat) : Nat := bitsAt 64 16 d
def qDst (d : Nat) : Nat := bitsAt 32 21 d
def qSrc (d : Nat) : Nat := bitsAt 0 21 d
def qGroup (d : Nat) : Nat := 32 * 2 ^ qGsize d

/-- The code range (R157). -/
def qLo (t : Ty) (d : Nat) : Int := if qEsc d then -t.hi else t.lo

/-- Is every reserved field zero, and N in its range? -/
def qCommon (t : Ty) (d : Nat) : Bool :=
  zeroBits d 229 255 && zeroBits d 202 207 && zeroBits d 199 199 && zeroBits d 191 191 && zeroBits d 175 175 &&
  zeroBits d 96 127 && zeroBits d 53 63 && zeroBits d 21 31 &&
  decide (1 ≤ qN d) && decide (qN d ≤ 32768) && (decide (t.bits ≠ 4) || decide (qN d % 2 = 0))

/-- Are the fields of a group in range? -/
def qGroupOk (d : Nat) : Bool := decide (qGsize d ≠ 3) && decide (qN d % qGroup d = 0)

def qColsOk (d : Nat) : Bool := decide (1 ≤ qCols d) && decide (qCols d ≤ 128)

/-- The bytes of N codes. -/
def qCodeBytes (t : Ty) (d : Nat) : Nat := qN d * t.bits / 8
/-- The bytes of the group words. -/
def qWordBytes (d : Nat) : Nat := 4 * (qN d / qGroup d)

/-- Which elements are kept: the first `cap` electees in element order (R157). -/
def keepFirst : Nat → List Bool → List Bool
  | _, [] => []
  | cap, b :: bs => if b then decide (0 < cap) :: keepFirst (cap - 1) bs else false :: keepFirst cap bs

/-- A code stored, a list entry for it, and the bits of MST. -/
structure QOut where
  code : Nat
  entry : Option Nat
  bits : Nat
deriving DecidableEq, Repr

/-- The position of element `e` (R157; 04 R94). -/
def qPos (d e : Nat) : Nat := (qRow0 d + e / qCols d) % 128 * 128 + (qCol0 d + e % qCols d) % 128

/-- The escape code of a type. -/
def escapeCode (t : Ty) : Nat := 2 ^ (t.bits - 1)

/-- A code clamped to its range; QSAT is bit 4 of MST (R162). -/
def qCode (t : Ty) (d : Nat) (q : Int) : QOut :=
  let c := clampInt (qLo t d) t.hi q
  ⟨wrapNat t.bits c, none, if c = q then 0 else 16⟩

/-- x * INV rounded to an integer (R158); none for a NaN. -/
def qScaled (inv x : FV) : Option Int :=
  match (FV.mul x inv).1 with
  | .nan _ => none
  | .inf neg => some (if neg then -(2 ^ 31) else 2 ^ 31)
  | .fin n m e => some (clampInt (-(2 ^ 31)) (2 ^ 31) (roundInt .nearest n m e).1)

/-- QNT on element `e` (R158); QNAN is bit 5 of MST. -/
def qntElem (t : Ty) (d : Nat) (kept : Bool) (q : Option Int) (e : Nat) : QOut :=
  match q with
  | none => { qCode t d (zpValue t (qZ d)) with bits := (qCode t d (zpValue t (qZ d))).bits ||| 32 }
  | some q =>
    if kept then
      let v := clampInt (-32768) 32767 q
      ⟨escapeCode t, some (wrapNat 16 v * 2 ^ 16 + qPos d e), if v = q then 0 else 16⟩
    else qCode t d q

/-- Is an element of QNT elected (R158)? -/
def qntElected (t : Ty) (d : Nat) (q : Option Int) : Bool :=
  let l : Int := if qLim d = 0 then t.hi else qLim d
  match q with
  | none => false
  | some q => qEsc d && (decide (q < -l) || decide (l < q))

/-- A quotient rounded to an integer; an infinity stands beyond every finite one. -/
def bigInt : FV → Int
  | .nan _ => 0
  | .inf neg => if neg then -(2 ^ 400) else 2 ^ 400
  | .fin n m e => (roundInt .nearest n m e).1

def fvZero : FV := .fin false 0 0

/-- The scale of a group from its range, as a pattern, and QSAT (R159 step 3). -/
def qntgScale (t : Ty) (d : Nat) (lo hi : FV) : Nat × Nat :=
  let q := FV.div (FV.add .nearest hi lo.negate).1 (FV.ofInt (t.hi - qLo t d))
  let s := (q.round .f16 .nearest false).1
  if s % 2 ^ 15 = 0 then (0x3C00, 0) else if s = Ty.f16.infinity then (0x7BFF, 16) else (s, 0)

/-- One group of QNTG (R159): the group word and the elements; `xs` are pairs of a value and whether it is kept. -/
def qntgGroup (t : Ty) (d e0 : Nat) (xs : List (Nat × Bool)) : Nat × List QOut × Nat :=
  let val (x : Nat) : FV := if (f32 x).isNaN then fvZero else f32 x
  let free := (xs.filter fun p => !p.2).map fun p => val p.1
  let lo := free.foldl (fun l x => if FV.compare x l = some (-1) then x else l) fvZero
  let hi := free.foldl (fun l x => if FV.compare x l = some 1 then x else l) fvZero
  let sc := qntgScale t d lo hi
  let s := Ty.f16.value sc.1
  let z := clampInt (qLo t d) t.hi (qLo t d - bigInt (FV.div lo s))
  let one (p : (Nat × Bool) × Nat) : QOut :=
    let x := p.1.1
    if p.1.2 then
      let v := (f32 x).round .f16 .nearest false
      ⟨escapeCode t, some (v.1 * 2 ^ 16 + qPos d (e0 + p.2)), if v.2.fo then 16 else 0⟩
    else if (f32 x).isNaN then ⟨wrapNat t.bits z, none, 32⟩
    else qCode t d (bigInt (FV.div (f32 x) s) + z)
  (wrapNat 8 z * 2 ^ 16 + sc.1, (xs.zip (List.range xs.length)).map one, sc.2)

/-- Is an element of QNTG elected (R159 step 1)? -/
def qntgElected (d x : Nat) : Bool := qEsc d && decide (FV.compare (f32 (x % 2 ^ 31)) (f32 (qInv d)) = some 1)

/-- The bytes of codes: two 4-bit codes to a byte, the low nibble first (R157). -/
def packCodes (t : Ty) : List Nat → List Byte
  | [] => []
  | a :: l =>
    if t.bits = 4 then
      match l with
      | [] => [BitVec.ofNat 8 a]
      | b :: l => BitVec.ofNat 8 (a + 16 * b) :: packCodes t l
    else BitVec.ofNat 8 a :: packCodes t l

/-- What an election and its codes come to (R157). DESIGN CHOICE (log 69): where the spans of the codes and of the group
words overlap, the group words are written after the codes and stay. -/
def qFinish (t : Ty) (d : Nat) (elected : Nat) (out : List QOut) (more : List (Nat × List Byte)) (bits words : Nat) :
    Grant :=
  let cap := 4096 - qStart d
  let es := out.filterMap QOut.entry
  { Grant.plain with
    writes := (qDst d, packCodes t (out.map QOut.code)) :: more
    mset := BitVec.ofNat 64 ((out.foldl (fun b o => b ||| o.bits) bits) ||| if cap < elected then 64 else 0)
    ecnt := some (min elected cap)
    cycles := ceilDiv words 64
    job := if es.isEmpty then none
      else some (.entries, 4096 * qList d + qStart d, es.flatMap (natToBytes 4), ceilDiv es.length 64) }

/-- QNT (R158). DESIGN CHOICE (log 68): COLS is a field that it uses whatever ESC is, and so it is checked. -/
def grantQnt (t : Ty) (s : State) (g : Nat) (a : Addr) : Except Stop Grant :=
  match s.operand (g / 8) a 32 8 with
  | .error e => .error e
  | .ok bs =>
    let d := bytesToNat bs
    let inv := f32 (qInv d)
    match firstFailure [require (qCommon t d && qColsOk d && decide ((qLim d : Int) ≤ t.hi) && zpEncoded t (qZ d) &&
          !inv.isNaN && !inv.isInf) 0x01,
        require (!qEsc d || !t.isUnsigned) 0x03, spanOk (qSrc d) (4 * qN d), spanOk (qDst d) (qCodeBytes t d)] with
    | .error e => .error e
    | .ok _ =>
      match s.readSpan (g / 8) (qSrc d) (4 * qN d) with
      | .error e => .error e
      | .ok data =>
        let qs := (wordsIn 4 data).map fun x => (qScaled inv (f32 x)).map (· + zpValue t (qZ d))
        let el := qs.map (qntElected t d)
        let n := (el.filter id).length
        let cap := 4096 - qStart d
        if cap < n ∧ !qClamp d then .error (matrixTrap 0x07)
        else
          let out := ((qs.zip (keepFirst cap el)).zip (List.range (qN d))).map fun p =>
            qntElem t d p.1.2 p.1.1 p.2
          .ok (qFinish t d n out [] 0 (8 + qN d + ceilDiv (qCodeBytes t d) 4))

/-- The groups of QNTG in turn. -/
def qntgAll (t : Ty) (d : Nat) : Nat → List (List (Nat × Bool)) → List (Nat × List QOut × Nat)
  | _, [] => []
  | e0, xs :: l => qntgGroup t d e0 xs :: qntgAll t d (e0 + qGroup d) l

/-- QNTG (R159). DESIGN CHOICE (log 68): COLS and THR are fields that it uses whatever ESC is, and so they are checked. -/
def grantQntg (t : Ty) (s : State) (g : Nat) (a : Addr) : Except Stop Grant :=
  match s.operand (g / 8) a 32 8 with
  | .error e => .error e
  | .ok bs =>
    let d := bytesToNat bs
    let thr := f32 (qInv d)
    match firstFailure [require (qCommon t d && qColsOk d && qGroupOk d && !thr.isNaN && (thr.isZero || !thr.neg)) 0x01,
        require (!qEsc d || !t.isUnsigned) 0x03, spanOk (qSrc d) (4 * qN d), spanOk (qDst d) (qCodeBytes t d),
        spanOk (qGaddr d) (qWordBytes d)] with
    | .error e => .error e
    | .ok _ =>
      match s.readSpan (g / 8) (qSrc d) (4 * qN d) with
      | .error e => .error e
      | .ok data =>
        let xs := wordsIn 4 data
        let el := xs.map (qntgElected d)
        let n := (el.filter id).length
        let cap := 4096 - qStart d
        if cap < n ∧ !qClamp d then .error (matrixTrap 0x07)
        else
          let gs := qntgAll t d 0 (pieces (qGroup d) (qN d / qGroup d) (xs.zip (keepFirst cap el)))
          .ok (qFinish t d n (gs.flatMap fun r => r.2.1) [(qGaddr d, gs.flatMap fun r => natToBytes 4 r.1)]
            (gs.foldl (fun b r => b ||| r.2.2) 0)
            (8 + qN d + ceilDiv (qCodeBytes t d) 4 + qN d / qGroup d))

/-- The f32 value of one element of DEQ (R160). -/
def deqElem (t : Ty) (grp : Bool) (g : FV × Int) (z : Int) (e : Elem) : Nat :=
  let v := if grp then e.realFactor t g else FV.ofInt (e.intFactor t z)
  (v.round .f32 .nearest false).1

/-- DEQ (R160). DESIGN CHOICE (log 82): a poisoned entry of the burn list, which has no address in a program, raises MEMORY detail 0x03
with ADDR 0, after detail 0x06. -/
def grantDeq (t : Ty) (s : State) (g : Nat) (a : Addr) : Except Stop Grant :=
  match s.operand (g / 8) a 32 8 with
  | .error e => .error e
  | .ok bs =>
    let d := bytesToNat bs
    let tl := g / 8
    match firstFailure [require (qCommon t d && (if qGrp d then qGroupOk d else zpEncoded t (qZ d))) 0x01,
        require (!qEsc d || !t.isUnsigned) 0x03, spanOk (qSrc d) (qCodeBytes t d), spanOk (qDst d) (4 * qN d),
        if qGrp d then spanOk (qGaddr d) (qWordBytes d) else .ok ()] with
    | .error e => .error e
    | .ok _ =>
      match s.readSpan tl (qSrc d) (qCodeBytes t d),
          (if qGrp d then s.readSpan tl (qGaddr d) (qWordBytes d) else .ok []) with
      | .error e, _ => .error e
      | _, .error e => .error e
      | .ok data, .ok wbytes =>
        let codes := codesOf t data
        let n := countEscapes (qEsc d) t codes
        let words := wordsIn 4 wbytes
        let bad := (List.range n).findSome? fun i => s.poisonIn (burnKey tl (qList d) (qStart d + i)) 4
        match firstFailure [require (words.all (groupWordOk t)) 0x01, require (decide (qStart d + n ≤ 4096)) 0x06] with
        | .error e => .error e
        | .ok _ =>
          if bad.isSome then .error (stopTrap kMemory 0x03 0)
          else
            let es := elemsOf (qEsc d) t (fun i => s.burnEntry tl (qList d) (qStart d + i)) 0 codes
            let out := (es.zip (List.range (qN d))).map fun p =>
              deqElem t (qGrp d) (groupOf t (words.getD (p.2 / qGroup d) 0)) (zpValue t (qZ d)) p.1
            .ok { Grant.plain with
              writes := [(qDst d, out.flatMap (natToBytes 4))]
              cycles := ceilDiv (8 + qN d + ceilDiv (qCodeBytes t d) 4 + if qGrp d then qN d / qGroup d else 0) 64 }

/-- BLSET (R161). -/
def grantBlset (s : State) (g : Nat) (a : Addr) : Except Stop Grant :=
  match s.operand (g / 8) a 16 8 with
  | .error e => .error e
  | .ok bs =>
    let d := bytesToNat bs
    let n := bitsAt 64 13 d
    let list := bitsAt 57 1 d
    let len := bitsAt 44 13 d
    let base := bitsAt 32 12 d
    let src := bitsAt 0 21 d
    match firstFailure [require (zeroBits d 77 127 && zeroBits d 58 63 && zeroBits d 21 31) 0x01,
        require (decide (base + len ≤ 4096) && decide (n ≤ len)) 0x04, spanOk src (4 * n)] with
    | .error e => .error e
    | .ok _ =>
      match s.readSpan (g / 8) src (4 * n) with
      | .error e => .error e
      | .ok data =>
        if !(wordsIn 4 data).all fun e => zeroBits e 14 15 then .error (matrixTrap 0x01)
        else
          let c : FCtx := (s.core g).fctx
          let c := if list = 0 then setField (setField c 64 12 base) 76 13 len
            else setField (setField c 89 12 base) 101 13 len
          .ok { Grant.plain with
            fctx := some c
            ka := if list = 0 then some 0 else none
            cycles := max 1 (ceilDiv n 64)
            job := if n = 0 then none else some (.entries, 4096 * list + base, data, ceilDiv n 64) }

/-- What an instruction of page 1 decides in its read phase, and the size of its post-mode (R147). -/
def grantOf (s : State) (g : Nat) (a : Addr) : Instr → Except Stop Grant
  | .mctx _ _ _ => grantMctx s g a
  | .wpl _ _ _ => grantWpl s g a
  | .mzero _ => .ok { Grant.plain with job := some (.zero, 0, [], 1) }
  | .mma _ _ _ => grantMma s g a
  | .mrow _ _ _ => grantSums .mrow 32 1 s g a
  | .mcol _ _ _ => grantSums .mcol 128 2 s g a
  | .mdrain _ _ pre => grantDrain false (pre.ty.getD .i32) (rndMode pre.rnd) pre.sat s g a
  | .mdrainf _ _ pre => grantDrain true (pre.ty.getD .f32) (rndMode pre.rnd) pre.sat s g a
  | .qnt _ _ pre => grantQnt (pre.ty.getD .i8) s g a
  | .qntg _ _ pre => grantQntg (pre.ty.getD .i8) s g a
  | .deq _ _ pre => grantDeq (pre.ty.getD .i8) s g a
  | .blset _ _ _ => grantBlset s g a
  | .blcnt _ => .ok { Grant.plain with
      a := some (BitVec.ofNat 64 (bitsAt 0 45 (s.core g).mst.toNat)), clear := true }
  | _ => .ok Grant.plain

/-- The pointer operand of an instruction of page 1, and the size of its post-mode. -/
def matrixPtr : Instr → Option (BitVec 3 × PostMode × Nat)
  | .mctx p pm _ | .wpl p pm _ | .mma p pm _ | .mrow p pm _ | .mcol p pm _ | .qnt p pm _ | .qntg p pm _
  | .deq p pm _ | .blset p pm _ => some (p, pm, 1)
  | .mdrain p pm pre => some (p, pm, (pre.ty.getD .i32).size)
  | .mdrainf p pm pre => some (p, pm, (pre.ty.getD .f32).size)
  | _ => none

/-! ### The port (01 R29, R30; R145, R146) -/

/-- A matrix instruction is issued: its context stalls until it retires (01 R29). -/
def issueMatrix (i : Instr) (pre : Prefixes) (s : State) : State :=
  guarded pre s fun s =>
    let k := s.strand
    let ptr := (matrixPtr i).map fun p => (p.1.toNat, (k.ptr p.1.toNat).post p.2.1 p.2.2)
    let r : MReq := ⟨i, s.myCtx, false, k.next pre, ptr, none, none, 0, none, false, none, false⟩
    (s.modCore s.me fun c => { c with mreq := some r, stalled := true }).due [.num .matrixPortGrant s.myTile]

/-- Could the read phase of a core's request start now (R145, R146)? -/
def State.eligible (s : State) (t k : Nat) : Bool :=
  let g := 8 * t + k
  let c := s.core g
  let x := s.tile t
  let vec := c.vecLeft.any VEntry.mem
  match c.mreq with
  | none => false
  | some r =>
    !r.granted && !vec &&
    match r.instr with
    | .mma _ _ _ => !(FCtx.escB c.fctx) || x.arrays.isEmpty
    | .deq _ _ _ => x.arrays.isEmpty
    | .mdrain _ _ _ | .mdrainf _ _ _ | .blcnt _ => x.arrays.all fun j => decide (j.by_.core ≠ g)
    | _ => true

/-- Does a request of the tile wait for a grant? -/
def State.matrixWaits (s : State) (t : Nat) : Bool :=
  (List.range 8).any fun k => match (s.core (8 * t + k)).mreq with
    | some r => !r.granted
    | none => false

/-- The request leaves the port with a trap; the context goes on (01 R29). -/
def State.matrixStop (s : State) (g c : Nat) (t : Trap) : State :=
  let s := s.modCore g fun x => { x with mreq := none, stalled := false }
  let s := if s.matrixWaits (g / 8) then s.due [.num .matrixPortGrant (g / 8)] else s
  s.takeTrap g c { t with pc := (s.ctx g c).pc }

/-- A grant: every check, the reads, and the writes of the read phase. -/
def State.grant (s : State) (t k : Nat) : State :=
  let g := 8 * t + k
  let s := s.modTile t fun x => { x with portPtr := (k + 1) % 8 }
  match (s.core g).mreq with
  | none => s
  | some r =>
    let a : Addr := match matrixPtr r.instr with
      | some p => ((s.ctx g r.ctx).ptr p.1.toNat).addr
      | none => 0
    match grantOf s g a r.instr with
    | .error (.trap tr) => s.matrixStop g r.ctx tr
    | .error .stall => s
    | .ok x =>
      let job := x.job.map fun j =>
        (⟨s.issuerOf g r.ctx, j.1, (s.core g).fctx, j.2.1, j.2.2.1, j.2.2.2, false⟩ : ArrayJob)
      let s := x.writes.foldl (fun s w => s.wrN (scratchKey t w.1) w.2) s
      let s := s.modCore g fun c => { c with mreq := some { r with
        granted := true, fctx := x.fctx, ka := x.ka, mset := x.mset, ecnt := x.ecnt, clear := x.clear, a := x.a,
        array := job.isSome } }
      let s := s.modTile t fun y => { y with readPhase := some g, buffers := y.buffers + 1, arrays := y.arrays ++ job.toList }
      s.dueIn x.cycles (.num .matrixRetire g)

/-- R30 of 01: a grant, when the read phase and a buffer are free -/
def execMatrixPortGrant (s : State) : Host.Outcome State Fault Refusal :=
  match s.arg with
  | .num t _ _ _ =>
    let x := s.tile t
    if s.holdsBack then .next (s.due [.num .matrixPortGrant t])
    else if x.readPhase.isSome || decide (2 ≤ x.buffers) then .next s
    else
      match ringFind 8 x.portPtr (s.eligible t) with
      | some k => .next (s.grant t k)
      | none => .next (if s.matrixWaits t && x.arrays.isEmpty then s.due [.num .matrixPortGrant t] else s)
  | _ => .next s

/-- What the retirement of a request does to its core (R146, R157, R163). -/
def Core.retire (c : Core) (r : MReq) : Core :=
  let m := c.mst ||| r.mset
  let m := match r.ecnt with
    | some n => setField m 16 13 n
    | none => m
  let m := match r.ka with
    | some n => setField m 32 13 n
    | none => m
  let m := if r.clear then setField m 0 7 0 else m
  { c with mst := m, fctx := r.fctx.getD c.fctx, mreq := none, stalled := false }

/-- The context of a request goes on: the pointer, A and the PC. -/
def Ctx.retire (k : Ctx) (r : MReq) : Ctx :=
  let k := match r.ptr with
    | some (n, a) => k.setAddr n a
    | none => k
  let k := match r.a with
    | some v => { k with a := v }
    | none => k
  ({ k with pc := r.npc }).loopTest

/-- R29 of 01: the instruction retires in the cycle after its read phase -/
def execMatrixRetire (s : State) : Host.Outcome State Fault Refusal :=
  match s.arg with
  | .num g _ _ _ =>
    match (s.core g).mreq with
    | none => .next s
    | some r =>
      let t := g / 8
      let s := s.modCore g fun c => c.retire r
      let s := if (s.core g).running = some r.ctx then s.modCtx g r.ctx fun k => k.retire r else s
      let s := s.modTile t fun x => { x with
        readPhase := none
        buffers := if r.array then x.buffers else x.buffers - 1
        arrays := x.arrays.map fun j => if j.by_.core = g then { j with ready := true } else j }
      .next (s.due [.num .arrayPhaseStart t, .num .matrixPortGrant t])
  | _ => .next s

/-- R30 of 01: the next array phase starts once its read phase and the previous array phase have ended -/
def execArrayPhaseStart (s : State) : Host.Outcome State Fault Refusal :=
  match s.arg with
  | .num t _ _ _ =>
    let x := s.tile t
    match x.arrays with
    | j :: _ =>
      if j.ready && !x.arrayOn then
        .next ((s.modTile t fun x => { x with arrayOn := true }).dueIn j.cycles (.num .arrayPhaseEnd t))
      else .next s
    | [] => .next s
  | _ => .next s

/-! ### Array phases (R146, R150 to R153) -/

def denseTab (l : List Nat) : Tab Word32 :=
  ((List.range l.length).zip l).filterMap fun p => if p.2 % 2 ^ 32 = 0 then none else some (p.1, BitVec.ofNat 32 p.2)

def Core.sums (tab : Tab Word32) (n : Nat) : List Nat := (Tab.getMany (0 : Word32) tab 0 n).map BitVec.toNat

/-- The operands of an MMA as rows of A and columns of B. -/
structure Operands where
  rows : List (List Elem)
  cols : List (List Elem)
  ga : List (List (FV × Int))
  gb : List (List (FV × Int))

/-- Group words of `n` rows or columns, or none. -/
def groupRows (grouped : Bool) (t : Ty) (ng n : Nat) (words : List Nat) : List (List (FV × Int)) :=
  if grouped then pieces ng n (words.map (groupOf t)) else List.replicate n (List.replicate ng ungrouped)

/-- The operands: A as the read phase took it, B and the lists as they stand (R146). -/
def State.operands (s : State) (t : Nat) (j : ArrayJob) : Operands :=
  let c : FCtx := j.fctx
  let ra := codeBytes c.tyA
  let cb := codeBytes c.tyB
  let bs := (List.range 128).map (s.columnB t c)
  let bcodes := bs.flatMap fun x => codesOf c.tyB (x.take cb)
  { rows := pieces 128 32 (elemsOf c.escA c.tyA (fun n => s.burnEntry t 0 (c.baseA + j.base + n)) 0
      (codesOf c.tyA (j.data.take (32 * ra))))
    cols := pieces 128 128 (elemsOf c.escB c.tyB (fun n => s.burnEntry t 1 (c.baseB + n)) 0 bcodes)
    ga := groupRows (decide (c.mode = 1) && c.grpA) c.tyA c.groups 32 (wordsIn 4 (j.data.drop (32 * ra)))
    gb := groupRows (decide (c.mode = 1) && c.grpB) c.tyB c.groups 128 (bs.flatMap fun x => wordsIn 4 (x.drop cb)) }

/-- The rows of accumulators after an MMA, and the bits of MST (R152). -/
def mmaRows (c : FCtx) (o : Operands) (accs : List (List Nat)) : List (List (Nat × Nat)) :=
  let za := zpValue c.tyA c.zpA
  let zb := zpValue c.tyB c.zpB
  if c.mode = 0 then
    let fb := o.cols.map fun col => col.map (Elem.intFactor c.tyB zb)
    (o.rows.zip accs).map fun r =>
      let fa := r.1.map (Elem.intFactor c.tyA za)
      (fb.zip r.2).map fun p => accAdd c.sat p.2 ((fa.zip p.1).map fun q => q.1 * q.2).sum
  else if c.mode = 1 then
    let cut (l : List Elem) : List (List Elem) := pieces c.group c.groups l
    let cols := (o.cols.map cut).zip o.gb
    ((o.rows.zip o.ga).zip accs).map fun r =>
      let row := cut r.1.1
      (cols.zip r.2).map fun p =>
        (((groupChunk c.tyA c.tyB r.1.2 p.1.2 row p.1.1 (f32 p.2)).round .f32 .nearest false).1, 0)
  else
    let val (t : Ty) : Elem → FV
      | .code q => t.value q
      | .esc _ => fvZero
    let cols := o.cols.map fun col => col.map (val c.tyB)
    let nan := (o.rows.any fun r => r.any fun e => (val c.tyA e).isNaN) || cols.any fun col => col.any FV.isNaN
    (o.rows.zip accs).map fun r =>
      let row := r.1.map (val c.tyA)
      (cols.zip r.2).map fun p => (((floatChunk row p.1 (f32 p.2)).round .f32 .nearest false).1, if nan then 4 else 0)

/-- The columns that a poisoned word of the weight plane or of a burn list spoils (21 R420): its own column, or all of
them for an entry of list A. -/
def State.spoiled (s : State) (t : Nat) (j : ArrayJob) : List Nat :=
  if s.poison.isEmpty then []
  else
    let c : FCtx := j.fctx
    let na := countEscapes c.escA c.tyA (codesOf c.tyA (j.data.take (32 * codeBytes c.tyA)))
    let bad (list n : Nat) : Bool := (s.poisonIn (burnKey t list n) 4).isSome
    if (List.range na).any fun n => bad 0 (c.baseA + j.base + n) then List.range 128
    else
      let counts := (List.range 128).map fun k =>
        countEscapes c.escB c.tyB (codesOf c.tyB ((s.columnB t c k).take (codeBytes c.tyB)))
      (List.range 128).filter fun k =>
        (s.poisonIn (weightKey t k c.wb) c.sizeB).isSome ||
        ((List.range (counts.getD k 0)).any fun n => bad 1 (c.baseB + (counts.take k).sum + n))

/-- The array phase of an MMA (R152). -/
def State.mma (s : State) (t : Nat) (j : ArrayJob) : State :=
  let c : FCtx := j.fctx
  let g := j.by_.core
  let x := s.core g
  let o := s.operands t j
  let res := mmaRows c o (pieces 128 32 x.accs)
  let bad := s.spoiled t j
  let poison := if c.mode = 0 then 0x80000000 else 0x7FC00000
  let acc := res.flatMap fun row => (row.zip (List.range 128)).map fun p => if bad.contains p.2 then poison else p.1.1
  let bits := (res.flatMap fun row => row.map Prod.snd).foldl (· ||| ·) 0
  let sumOf (t : Ty) (z : Int) (old : Nat) (l : List Elem) : Nat := wrapNat 32 (old + (l.map (Elem.intFactor t z)).sum)
  let scol := if c.mode = 0 then
      denseTab (((Core.sums x.scol 32).zip o.rows).map fun p => sumOf c.tyA (zpValue c.tyA c.zpA) p.1 p.2)
    else x.scol
  let srow := if c.mode = 0 then
      denseTab (((Core.sums x.srow 128).zip o.cols).map fun p => sumOf c.tyB (zpValue c.tyB c.zpB) p.1 p.2)
    else x.srow
  let s := s.setCore g { x with acc := denseTab acc, scol := scol, srow := srow, mst := x.mst ||| BitVec.ofNat 64 bits }
  if bad.isEmpty then s else s.fault j.by_ (endedInfo stPoisoned 0 0)

/-- The array phase of MROW and MCOL (R153). -/
def State.rankOne (s : State) (j : ArrayJob) (row : Bool) : State :=
  let c : FCtx := j.fctx
  let g := j.by_.core
  let x := s.core g
  let coef := (wordsIn 4 j.data).map i32
  let us := if row then coef else (Core.sums x.scol 32).map i32
  let vs := if row then (Core.sums x.srow 128).map i32 else coef
  let res := ((pieces 128 32 x.accs).zip us).flatMap fun r => (r.1.zip vs).map fun p => accAdd c.sat p.1 (r.2 * p.2)
  s.setCore g { x with
    acc := denseTab (res.map Prod.fst)
    mst := x.mst ||| BitVec.ofNat 64 ((res.map Prod.snd).foldl (· ||| ·) 0) }

/-- What an array phase does when it ends. -/
def State.arrayWork (s : State) (t : Nat) (j : ArrayJob) : State :=
  match j.kind with
  | .zero => s.modCore j.by_.core fun c => { c with acc := [], srow := [], scol := [] }
  | .mma => s.mma t j
  | .mrow => s.rankOne j true
  | .mcol => s.rankOne j false
  | .weights =>
    let f := j.data.length / 128
    ((List.range 128).zip (pieces f 128 j.data)).foldl (fun s p => s.wrN (weightKey t p.1 j.base) p.2) s
  | .entries =>
    let ws := pieces 4 (j.data.length / 4) j.data
    ((List.range ws.length).zip ws).foldl (fun s p =>
      s.wrN (burnKey t ((j.base + p.1) / 4096) ((j.base + p.1) % 4096)) p.2) s

/-- R30 of 01: an array phase ends, its buffer frees, and the next may start -/
def execArrayPhaseEnd (s : State) : Host.Outcome State Fault Refusal :=
  match s.arg with
  | .num t _ _ _ =>
    let x := s.tile t
    match x.arrays with
    | j :: rest =>
      if x.arrayOn then
        let s := s.arrayWork t j
        let s := s.modTile t fun x => { x with arrays := rest, arrayOn := false, buffers := x.buffers - 1 }
        .next (s.due [.num .arrayPhaseStart t, .num .matrixPortGrant t])
      else .next s
    | [] => .next s
  | _ => .next s

/-! ### Instructions of page 1 -/

/-- R148: passes through the port; `grantOf` says what it does. -/
def execMctx (p : BitVec 3) (pm : PostMode) (pre : Prefixes) (s : State) : Host.Outcome State Fault Refusal :=
  .next (issueMatrix (.mctx p pm pre) pre s)

/-- R149: passes through the port; `grantOf` says what it does. -/
def execWpl (p : BitVec 3) (pm : PostMode) (pre : Prefixes) (s : State) : Host.Outcome State Fault Refusal :=
  .next (issueMatrix (.wpl p pm pre) pre s)

/-- R150: passes through the port; `grantOf` says what it does. -/
def execMzero (pre : Prefixes) (s : State) : Host.Outcome State Fault Refusal :=
  .next (issueMatrix (.mzero pre) pre s)

/-- R151: passes through the port; `grantOf` says what it does. -/
def execMma (p : BitVec 3) (pm : PostMode) (pre : Prefixes) (s : State) : Host.Outcome State Fault Refusal :=
  .next (issueMatrix (.mma p pm pre) pre s)

/-- R153: passes through the port; `grantOf` says what it does. -/
def execMrow (p : BitVec 3) (pm : PostMode) (pre : Prefixes) (s : State) : Host.Outcome State Fault Refusal :=
  .next (issueMatrix (.mrow p pm pre) pre s)

/-- R153: passes through the port; `grantOf` says what it does. -/
def execMcol (p : BitVec 3) (pm : PostMode) (pre : Prefixes) (s : State) : Host.Outcome State Fault Refusal :=
  .next (issueMatrix (.mcol p pm pre) pre s)

/-- R155: passes through the port; `grantOf` says what it does. -/
def execMdrain (p : BitVec 3) (pm : PostMode) (pre : Prefixes) (s : State) : Host.Outcome State Fault Refusal :=
  .next (issueMatrix (.mdrain p pm pre) pre s)

/-- R156: passes through the port; `grantOf` says what it does. -/
def execMdrainf (p : BitVec 3) (pm : PostMode) (pre : Prefixes) (s : State) : Host.Outcome State Fault Refusal :=
  .next (issueMatrix (.mdrainf p pm pre) pre s)

/-- R158: passes through the port; `grantOf` says what it does. -/
def execQnt (p : BitVec 3) (pm : PostMode) (pre : Prefixes) (s : State) : Host.Outcome State Fault Refusal :=
  .next (issueMatrix (.qnt p pm pre) pre s)

/-- R159: passes through the port; `grantOf` says what it does. -/
def execQntg (p : BitVec 3) (pm : PostMode) (pre : Prefixes) (s : State) : Host.Outcome State Fault Refusal :=
  .next (issueMatrix (.qntg p pm pre) pre s)

/-- R160: passes through the port; `grantOf` says what it does. -/
def execDeq (p : BitVec 3) (pm : PostMode) (pre : Prefixes) (s : State) : Host.Outcome State Fault Refusal :=
  .next (issueMatrix (.deq p pm pre) pre s)

/-- R161: passes through the port; `grantOf` says what it does. -/
def execBlset (p : BitVec 3) (pm : PostMode) (pre : Prefixes) (s : State) : Host.Outcome State Fault Refusal :=
  .next (issueMatrix (.blset p pm pre) pre s)

/-- R163: passes through the port; `grantOf` says what it does. -/
def execBlcnt (pre : Prefixes) (s : State) : Host.Outcome State Fault Refusal :=
  .next (issueMatrix (.blcnt pre) pre s)

end Sys2Proof.Machine
end

