-- ==== Sys2Proof/Machine/Served.lean ====
section
/-! DEFINITION. The reply that a context in WAIT-LOAD receives, and the requests that a device goes on with for it: those that wait at a record, for what they release, for a hand-over or for the host (01_tile_in_a_cycle R13; 15_sequences R348; 22_package_host R444). -/

namespace Sys2Proof.Machine

/-- A request goes on (logs 43, 47): with those that wait at its sequence where it is one of them; else by what it is. One whose
strand has been halted is not served, unless the device goes on with it of itself (15 R347). -/
def State.goOn (s : State) (r : Req) : State :=
  let pid := r.by_.pid
  let n := handleSlot (r.a.setWidth 32)
  let alive := s.awaits r.by_
  if r ∈ s.queueAt pid n then s.serveQueue pid n (s.queueAt pid n).length
  else if !alive && !goesOn r.op then s.forget 2 (reqDue r)
  else
    match r.op with
    | .new d => (s.seqNew r d.toNat alive).state
    | .spawn d => s.sendSpawn r d.toNat alive
    | .arm | .depdec => s.sendTask r alive
    | .tlbPage | .tlbJob | .tlbStack => s.sendInv r alive
    | .performed cycle pages => s.invWait r alive cycle pages
    | .rgnwr e => s.rgnwrAt r alive e
    | .written cycle => s.performedAt r alive fun a => a.local_ cycle
    | .layout what => s.layoutAt r alive what
    | _ => s.sendSeq r alive

/-- 01 R13: a reply lands in its context (operands 1 and 2), a load that a hand-over held is performed, or a request goes on -/
def execLoadReply (s : State) : Host.Outcome State Fault Refusal :=
  match s.arg with
  | .num g c _ _ => .next (s.landReply g c)
  | .load m keys => .next (s.landLoad m keys)
  | .req r => .next (s.goOn r)
  | .record pid n => .next (s.serveQueue pid n (s.queueAt pid n).length)
  | _ => .next s

end Sys2Proof.Machine
end

