-- ==== Sys2Proof/Machine/Dispatch.lean ====
section
/-! DEFINITION. Every step of the opcode table and its meaning: one arm per constructor. -/

namespace Sys2Proof.Machine

/-- The meaning of every row of the opcode table. -/
def exec (i : Instr) (s : State) : Host.Outcome State Fault Refusal :=
  match i with
  | .lda p pm disp pre => Sys2Proof.Machine.execLda p pm disp pre s
  | .sta p pm disp pre => Sys2Proof.Machine.execSta p pm disp pre s
  | .addMem p pm disp pre => Sys2Proof.Machine.execAddMem p pm disp pre s
  | .adc p pm disp pre => Sys2Proof.Machine.execAdc p pm disp pre s
  | .subMem p pm disp pre => Sys2Proof.Machine.execSubMem p pm disp pre s
  | .sbc p pm disp pre => Sys2Proof.Machine.execSbc p pm disp pre s
  | .mulMem p pm disp pre => Sys2Proof.Machine.execMulMem p pm disp pre s
  | .mulh p pm disp pre => Sys2Proof.Machine.execMulh p pm disp pre s
  | .div p pm disp pre => Sys2Proof.Machine.execDiv p pm disp pre s
  | .rem p pm disp pre => Sys2Proof.Machine.execRem p pm disp pre s
  | .andMem p pm disp pre => Sys2Proof.Machine.execAndMem p pm disp pre s
  | .orMem p pm disp pre => Sys2Proof.Machine.execOrMem p pm disp pre s
  | .xorMem p pm disp pre => Sys2Proof.Machine.execXorMem p pm disp pre s
  | .shlMem p pm disp pre => Sys2Proof.Machine.execShlMem p pm disp pre s
  | .shrMem p pm disp pre => Sys2Proof.Machine.execShrMem p pm disp pre s
  | .sarMem p pm disp pre => Sys2Proof.Machine.execSarMem p pm disp pre s
  | .rolMem p pm disp pre => Sys2Proof.Machine.execRolMem p pm disp pre s
  | .cmpMem p pm disp pre => Sys2Proof.Machine.execCmpMem p pm disp pre s
  | .tstMem p pm disp pre => Sys2Proof.Machine.execTstMem p pm disp pre s
  | .minMem p pm disp pre => Sys2Proof.Machine.execMinMem p pm disp pre s
  | .maxMem p pm disp pre => Sys2Proof.Machine.execMaxMem p pm disp pre s
  | .sel p pm disp pre => Sys2Proof.Machine.execSel p pm disp pre s
  | .faddMem p pm disp pre => Sys2Proof.Machine.execFaddMem p pm disp pre s
  | .fmulMem p pm disp pre => Sys2Proof.Machine.execFmulMem p pm disp pre s
  | .fmin p pm disp pre => Sys2Proof.Machine.execFmin p pm disp pre s
  | .fmax p pm disp pre => Sys2Proof.Machine.execFmax p pm disp pre s
  | .fcmp p pm disp pre => Sys2Proof.Machine.execFcmp p pm disp pre s
  | .mac pa pma pb pmb pre => Sys2Proof.Machine.execMac pa pma pb pmb pre s
  | .msb pa pma pb pmb pre => Sys2Proof.Machine.execMsb pa pma pb pmb pre s
  | .ffma pa pma pb pmb pre => Sys2Proof.Machine.execFfma pa pma pb pmb pre s
  | .movm pa pma pb pmb pre => Sys2Proof.Machine.execMovm pa pma pb pmb pre s
  | .ldi imm pre => Sys2Proof.Machine.execLdi imm pre s
  | .addImm imm pre => Sys2Proof.Machine.execAddImm imm pre s
  | .subImm imm pre => Sys2Proof.Machine.execSubImm imm pre s
  | .mulImm imm pre => Sys2Proof.Machine.execMulImm imm pre s
  | .andImm imm pre => Sys2Proof.Machine.execAndImm imm pre s
  | .orImm imm pre => Sys2Proof.Machine.execOrImm imm pre s
  | .xorImm imm pre => Sys2Proof.Machine.execXorImm imm pre s
  | .shlImm imm pre => Sys2Proof.Machine.execShlImm imm pre s
  | .shrImm imm pre => Sys2Proof.Machine.execShrImm imm pre s
  | .sarImm imm pre => Sys2Proof.Machine.execSarImm imm pre s
  | .rolImm imm pre => Sys2Proof.Machine.execRolImm imm pre s
  | .cmpImm imm pre => Sys2Proof.Machine.execCmpImm imm pre s
  | .tstImm imm pre => Sys2Proof.Machine.execTstImm imm pre s
  | .minImm imm pre => Sys2Proof.Machine.execMinImm imm pre s
  | .maxImm imm pre => Sys2Proof.Machine.execMaxImm imm pre s
  | .addX pre => Sys2Proof.Machine.execAddX pre s
  | .subX pre => Sys2Proof.Machine.execSubX pre s
  | .andX pre => Sys2Proof.Machine.execAndX pre s
  | .orX pre => Sys2Proof.Machine.execOrX pre s
  | .xorX pre => Sys2Proof.Machine.execXorX pre s
  | .mulX pre => Sys2Proof.Machine.execMulX pre s
  | .cmpX pre => Sys2Proof.Machine.execCmpX pre s
  | .xcha pre => Sys2Proof.Machine.execXcha pre s
  | .clz pre => Sys2Proof.Machine.execClz pre s
  | .popc pre => Sys2Proof.Machine.execPopc pre s
  | .faddX pre => Sys2Proof.Machine.execFaddX pre s
  | .fmulX pre => Sys2Proof.Machine.execFmulX pre s
  | .fcvt dir pre => Sys2Proof.Machine.execFcvt dir pre s
  | .frcp pre => Sys2Proof.Machine.execFrcp pre s
  | .movp pd ps acc pre => Sys2Proof.Machine.execMovp pd ps acc pre s
  | .addp pd pre => Sys2Proof.Machine.execAddp pd pre s
  | .sets pd imm pre => Sys2Proof.Machine.execSets pd imm pre s
  | .getp p pre => Sys2Proof.Machine.execGetp p pre s
  | .ret pre => Sys2Proof.Machine.execRet pre s
  | .movf pre => Sys2Proof.Machine.execMovf pre s
  | .getf pre => Sys2Proof.Machine.execGetf pre s
  | .nop pre => Sys2Proof.Machine.execNop pre s
  | .jmp off pre => Sys2Proof.Machine.execJmp off pre s
  | .brZ off pre => Sys2Proof.Machine.execBrZ off pre s
  | .brNz off pre => Sys2Proof.Machine.execBrNz off pre s
  | .brN off pre => Sys2Proof.Machine.execBrN off pre s
  | .brNn off pre => Sys2Proof.Machine.execBrNn off pre s
  | .brC off pre => Sys2Proof.Machine.execBrC off pre s
  | .brNc off pre => Sys2Proof.Machine.execBrNc off pre s
  | .brV off pre => Sys2Proof.Machine.execBrV off pre s
  | .brNv off pre => Sys2Proof.Machine.execBrNv off pre s
  | .brGt off pre => Sys2Proof.Machine.execBrGt off pre s
  | .brGe off pre => Sys2Proof.Machine.execBrGe off pre s
  | .brLt off pre => Sys2Proof.Machine.execBrLt off pre s
  | .brLe off pre => Sys2Proof.Machine.execBrLe off pre s
  | .call off pre => Sys2Proof.Machine.execCall off pre s
  | .loop off pre => Sys2Proof.Machine.execLoop off pre s
  | .jmpA pre => Sys2Proof.Machine.execJmpA pre s
  | .callA pre => Sys2Proof.Machine.execCallA pre s
  | .vld vd p m pre => Sys2Proof.Machine.execVld vd p m pre s
  | .vst vd p m pre => Sys2Proof.Machine.execVst vd p m pre s
  | .vldt vd p m pre => Sys2Proof.Machine.execVldt vd p m pre s
  | .vmov vd vs pre => Sys2Proof.Machine.execVmov vd vs pre s
  | .vbcast vd pre => Sys2Proof.Machine.execVbcast vd pre s
  | .vadd vd vs pre => Sys2Proof.Machine.execVadd vd vs pre s
  | .vsub vd vs pre => Sys2Proof.Machine.execVsub vd vs pre s
  | .vmul vd vs pre => Sys2Proof.Machine.execVmul vd vs pre s
  | .vfma vd vs pre => Sys2Proof.Machine.execVfma vd vs pre s
  | .vmin vd vs pre => Sys2Proof.Machine.execVmin vd vs pre s
  | .vmax vd vs pre => Sys2Proof.Machine.execVmax vd vs pre s
  | .vabs vd vs pre => Sys2Proof.Machine.execVabs vd vs pre s
  | .vneg vd vs pre => Sys2Proof.Machine.execVneg vd vs pre s
  | .vand vd vs pre => Sys2Proof.Machine.execVand vd vs pre s
  | .vor vd vs pre => Sys2Proof.Machine.execVor vd vs pre s
  | .vxor vd vs pre => Sys2Proof.Machine.execVxor vd vs pre s
  | .vshl vd vs pre => Sys2Proof.Machine.execVshl vd vs pre s
  | .vshr vd vs pre => Sys2Proof.Machine.execVshr vd vs pre s
  | .vcmpEq vd vs pre => Sys2Proof.Machine.execVcmpEq vd vs pre s
  | .vcmpLt vd vs pre => Sys2Proof.Machine.execVcmpLt vd vs pre s
  | .vcmpLe vd vs pre => Sys2Proof.Machine.execVcmpLe vd vs pre s
  | .vsel vd vs pre => Sys2Proof.Machine.execVsel vd vs pre s
  | .vcvt vd vs pre => Sys2Proof.Machine.execVcvt vd vs pre s
  | .vred vd vs pre => Sys2Proof.Machine.execVred vd vs pre s
  | .vscan vd vs pre => Sys2Proof.Machine.execVscan vd vs pre s
  | .vperm vd vs pre => Sys2Proof.Machine.execVperm vd vs pre s
  | .vexp2 vd vs pre => Sys2Proof.Machine.execVexp2 vd vs pre s
  | .vlog2 vd vs pre => Sys2Proof.Machine.execVlog2 vd vs pre s
  | .vrcp vd vs pre => Sys2Proof.Machine.execVrcp vd vs pre s
  | .vrsq vd vs pre => Sys2Proof.Machine.execVrsq vd vs pre s
  | .vclamp vd vs pre => Sys2Proof.Machine.execVclamp vd vs pre s
  | .rep n s_ pre => Sys2Proof.Machine.execRep n s_ pre s
  | .waitc c imm i_ pre => Sys2Proof.Machine.execWaitc c imm i_ pre s
  | .sleep c imm i_ pre => Sys2Proof.Machine.execSleep c imm i_ pre s
  | .setc c imm i_ pre => Sys2Proof.Machine.execSetc c imm i_ pre s
  | .addc c imm i_ pre => Sys2Proof.Machine.execAddc c imm i_ pre s
  | .bar s_ pre => Sys2Proof.Machine.execBar s_ pre s
  | .fence s_ pre => Sys2Proof.Machine.execFence s_ pre s
  | .fenceAcq s_ pre => Sys2Proof.Machine.execFenceAcq s_ pre s
  | .fenceRel s_ pre => Sys2Proof.Machine.execFenceRel s_ pre s
  | .hstart h pre => Sys2Proof.Machine.execHstart h pre s
  | .hexit pre => Sys2Proof.Machine.execHexit pre s
  | .hjoin h pre => Sys2Proof.Machine.execHjoin h pre s
  | .yield pre => Sys2Proof.Machine.execYield pre s
  | .trap code pre => Sys2Proof.Machine.execTrap code pre s
  | .cpy p pm pre => Sys2Proof.Machine.execCpy p pm pre s
  | .cpyc p pm pre => Sys2Proof.Machine.execCpyc p pm pre s
  | .mctx p pm pre => Sys2Proof.Machine.execMctx p pm pre s
  | .wpl p pm pre => Sys2Proof.Machine.execWpl p pm pre s
  | .mzero pre => Sys2Proof.Machine.execMzero pre s
  | .mma p pm pre => Sys2Proof.Machine.execMma p pm pre s
  | .mrow p pm pre => Sys2Proof.Machine.execMrow p pm pre s
  | .mcol p pm pre => Sys2Proof.Machine.execMcol p pm pre s
  | .mdrain p pm pre => Sys2Proof.Machine.execMdrain p pm pre s
  | .mdrainf p pm pre => Sys2Proof.Machine.execMdrainf p pm pre s
  | .qnt p pm pre => Sys2Proof.Machine.execQnt p pm pre s
  | .qntg p pm pre => Sys2Proof.Machine.execQntg p pm pre s
  | .deq p pm pre => Sys2Proof.Machine.execDeq p pm pre s
  | .blset p pm pre => Sys2Proof.Machine.execBlset p pm pre s
  | .blcnt pre => Sys2Proof.Machine.execBlcnt pre s
  | .ldg p pm pre => Sys2Proof.Machine.execLdg p pm pre s
  | .stg p pm pre => Sys2Proof.Machine.execStg p pm pre s
  | .ldw p pm pre => Sys2Proof.Machine.execLdw p pm pre s
  | .stw p pm pre => Sys2Proof.Machine.execStw p pm pre s
  | .ldgAcq p pm s_ pre => Sys2Proof.Machine.execLdgAcq p pm s_ pre s
  | .stgRel p pm s_ pre => Sys2Proof.Machine.execStgRel p pm s_ pre s
  | .ldwAcq p pm s_ pre => Sys2Proof.Machine.execLdwAcq p pm s_ pre s
  | .stwRel p pm s_ pre => Sys2Proof.Machine.execStwRel p pm s_ pre s
  | .put p pm pre => Sys2Proof.Machine.execPut p pm pre s
  | .putc p pm pre => Sys2Proof.Machine.execPutc p pm pre s
  | .mcst p pm pre => Sys2Proof.Machine.execMcst p pm pre s
  | .winset w pre => Sys2Proof.Machine.execWinset w pre s
  | .atomAdd p o s_ pre => Sys2Proof.Machine.execAtomAdd p o s_ pre s
  | .atomMin p o s_ pre => Sys2Proof.Machine.execAtomMin p o s_ pre s
  | .atomMax p o s_ pre => Sys2Proof.Machine.execAtomMax p o s_ pre s
  | .atomAnd p o s_ pre => Sys2Proof.Machine.execAtomAnd p o s_ pre s
  | .atomOr p o s_ pre => Sys2Proof.Machine.execAtomOr p o s_ pre s
  | .atomXor p o s_ pre => Sys2Proof.Machine.execAtomXor p o s_ pre s
  | .atomXchg p o s_ pre => Sys2Proof.Machine.execAtomXchg p o s_ pre s
  | .atomCas p o s_ pre => Sys2Proof.Machine.execAtomCas p o s_ pre s
  | .atomnAdd p o s_ pre => Sys2Proof.Machine.execAtomnAdd p o s_ pre s
  | .atomnMin p o s_ pre => Sys2Proof.Machine.execAtomnMin p o s_ pre s
  | .atomnMax p o s_ pre => Sys2Proof.Machine.execAtomnMax p o s_ pre s
  | .atomnAnd p o s_ pre => Sys2Proof.Machine.execAtomnAnd p o s_ pre s
  | .atomnOr p o s_ pre => Sys2Proof.Machine.execAtomnOr p o s_ pre s
  | .atomnXor p o s_ pre => Sys2Proof.Machine.execAtomnXor p o s_ pre s
  | .tok pre => Sys2Proof.Machine.execTok pre s
  | .tokn pre => Sys2Proof.Machine.execTokn pre s
  | .atok pre => Sys2Proof.Machine.execAtok pre s
  | .cvoid pre => Sys2Proof.Machine.execCvoid pre s
  | .cpeek pre => Sys2Proof.Machine.execCpeek pre s
  | .netred fn noTrap s_ pre => Sys2Proof.Machine.execNetred fn noTrap s_ pre s
  | .nbar s_ pre => Sys2Proof.Machine.execNbar s_ pre s
  | .spawn p pm pre => Sys2Proof.Machine.execSpawn p pm pre s
  | .arm pre => Sys2Proof.Machine.execArm pre s
  | .link pre => Sys2Proof.Machine.execLink pre s
  | .depdec pre => Sys2Proof.Machine.execDepdec pre s
  | .gnew pre => Sys2Proof.Machine.execGnew pre s
  | .gcancel pre => Sys2Proof.Machine.execGcancel pre s
  | .gwait pre => Sys2Proof.Machine.execGwait pre s
  | .qres pre => Sys2Proof.Machine.execQres pre s
  | .qpost p pm pre => Sys2Proof.Machine.execQpost p pm pre s
  | .tcbrd d pre => Sys2Proof.Machine.execTcbrd d pre s
  | .sqnew p pm pre => Sys2Proof.Machine.execSqnew p pm pre s
  | .sqres pre => Sys2Proof.Machine.execSqres pre s
  | .sqcmt pre => Sys2Proof.Machine.execSqcmt pre s
  | .sqvoidCancel pre => Sys2Proof.Machine.execSqvoidCancel pre s
  | .sqvoidCommit pre => Sys2Proof.Machine.execSqvoidCommit pre s
  | .sqlen pre => Sys2Proof.Machine.execSqlen pre s
  | .sqfork pre => Sys2Proof.Machine.execSqfork pre s
  | .sqclose pre => Sys2Proof.Machine.execSqclose pre s
  | .sqdrop pre => Sys2Proof.Machine.execSqdrop pre s
  | .sqaddr pre => Sys2Proof.Machine.execSqaddr pre s
  | .eret pre => Sys2Proof.Machine.execEret pre s
  | .csave p pm pre => Sys2Proof.Machine.execCsave p pm pre s
  | .cload p pm pre => Sys2Proof.Machine.execCload p pm pre s
  | .tlbinvPage pre => Sys2Proof.Machine.execTlbinvPage pre s
  | .tlbinvJob pre => Sys2Proof.Machine.execTlbinvJob pre s
  | .tlbinvStack pre => Sys2Proof.Machine.execTlbinvStack pre s
  | .fltrdTake p pm pre => Sys2Proof.Machine.execFltrdTake p pm pre s
  | .fltrdResume p pm pre => Sys2Proof.Machine.execFltrdResume p pm pre s
  | .fltrdPeek p pm pre => Sys2Proof.Machine.execFltrdPeek p pm pre s
  | .stkpass c k pre => Sys2Proof.Machine.execStkpass c k pre s
  | .rgnrd e pre => Sys2Proof.Machine.execRgnrd e pre s
  | .rgnwr e pre => Sys2Proof.Machine.execRgnwr e pre s
  | .plcmtPrep pre => Sys2Proof.Machine.execPlcmtPrep pre s
  | .plcmtCommit pre => Sys2Proof.Machine.execPlcmtCommit pre s
  | .plcmtAbort pre => Sys2Proof.Machine.execPlcmtAbort pre s
  | .illegalInstruction detail => Sys2Proof.Machine.execIllegalInstruction detail s
  | .contextSelect => Sys2Proof.Machine.execContextSelect s
  | .loadReply => Sys2Proof.Machine.execLoadReply s
  | .icacheMissFill => Sys2Proof.Machine.execIcacheMissFill s
  | .scalarAccessRetry => Sys2Proof.Machine.execScalarAccessRetry s
  | .counterIncrement => Sys2Proof.Machine.execCounterIncrement s
  | .vectorBind => Sys2Proof.Machine.execVectorBind s
  | .repBodyLoad => Sys2Proof.Machine.execRepBodyLoad s
  | .matrixPortGrant => Sys2Proof.Machine.execMatrixPortGrant s
  | .matrixRetire => Sys2Proof.Machine.execMatrixRetire s
  | .arrayPhaseStart => Sys2Proof.Machine.execArrayPhaseStart s
  | .arrayPhaseEnd => Sys2Proof.Machine.execArrayPhaseEnd s
  | .windowAccessCheck => Sys2Proof.Machine.execWindowAccessCheck s
  | .putDelivery => Sys2Proof.Machine.execPutDelivery s
  | .deferredRefusal => Sys2Proof.Machine.execDeferredRefusal s
  | .atomicPerform => Sys2Proof.Machine.execAtomicPerform s
  | .mcstReplicaWrite => Sys2Proof.Machine.execMcstReplicaWrite s
  | .postedOpFailure => Sys2Proof.Machine.execPostedOpFailure s
  | .copyServe => Sys2Proof.Machine.execCopyServe s
  | .copyComplete => Sys2Proof.Machine.execCopyComplete s
  | .copyFaultHold => Sys2Proof.Machine.execCopyFaultHold s
  | .chainHop => Sys2Proof.Machine.execChainHop s
  | .barArrival => Sys2Proof.Machine.execBarArrival s
  | .barRelease => Sys2Proof.Machine.execBarRelease s
  | .balancerTraversal => Sys2Proof.Machine.execBalancerTraversal s
  | .exitServeToken => Sys2Proof.Machine.execExitServeToken s
  | .exitServeAntitoken => Sys2Proof.Machine.execExitServeAntitoken s
  | .cancellationArrival => Sys2Proof.Machine.execCancellationArrival s
  | .peekArrival => Sys2Proof.Machine.execPeekArrival s
  | .toknResultWrite => Sys2Proof.Machine.execToknResultWrite s
  | .reductionArrival => Sys2Proof.Machine.execReductionArrival s
  | .countingBarrierArrival => Sys2Proof.Machine.execCountingBarrierArrival s
  | .planePowerUp => Sys2Proof.Machine.execPlanePowerUp s
  | .planePowerDown => Sys2Proof.Machine.execPlanePowerDown s
  | .escapeChannelMove => Sys2Proof.Machine.execEscapeChannelMove s
  | .placementPass => Sys2Proof.Machine.execPlacementPass s
  | .priorityAging => Sys2Proof.Machine.execPriorityAging s
  | .taskCompletion => Sys2Proof.Machine.execTaskCompletion s
  | .stopBathSettle => Sys2Proof.Machine.execStopBathSettle s
  | .taskNofitCancel => Sys2Proof.Machine.execTaskNofitCancel s
  | .queueRecordFetch => Sys2Proof.Machine.execQueueRecordFetch s
  | .stampRetry => Sys2Proof.Machine.execStampRetry s
  | .qpostDelivery => Sys2Proof.Machine.execQpostDelivery s
  | .hostLaunch => Sys2Proof.Machine.execHostLaunch s
  | .hostGnew => Sys2Proof.Machine.execHostGnew s
  | .hostArm => Sys2Proof.Machine.execHostArm s
  | .hostDepdec => Sys2Proof.Machine.execHostDepdec s
  | .hostGcancel => Sys2Proof.Machine.execHostGcancel s
  | .hostLink => Sys2Proof.Machine.execHostLink s
  | .grelease => Sys2Proof.Machine.execGrelease s
  | .hostBadcmd => Sys2Proof.Machine.execHostBadcmd s
  | .pageWalk => Sys2Proof.Machine.execPageWalk s
  | .preemptSave => Sys2Proof.Machine.execPreemptSave s
  | .preemptRestore => Sys2Proof.Machine.execPreemptRestore s
  | .tileReclaim => Sys2Proof.Machine.execTileReclaim s
  | .layoutSwitch => Sys2Proof.Machine.execLayoutSwitch s
  | .bankSwap => Sys2Proof.Machine.execBankSwap s
  | .handoverStep => Sys2Proof.Machine.execHandoverStep s
  | .functionLevelReset => Sys2Proof.Machine.execFunctionLevelReset s
  | .resetDrainEnd => Sys2Proof.Machine.execResetDrainEnd s
  | .traceRecordWrite => Sys2Proof.Machine.execTraceRecordWrite s
  | .patrolScrub => Sys2Proof.Machine.execPatrolScrub s
  | .linkCrcReplay => Sys2Proof.Machine.execLinkCrcReplay s
  | .sendWindowAudit => Sys2Proof.Machine.execSendWindowAudit s
  | .windowParityError => Sys2Proof.Machine.execWindowParityError s
  | .clusterLogicError => Sys2Proof.Machine.execClusterLogicError s
  | .hbmChannelRetire => Sys2Proof.Machine.execHbmChannelRetire s
  | .linkRetire => Sys2Proof.Machine.execLinkRetire s
  | .stackRetire => Sys2Proof.Machine.execStackRetire s
  | .clusterRetire => Sys2Proof.Machine.execClusterRetire s
  | .watchdogExpiry => Sys2Proof.Machine.execWatchdogExpiry s
  | .thermalThreshold => Sys2Proof.Machine.execThermalThreshold s
  | .thermalReset => Sys2Proof.Machine.execThermalReset s
  | .podMessageReceive => Sys2Proof.Machine.execPodMessageReceive s
  | .podFlitReplay => Sys2Proof.Machine.execPodFlitReplay s
  | .podDeliveryTimeout => Sys2Proof.Machine.execPodDeliveryTimeout s
  | .podBarrierArrival => Sys2Proof.Machine.execPodBarrierArrival s
  | .notifyQueue => Sys2Proof.Machine.execNotifyQueue s
  | .registerWrite => Sys2Proof.Machine.execRegisterWrite s
  | .eventPost => Sys2Proof.Machine.execEventPost s
  | .qcfg => Sys2Proof.Machine.execQcfg s
  | .setMode => Sys2Proof.Machine.execSetMode s
  | .layoutPrepare => Sys2Proof.Machine.execLayoutPrepare s
  | .layoutCommit => Sys2Proof.Machine.execLayoutCommit s
  | .layoutAbort => Sys2Proof.Machine.execLayoutAbort s
  | .retire => Sys2Proof.Machine.execRetire s
  | .returnUnit => Sys2Proof.Machine.execReturnUnit s
  | .answer => Sys2Proof.Machine.execAnswer s
  | .resumeFault => Sys2Proof.Machine.execResumeFault s
  | .attest => Sys2Proof.Machine.execAttest s
  | .fwload => Sys2Proof.Machine.execFwload s
  | .podcfgSetPkgn => Sys2Proof.Machine.execPodcfgSetPkgn s
  | .podcfgSetRoute => Sys2Proof.Machine.execPodcfgSetRoute s
  | .mboxBadcmd => Sys2Proof.Machine.execMboxBadcmd s
  | .powerOn => Sys2Proof.Machine.execPowerOn s
  | .creditExhausted => Sys2Proof.Machine.execCreditExhausted s
  | .managementMemoryError => Sys2Proof.Machine.execManagementMemoryError s
  | .linkLayerFailure => Sys2Proof.Machine.execLinkLayerFailure s

end Sys2Proof.Machine
end

