-- ==== Sys2Proof/Machine/Issue.lean ====
section
/-! DEFINITION. What a step does next: a device step that is due, or an instruction of the core whose turn it is (01_tile_in_a_cycle R13 to R15, R20; 08_kernel_memory R190; 16_contexts_translation R350; 17_partitions_stacks R386; 22_package_host R448; log 1). -/

namespace Sys2Proof.Machine

/-- What a step begins with: a row of the table in a state ready for its meaning, or a state that is the result. -/
inductive Begun where
  | run (i : Instr) (s : State)
  | done (s : State)
deriving DecidableEq, Repr

/-- Can a core issue: has it a RUNNING context and no unserved access (01 R13, R27)? -/
def Core.canIssue (c : Core) : Bool := c.running.isSome && !c.stalled

/-- Are the helpers of a core's task stopped at their instruction boundaries (16 R350)? They are while it is being
pre-empted, once every live context 0 of it has arrived at a BAR and no reduction or counting barrier of it is open. -/
def State.parked (s : State) (g : Nat) : Bool :=
  match s.taskOf g with
  | none => false
  | some (_, t) =>
    t.stopping && (t.cores.all fun h => (s.ctx h 0).atBoundary 0) && !s.combining (s.pidOf g) t.self

/-- The next core in ring order after the one that issued last. -/
def State.nextCore (s : State) : Option Nat :=
  let l := (s.cores.filter fun e => e.2.canIssue && !s.parked e.1).map Prod.fst
  match l.find? fun g => decide (s.turn < g) with
  | some g => some g
  | none => l.head?

/-- SQVOID and FLTRD name their function in X (15 R340; 16 R368). -/
def refine (k : Ctx) : Instr → Instr
  | .sqvoidCancel pre => if k.x.getLsbD 63 then .sqvoidCommit pre else .sqvoidCancel pre
  | .fltrdTake p pm pre =>
    match field k.x 0 2 with
    | 1 => .fltrdResume p pm pre
    | 2 => .fltrdPeek p pm pre
    | _ => .fltrdTake p pm pre
  | i => i

/-- Does an instruction put packets on the package's networks? -/
def injects : Instr → Bool
  | .ldg .. | .stg .. | .ldw .. | .stw .. | .ldgAcq .. | .stgRel .. | .ldwAcq .. | .stwRel .. | .put .. | .putc .. | .mcst ..
  | .atomAdd .. | .atomMin .. | .atomMax .. | .atomAnd .. | .atomOr .. | .atomXor .. | .atomXchg .. | .atomCas ..
  | .atomnAdd .. | .atomnMin .. | .atomnMax .. | .atomnAnd .. | .atomnOr .. | .atomnXor .. | .cpy .. | .cpyc .. | .bar ..
  | .tok .. | .tokn .. | .atok .. | .cvoid .. | .cpeek .. | .netred .. | .nbar ..
  | .spawn .. | .arm .. | .link .. | .depdec .. | .gnew .. | .gcancel .. | .gwait .. | .qres .. | .qpost .. | .tcbrd ..
  | .sqnew .. | .sqres .. | .sqcmt .. | .sqvoidCancel .. | .sqvoidCommit .. | .sqlen .. | .sqfork .. | .sqclose .. | .sqdrop ..
  | .sqaddr .. | .tlbinvPage .. | .tlbinvJob .. | .tlbinvStack .. | .fltrdTake .. | .fltrdResume .. | .fltrdPeek ..
  | .stkpass .. | .rgnrd .. | .rgnwr .. | .plcmtPrep .. | .plcmtCommit .. | .plcmtAbort .. => true
  | _ => false

/-- Is the injection of packets of the partition that a core works for held while a routing bank drains (17 R386)? -/
def State.injectionHeld (s : State) (g : Nat) : Bool := decide (s.pidOf g ∈ s.board.draining)

/-- The core whose turn it is issues: a deferred refusal of its RUNNING context comes first while INH = 0
(08 R190), then the instruction at the PC. While the injection of its partition is held, an instruction that injects
stalls, as with a full posted-write queue (17 R386). -/
def State.issueNext (s : State) : Begun :=
  let c := s.core s.me
  let k := s.strand
  if !k.inh && c.refusals.any fun r => decide (r.ctx = s.myCtx) then
    .run .deferredRefusal { s with arg := .num s.me s.myCtx 0 0 }
  else
    match (s.tile s.myTile).fetch k.pc with
    | .miss va => .done (if s.injectionHeld s.me then s.stall else s.fetchMiss s.me s.myCtx va)
    | .trap t =>
      if t.kind = kIllegal then .run (.illegalInstruction t.detail) s else .done (s.raise t)
    | .instr i _ => if s.injectionHeld s.me && injects i then .done s.stall else .run (refine k i) s

/-- The device steps whose cycle has come join the ones that are due. -/
def State.tick (s : State) : State :=
  let now := s.now + 1
  { s with now := now, agenda := s.agenda ++ (s.later.filter fun e => decide (e.1 ≤ now)).map Prod.snd,
           later := s.later.filter fun e => decide (now < e.1) }

/-- Is a step one of the module in recovery: of the PF's registers, which serve FWLOAD alone, and power-on (22 R442, R448)? -/
def inRecovery : Instr → Bool
  | .registerWrite | .qcfg | .setMode | .layoutPrepare | .layoutCommit | .layoutAbort | .retire | .returnUnit | .answer
  | .resumeFault | .attest | .fwload | .podcfgSetPkgn | .podcfgSetRoute | .mboxBadcmd | .powerOn | .thermalReset => true
  | _ => false

/-- A step begins: time passes; the first device step that is due runs; with none due the next core issues; with no
core to issue nothing else happens (log 1). In recovery every part of the device but the PF stays in reset (22 R448). -/
def State.begin_ (s : State) : Begun :=
  let s := s.tick
  match s.agenda with
  | d :: rest =>
    let s := { s with agenda := rest, arg := d.arg }
    if s.mgmt.recovery && !inRecovery d.what then .done s else .run d.what s
  | [] =>
    match (if s.mgmt.recovery then none else s.nextCore) with
    | some g => { s with turn := g }.issueNext
    | none => .done s

/-- Words placed in an instruction cache from an address on. -/
def Tile.place (x : Tile) (va : Addr) : List Half → Tile
  | [] => x
  | w :: ws => Tile.place (x.fill va w) (va + 2) ws

/-- A state in which core 0 of tile 0 issues next, from context 0, the words given: nothing that is due, is held or is stopped
comes before it (log 3). -/
def State.placeWords (s : State) (ws : List Half) : State :=
  let c := s.core 0
  let k := c.ctx 0
  let pc : Addr := if 0xEF ≤ field k.pc 40 8 then 0 else k.pc
  let s := { s with agenda := [], later := [], turn := 4095, mgmt := { s.mgmt with recovery := false }
                    board := { s.board with draining := [] } }
  let s := s.withTask (s.pidOf 0) (s.tcbOf 0) fun t => { t with stopping := false }
  let s := s.setCore 0 { c with running := some 0, stalled := false, refusals := [] }
  let s := s.setCtx 0 0 { k with live := true, mode := .running, pc := pc }
  s.modTile 0 fun x => x.place pc ws

end Sys2Proof.Machine
end

