-- ==== Sys2Proof/Machine/Step.lean ====
section
/-! DEFINITION. One step of the machine, and an instruction placed where the next step fetches it. -/

namespace Sys2Proof.Machine

/-- One step: the first device step that is due, else the next core that can issue does so, else time passes. -/
def step (s : State) : Host.Outcome State Fault Refusal :=
  match s.begin_ with
  | .run i s' => exec i s'
  | .done s' => .next s'

/-- The words of an instruction at the fetch address of core 0 of tile 0, its context 0 running (log 3). -/
def State.withFetchWord (s : State) (nbits w : Nat) : State :=
  s.placeWords (wordsOf ((nbits + 15) / 16) w ++ List.replicate 8 0)

end Sys2Proof.Machine
end

