-- ==== Sys2Proof/Safety.lean ====
section
/-! DEFINITION. What the claims speak of: a step that runs on, the states that every run keeps, and the manual's own arithmetic, said beside the model's. -/

namespace Sys2Proof.Machine

/-- A step runs on: it neither faults nor is refused. -/
def RunsOn (s : State) : Prop := ∃ t, step s = .next t

/-- Memory is in its canonical form: addresses rise strictly and no listed byte is what an unlisted one reads as. -/
def State.MemOk (s : State) : Prop := s.mem.wf = true

/-- A context's table of pointers is in canonical form. -/
def Ctx.Ok (k : Ctx) : Prop := Tab.wf Ptr.zero k.ptrs = true

/-- A core's tables of contexts and of counters are in canonical form, and so is each context. -/
def Core.Ok (c : Core) : Prop := Tab.wf Ctx.idle c.ctxs = true ∧ Tab.wf 0 c.counters = true ∧ ∀ n, (c.ctx n).Ok

/-- A partition's tables of tasks, graphs, counting instances, sequences and held faults are in canonical form. -/
def Part.Ok (p : Part) : Prop :=
  Tab.wf Task.absent p.tasks = true ∧ Tab.wf 0 p.graphs = true ∧ Tab.wf Inst.free p.insts = true ∧
    Tab.wf 0 p.seqs = true ∧ Tab.wf none p.held = true

/-- The package's own tables are in canonical form: poison, region entries, stack owners, routing entries, retired units, send windows,
work queues, and what the package knows of the others of its pod. -/
def State.TablesOk (s : State) : Prop :=
  Tab.wf false s.poison = true ∧ Tab.wf 0 s.board.regions = true ∧ Tab.wf false s.board.owners = true ∧
    Tab.wf 0 s.board.banks = true ∧ Tab.wf false s.mgmt.retired = true ∧ Tab.wf 0 s.mgmt.windows = true ∧ Tab.wf false s.mgmt.stopped = true ∧
    Tab.wf 0 s.host.queues = true ∧ Tab.wf 0 s.pod.routes = true ∧ Tab.wf false s.pod.unreachable = true ∧
    Tab.wf 0 s.pod.numbers = true

/-- The canonical form that every run keeps: memory, the tables of cores, tiles and partitions, in each core the tables
of contexts, counters and pointers, in each partition those of `Part.Ok`, and the package's tables list their keys in
rising order and no entry that reads as an unlisted one, so that what has been written is what is read. -/
def State.Ok (s : State) : Prop :=
  s.MemOk ∧ Tab.wf Core.idle s.cores = true ∧ Tab.wf Tile.idle s.tiles = true ∧ Tab.wf Part.absent s.parts = true ∧
    (∀ g, (s.core g).Ok) ∧ (∀ pid, (s.part pid).Ok) ∧ s.TablesOk

/-- The strand that issues has a true predicate in the instruction with these prefixes (02 R40, R41). -/
def State.Chosen (s : State) (pre : Prefixes) : Prop := s.strand.cond pre.pred.toNat = true

/-- The read of one byte by key. -/
def State.byte (s : State) (k : Nat) : Byte := s.mem.read k

/-! ### Scalar operations (05_scalar_vector R105 to R108), as operations on 64-bit patterns -/

/-- The 64 bits that an operation gives for `d` and `m`, with the mask `x` of SEL (R107, R108). -/
def aluValue (op : IntOp) (uns carry : Bool) (d m x : Word64) : Word64 :=
  let c : Word64 := if carry then 1 else 0
  let n := m.toNat % 64
  match op with
  | .add => d + m
  | .adc => d + m + c
  | .sub => d - m
  | .sbc => d - m - (1 - c)
  | .mul => d * m
  | .mulh =>
    if uns then ((d.setWidth 128 * m.setWidth 128) >>> 64).setWidth 64
    else ((d.signExtend 128 * m.signExtend 128) >>> 64).setWidth 64
  | .div => if m = 0 then BitVec.allOnes 64 else if uns then d / m else d.sdiv m
  | .rem => if m = 0 then d else if uns then d % m else d.srem m
  | .and => d &&& m
  | .or => d ||| m
  | .xor => d ^^^ m
  | .shl => d <<< n
  | .shr => d >>> n
  | .sar => d.sshiftRight n
  | .rol => d.rotateLeft n
  | .cmp => d - m
  | .tst => d &&& m
  | .min => if (if uns then d.ule m else d.sle m) then d else m
  | .max => if (if uns then m.ule d else m.sle d) then d else m
  | .sel => (m &&& x) ||| (d &&& ~~~x)

/-- The exact result of the operations that accept SAT, in the signedness of the type (R102, R107). -/
def aluExact (op : IntOp) (uns carry : Bool) (d m : Word64) : Int :=
  let val (w : Word64) : Int := if uns then (w.toNat : Int) else w.toInt
  match op with
  | .adc => val d + val m + carry.toNat
  | .sub => val d - val m
  | .sbc => val d - val m - (1 - carry.toNat)
  | .mul => val d * val m
  | _ => val d + val m

/-- The carry of an operation, where it names one (R105, R107). -/
def aluCarry (op : IntOp) (carry : Bool) (d m : Word64) : Option Bool :=
  let n := m.toNat % 64
  match op with
  | .add => some ((d.setWidth 65 + m.setWidth 65).getLsbD 64)
  | .adc => some ((d.setWidth 65 + m.setWidth 65 + (if carry then 1 else 0)).getLsbD 64)
  | .sub | .cmp => some (m.ule d)
  | .sbc => some (if carry then m.ule d else m.ult d)
  | .mul | .mulh | .div | .rem => some false
  | .shl => some (if n = 0 then false else d.getLsbD (64 - n))
  | .shr | .sar => some (if n = 0 then false else d.getLsbD (n - 1))
  | .rol => some (if n = 0 then false else (d.rotateLeft n).getLsbD 0)
  | _ => none

/-- Does a signed sum of two parts leave the 64-bit range? -/
def signedOverflow (e : Int) : Bool := decide (e < -2 ^ 63) || decide (2 ^ 63 ≤ e)

/-- The overflow of an operation, where it names one (R105, R108). -/
def aluOverflow (op : IntOp) (uns carry : Bool) (d m : Word64) : Option Bool :=
  match op with
  | .add => some (signedOverflow (d.toInt + m.toInt))
  | .adc => some (signedOverflow (d.toInt + m.toInt + carry.toNat))
  | .sub | .cmp => some (signedOverflow (d.toInt - m.toInt))
  | .sbc => some (signedOverflow (d.toInt - m.toInt - (1 - carry.toNat)))
  | .mul => some (if uns then decide (2 ^ 64 ≤ d.toNat * m.toNat) else signedOverflow (d.toInt * m.toInt))
  | .mulh => some false
  | .div | .rem => some (decide (m = 0) || (!uns && decide (d = BitVec.intMin 64) && decide (m = BitVec.allOnes 64)))
  | _ => none

/-- Does an operation write its result (R107)? -/
def aluWrites : IntOp → Bool
  | .cmp | .tst => false
  | _ => true

/-- A flag after an instruction with the result `v`, the carry and the overflow that it names, and whether SAT clamped
(01 R17; R105): bit `n` of F, which was `f`. -/
def flagAfter (f : BitVec 16) (v : Word64) (c o : Option Bool) (clamped : Bool) (n : Nat) : Bool :=
  match n with
  | 0 => decide (v = 0)
  | 1 => v.msb
  | 2 => c.getD (f.getLsbD 2)
  | 3 => o.getD (f.getLsbD 3)
  | 8 => f.getLsbD 8 || clamped
  | n => f.getLsbD n

/-- `k'` is what R105 to R108 leave of the registers `k` of a strand after an operation on the accumulator and `m` under
a type and SAT: the accumulator, if the operation writes, and the flags; nothing else. -/
def AluGives (op : IntOp) (ty : Option Ty) (sat ha : Bool) (m : Word64) (k k' : Ctx) : Prop :=
  let uns := decide (ty = some .ui8)
  let d := k.acc ha
  let e := aluExact op uns k.fc d m
  let t := ty.getD .i32
  let clamped := sat && (decide (e < t.lo) || decide (t.hi < e))
  let v : Word64 := if clamped then BitVec.ofInt 64 (if e < t.lo then t.lo else t.hi) else aluValue op uns k.fc d m (k.aux ha)
  ∃ f : BitVec 16,
    k' = { (if aluWrites op then k.setAcc ha v else k) with f := f } ∧
    ∀ n < 16, f.getLsbD n = flagAfter k.f v (aluCarry op k.fc d m) (aluOverflow op uns k.fc d m) clamped n

/-- The operand that `x`, the bytes of memory as a number, stands for under a type (R102): 8 bytes without one. -/
def operandOf (ty : Option Ty) (x : Nat) : Word64 :=
  match ty with
  | some .ui8 => (BitVec.ofNat 8 x).setWidth 64
  | some .i8 => (BitVec.ofNat 8 x).signExtend 64
  | some .i16 => (BitVec.ofNat 16 x).signExtend 64
  | some .i32 => (BitVec.ofNat 32 x).signExtend 64
  | _ => BitVec.ofNat 64 x

/-- `n` bytes at address `a` are the bytes at offset `off` of the tile's own scratchpad, aligned, and no vector access
of the core to them is pending (R101, R128). -/
def State.Reaches (s : State) (a : Addr) (n off : Nat) : Prop :=
  a.toNat = 0xF00000000000 + off ∧ off + n ≤ 2 ^ 21 ∧ a.toNat % n = 0 ∧ (s.core s.me).vecPending off n = false

/-- As `Reaches`, with no poison among the bytes (21 R420). -/
def State.Readable (s : State) (a : Addr) (n off : Nat) : Prop :=
  s.Reaches a n off ∧ s.poisonIn (scratchKey s.myTile off) n = none

/-- The banks of the words of `n` bytes at an offset have served the issuing core (01 R27); nothing else changes. -/
def State.served (s : State) (ws : List Nat) : State := s.modTile s.myTile fun x => x.touch (s.me % 8) ws

/-! ### Vector lanes (05_scalar_vector R129 to R131), as operations on 32-bit patterns -/

/-- Lane `i` of vector register `v` of a core. -/
def Core.laneBits (c : Core) (v i : Nat) : Word32 := Tab.get 0 c.vregs (64 * v + i)

/-- An integer as an i32 lane: clamped, or modulo 2^32 (R129). -/
def clamp32 (sat : Bool) (e : Int) : Word32 :=
  BitVec.ofInt 32 (if sat then (if e < -2 ^ 31 then -2 ^ 31 else if 2 ^ 31 - 1 < e then 2 ^ 31 - 1 else e) else e)

/-- A value rounded into an f32 lane. -/
def roundTo32 (md : RMode) (v : FV) : Word32 := BitVec.ofNat 32 (v.round .f32 md false).1

/-- The lane that VCVT writes, by its function code (R132). -/
def cvtBits (pre : Prefixes) (x : Word32) : Word32 :=
  let t := pre.ty.getD .f32
  let md := rndMode pre.rnd
  let v := Ty.f32.value x.toNat
  match pre.vt.toNat with
  | 0 => roundTo32 .nearest (t.value x.toNat)
  | 1 => BitVec.ofNat 32 (v.round t md pre.sat).1
  | 2 => if t = .f32 then BitVec.ofNat 32 (v.toInt 32 (-2 ^ 31) (2 ^ 31 - 1) md pre.sat).1
    else (operandOf (some t) (x.toNat % 2 ^ t.bits)).setWidth 32
  | _ =>
    if t = .f32 then roundTo32 md (FV.fin (decide (x.toInt < 0)) x.toInt.natAbs 0)
    else
      let e := if pre.sat then (if x.toInt < t.lo then t.lo else if t.hi < x.toInt then t.hi else x.toInt) else x.toInt
      (BitVec.ofInt t.bits e).setWidth 32

/-- An element-wise instruction (R129 to R132, R134): the fields of vd and vs, whether its layout is binary, and the new
lane from the old lane of vd and its two source lanes. -/
def laneForm (i : Instr) : Option (BitVec 4 × BitVec 4 × Bool × (Word32 → Word32 → Word32 → Word32)) :=
  let pre := i.pre
  let md := rndMode pre.rnd
  let v (x : Word32) : FV := Ty.f32.value x.toNat
  let bit (b : Bool) : Word32 := if b then 1 else 0
  let pick (fi ff : Word32 → Word32 → Word32) (_ x y : Word32) : Word32 := if pre.ty = some .f32 then ff x y else fi x y
  let clamp (e : Int) : Word32 := clamp32 pre.sat e
  let float (f : FV → FV) (_ x _ : Word32) : Word32 := roundTo32 md (f (v x))
  let compare (fi : Word32 → Word32 → Bool) (ff : Option Int → Bool) : Word32 → Word32 → Word32 → Word32 :=
    pick (fun x y => bit (fi x y)) fun x y => bit (ff (FV.compare (v x) (v y)))
  match i with
  | .vmov a b _ => some (a, b, false, fun _ x _ => x)
  | .vadd a b _ => some (a, b, true, pick (fun x y => clamp (x.toInt + y.toInt)) fun x y => roundTo32 md (FV.add md (v x) (v y)).1)
  | .vsub a b _ =>
    some (a, b, true, pick (fun x y => clamp (x.toInt - y.toInt)) fun x y => roundTo32 md (FV.add md (v x) (v y).negate).1)
  | .vmul a b _ => some (a, b, true, pick (fun x y => clamp (x.toInt * y.toInt)) fun x y => roundTo32 md (FV.mul (v x) (v y)).1)
  | .vfma a b _ => some (a, b, false, fun d x y => roundTo32 md (FV.fma md (v x) (v y) (v d)).1)
  | .vmin a b _ =>
    some (a, b, true, pick (fun x y => if x.sle y then x else y) fun x y => roundTo32 .nearest (FV.min (v x) (v y)).1)
  | .vmax a b _ =>
    some (a, b, true, pick (fun x y => if y.sle x then x else y) fun x y => roundTo32 .nearest (FV.max (v x) (v y)).1)
  | .vabs a b _ =>
    some (a, b, false, pick (fun x _ => clamp (if x.msb then -x.toInt else x.toInt)) fun x _ => x &&& 0x7FFFFFFF)
  | .vneg a b _ => some (a, b, false, pick (fun x _ => clamp (-x.toInt)) fun x _ => x ^^^ 0x80000000)
  | .vand a b _ => some (a, b, true, fun _ x y => x &&& y)
  | .vor a b _ => some (a, b, true, fun _ x y => x ||| y)
  | .vxor a b _ => some (a, b, true, fun _ x y => x ^^^ y)
  | .vshl a b _ => some (a, b, true, fun _ x y => x <<< (y.toNat % 32))
  | .vshr a b _ =>
    some (a, b, true, fun _ x y => if pre.ty = some .i32 then x.sshiftRight (y.toNat % 32) else x >>> (y.toNat % 32))
  | .vcmpEq a b _ => some (a, b, true, compare (· == ·) fun c => c == some 0)
  | .vcmpLt a b _ => some (a, b, true, compare (·.slt ·) fun c => c == some (-1))
  | .vcmpLe a b _ => some (a, b, true, compare (·.sle ·) fun c => c == some (-1) || c == some 0)
  | .vsel a b _ => some (a, b, false, fun d x y => if d.getLsbD 0 then x else y)
  | .vclamp a b _ => some (a, b, false, fun d x y =>
      if pre.ty = some .f32 then roundTo32 .nearest (FV.min (FV.max (v d) (v x)).1 (v y)).1
      else let m := if x.sle d then d else x; if m.sle y then m else y)
  | .vcvt a b _ => some (a, b, false, fun _ x _ => cvtBits pre x)
  | .vexp2 a b _ => some (a, b, false, float FV.exp2)
  | .vlog2 a b _ => some (a, b, false, float FV.log2)
  | .vrcp a b _ => some (a, b, false, float FV.recip)
  | .vrsq a b _ => some (a, b, false, float FV.rsqrt)
  | _ => none

/-- The registers of an instruction with the fields `vd` and `vs` (02 R52), moved by the stagger `d` of the pass (01 R23):
destination and sources. -/
def vxRegs (pre : Prefixes) (binary : Bool) (vd vs : BitVec 4) (d : Nat) : Nat × Nat × Nat :=
  let at_ (n : Nat) : Nat := (n + d) % 32
  match pre.rgx with
  | none => if binary then (at_ vd.toNat, at_ vd.toNat, at_ vs.toNat) else (at_ vd.toNat, at_ vs.toNat, at_ 0)
  | some r => (at_ (vd.toNat + 16 * r.ha.toNat), at_ (vs.toNat + 16 * r.hb.toNat), at_ r.vt.toNat)

/-- The lanes of a core that are active under an instruction's mask (02 R40, R41). -/
def Core.activeLanes (c : Core) (pre : Prefixes) : List Nat :=
  (List.range 64).filter fun n => decide (pre.pred = 0) || (c.laneBits (24 + pre.pred.toNat) n).getLsbD 0

/-- Lanes `ns` of register `v` given new values, and nothing else of a core changed. -/
def Core.withLanes (c : Core) (v : Nat) (ns : List Nat) (f : Nat → Word32) : Core :=
  { c with vregs := ns.foldl (fun t n => Tab.set 0 t (64 * v + n) (f n)) c.vregs }

/-- What a lane receives from an element of a type, given as a number (R126). -/
def elementLane (t : Ty) (x : Nat) : Word32 :=
  match t with
  | .i4 => (BitVec.ofNat 4 x).signExtend 32
  | .ui4 => (BitVec.ofNat 4 x).setWidth 32
  | .i8 => (BitVec.ofNat 8 x).signExtend 32
  | .i16 => (BitVec.ofNat 16 x).signExtend 32
  | _ => BitVec.ofNat 32 x

/-- Element `n` of a vector memory instruction at address `a`, as memory holds it: the low nibble first for the 4-bit
types (R126, R127). -/
def State.element (s : State) (tile : Nat) (t : Ty) (a : Addr) (stride : Int) (n : Nat) : Nat :=
  let x := s.rdNat (scratchKey tile ((laneAddr t a stride n).toNat - 0xF00000000000)) t.size
  if t.bits = 4 then x / 16 ^ (n % 2) % 16 else x

/-- What an element of a type receives from a lane (R126). -/
def laneElement (t : Ty) (sat : Bool) (x : Word32) : Nat :=
  let e := if sat then (if x.toInt < t.lo then t.lo else if t.hi < x.toInt then t.hi else x.toInt) else x.toInt
  (BitVec.ofInt t.bits e).toNat

/-- The functions of VRED, VSCAN and NETRED by their codes (02 R52, R56). -/
def redFns : List RedFn := [.add, .min, .max, .and, .or, .xor]

/-- Two lanes, or two typed operands of a reduction, combined (04 R99; 11 R281): i32, or f32 rounded once. -/
def combineBits (fn : RedFn) (float : Bool) (md : RMode) (x y : Word32) : Word32 :=
  let v (x : Word32) : FV := Ty.f32.value x.toNat
  match fn, float with
  | .add, true => roundTo32 md (FV.add md (v x) (v y)).1
  | .min, true => roundTo32 md (FV.min (v x) (v y)).1
  | .max, true => roundTo32 md (FV.max (v x) (v y)).1
  | .add, false => x + y
  | .min, false => if x.sle y then x else y
  | .max, false => if y.sle x then x else y
  | .and, _ => x &&& y
  | .or, _ => x ||| y
  | .xor, _ => x ^^^ y

/-- The pairwise tree: node `i` of level `k` over the values `x` (04 R99). -/
def treeNode (f : Word32 → Word32 → Word32) (x : Nat → Word32) : Nat → Nat → Word32
  | 0, i => x i
  | k + 1, i => f (treeNode f x k (2 * i)) (treeNode f x k (2 * i + 1))

/-- The inclusive prefix at lane `n` (04 R99). -/
def prefixAt (f : Word32 → Word32 → Word32) (x : Nat → Word32) : Nat → Word32
  | 0 => x 0
  | n + 1 => f (prefixAt f x n) (x (n + 1))

/-- Are `n` bytes at an address wholly inside the tile's own scratchpad (05 R101)? -/
def InsideOwn (a : Addr) (n : Nat) : Prop := 0xF00000000000 ≤ a.toNat ∧ a.toNat + n ≤ 0xF00000000000 + 2 ^ 21

/-! ### Frames -/

/-- What an instruction may leave of the registers `k` of its strand: A or X (R40: `ha` picks), where it has a result; the
flags and the pointers that are named; the PC and, at the end of a pass, the loop state. The rest stays. -/
def Ctx.Only (k k' : Ctx) (ha result : Bool) (flags ptrs : List Nat) : Prop :=
  k' = { k with a := k'.a, x := k'.x, f := k'.f, ptrs := k'.ptrs, pc := k'.pc, loop := k'.loop } ∧
  (result = false ∨ ha = true → k'.a = k.a) ∧ (result = false ∨ ha = false → k'.x = k.x) ∧
  (∀ n, n ∉ flags → k'.f.getLsbD n = k.f.getLsbD n) ∧ (∀ n, n ∉ ptrs → k'.ptr n = k.ptr n)

/-- `t` differs from `s` in nothing but the registers of the strand that issues, as `regs` allows, in the bytes whose keys
are `stored`, and in which core each bank of the tile serves first. -/
def State.Frame (s t : State) (stored : Nat → Prop) (regs : Ctx → Ctx → Prop) : Prop :=
  regs s.strand (t.ctx s.me s.myCtx) ∧
  (∀ g n, ¬(g = s.me ∧ n = s.myCtx) → t.ctx g n = s.ctx g n) ∧
  (∀ g, t.core g = { s.core g with ctxs := (t.core g).ctxs }) ∧
  (∀ x, t.tile x = { s.tile x with bankPtr := (t.tile x).bankPtr }) ∧ (∀ x, x ≠ s.myTile → t.tile x = s.tile x) ∧
  t = { s with mem := t.mem, poison := t.poison, cores := t.cores, tiles := t.tiles } ∧
  (s.poison = [] → t.poison = []) ∧ ∀ key, ¬stored key → t.byte key = s.byte key

/-! ### Stores of pages 0 and 2 -/

/-- The value that a store takes from its register under a type (05 R110; 08 R179): with SAT, the register read as a
signed integer and clamped to the type's range. -/
def storeValue (pre : Prefixes) (d : Word64) : Int :=
  let t := pre.ty.getD .i32
  if pre.sat then (if d.toInt < t.lo then t.lo else if t.hi < d.toInt then t.hi else d.toInt) else d.toInt

/-- F after a store: SAT is set where the clamp changed the value. -/
def storeFlags (pre : Prefixes) (d : Word64) (f : BitVec 16) : BitVec 16 :=
  if storeValue pre d = d.toInt then f else f ||| 0x100

/-- The bytes that a store writes. -/
def storedBytes (pre : Prefixes) (d : Word64) : List Byte := natToBytes (sizeOf' pre.ty) (BitVec.ofInt 64 (storeValue pre d)).toNat

/-- What a load of page 2 makes of its bytes (08 R179): f32 is zero-extended, every other type as in R102. -/
def loadedValue (ty : Option Ty) (x : Nat) : Word64 := if ty = some .f32 then BitVec.ofNat 64 x else operandOf ty x

/-- The new value of an atomic's location, of `w` bits, for its operation on integers (08 R191). -/
def atomValue (w : Nat) (op : AtomOp) (old v cmp : BitVec w) : BitVec w :=
  match op with
  | .add => old + v
  | .min => if old.sle v then old else v
  | .max => if v.sle old then old else v
  | .and => old &&& v
  | .or => old ||| v
  | .xor => old ^^^ v
  | .xchg => v
  | .cas => if old = cmp then v else old

/-- The new value of an atomic's location, as a number, under its type: f32 sums, minima and maxima are those of the
vector lanes, rounded to nearest even (08 R191). -/
def atomResult (ty : Option Ty) (op : AtomOp) (old : Nat) (v cmp : Word64) : Nat :=
  let n := 8 * sizeOf' ty
  let float (fn : RedFn) : Nat := (combineBits fn true .nearest (BitVec.ofNat 32 old) (v.setWidth 32)).toNat
  let bits : Nat := (atomValue n op (BitVec.ofNat n old) (v.setWidth n) (cmp.setWidth n)).toNat
  match ty, op with
  | some .f32, .add => float .add
  | some .f32, .min => float .min
  | some .f32, .max => float .max
  | _, _ => bits

/-! ### Copies and the matrix unit -/

/-- Is a copy descriptor malformed (09 R206, R208)? -/
def CopyMalformed (chain : Bool) (d : BitVec 256) : Prop :=
  let ctgt : Word64 := d.extractLsb' 192 64
  let hops := (d.extractLsb' 166 4).toNat
  let ck := (d.extractLsb' 164 2).toNat
  let len := (d.extractLsb' 128 28).toNat
  d.extractLsb' 170 22 ≠ 0 ∨ d.extractLsb' 112 16 ≠ 0 ∨ d.extractLsb' 48 16 ≠ 0 ∨ len % 4 ≠ 0 ∨ len < 4 ∨ ck = 3 ∨
  (d.getLsbD 156 = true ∧ d.extractLsb' 157 3 = 7) ∨ (d.getLsbD 160 = true ∧ d.extractLsb' 161 3 = 7) ∨
  (ck = 0 ∧ ctgt ≠ 0) ∨ (ck = 2 ∧ ctgt.extractLsb' 32 32 ≠ 0) ∨
  (if chain then hops = 0 ∨ 8 < hops else hops ≠ 0)

/-- The detail of the MATRIX trap with which MCTX refuses a format context, by the checks of 06 R143 in their order. -/
def formatDetail (c : BitVec 256) : Option (BitVec 8) :=
  let n (lo w : Nat) : Nat := (c.extractLsb' lo w).toNat
  let mode := n 8 2
  let zp (cls : Nat) (sgn : Bool) (z : BitVec 8) : Bool :=
    if cls ≠ 0 then true else if sgn then z.sle 7 && (-8 : BitVec 8).sle z else decide (z.toNat ≤ 15)
  let int (cls : Nat) : Bool := decide (cls = 0 ∨ cls = 1)
  let small (cls : Nat) : Bool := decide (cls = 4 ∨ cls = 5)
  let fields := n 164 92 = 0 ∧ n 114 14 = 0 ∧ n 40 24 = 0 ∧ n 18 6 = 0 ∧ mode ≠ 3 ∧ n 10 2 ≠ 3 ∧
    n 128 21 + 1024 ≤ 0x200000 ∧ zp (n 0 3) (c.getLsbD 3) (c.extractLsb' 24 8) = true ∧
    zp (n 4 3) (c.getLsbD 7) (c.extractLsb' 32 8) = true ∧
    (mode = 0 ∨ mode = 2 → n 10 2 = 0 ∧ c.getLsbD 16 = false ∧ c.getLsbD 17 = false) ∧
    (mode = 1 ∨ mode = 2 → n 24 8 = 0 ∧ n 32 8 = 0) ∧ n 128 21 % 8 = 0 ∧ n 149 15 % 4 = 0
  let classes :=
    if mode = 2 then c.getLsbD 3 = false ∧ c.getLsbD 7 = false ∧
      ((small (n 0 3) = true ∧ small (n 4 3) = true) ∨ (n 0 3 = 2 ∧ n 4 3 = 2) ∨ (n 0 3 = 3 ∧ n 4 3 = 3))
    else int (n 0 3) = true ∧ int (n 4 3) = true
  let escapes := (c.getLsbD 13 = true → int (n 0 3) = true ∧ c.getLsbD 3 = true) ∧
    (c.getLsbD 14 = true → int (n 4 3) = true ∧ c.getLsbD 7 = true)
  let lists := n 64 12 + n 76 13 ≤ 4096 ∧ n 89 12 + n 101 13 ≤ 4096
  if ¬fields then some 0x01 else if ¬classes then some 0x02 else if ¬escapes then some 0x03
  else if ¬lists then some 0x04 else none

/-- A byte as an integer code, less the zero point of its operand (06 R152): fa and fb. -/
def factor (signed : Bool) (z q : BitVec 8) : Int := if signed then q.toInt - z.toInt else (q.toNat : Int) - z.toNat

/-- The sum of 128 integers. -/
def sum128 (f : Nat → Int) : Int := ((List.range 128).map f).sum

/-! ### The matrix unit: checks, codes and sums -/

/-- The first of the traps that apply, in the order of the checks. -/
def firstTrap (l : List (Option Trap)) : Option Trap := (l.filterMap id).head?

def trapIf (p : Prop) [Decidable p] (t : Trap) : Option Trap := if p then some t else none

def matrixDetail (d : BitVec 8) : Trap := trapOf kMatrix d 0

/-- The checks of a pointer over `n` bytes (06 R144 step 1). -/
def pointerTraps (a : Addr) (n align : Nat) : List (Option Trap) :=
  [trapIf (a.toNat < 0xF00000000000 ∨ 0xF00000000000 + 2 ^ 21 < a.toNat + n) (trapOf kAccess 0x01 a),
   trapIf (a.toNat % align ≠ 0) (trapOf kAlign 0x01 a)]

/-- The checks of a scratchpad span that a field names (06 R144 step 4). -/
def spanTraps (off n : Nat) : List (Option Trap) :=
  [trapIf (2 ^ 21 < off + n) (trapOf kAccess 0x01 (localAddr off)), trapIf (off % 4 ≠ 0) (trapOf kAlign 0x01 (localAddr off))]

/-- The trap of a poisoned word among `n` bytes that the read phase reads (21 R420). -/
def State.poisonTrap (s : State) (g off n : Nat) : Option Trap :=
  (s.poisonIn (scratchKey (g / 8) off) n).map fun p => trapOf kMemory 0x03 (localAddr (off + p))

/-- The checks of a span of `n` bytes of a copy, whose issuer is the strand that issues (09 R207, R208; 08 R177; 16 R376). -/
def State.copySpan (s : State) (a : Addr) (n : Nat) (dst : Bool) : List (Option Trap) :=
  let pid := s.pidOf s.me
  [trapIf (apertureOf a = .reserved) (trapOf kAccess 0x03 a), trapIf (a.toNat % 4 ≠ 0) (trapOf kAlign 0x01 a)] ++
  match apertureOf a with
  | .localMem o => [trapIf (2 ^ 21 < o + n) (trapOf kAccess 0x01 a)]
  | .window t _ _ o => [trapIf (s.reachTile pid t = none) (trapOf kAccess 0x03 a),
      trapIf (dst = true ∧ s.permitted pid s.myTile t = false) (trapOf kAccess 0x08 a),
      trapIf (2 ^ 18 < o + n) (trapOf kAccess 0x03 a)]
  | .dieStore d o => [trapIf ((s.part pid).dssSize d < o + n) (trapOf kAccess 0x03 a)]
  | .global => [trapIf (0xF00000000000 < a.toNat + n) (trapOf kAccess 0x03 a)]
  | .reserved => []

/-- A zero point in a byte is encoded as its type asks (04 R86, R451). -/
def zeroPointOk (t : Ty) (z : BitVec 8) : Bool :=
  match t with
  | .i4 => decide (z.extractLsb' 4 4 = if z.getLsbD 3 then 15 else 0)
  | .ui4 => decide (z.extractLsb' 4 4 = 0)
  | _ => true

/-- A group word is well formed (04 R451). -/
def groupWordGood (t : Ty) (w : Word32) : Bool := decide (w.extractLsb' 24 8 = 0) && zeroPointOk t (w.extractLsb' 16 8)

/-- Code `e` of a type in bytes, the low nibble first and 16-bit codes little-endian (06 R141, R157). -/
def codeAt (t : Ty) (data : List Byte) (e : Nat) : Nat :=
  if t.bits = 4 then (data.getD (e / 2) 0).toNat / 16 ^ (e % 2) % 16
  else if t.bits = 8 then (data.getD e 0).toNat
  else (data.getD (2 * e) 0).toNat + 256 * (data.getD (2 * e + 1) 0).toNat

/-- Word `n` of bytes. -/
def wordAt (data : List Byte) (n : Nat) : Nat := bytesToNat ((data.drop (4 * n)).take 4)

/-- Is code `e` an escape (04 R92)? -/
def escapeAt (on : Bool) (t : Ty) (data : List Byte) (e : Nat) : Bool :=
  on && ((t == .i4 && codeAt t data e == 0x8) || (t == .i8 && codeAt t data e == 0x80))

/-- How many of the first `n` elements satisfy `p`. -/
def countTo (p : Nat → Bool) (n : Nat) : Nat := ((List.range n).filter p).length

/-- Element `e` of an operand: its code, or the entry of its list that its escape stands for (04 R93). -/
def State.elemAt (s : State) (tile list base : Nat) (on : Bool) (t : Ty) (data : List Byte) (e : Nat) : Elem :=
  if escapeAt on t data e then .esc (s.burnEntry tile list (base + countTo (escapeAt on t data) e)) else .code (codeAt t data e)

/-- The integer factor of an element: its code, or VAL of its entry, less the zero point (04 R95). -/
def elemInt (t : Ty) (z : Int) : Elem → Int
  | .code q => t.intOf q - z
  | .esc w => (BitVec.ofNat 16 (w / 2 ^ 16)).toInt - z

/-- The real factor of an element: scaled by its group, or VAL of its entry (04 R87, R95). -/
def elemReal (t : Ty) (g : FV × Int) : Elem → FV
  | .code q => (FV.mul g.1 (FV.ofInt (t.intOf q - g.2))).1
  | .esc w => Ty.f16.value (w / 2 ^ 16)

/-- `round32` of 04 R96. -/
def round32 (v : FV) : FV := Ty.f32.value (roundTo32 .nearest v).toNat

/-- A group of `n` elements from `lo` added to an accumulator (04 R96): the plain products exactly, then the outliers in turn. -/
def groupResult (ta tb : Ty) (ga gb : FV × Int) (ea eb : Nat → Elem) (lo n : Nat) (acc : FV) : FV :=
  let ks := (List.range n).map (lo + ·)
  let out (k : Nat) : Bool := (ea k).isEsc || (eb k).isEsc
  let sum : Int := ((ks.filter fun k => !out k).map fun k => elemInt ta ga.2 (ea k) * elemInt tb gb.2 (eb k)).sum
  let g := (ks.filter out).foldl
    (fun g k => round32 (FV.add .nearest g (round32 (FV.mul (elemReal ta ga (ea k)) (elemReal tb gb (eb k))).1)).1)
    (round32 (FV.mul (round32 (FV.ofInt sum)) (FV.mul ga.1 gb.1).1).1)
  round32 (FV.add .nearest acc g).1

/-- A block of 32 products from `lo` added to an accumulator (04 R98). -/
def blockResult (x y : Nat → FV) (lo : Nat) (acc : FV) : FV :=
  let p (k : Nat) : FV := (FV.mul (x (lo + k)) (y (lo + k))).1
  round32 (FV.add .nearest acc (round32 ((List.range 31).foldl (fun v k => (FV.add .nearest v (p (k + 1))).1) (p 0)))).1

/-- p / 2^sh rounded to an integer (04 R88). -/
def shiftRound (md : RMode) (p : Int) (sh : Nat) : Int :=
  let q := p / 2 ^ sh
  let r := p % 2 ^ sh
  match md with
  | .zero => p.tdiv (2 ^ sh)
  | .down => q
  | .up => if r = 0 then q else q + 1
  | .nearest => if 2 * r < 2 ^ sh ∨ (2 * r = 2 ^ sh ∧ q % 2 = 0) then q else q + 1

/-- A value rounded to the nearest integer; an infinity stands beyond every finite one, and a NaN counts as 0. -/
def nearestInt : FV → Int
  | .nan _ => 0
  | .inf neg => if neg then -(2 ^ 400) else 2 ^ 400
  | .fin neg m e => shiftRound .nearest ((if neg then -1 else 1) * m * 2 ^ e.toNat) (-e).toNat

/-- q of QNT for an element: its product with INV to the nearest integer within 32 bits, and Z; none for a NaN (06 R158). -/
def quantValue (inv : FV) (z : Int) (x : FV) : Option Int :=
  let p := (FV.mul x inv).1
  if p.isNaN then none else some (clampInt (-(2 ^ 31)) (2 ^ 31) (nearestInt p) + z)

/-- One element of MDRAIN before it is narrowed, with its entry of the drain table (06 R155). -/
def drainValue (md : RMode) (e : Option Word64) (acc : Word32) : Int :=
  match e with
  | some e => shiftRound md (acc.toInt * (e.setWidth 32).toInt) (e.extractLsb' 32 6).toNat + (e.extractLsb' 48 16).toInt
  | none => acc.toInt

/-- The least and the greatest of values and 0 (06 R159 step 2). -/
def leastOf (l : List FV) : FV := l.foldl (fun m x => if FV.compare x m = some (-1) then x else m) (.fin false 0 0)
def greatestOf (l : List FV) : FV := l.foldl (fun m x => if FV.compare x m = some 1 then x else m) (.fin false 0 0)

/-! ### Counting -/

/-- The identity of a reduction as A receives it: 64 bits without a type, i32 sign-extended, f32 (04 R99; 11 R282). -/
def reductionIdentity (fn : RedFn) (ty : Option Ty) : Word64 :=
  match ty, fn with
  | some .f32, .add => 0x80000000
  | some .f32, .min => 0x7F800000
  | some .f32, .max => 0xFF800000
  | some _, .min => 0x7FFFFFFF
  | some _, .max => 0xFFFFFFFF80000000
  | none, .min => BitVec.intMax 64
  | none, .max => BitVec.intMin 64
  | _, .and => BitVec.allOnes 64
  | _, _ => 0

/-- Two operands of a reduction without a type combined (11 R281). -/
def reductionValue (fn : RedFn) (x y : Word64) : Word64 :=
  match fn with
  | .add => x + y
  | .min => if x.sle y then x else y
  | .max => if y.sle x then x else y
  | .and => x &&& y
  | .or => x ||| y
  | .xor => x ^^^ y

/-- The reply of an instruction that returns a status: X, F.Z, and A where it is written (11 R275; 14 R311; 15 R334). -/
def statusReply (status : Nat) (a : Option Word64) : Reply :=
  ⟨a, some (BitVec.ofNat 64 status), 1, if status = 0 then 1 else 0, true, none⟩

end Sys2Proof.Machine
end

