-- ==== Sys2Proof/Certificates/Slice0/Obligations.lean ====
section
/-! DEFINITION. The statements for the provers, family by family of the opcode table. Each docstring names the rules of spec/ that it states. -/

open Sys2Proof Sys2Proof.Machine

/-! ### Scalar instructions -/

/-- R106, R107 (AI): an operation on the accumulator and the sign-extended immediate writes the accumulator and the
flags as R105 to R108 say, moves the PC, and changes nothing else of the machine. -/
def Obligations.ImmediateArithmetic : Prop :=
  ∀ (s : State) (imm : BitVec 9) (pre : Prefixes), s.Chosen pre →
  ∀ e ∈ [(IntOp.add, Instr.addImm imm pre), (.sub, .subImm imm pre), (.mul, .mulImm imm pre), (.and, .andImm imm pre),
    (.or, .orImm imm pre), (.xor, .xorImm imm pre), (.shl, .shlImm imm pre), (.shr, .shrImm imm pre),
    (.sar, .sarImm imm pre), (.rol, .rolImm imm pre), (.cmp, .cmpImm imm pre), (.tst, .tstImm imm pre),
    (.min, .minImm imm pre), (.max, .maxImm imm pre)], e.2.WellFormed →
    ∃ k, AluGives e.1 pre.ty pre.sat pre.ha (BitVec.ofInt 64 (pre.extInt 9 imm.toNat)) s.strand k ∧
      exec e.2 s = .next (s.complete k (s.strand.next pre))

/-- R106, R107 (AR): the operation on the accumulator and the other register is 64-bit and signed. -/
def Obligations.RegisterArithmetic : Prop :=
  ∀ (s : State) (pre : Prefixes), s.Chosen pre →
  ∀ e ∈ [(IntOp.add, Instr.addX pre), (.sub, .subX pre), (.and, .andX pre), (.or, .orX pre), (.xor, .xorX pre),
    (.mul, .mulX pre), (.cmp, .cmpX pre)], e.2.WellFormed →
    ∃ k, AluGives e.1 none false pre.ha (s.strand.aux pre.ha) s.strand k ∧
      exec e.2 s = .next (s.complete k (s.strand.next pre))

/-- R106, R107 (AP): the operand is `size` bytes of the tile's scratchpad at pointer plus displacement, extended
under its type; the pointer moves by its post-mode; the banks that served the access point past the core. -/
def Obligations.MemoryArithmetic : Prop :=
  ∀ (s : State) (p disp : BitVec 3) (pm : PostMode) (pre : Prefixes) (off : Nat), s.Chosen pre →
  ∀ e ∈ [(IntOp.add, Instr.addMem p pm disp pre), (.adc, .adc p pm disp pre), (.sub, .subMem p pm disp pre),
    (.sbc, .sbc p pm disp pre), (.mul, .mulMem p pm disp pre), (.mulh, .mulh p pm disp pre), (.div, .div p pm disp pre),
    (.rem, .rem p pm disp pre), (.and, .andMem p pm disp pre), (.or, .orMem p pm disp pre), (.xor, .xorMem p pm disp pre),
    (.shl, .shlMem p pm disp pre), (.shr, .shrMem p pm disp pre), (.sar, .sarMem p pm disp pre),
    (.rol, .rolMem p pm disp pre), (.cmp, .cmpMem p pm disp pre), (.tst, .tstMem p pm disp pre),
    (.min, .minMem p pm disp pre), (.max, .maxMem p pm disp pre), (.sel, .sel p pm disp pre)], e.2.WellFormed →
    let n := sizeOf' pre.ty
    s.Readable (s.strand.apAddr p disp pre n) n off →
    ∃ k, AluGives e.1 pre.ty pre.sat pre.ha (operandOf pre.ty (s.rdNat (scratchKey s.myTile off) n)) s.strand k ∧
      exec e.2 s = .next ((s.served (wordsOf' off n)).complete (k.applyPost p pm n) (s.strand.next pre))

/-- R110: LDA loads the operand extended under its type, LDI the sign-extended immediate; no flag changes. -/
def Obligations.LocalLoads : Prop :=
  (∀ (s : State) (p disp : BitVec 3) (pm : PostMode) (pre : Prefixes) (off : Nat), s.Chosen pre →
    (Instr.lda p pm disp pre).WellFormed →
    let n := sizeOf' pre.ty
    s.Readable (s.strand.apAddr p disp pre n) n off →
    exec (.lda p pm disp pre) s = .next ((s.served (wordsOf' off n)).complete
      ((s.strand.setAcc pre.ha (operandOf pre.ty (s.rdNat (scratchKey s.myTile off) n))).applyPost p pm n)
      (s.strand.next pre))) ∧
  (∀ (s : State) (imm : BitVec 9) (pre : Prefixes), s.Chosen pre → (Instr.ldi imm pre).WellFormed →
    exec (.ldi imm pre) s = .next (s.complete
      (s.strand.setAcc pre.ha (BitVec.ofInt 64 (pre.extInt 9 imm.toNat))) (s.strand.next pre)))

/-- R110, R102: STA stores the low bytes of the register, or, with SAT, of the register read as a signed integer and
clamped to the type's range, and then F.SAT says whether the clamp changed it; MOVM copies its source's bytes as they
were before the write. The bytes stored are those of the destination operand and no others. -/
def Obligations.LocalStores : Prop :=
  (∀ (s : State) (p disp : BitVec 3) (pm : PostMode) (pre : Prefixes) (off : Nat), s.Chosen pre →
    (Instr.sta p pm disp pre).WellFormed →
    let n := sizeOf' pre.ty
    let k := s.strand
    let d := k.acc pre.ha
    s.Reaches (k.apAddr p disp pre n) n off →
    exec (.sta p pm disp pre) s = .next
      (((s.wrN (scratchKey s.myTile off) (storedBytes pre d)).served (wordsOf' off n)).complete
        (({ k with f := storeFlags pre d k.f }).applyPost p pm n) (k.next pre))) ∧
  (∀ (s : State) (pa pb : BitVec 3) (pma pmb : PostMode) (pre : Prefixes) (oa ob : Nat), s.Chosen pre →
    (Instr.movm pa pma pb pmb pre).WellFormed →
    let n := sizeOf' pre.ty
    let k := s.strand
    s.Readable (k.ptr pa.toNat).addr n oa → s.Reaches (k.ptr pb.toNat).addr n ob →
    exec (.movm pa pma pb pmb pre) s = .next
      (((s.wrN (scratchKey s.myTile ob) (s.rdN (scratchKey s.myTile oa) n)).served (wordsOf' oa n ++ wordsOf' ob n)).complete
        ((k.applyPost pa pma n).applyPost pb pmb n) (k.next pre)))

/-- R111: MAC and MSB accumulate the exact product; V says that the exact sum leaves 64 signed bits, and then SAT
clamps it; C keeps its value. pa's post-mode is applied before pb's (R35). -/
def Obligations.MultiplyAccumulate : Prop :=
  ∀ (s : State) (pa pb : BitVec 3) (pma pmb : PostMode) (pre : Prefixes) (oa ob : Nat) (neg : Bool), s.Chosen pre →
    let i : Instr := if neg then .msb pa pma pb pmb pre else .mac pa pma pb pmb pre
    i.WellFormed →
    let n := sizeOf' pre.ty
    let k := s.strand
    s.Readable (k.ptr pa.toNat).addr n oa → s.Readable (k.ptr pb.toNat).addr n ob →
    let ma := (operandOf pre.ty (s.rdNat (scratchKey s.myTile oa) n)).toInt
    let mb := (operandOf pre.ty (s.rdNat (scratchKey s.myTile ob) n)).toInt
    let e := (k.acc pre.ha).toInt + (if neg then -1 else 1) * (ma * mb)
    let v := signedOverflow e
    let d : Word64 := if pre.sat && v then (if e < 0 then BitVec.intMin 64 else BitVec.intMax 64) else BitVec.ofInt 64 e
    ∃ f : BitVec 16, (∀ n < 16, f.getLsbD n = flagAfter k.f d none (some v) (pre.sat && v) n) ∧
      exec i s = .next ((s.served (wordsOf' oa n ++ wordsOf' ob n)).complete
        ((({ k.setAcc pre.ha d with f := f } : Ctx).applyPost pa pma n).applyPost pb pmb n) (k.next pre))

/-- R114, R115, R117: the floating-point operations with the other register and the reciprocal: the f32 value of the
register, rounded once under RND or F.RM; the upper half of the register becomes zero and the sticky flags of the
operation are added. FCVT in its four directions: from a 64-bit signed integer to the type, from the type to a 64-bit
signed integer, from f32 to the type, and from the type to f32; the result stands alone in the register. That the
type may be f32 there, with SAT and RND, is the model's reading (log 15). -/
def Obligations.FloatRegisterForms : Prop :=
  (∀ (s : State) (pre : Prefixes), s.Chosen pre →
      let k := s.strand
      let a := Ty.f32.value (k.acc pre.ha).toNat
      let x := Ty.f32.value (k.aux pre.ha).toNat
      let md := k.mode32 pre.rnd
      ∀ e ∈ [(Instr.faddX pre, FV.add md a x), (.fmulX pre, FV.mul a x), (.frcp pre, (FV.recip a, sigFlags [a]))],
        e.1.WellFormed →
        let r := finish32 md e.2
        exec e.1 s = .next (s.complete { k.setAcc pre.ha (BitVec.ofNat 64 (r.1 % 2 ^ 32)) with f := flagsFP k.f r.2 }
          (k.next pre))) ∧
  (∀ (s : State) (pre : Prefixes), s.Chosen pre →
      let k := s.strand
      let t := pre.ty.getD .f32
      let d := k.acc pre.ha
      let md := k.mode32 pre.rnd
      ∀ e ∈ [(CvtDir.itof, (FV.fin (decide (d.toInt < 0)) d.toInt.natAbs 0).round t md pre.sat),
          (.ftoi, (t.value d.toNat).toInt 64 (-2 ^ 63) (2 ^ 63 - 1) md pre.sat),
          (.narrow, (Ty.f32.value d.toNat).round t md pre.sat),
          (.widen, (t.value d.toNat).round .f32 .nearest false)],
        (Instr.fcvt e.1 pre).WellFormed →
        exec (.fcvt e.1 pre) s = .next
          (s.complete { k.setAcc pre.ha (BitVec.ofNat 64 e.2.1) with f := flagsFP k.f e.2.2 } (k.next pre)))

/-- R102, R115, R116: the floating-point operations with memory operands, widened exactly from their type; FCMP
writes flags alone: Z, N, C, V by the outcome, and FI where the compare is unordered. The choices of the model in it
are those of log 7. -/
def Obligations.FloatMemoryForms : Prop :=
  (∀ (s : State) (p disp : BitVec 3) (pm : PostMode) (pre : Prefixes) (off : Nat), s.Chosen pre →
    let t := pre.ty.getD .f32
    let n := t.size
    let k := s.strand
    let a := Ty.f32.value (k.acc pre.ha).toNat
    let m := t.value (s.rdNat (scratchKey s.myTile off) n)
    let md := k.mode32 pre.rnd
    s.Readable (k.apAddr p disp pre n) n off →
    (∀ e ∈ [(Instr.faddMem p pm disp pre, finish32 md (FV.add md a m)), (.fmulMem p pm disp pre, finish32 md (FV.mul a m)),
        (.fmin p pm disp pre, finish32 .nearest (FV.min a m)), (.fmax p pm disp pre, finish32 .nearest (FV.max a m))],
      e.1.WellFormed →
      exec e.1 s = .next ((s.served (wordsOf' off n)).complete
        (({ k.setAcc pre.ha (BitVec.ofNat 64 (e.2.1 % 2 ^ 32)) with f := flagsFP k.f e.2.2 } : Ctx).applyPost p pm n)
        (k.next pre))) ∧
    ((Instr.fcmp p pm disp pre).WellFormed →
      ∃ f : BitVec 16,
        (∀ n < 16, f.getLsbD n = match FV.compare a m, n with
          | none, 0 => false | none, 1 => false | none, 2 => false | none, 3 => true | none, 4 => true
          | some c, 0 => decide (c = 0) | some c, 1 => decide (c < 0) | some c, 2 => decide (0 ≤ c) | some _, 3 => false
          | _, n => k.f.getLsbD n) ∧
        exec (.fcmp p pm disp pre) s = .next ((s.served (wordsOf' off n)).complete
          (({ k with f := f } : Ctx).applyPost p pm n) (k.next pre)))) ∧
  (∀ (s : State) (pa pb : BitVec 3) (pma pmb : PostMode) (pre : Prefixes) (oa ob : Nat), s.Chosen pre →
    (Instr.ffma pa pma pb pmb pre).WellFormed →
    let t := pre.ty.getD .f32
    let n := t.size
    let k := s.strand
    let md := k.mode32 pre.rnd
    s.Readable (k.ptr pa.toNat).addr n oa → s.Readable (k.ptr pb.toNat).addr n ob →
    let r := finish32 md (FV.fma md (t.value (s.rdNat (scratchKey s.myTile oa) n))
      (t.value (s.rdNat (scratchKey s.myTile ob) n)) (Ty.f32.value (k.acc pre.ha).toNat))
    exec (.ffma pa pma pb pmb pre) s = .next ((s.served (wordsOf' oa n ++ wordsOf' ob n)).complete
      ((({ k.setAcc pre.ha (BitVec.ofNat 64 (r.1 % 2 ^ 32)) with f := flagsFP k.f r.2 } : Ctx).applyPost pa pma n).applyPost
        pb pmb n) (k.next pre)))

/-- R83, R88, R89, R90: a value that a floating type holds is not changed by rounding into the type, in any mode, and
raises no flag; every NaN becomes the canonical NaN (R82). A value between two neighbours becomes one of them, by the
mode, is inexact, and underflows where the result is not zero and below the smallest normal; one beyond the largest
finite value overflows where rounding without an upper limit passes it, and takes the table's value, or with
saturation the largest finite one, as an infinity does. Sums and products are exact, a fused multiply-add is the
exact sum of the exact product, and what is invalid gives a NaN. -/
def Obligations.RoundingKeepsValues : Prop :=
  (∀ (t : Ty) (x : Nat) (md : RMode), t.isFloat = true → x < 2 ^ t.bits →
    ((t.value x).isNaN = false → (t.value x).round t md false = (x, FFlags.none)) ∧
    ((t.value x).isNaN = true → ((t.value x).round t md false).1 = t.canonicalNaN)) ∧
  (∀ (t : Ty) (md : RMode) (sat neg : Bool) (m : Nat) (e u : Int), t.isFloat = true → 0 < m → u ≤ e →
    u ≤ 1 - t.bias - t.fracBits →
    -- magnitudes in units of 2^u
    let v := m * 2 ^ (e - u).toNat
    let mag (a : Nat) : Nat := match t.value a with
      | .fin _ n f => n * 2 ^ (f - u).toNat
      | _ => 0
    let top := t.maxFinite
    let next := 2 * mag top - mag (top - 1)
    let rounded := (FV.fin neg m e).round t md sat
    let away : Bool := match md with
      | .nearest => true
      | .zero => false
      | .up => !neg
      | .down => neg
    (∀ a ≤ top, mag a = v → rounded = (t.signed neg a, FFlags.none)) ∧
    (∀ a < top, mag a < v → v < mag (a + 1) →
      let b := match md with
        | .nearest => if mag a + mag (a + 1) < 2 * v then a + 1 else if 2 * v < mag a + mag (a + 1) then a
          else if a % 2 = 0 then a else a + 1
        | _ => if away then a + 1 else a
      rounded = (t.signed neg b, ⟨false, false, decide (b ≠ 0 ∧ b < 2 ^ t.fracBits), true⟩)) ∧
    (mag top < v →
      let beyond := match md with
        | .nearest => mag top + next < 2 * v ∨ (mag top + next = 2 * v ∧ top % 2 = 1)
        | _ => away = true ∨ next ≤ v
      (¬beyond → rounded = (t.signed neg top, ⟨false, false, false, true⟩)) ∧
      (beyond → rounded = (if sat = true ∨ away = false then t.signed neg top
        else if t = .e4m3 then 0x7F else t.signed neg t.infinity, ⟨false, true, false, true⟩)))) ∧
  (∀ (t : Ty) (md : RMode) (sat neg : Bool) (e : Int), t.isFloat = true →
    (FV.fin neg 0 e).round t md sat = (t.signed neg 0, FFlags.none) ∧
    (FV.inf neg).round t md sat = if sat = true then (t.signed neg t.maxFinite, FFlags.none)
      else if t = .e4m3 then (0x7F, FFlags.invalid) else (t.signed neg t.infinity, FFlags.none)) ∧
  (∀ (md : RMode) (a b : Bool) (m n : Nat) (e f u : Int), u ≤ e → u ≤ f →
    let units (neg : Bool) (m : Nat) (e : Int) : Int := (if neg then -1 else 1) * ((m : Int) * 2 ^ (e - u).toNat)
    let sum := units a m e + units b n f
    (∃ c k g, FV.add md (.fin a m e) (.fin b n f) = (.fin c k g, FFlags.none) ∧ u ≤ g ∧ units c k g = sum ∧
      (sum ≠ 0 → c = decide (sum < 0)) ∧ (sum = 0 → c = if m = 0 ∧ n = 0 ∧ a = b then a else decide (md = .down))) ∧
    FV.mul (.fin a m e) (.fin b n f) = (.fin (a != b) (m * n) (e + f), FFlags.none)) ∧
  (∀ (md : RMode) (a b : Bool) (m : Nat) (e : Int),
    FV.add md (.inf a) (.inf b) = (if a = b then (.inf a, FFlags.none) else (.nan false, FFlags.invalid)) ∧
    FV.add md (.inf a) (.fin b m e) = (.inf a, FFlags.none) ∧ FV.add md (.fin b m e) (.inf a) = (.inf a, FFlags.none) ∧
    FV.mul (.inf a) (.inf b) = (.inf (a != b), FFlags.none) ∧
    (∀ r, r = (if m = 0 then (FV.nan false, FFlags.invalid) else (.inf (a != b), FFlags.none)) →
      FV.mul (.inf a) (.fin b m e) = r ∧ FV.mul (.fin b m e) (.inf a) = r)) ∧
  (∀ (md : RMode) (x y z : FV),
    let flags (l : List FV) : FFlags := ⟨l.any FV.isSignalling, false, false, false⟩
    (x.isNaN = true ∨ y.isNaN = true →
      FV.add md x y = (.nan false, flags [x, y]) ∧ FV.mul x y = (.nan false, flags [x, y]) ∧
      FV.fma md x y z = (.nan false, flags [x, y, z])) ∧
    (x.isNaN = false → y.isNaN = false → z.isNaN = true → (FV.fma md x y z).1 = .nan false ∧
      ((FV.mul x y).1.isNaN = false → (FV.fma md x y z).2 = flags [z])) ∧
    (x.isNaN = false → y.isNaN = false → z.isNaN = false → FV.fma md x y z =
      if (FV.mul x y).1.isNaN = true then (.nan false, FFlags.invalid) else FV.add md (FV.mul x y).1 z))

/-- R109, R112, R113: the forms on registers, pointers and flags write what the rules name and nothing else. -/
def Obligations.RegisterForms : Prop :=
  ∀ (s : State) (pre : Prefixes), s.Chosen pre →
    let k := s.strand
    let d := k.acc pre.ha
    let w := match pre.ty with | some t => t.bits | none => 64
    let ones := (List.range w).countP fun i => d.getLsbD i
    let zeros := ((List.range w).reverse.takeWhile fun i => !d.getLsbD i).length
    let counted (c : Nat) : Ctx :=
      { k.setAcc pre.ha (BitVec.ofNat 64 c) with f := setBit (setBit k.f 0 (decide (c = 0))) 1 false }
    (∀ e ∈ [(Instr.xcha pre, { k with a := k.x, x := k.a }), (.clz pre, counted zeros), (.popc pre, counted ones),
        (.movf pre, { k with f := d.setWidth 16 &&& 0x0DFF }), (.getf pre, k.setAcc pre.ha (k.f.setWidth 64)), (.nop pre, k)],
      e.1.WellFormed → exec e.1 s = .next (s.complete e.2 (k.next pre))) ∧
    (∀ p q : BitVec 3,
      let at' (n : BitVec 3) : Ptr := k.ptr n.toNat
      ∀ e ∈ [(Instr.movp p q false pre, k.setPtr p.toNat (at' q)),
          (.movp p q true pre, k.setPtr p.toNat ⟨d.extractLsb' 48 16, d.extractLsb' 0 48⟩),
          (.addp p pre, k.setPtr p.toNat ⟨(at' p).stride, (at' p).addr + d.setWidth 48⟩),
          (.getp p pre, k.setAcc pre.ha ((at' p).stride ++ (at' p).addr))],
        e.1.WellFormed → exec e.1 s = .next (s.complete e.2 (k.next pre))) ∧
    (∀ (p : BitVec 3) (imm : BitVec 5), (Instr.sets p imm pre).WellFormed →
      exec (.sets p imm pre) s = .next (s.complete
        (k.setPtr p.toNat ⟨BitVec.ofInt 16 (pre.extInt 5 imm.toNat), (k.ptr p.toNat).addr⟩) (k.next pre)))

/-- R118, R42: JMP always jumps to base-word address + 2 + 2 × off; a branch jumps when its condition holds on F at
issue, and goes to the next instruction when it does not; nothing but the PC (and the loop state at LEND) changes. -/
def Obligations.Branches : Prop :=
  ∀ (s : State) (off : BitVec 9) (pre : Prefixes), s.Chosen pre →
    let k := s.strand
    let z := k.f.getLsbD 0
    let n := k.f.getLsbD 1
    let c := k.f.getLsbD 2
    let v := k.f.getLsbD 3
    ∀ e ∈ [(true, Instr.jmp off pre), (z, .brZ off pre), (!z, .brNz off pre), (n, .brN off pre), (!n, .brNn off pre),
        (c, .brC off pre), (!c, .brNc off pre), (v, .brV off pre), (!v, .brNv off pre), (!z && n == v, .brGt off pre),
        (n == v, .brGe off pre), (n != v, .brLt off pre), (z || n != v, .brLe off pre)], e.2.WellFormed →
      exec e.2 s = .next (s.complete k
        (if e.1 then k.next pre + BitVec.ofInt 48 (2 * pre.extInt 9 off.toNat) else k.next pre))

/-- R119, R120: a call pushes the address of the next instruction, zero-extended to 8 bytes, at P7 - 8, which becomes
P7's address, and jumps; RET pops it; the indirect jump goes to A[47:0]. An odd A[47:0], and an odd word that RET
pops, raise ALIGN with detail 0x02 before any write (R104); a stack slot that is not wholly inside the tile's own
scratchpad raises ACCESS with detail 0x01, and a misaligned one ALIGN with detail 0x01 (R101). The choices of the
model in it are those of logs 18 and 75. -/
def Obligations.CallsAndReturns : Prop :=
  ∀ (s : State) (pre : Prefixes) (off : Nat), s.Chosen pre →
    let k := s.strand
    let sp := (k.ptr 7).addr
    let a : Addr := k.a.setWidth 48
    (s.Reaches (sp - 8) 8 off →
      let pushed := ((s.wrNat (scratchKey s.myTile off) 8 (k.next pre).toNat).served (wordsOf' off 8))
      (∀ o, (Instr.call o pre).WellFormed → exec (.call o pre) s = .next (pushed.complete (k.setAddr 7 (sp - 8))
        (k.next pre + BitVec.ofInt 48 (2 * pre.extInt 9 o.toNat)))) ∧
      ((Instr.callA pre).WellFormed → k.a.getLsbD 0 = false →
        exec (.callA pre) s = .next (pushed.complete (k.setAddr 7 (sp - 8)) a))) ∧
    ((Instr.ret pre).WellFormed → s.Readable sp 8 off →
      let v := s.rdNat (scratchKey s.myTile off) 8
      v % 2 = 0 →
      exec (.ret pre) s = .next ((s.served (wordsOf' off 8)).complete (k.setAddr 7 (sp + 8)) (BitVec.ofNat 48 v))) ∧
    (s.Readable sp 8 off → let v := s.rdNat (scratchKey s.myTile off) 8
      v % 2 = 1 → exec (.ret pre) s = .next (s.raise (trapOf kAlign 0x02 (BitVec.ofNat 48 v)))) ∧
    (∀ o, ∀ e ∈ [(Instr.call o pre, sp - 8), (.callA pre, sp - 8), (.ret pre, sp)],
      (e.1 = .callA pre → k.a.getLsbD 0 = false) →
      (¬InsideOwn e.2 8 → exec e.1 s = .next (s.raise (trapOf kAccess 0x01 e.2))) ∧
      (InsideOwn e.2 8 → e.2.toNat % 8 ≠ 0 → exec e.1 s = .next (s.raise (trapOf kAlign 0x01 e.2)))) ∧
    ((Instr.jmpA pre).WellFormed → k.a.getLsbD 0 = false → exec (.jmpA pre) s = .next (s.complete k a)) ∧
    (k.a.getLsbD 0 = true → ∀ i ∈ [Instr.jmpA pre, .callA pre], exec i s = .next (s.raise (trapOf kAlign 0x02 a)))

/-- R122, R123: LOOP with no loop active and a count other than zero starts the loop at the next instruction; a count
of zero skips the body; with a loop active it raises LOOP. An instruction that brings the PC to LEND ends a pass: the
count falls by one, and the PC goes back to LSTART unless the count has become zero; not while INH is set. -/
def Obligations.HardwareLoop : Prop :=
  (∀ (s : State) (off : BitVec 9) (pre : Prefixes), s.Chosen pre → (Instr.loop off pre).WellFormed →
    let k := s.strand
    let target := k.next pre + BitVec.ofInt 48 (2 * pre.extInt 9 off.toNat)
    let n : Word32 := k.x.setWidth 32
    (k.loop.lact = true → exec (.loop off pre) s = .next (s.raise (trapOf kLoop 0x01 0))) ∧
    (k.loop.lact = false → n = 0 → exec (.loop off pre) s = .next (s.complete k target)) ∧
    (k.loop.lact = false → n ≠ 0 →
      exec (.loop off pre) s = .next (s.complete { k with loop := ⟨true, n, k.next pre, target⟩ } (k.next pre)))) ∧
  (∀ (s : State) (k : Ctx) (pc : Addr),
    let after (l : Loop) (pc : Addr) : State := s.setCtx s.me s.myCtx { k with pc := pc, loop := l }
    s.complete k pc =
      if k.loop.lact = true ∧ k.inh = false ∧ pc = k.loop.lend then
        if k.loop.lcount = 1 then after { k.loop with lcount := 0, lact := false } pc
        else after { k.loop with lcount := k.loop.lcount - 1 } k.loop.lstart
      else after k.loop pc)

/-- R41: an instruction of any format but VX whose predicate is false completes with no effect: the PC moves on, the
loop test applies (R123), and nothing else changes. -/
def Obligations.FalsePredicate : Prop :=
  ∀ (s : State) (i : Instr), i.WellFormed → isVx i = false → (∀ n t pre, i ≠ .rep n t pre) →
    s.strand.cond i.pre.pred.toNat = false →
    exec i s = .next (s.complete s.strand (s.strand.next i.pre))

/-- R101, R104: a scalar memory operand that is not wholly inside the tile's own scratchpad raises ACCESS with detail
0x01, and one that is inside but not aligned raises ALIGN with detail 0x01; the record's ADDR is the operand's
address. An instruction with two memory operands checks both for ACCESS, then both for ALIGN, pa first. -/
def Obligations.OperandTraps : Prop :=
  (∀ (s : State) (p disp : BitVec 3) (pm : PostMode) (pre : Prefixes), s.Chosen pre →
    let n := sizeOf' pre.ty
    let nf := (pre.ty.getD .f32).size
    ∀ e ∈ [(Instr.lda p pm disp pre, n), (.sta p pm disp pre, n), (.addMem p pm disp pre, n), (.adc p pm disp pre, n),
      (.subMem p pm disp pre, n), (.sbc p pm disp pre, n), (.mulMem p pm disp pre, n), (.mulh p pm disp pre, n),
      (.div p pm disp pre, n), (.rem p pm disp pre, n), (.andMem p pm disp pre, n), (.orMem p pm disp pre, n),
      (.xorMem p pm disp pre, n), (.shlMem p pm disp pre, n), (.shrMem p pm disp pre, n), (.sarMem p pm disp pre, n),
      (.rolMem p pm disp pre, n), (.cmpMem p pm disp pre, n), (.tstMem p pm disp pre, n), (.minMem p pm disp pre, n),
      (.maxMem p pm disp pre, n), (.sel p pm disp pre, n), (.faddMem p pm disp pre, nf), (.fmulMem p pm disp pre, nf),
      (.fmin p pm disp pre, nf), (.fmax p pm disp pre, nf), (.fcmp p pm disp pre, nf)],
    let ea := s.strand.apAddr p disp pre e.2
    (¬InsideOwn ea e.2 → exec e.1 s = .next (s.raise (trapOf kAccess 0x01 ea))) ∧
    (InsideOwn ea e.2 → ea.toNat % e.2 ≠ 0 → exec e.1 s = .next (s.raise (trapOf kAlign 0x01 ea)))) ∧
  (∀ (s : State) (pa pb : BitVec 3) (pma pmb : PostMode) (pre : Prefixes), s.Chosen pre →
    let n := sizeOf' pre.ty
    let a := (s.strand.ptr pa.toNat).addr
    let b := (s.strand.ptr pb.toNat).addr
    ∀ e ∈ [(Instr.mac pa pma pb pmb pre, n), (.msb pa pma pb pmb pre, n), (.movm pa pma pb pmb pre, n),
      (.ffma pa pma pb pmb pre, (pre.ty.getD .f32).size)],
    let access (x : Addr) : Prop := exec e.1 s = .next (s.raise (trapOf kAccess 0x01 x))
    let align (x : Addr) : Prop := exec e.1 s = .next (s.raise (trapOf kAlign 0x01 x))
    (¬InsideOwn a e.2 → access a) ∧ (InsideOwn a e.2 → ¬InsideOwn b e.2 → access b) ∧
    (InsideOwn a e.2 → InsideOwn b e.2 → a.toNat % e.2 ≠ 0 → align a) ∧
    (InsideOwn a e.2 → InsideOwn b e.2 → a.toNat % e.2 = 0 → b.toNat % e.2 ≠ 0 → align b))

/-! ### Traps -/

/-- R219, R221, R363: a trap of any kind but XLATE, in a strand of a task with a trap entry and with INH = 0, writes
the 64-byte trap record at TRB + 1,024 k + 64 c of the tile's scratchpad, sets INH, and passes control to the trap
entry; A, X, F, the pointers, the counters and every other byte stay. The record holds the PC, F, the kind, the
detail, DEF, BODY, CODE, ADDR, A and X, and zero elsewhere. With no trap entry, or with INH = 1, and for XLATE, the
strand is suspended under a held-fault tag instead, and a fault record is posted that names the cause and carries the
trap record, which XLATE has none of. R61, R222: a pattern that is no instruction raises ILLEGAL with its detail at
its own address; TRAP raises SOFTWARE with its code, the record's PC being the address of the next instruction. ERET
with INH = 0 raises SYSTEM with detail 0x01; with INH = 1 it reads the trap record of its context, raises SYSTEM with
detail 0x05 where a reserved bit is set there (log 74), ALIGN with detail 0x02 for an odd PC, and else restores PC,
F, A and X and clears INH; pointers, counters, the loop state and memory stay. A trap that is taken and then returned
from leaves the strand as it was. The choices of the model in it are those of logs 17, 18, 74 and 81. -/
def Obligations.TrapsAndReturns : Prop :=
  let record (k : Ctx) (t : Trap) (rec : BitVec 512) : Prop :=
    rec.extractLsb' 0 48 = k.pc ∧ rec.extractLsb' 48 16 = 0 ∧ rec.extractLsb' 64 16 = k.f ∧
    rec.extractLsb' 80 8 = t.kind ∧ rec.extractLsb' 88 8 = t.detail ∧ rec.extractLsb' 96 1 = BitVec.ofBool t.deferred ∧
    rec.extractLsb' 97 4 = t.body ∧ rec.extractLsb' 101 11 = 0 ∧ rec.extractLsb' 112 8 = t.code ∧
    rec.extractLsb' 120 8 = 0 ∧ rec.extractLsb' 128 48 = t.addr ∧ rec.extractLsb' 176 16 = 0 ∧
    rec.extractLsb' 192 64 = k.a ∧ rec.extractLsb' 256 64 = k.x ∧ rec.extractLsb' 320 192 = 0
  (∀ (s : State) (t : Trap) (slot : Nat) (task : Task), s.taskOf s.me = some (slot, task) →
      task.trapEntry = true → s.strand.inh = false → t.kind ≠ kXlate →
      let k := s.strand
      ∃ rec : BitVec 512, record k t rec ∧
        s.raise t = (s.wrNat (scratchKey s.myTile (task.trb + 1024 * (s.me % 8) + 64 * s.myCtx)) 64 rec.toNat).setCtx
          s.me s.myCtx { k with inh := true, pc := BitVec.ofNat 48 (task.code + task.trapOff) }) ∧
  (∀ (s : State) (t : Trap) (n : Nat), s.Ok →
      let k := s.strand
      let pid := s.pidOf s.me
      let tcb := s.tcbOf s.me
      t.kind = kXlate ∨ k.inh = true ∨ (∀ e, s.taskOf s.me = some e → e.2.trapEntry = false) →
      (s.part pid).heldSlot = some n → (s.part pid).isSaved tcb = false →
      let src : Nat := if t.kind = kXlate then 2 else 1
      ∃ (u : State) (tag : BitVec 32) (trec : BitVec 512) (rec : BitVec 1024), record k t trec ∧
        s.raise t = u.postRecord pid tcb src rec.toNat ∧ u.mem = s.mem ∧
        u.ctx s.me s.myCtx = { k with mode := .suspended tag } ∧
        (∀ c, c ≠ s.myCtx → u.ctx s.me c = s.ctx s.me c) ∧ (∀ g, g ≠ s.me → u.core g = s.core g) ∧
        (u.part pid).heldAt tag = some (n, .strand s.me s.myCtx tcb) ∧
        rec.extractLsb' 0 48 = t.addr ∧ rec.extractLsb' 48 80 = 0 ∧ rec.extractLsb' 128 8 = BitVec.ofNat 8 src ∧
        rec.extractLsb' 136 8 = 0 ∧ rec.extractLsb' 144 8 = t.kind ∧ rec.extractLsb' 152 8 = t.detail ∧
        rec.extractLsb' 176 16 = 0 ∧ rec.extractLsb' 192 4 = BitVec.ofNat 4 s.myCtx ∧ rec.extractLsb' 256 32 = tcb ∧
        rec.extractLsb' 320 32 = tag ∧ rec.extractLsb' 352 32 = BitVec.ofNat 32 s.now ∧
        rec.extractLsb' 512 512 = if t.kind = kXlate then 0 else trec) ∧
  (∀ (s : State) (d : BitVec 8), exec (.illegalInstruction d) s = .next (s.raise (trapOf kIllegal d 0))) ∧
  (∀ (s : State) (code : BitVec 8) (pre : Prefixes), s.Chosen pre →
    exec (.trap code pre) s = .next (s.takeTrap s.me s.myCtx ⟨kSoftware, 0, 0, code, 0, false, s.strand.next pre, none⟩)) ∧
  (∀ (s : State) (pre : Prefixes) (slot : Nat) (task : Task), s.Chosen pre → s.taskOf s.me = some (slot, task) →
    let k := s.strand
    let off := task.trb + 1024 * (s.me % 8) + 64 * s.myCtx
    let r : BitVec 512 := BitVec.ofNat 512 (s.rdNat (scratchKey s.myTile off) 64)
    (k.inh = false → exec (.eret pre) s = .next (s.raise (trapOf kSystem 0x01 0))) ∧
    (k.inh = true → (s.core s.me).vecPending off 64 = false → s.poisonIn (scratchKey s.myTile off) 64 = none →
      let reserved := r.extractLsb' 48 16 ≠ 0 ∨ r.extractLsb' 101 11 ≠ 0 ∨ r.extractLsb' 120 8 ≠ 0 ∨ r.extractLsb' 176 16 ≠ 0 ∨
        r.extractLsb' 320 192 ≠ 0
      (reserved → exec (.eret pre) s = .next (s.raise (trapOf kSystem 0x05 0))) ∧
      (¬reserved → r.getLsbD 0 = true → exec (.eret pre) s = .next (s.raise (trapOf kAlign 0x02 (r.extractLsb' 0 48)))) ∧
      (¬reserved → r.getLsbD 0 = false → exec (.eret pre) s = .next ((s.served (wordsOf' off 64)).setCtx s.me s.myCtx
        { k with pc := r.extractLsb' 0 48, f := r.extractLsb' 64 16 &&& 0x0DFF, a := r.extractLsb' 192 64,
                 x := r.extractLsb' 256 64, inh := false })))) ∧
  (∀ (s : State) (t : Trap) (pre : Prefixes) (slot : Nat) (task : Task), s.Ok → s.Chosen pre →
    s.taskOf s.me = some (slot, task) → task.trapEntry = true → s.strand.inh = false → t.kind ≠ kXlate → s.poison = [] →
    s.strand.pc.getLsbD 0 = false →
    let off := task.trb + 1024 * (s.me % 8) + 64 * s.myCtx
    (s.core s.me).vecPending off 64 = false →
    ∃ u, exec (.eret pre) (s.raise t) = .next u ∧
      u.ctx s.me s.myCtx = { s.strand with f := s.strand.f &&& 0x0DFF } ∧
      ∀ key, key < scratchKey s.myTile off ∨ scratchKey s.myTile off + 64 ≤ key → u.byte key = s.byte key)

/-! ### Vector instructions -/

/-- R125 to R134: a vector instruction without a memory operand, with room in its core's queue, enters the queue at
issue, whatever its lane mask; VBCAST takes A[31:0] with it; no register, flag or byte of memory changes but the PC,
and the arbiter of the tile runs. VLD, VST and VLDT with room in the queue: where the element of every lane lies
inside the tile's own scratchpad and the address is aligned, the instruction is queued with its address and the span
of its bytes, and the pointer moves by the post-mode; where some lane lies outside, ACCESS is raised; else,
misaligned, ALIGN. The choices of the model in it are those of logs 1 and 66. -/
def Obligations.VectorIssue : Prop :=
  (∀ (s : State) (vd vs : BitVec 4) (pre : Prefixes), (s.core s.me).vq.length < 32 →
    ∀ i ∈ [Instr.vmov vd vs pre, .vbcast vd pre, .vadd vd vs pre, .vsub vd vs pre, .vmul vd vs pre, .vfma vd vs pre,
      .vmin vd vs pre, .vmax vd vs pre, .vabs vd vs pre, .vneg vd vs pre, .vand vd vs pre, .vor vd vs pre,
      .vxor vd vs pre, .vshl vd vs pre, .vshr vd vs pre, .vcmpEq vd vs pre, .vcmpLt vd vs pre, .vcmpLe vd vs pre,
      .vsel vd vs pre, .vcvt vd vs pre, .vred vd vs pre, .vscan vd vs pre, .vperm vd vs pre, .vexp2 vd vs pre,
      .vlog2 vd vs pre, .vrcp vd vs pre, .vrsq vd vs pre, .vclamp vd vs pre],
      ∃ e : VEntry, e.instr = i ∧ e.ctx = s.myCtx ∧ e.bcast = s.strand.a.setWidth 32 ∧ e.mem = false ∧
        exec i s = .next (((s.modCore s.me fun c => { c with vq := c.vq ++ [e] }).complete s.strand
          (s.strand.next pre)).due [.num .vectorBind s.myTile])) ∧
  (∀ (s : State) (vd : BitVec 4) (p : BitVec 3) (m : Bool) (pre : Prefixes), (s.core s.me).vq.length < 32 →
    let q := s.strand.ptr p.toNat
    let t := pre.ty.getD .i32
    let align := if t = .i4 ∨ t = .ui4 then 4 else t.size
    let step : Int := match pre.hb, m with
      | false, false => 0
      | false, true => q.stride.toInt * t.size
      | true, false => -(q.stride.toInt * t.size)
      | true, true => t.size
    ∀ e ∈ [(Instr.vld vd p m pre, (1 : Int)), (.vst vd p m pre, 1), (.vldt vd p m pre, q.stride.toInt)],
      e.1.WellFormed →
      let lane (i : Nat) : Addr := laneAddr t q.addr e.2 i
      ((∀ i < 64, InsideOwn (lane i) t.size) → q.addr.toNat % align = 0 →
        ∃ v : VEntry, v.instr = e.1 ∧ v.ctx = s.myCtx ∧ v.addr = q.addr ∧ v.stride = e.2 ∧ v.step = step ∧ v.mem = true ∧
          (∀ i < 64, 0xF00000000000 + v.lo ≤ (lane i).toNat ∧ (lane i).toNat + t.size ≤ 0xF00000000000 + v.hi + 1) ∧
          exec e.1 s = .next (((s.modCore s.me fun c => { c with vq := c.vq ++ [v] }).complete
            (s.strand.setAddr p.toNat (q.addr + BitVec.ofInt 48 step)) (s.strand.next pre)).due
              [.num .vectorBind s.myTile])) ∧
      ((∃ i < 64, ¬InsideOwn (lane i) t.size) → ∃ a, exec e.1 s = .next (s.raise (trapOf kAccess 0x01 a))) ∧
      ((∀ i < 64, InsideOwn (lane i) t.size) → q.addr.toNat % align ≠ 0 →
        exec e.1 s = .next (s.raise (trapOf kAlign 0x01 q.addr))))

/-- R126 to R134: what a vector instruction does when it is bound, in a pass with its registers moved by a stagger d,
its lane mask and its sources read from the lanes as they stood. An element-wise instruction writes every active lane
of vd: i32 lanes modulo 2^32, or clamped with SAT, f32 lanes rounded once. VBCAST writes the bits read at issue,
VPERM the source lane that the index names. VRED writes lane 0 with the pairwise tree over 64 lanes and VSCAN every
active lane with the inclusive prefix, an inactive lane counting as the identity. VLD and VLDT place elements of
memory free of poison in the active lanes; VST stores the active lanes, and no other element and no other byte
changes. Nothing else of the machine changes. The choices of the model in it are those of log 14. -/
def Obligations.VectorLanes : Prop :=
  ∀ (s : State) (g : Nat) (e : VEntry) (pass d : Nat), e.instr.WellFormed →
    let i := e.instr
    let pre := i.pre
    let c := s.core g
    let active := c.activeLanes pre
    (∀ vd vs binary f, laneForm i = some (vd, vs, binary, f) →
      let r := vxRegs pre binary vd vs d
      s.vecRun g e pass d = s.setCore g (c.withLanes r.1 active fun n =>
        f (c.laneBits r.1 n) (c.laneBits r.2.1 n) (c.laneBits r.2.2 n))) ∧
    (∀ vd p, i = .vbcast vd p →
      s.vecRun g e pass d = s.setCore g (c.withLanes (vxRegs pre false vd 0 d).1 active fun _ => e.bcast)) ∧
    (∀ vd vs p, i = .vperm vd vs p →
      let r := vxRegs pre true vd vs d
      s.vecRun g e pass d = s.setCore g (c.withLanes r.1 active fun n =>
        c.laneBits r.2.1 ((c.laneBits r.2.2 n).toNat % 64))) ∧
    (∀ vd vs p fn, i = .vred vd vs p ∨ i = .vscan vd vs p → redFns[pre.vt.toNat]? = some fn →
      let r := vxRegs pre false vd vs d
      let t := pre.ty.getD .i32
      let f := combineBits fn (decide (t = .f32)) (rndMode pre.rnd)
      let x (n : Nat) : Word32 := if n ∈ active then c.laneBits r.2.1 n else (reductionIdentity fn (some t)).setWidth 32
      (i = .vred vd vs p → s.vecRun g e pass d = s.setCore g (c.withLanes r.1 [0] fun _ => treeNode f x 6 0)) ∧
      (i = .vscan vd vs p → s.vecRun g e pass d = s.setCore g (c.withLanes r.1 active (prefixAt f x)))) ∧
    (∀ vd p m q, i = .vld vd p m q ∨ i = .vldt vd p m q ∨ i = .vst vd p m q →
      let r := (vxRegs pre false vd 0 d).1
      let t := pre.ty.getD .i32
      let a := e.addr + BitVec.ofInt 48 (pass * e.step)
      let stride := if i = .vldt vd p m q then e.stride else 1
      (∀ n < 64, InsideOwn (laneAddr t a stride n) t.size) → s.poison = [] →
      (i ≠ .vst vd p m q →
        s.vecRun g e pass d = s.setCore g (c.withLanes r active fun n => elementLane t (s.element (g / 8) t a stride n))) ∧
      (i = .vst vd p m q → s.Ok → ∃ u : State,
        s.vecRun g e pass d = u ∧ u = { s with mem := u.mem } ∧
        (∀ n < 64, u.element (g / 8) t a 1 n =
          if n ∈ active then laneElement t pre.sat (c.laneBits r n) else s.element (g / 8) t a 1 n) ∧
        ∀ key, (∀ n < 64, ∀ o < t.size,
          key ≠ scratchKey (g / 8) ((laneAddr t a 1 n).toNat - 0xF00000000000) + o) → u.byte key = s.byte key))

/-- R22: the arbiter of a tile, in a cycle without hold-back. Among the cores whose head is issuable it takes the one
with the largest deficit, the lowest among equals, after a refill if none has a deficit of 1; the head leaves the
queue, the deficit falls by one, the lowest free lane group is busy for four cycles, the destination registers become
readable when their latency has passed, and the instruction does its work. The choices of the model in it are those
of logs 2 and 60. -/
def Obligations.VectorArbiter : Prop :=
  ∀ (s : State) (t l w : Nat), s.arg = .num t 0 0 0 → s.holdsBack = false → l < 4 →
    Tab.get 0 (s.tile t).groups l ≤ s.now → (∀ j < l, s.now < Tab.get 0 (s.tile t).groups j) → w < 8 →
    let core (s : State) (k : Nat) : Core := s.core (8 * t + k)
    (core s w).issuable s.now = true →
    let short := ∀ k < 8, (core s k).issuable s.now = true → (core s k).defi = 0
    ∀ ds0 r, ds0 = ((List.range 8).filter fun k => (core s k).repWaits).map (fun k => Due.num .repBodyLoad (8 * t + k)) →
      (short → r = (List.range 8).foldl (fun s k => s.modCore (8 * t + k) refill) (s.due ds0)) → (¬short → r = s.due ds0) →
      (∀ k < 8, (core s k).issuable s.now = true →
        (core r k).defi < (core r w).defi ∨ ((core r k).defi = (core r w).defi ∧ w ≤ k)) →
      ∀ e pass d, (core r w).head = some (e, pass, d) →
      ∃ ds, (∀ x ∈ ds, x.what = .vectorBind ∨ x.what = .repBodyLoad) ∧
        exec .vectorBind s = .next
          (((((r.modCore (8 * t + w) fun c =>
              let c' := { c with defi := c.defi - 1 }.popHead
              let dest := (vecRegs e.instr).1
              let ready := dest.foldl (fun v n => Tab.set 0 v (staggered n d) (s.now + vecLatency e.instr)) c'.vready
              { c' with vready := ready }).modTile t
            fun x => { x with groups := Tab.set 0 x.groups l (s.now + 4) }).vecRun (8 * t + w) e pass d).due ds))

/-- R136, R137, R23: REP, with room for itself and its body and with every body instruction in the cache and free of
traps, enters the queue with its body, and the context goes on after the body; when it is at the head of the queue
with the repetition buffer free, its body moves there and its entries are freed. The choices of the model in it are
those of log 1. -/
def Obligations.RepetitionGroups : Prop :=
  (∀ (s : State) (n st : BitVec 4) (pre : Prefixes) (es : List VEntry) (k : Ctx) (pc : Addr),
    (Instr.rep n st pre).WellFormed → (s.core s.me).vq.length + n.toNat + 2 ≤ 32 →
    bodyFrom (s.tile s.myTile) s.myCtx (pre.extNat 0 0 + 1) s.strand (s.strand.next pre) 0 (n.toNat + 1) = .ok es k pc →
    es.length = n.toNat + 1 ∧ (∀ e ∈ es, isVx e.instr = true) ∧
    ∃ e : VEntry, e.instr = .rep n st pre ∧ e.ctx = s.myCtx ∧
      exec (.rep n st pre) s = .next (((s.modCore s.me fun c => { c with vq := c.vq ++ e :: es }).complete k pc).due
        [.num .vectorBind s.myTile])) ∧
  (∀ (s : State) (g : Nat) (n st : BitVec 4) (pre : Prefixes) (e : VEntry) (rest : List VEntry),
    s.arg = .num g 0 0 0 → (s.core g).rep = none → (s.core g).vq = e :: rest → e.instr = .rep n st pre →
    let len := n.toNat + 1
    let moved : RepState := ⟨rest.take len, pre.extNat 0 0 + 1, st.toNat + 16 * pre.ha.toNat, 0, 0⟩
    exec .repBodyLoad s = .next ((s.modCore g fun c => { c with vq := rest.drop len, rep := some moved }).due
      [.num .vectorBind (g / 8)]))

/-! ### Counters, fences, barriers, helpers -/

/-- R200, R201: SETC writes the counter and ADDC adds to it modulo 2^32; WAITC completes when the counter has reached
the value and otherwise leaves everything as it is; SLEEP completes or puts the context in WAIT-SYNC for the counter.
No flag, byte of memory or register of the strand but the PC changes. -/
def Obligations.CounterInstructions : Prop :=
  ∀ (s : State) (c : BitVec 4) (imm : Bool) (i : BitVec 3) (pre : Prefixes), s.Chosen pre →
    let v : Word32 := if imm then BitVec.ofNat 32 (pre.extNat 3 i.toNat) else s.strand.a.setWidth 32
    let n := c.toNat
    let here := Tab.get (0 : Word32) (s.core s.me).counters n
    let ahead : Prop := (here - v).toNat < 2 ^ 31
    ((Instr.setc c imm i pre).WellFormed → exec (.setc c imm i pre) s = .next ((s.setCounter s.me n v).skip pre)) ∧
    ((Instr.addc c imm i pre).WellFormed → exec (.addc c imm i pre) s = .next ((s.setCounter s.me n (here + v)).skip pre)) ∧
    (ahead → (Instr.waitc c imm i pre).WellFormed → exec (.waitc c imm i pre) s = .next (s.skip pre)) ∧
    (ahead → (Instr.sleep c imm i pre).WellFormed → exec (.sleep c imm i pre) s = .next (s.skip pre)) ∧
    (¬ahead → (Instr.waitc c imm i pre).WellFormed → exec (.waitc c imm i pre) s = .next s) ∧
    (¬ahead → (Instr.sleep c imm i pre).WellFormed → exec (.sleep c imm i pre) s = .next
      ((s.skip pre).leaveRunning s.me s.myCtx (.waitSync (.counter n v))))

/-- R215, R216: a fence that its kind makes satisfied completes with no effect but the PC; a full or release fence
waits while a posted write or a vector memory instruction of the context is outstanding; an acquire fence never waits
here, since a load returns before its context issues again (R13). BAR of context 0, with every posted operation and
copy of its core complete and its release satisfied, is an arrival at the barrier that this context's count at the
scope numbers; the context waits in WAIT-SYNC. A task of no gang treats pod scope as package scope (R439). A helper
raises HELPER with detail 0x05. The choices of the model in it are those of logs 1 and 62. -/
def Obligations.FencesAndBarriers : Prop :=
  (∀ (s : State) (sc : Scope) (pre : Prefixes), s.Chosen pre →
      let waits := (s.core s.me).vecMem s.myCtx = true ∨
        s.outstanding (fun i => decide (i.core = s.me ∧ i.ctx = s.myCtx)) false = true
      exec (.fenceAcq sc pre) s = .next (s.skip pre) ∧
      ∀ i ∈ [Instr.fence sc pre, .fenceRel sc pre],
        (¬waits → exec i s = .next (s.skip pre)) ∧ (waits → exec i s = .next s)) ∧
  (∀ (s : State) (sc : Scope) (pre : Prefixes), s.Chosen pre →
      (s.myCtx ≠ 0 → exec (.bar sc pre) s = .next (s.raise (trapOf kHelper 0x05 0))) ∧
      (s.myCtx = 0 → s.outstanding (fun i => decide (i.core = s.me)) true = false → s.released = true →
        let gang := match s.taskOf s.me with | some (_, t) => t.pgang | none => 0
        let at_ : Scope := if sc = .pod ∧ gang = 0 then .package else sc
        let n := Tab.get 0 s.strand.bars (scopeNum at_)
        ∃ r : RedArr, r.by_ = s.issuer ∧ r.scope = at_ ∧ r.domain = domainOf s.me at_ ∧ r.tag = n % 2 ^ 32 ∧
          exec (.bar sc pre) s = .next ((((s.skip pre).leaveRunning s.me 0 (.waitSync (.barrier at_ (n % 2 ^ 32)))).modCtx s.me 0
            fun k => { k with bars := Tab.set 0 k.bars (scopeNum at_) (n + 1) }).due [⟨.barArrival, .arr r⟩])))

/-- R202 to R205: HSTART of context 0 makes a helper within HELPERS that is not live READY with PC := A[47:0], A :=
X, P0 := P0 and all else zero, and counts it; its checks raise HELPER 0x03, 0x01, 0x02, then ALIGN 0x02, in this
order. HEXIT ends the strand; HJOIN completes where the helper is not live and waits where it is; YIELD gives the
core up. The choices of the model in it are those of log 18. -/
def Obligations.HelperStrands : Prop :=
  ∀ (s : State) (h : BitVec 4) (pre : Prefixes), s.Chosen pre →
    let k := s.strand
    let allowed := match s.taskOf s.me with | some (_, t) => field t.tcb 170 4 | none => 0
    let live := (s.ctx s.me h.toNat).live
    let started : Ctx := { Ctx.idle with
      live := true, pc := k.a.setWidth 48, a := k.x, ptrs := Tab.set Ptr.zero [] 0 (k.ptr 0) }
    (s.myCtx ≠ 0 → exec (.hstart h pre) s = .next (s.raise (trapOf kHelper 0x03 0))) ∧
    (s.myCtx = 0 → allowed < h.toNat → exec (.hstart h pre) s = .next (s.raise (trapOf kHelper 0x01 0))) ∧
    (s.myCtx = 0 → h.toNat ≤ allowed → live = true → exec (.hstart h pre) s = .next (s.raise (trapOf kHelper 0x02 0))) ∧
    (s.myCtx = 0 → h.toNat ≤ allowed → live = false → k.a.getLsbD 0 = true →
      exec (.hstart h pre) s = .next (s.raise (trapOf kAlign 0x02 (k.a.setWidth 48)))) ∧
    (s.myCtx = 0 → h.toNat ≤ allowed → live = false → k.a.getLsbD 0 = false →
      exec (.hstart h pre) s = .next (((s.setCtx s.me h.toNat started).liveUp s.me).skip pre)) ∧
    exec (.hexit pre) s = .next (s.endStrand s.me s.myCtx) ∧
    (h.toNat = s.myCtx → exec (.hjoin h pre) s = .next (s.raise (trapOf kHelper 0x04 0))) ∧
    (h.toNat ≠ s.myCtx → live = false → exec (.hjoin h pre) s = .next (s.skip pre)) ∧
    (h.toNat ≠ s.myCtx → live = true → exec (.hjoin h pre) s = .next
      ((s.skip pre).leaveRunning s.me s.myCtx (.waitSync (.helper h.toNat)))) ∧
    exec (.yield pre) s = .next ((s.skip pre).leaveRunning s.me s.myCtx .ready)

/-! ### Steps of a core -/

/-- R13, R14, R18, R20, R27: a core without a RUNNING context takes the first READY one in ring order; a value that
was waited for lands in A with the pointer's post-mode and the context becomes READY, a refusal in its place is a
precise trap; a missing instruction word enters the cache, from which the word filled first leaves when it holds 64
KiB; a stalled core tries again; an engine adds one to a counter. The choices of the model in it are those of logs 1
and 65. -/
def Obligations.CoreSteps : Prop :=
  (∀ (s : State) (g n j : Nat), s.arg = .num g 0 0 0 →
    let c := s.core g
    let ready (m : Nat) : Prop := (c.ctx m).live = true ∧ (c.ctx m).mode = .ready
    c.running = none → j < 16 → n = (c.from_ + j) % 16 → ready n → (∀ i < j, ¬ready ((c.from_ + i) % 16)) →
    exec .contextSelect s = .next (s.setCore g { c.setCtx n { c.ctx n with mode := .running } with running := some n })) ∧
  (∀ (s : State) (g c p : Nat) (a npc : Addr) (ty : Option Ty) (v : Word64), s.arg = .num g c 0 0 →
    let k := s.ctx g c
    k.mode = .waitLoad → k.await = some ⟨npc, false, some (p, a), ty, none⟩ →
    (k.reply = some { Reply.plain with a := some v } →
      exec .loadReply s = .next ((s.setCtx g c
        ({ k.setAddr p a with a := v, pc := npc, await := none, reply := none } : Ctx).loopTest).wake g c)) ∧
    (∀ kind detail, k.reply = some (Reply.trapped kind detail a) →
      exec .loadReply s = .next (((s.setCtx g c { k with await := none, reply := none }).wake g c).takeTrap g c
        ⟨kind, detail, a, 0, 0, false, k.pc, none⟩))) ∧
  (∀ (s : State) (g c : Nat) (va : Addr) (e : TlbEntry) (key : Nat), s.arg = .fetch g c va true false →
    s.translate (g / 8) (s.pidOf g) va.toNat true false = .page e → e.rem = false →
    s.physKey (e.pbase + (va.toNat - e.vbase)) = some key →
    let w : Half := BitVec.ofNat 16 (bytesToNat ((s.tile (g / 8)).code.readN key 2))
    let x := s.tile (g / 8)
    let n := va.toNat / 2
    let y : Tile := match x.fills with
      | o :: rest => if 32768 ≤ x.fills.length then { x with icache := Tab.set none x.icache o none, fills := rest } else x
      | [] => x
    let filled := s.setTile (g / 8) { y with icache := Tab.set none y.icache n (some w), fills := y.fills ++ [n] }
    exec .icacheMissFill s = .next (if (filled.ctx g c).mode = .waitLoad then filled.wake g c else filled)) ∧
  (∀ (s : State) (g : Nat), s.arg = .num g 0 0 0 →
    exec .scalarAccessRetry s = .next (s.modCore g fun c => { c with stalled := false })) ∧
  (∀ (s : State) (g n : Nat), s.arg = .num g n 0 0 →
    exec .counterIncrement s = .next (s.setCounter g n (s.counter g n + 1)))

/-- R14, R18, R201, R203, R204, R216: a counter that is set reads as its new value, every other counter as before;
each context of the core that slept until the counter had reached a value that it now has reached is READY, and no
other context, no byte of memory and no other part of the machine but the steps that are due changes. A strand that
ends is no longer live, its registers read as zero, and a context of its core that joins it becomes READY; every
context that waited at a barrier that is released becomes READY, and the barrier is gone; no other context changes. A
barrier is released, or at pod scope PROOT is told, exactly when every participant has arrived or has exited; while
its task is being pre-empted none is released (R350). The choices of the model in it are those of logs 1, 2 and 35. -/
def Obligations.WakesAndReleases : Prop :=
  (∀ (s : State) (g n : Nat) (v : Word32), s.Ok →
    let t := s.setCounter g n v
    t.counter g n = v ∧ (∀ m, m ≠ n → t.counter g m = s.counter g m) ∧
    (∀ c < 16, (s.ctx g c).live = true → ∀ u, (s.ctx g c).mode = .waitSync (.counter n u) →
      t.ctx g c = if (v - u).toNat < 2 ^ 31 then { s.ctx g c with mode := .ready } else s.ctx g c) ∧
    (∀ c, (∀ u, (s.ctx g c).mode ≠ .waitSync (.counter n u)) → t.ctx g c = s.ctx g c) ∧
    (∀ h, h ≠ g → t.core h = s.core h) ∧
    t.mem = s.mem ∧ t.tiles = s.tiles ∧ t.parts = s.parts ∧ t.board = s.board ∧ t.host = s.host) ∧
  (∀ (s : State) (pre : Prefixes), s.Ok → s.Chosen pre → (s.core s.me).refusals = [] →
    (s.core s.me).running = some s.myCtx →
    let joins (c : Nat) : Prop := c < 16 ∧ c ≠ s.myCtx ∧ (s.ctx s.me c).live = true ∧
      (s.ctx s.me c).mode = .waitSync (.helper s.myCtx)
    ∃ t, exec (.hexit pre) s = .next t ∧ t.ctx s.me s.myCtx = Ctx.idle ∧ (t.core s.me).running = none ∧
      (∀ c, joins c → t.ctx s.me c = { s.ctx s.me c with mode := .ready }) ∧
      (∀ c, c ≠ s.myCtx → ¬joins c → t.ctx s.me c = s.ctx s.me c) ∧ ∀ g, g ≠ s.me → ∀ c, t.ctx g c = s.ctx g c) ∧
  (∀ (s : State) (r : RedArr) (n : Nat), s.arg = .arr r → (s.part r.by_.pid).taskSlot r.by_.tcb = some n →
    (s.task r.by_.pid n).stopping = true →
    exec .barRelease s = .next (if r.scope = .pod then s.dueIn 64 ⟨.barRelease, .arr r⟩ else s)) ∧
  (∀ (s : State) (r : RedArr), s.Ok → s.arg = .arr r →
    (∀ n, (s.part r.by_.pid).taskSlot r.by_.tcb = some n → (s.task r.by_.pid n).stopping = false) →
    let wakes (g c : Nat) : Prop := (∃ m ∈ s.meetings, m.fits 0 r = true ∧ ∃ a ∈ m.arrived, a.by_.core = g) ∧
      s.pidOf g = r.by_.pid ∧ s.tcbOf g = r.by_.tcb ∧ c < 16 ∧ (s.ctx g c).live = true ∧
      (s.ctx g c).mode = .waitSync (.barrier r.scope r.tag)
    ∃ t, exec .barRelease s = .next t ∧ (∀ m ∈ t.meetings, m.fits 0 r = false) ∧
      (∀ g c, wakes g c → t.ctx g c = { s.ctx g c with mode := .ready }) ∧
      ∀ g c, ¬wakes g c → t.ctx g c = s.ctx g c) ∧
  (∀ (s : State) (m : Meeting),
    (s.allHere m = true ↔ ∀ g ∈ s.participants m, (∃ r ∈ m.arrived, r.by_.core = g) ∨ (s.ctx g 0).live = false) ∧
    (m.scope = .context ∨ m.scope = .core → s.participants m = [m.domain]) ∧
    (m.scope ≠ .context → m.scope ≠ .core →
      ((s.part m.pid).taskSlot m.tcb = none → s.participants m = []) ∧
      ∀ n, (s.part m.pid).taskSlot m.tcb = some n → ∀ g, g ∈ s.participants m ↔
        g / 8 ∈ (s.task m.pid n).tiles ∧ domainOf g m.scope = m.domain)) ∧
  (∀ (s : State) (pid : Nat) (tcb : BitVec 32),
    let held := ∃ n, (s.part pid).taskSlot tcb = some n ∧ ((s.task pid n).stopping = true ∨ (s.task pid n).saved = true)
    let whole := s.meetings.filter fun m =>
      decide (m.kind = 0) && decide (m.pid = pid) && decide (m.tcb = tcb) && s.allHere m
    (held → s.checkBars pid tcb = s) ∧
    (¬held → (∀ m ∈ whole, m.scope ≠ .pod) → s.checkBars pid tcb = whole.foldl (fun u m => match m.arrived with
      | [] => u
      | r :: _ => u.due [⟨.barRelease, .arr r⟩]) s) ∧
    (∀ m r rest, ¬held → s.meetings = [m] → whole = [m] → m.scope = .pod → m.arrived = r :: rest → s.checkBars pid tcb =
      if m.need ≠ 0 then s else ({ s with meetings := [{ m with need := 1 }] } : State).sendPod (s.part pid).proot
        (.barArrive s.pod.pkgn.toNat (s.part pid).pjob (s.gangOf pid tcb) m.tag))) ∧
  (∀ (s : State) (r : RedArr), s.arg = .arr r →
    ∃ t : State, exec .barArrival s = .next (t.checkBars r.by_.pid r.by_.tcb) ∧ t = { s with meetings := t.meetings } ∧
      ∃ m ∈ t.meetings, m.fits 0 r = true ∧ r ∈ m.arrived)

/-! ### Page 2: global memory, die stores, windows, puts, atomics -/

/-- R179, R182, R183: a load whose checks pass reads the bytes of its location at issue; its value, extended, and the
pointer's post-mode land later, while the context waits as for an off-core load. While the stack of its location is
being handed over it is performed when that has ended (R399). The choices of the model in it are those of logs 1 and
48. -/
def Obligations.GlobalLoads : Prop :=
  (∀ (s : State) (p : BitVec 3) (pm : PostMode) (sc : Scope) (pre : Prefixes) (key : Nat), s.Chosen pre →
    let n := sizeOf' pre.ty
    let q := s.strand.ptr p.toNat
    let waiting := s.await ⟨s.strand.next pre, false, some (p.toNat, q.post pm n), pre.ty, none⟩
    s.checked .ldg q.addr n true false = .ok (.mem [key]) →
    ∀ i ∈ [Instr.ldg p pm pre, .ldgAcq p pm sc pre], i.WellFormed →
      (s.heldBy (dieOf s.myTile) (keyStacks [key]) = none → s.poisonIn key n = none →
        exec i s = .next (waiting.reply s.me s.myCtx { Reply.plain with a := some (loadedValue pre.ty (s.rdNat key n)) })) ∧
      (∀ h, s.heldBy (dieOf s.myTile) (keyStacks [key]) = some h →
        ∃ m : WinReq, m.by_ = s.issuer ∧ m.addr = q.addr ∧ m.size = n ∧ m.ty = pre.ty ∧
          exec i s = .next (waiting.waitFor h ⟨.loadReply, .load m [key]⟩))) ∧
  (∀ (s : State) (m : WinReq) (key : Nat), s.arg = .load m [key] → s.poisonIn key m.size = none →
    exec .loadReply s = .next (s.reply m.by_.core m.by_.ctx
      { Reply.plain with a := some (memExt m.ty (s.rdNat key m.size)) }))

/-- R179, R180, R182, R183: a posted store with room in its core's queue writes the bytes of its location and no
others, moves the pointer and sets SAT where its clamp changed the value; a release does so at once where everything
before it has been performed, and else holds its place in the queue. While the stack of its location is being handed
over a store waits for the end of that (R399). The choices of the model in it are those of logs 1, 16 and 48. -/
def Obligations.GlobalStores : Prop :=
  ∀ (s : State) (p : BitVec 3) (pm : PostMode) (sc : Scope) (pre : Prefixes) (key : Nat), s.Chosen pre →
    let n := sizeOf' pre.ty
    let k := s.strand
    let q := k.ptr p.toNat
    let k' : Ctx := { k.applyPost p pm n with f := storeFlags pre k.a k.f }
    let held := s.heldBy (dieOf s.myTile) (keyStacks [key])
    s.checked .ldg q.addr n false true = .ok (.mem [key]) → (s.core s.me).posted < 32 →
    let stored := (s.wrN key (storedBytes pre k.a)).complete k' (k.next pre)
    let queued := (s.postBegin s.me).complete k' (k.next pre)
    let m (rel : Bool) : PutMsg := ⟨s.issuer, q.addr, .mem [key], storedBytes pre k.a, 0, [], rel, none, false⟩
    ((Instr.stg p pm pre).WellFormed →
      (held = none → exec (.stg p pm pre) s = .next stored) ∧
      (∀ h, held = some h → exec (.stg p pm pre) s = .next (queued.waitFor h ⟨.putDelivery, .put (m false)⟩))) ∧
    ((Instr.stgRel p pm sc pre).WellFormed → s.released = true →
      (held = none → exec (.stgRel p pm sc pre) s = .next stored) ∧
      (∀ h, held = some h → exec (.stgRel p pm sc pre) s = .next (queued.waitFor h ⟨.putDelivery, .put (m true)⟩))) ∧
    ((Instr.stgRel p pm sc pre).WellFormed → s.released = false →
      exec (.stgRel p pm sc pre) s = .next (queued.due [⟨.putDelivery, .put (m true)⟩]))

/-- R183 to R186: a window access whose checks pass is sent to its target tile, and its context waits. There a
descriptor in service that permits the access and covers its bytes serves it: a store writes exactly those bytes of
the portion, and those that the fabric has poisoned on the way stay so, a load returns them; any other refuses it,
with detail 0x02, 0x03, 0x04 or 0x01, as a precise NACK. A lent tile that its owner has taken back meanwhile lies
outside the partition: ACCESS with detail 0x03 (R377). The choices of the model in it are those of logs 1 and 2. -/
def Obligations.WindowAccesses : Prop :=
  (∀ (s : State) (p : BitVec 3) (pm : PostMode) (sc : Scope) (pre : Prefixes) (x c w o : Nat), s.Chosen pre →
    let n := sizeOf' pre.ty
    let k := s.strand
    let q := k.ptr p.toNat
    ∀ e ∈ [(Instr.ldw p pm pre, false, false), (.ldwAcq p pm sc pre, false, false), (.stw p pm pre, true, false),
        (.stwRel p pm sc pre, true, true)], e.1.WellFormed →
      s.checked .ldw q.addr n (!e.2.1) e.2.1 = .ok (.window x c w o) →
      let m : WinReq := ⟨s.issuer, q.addr, x, c, w, o, e.2.1, n, if e.2.1 then storedBytes pre k.a else [], pre.ty,
        e.2.1 && decide (storeValue pre k.a ≠ k.a.toInt), e.2.2, []⟩
      exec e.1 s = .next ((s.await ⟨k.next pre, false, some (p.toNat, q.post pm n), pre.ty, none⟩).due
        [⟨.windowAccessCheck, .win m⟩])) ∧
  (∀ (s : State) (m : WinReq), s.arg = .win m → m.rel = false ∨ s.releasedFor m.by_ = true →
    let answer (r : Reply) : Host.Outcome State Fault Refusal := .next (s.reply m.by_.core m.by_.ctx r)
    let back := s.heldBack m.tile = true ∧ ((s.tileEntry m.tile).extractLsb' 32 16).toNat = m.by_.pid
    let d := Tab.get 0 (s.core (8 * m.tile + m.core)).wins m.win
    let allowed := if m.write then d.getLsbD 60 else d.getLsbD 59
    let state := d.extractLsb' 62 2
    let len := (d.extractLsb' 20 19).toNat
    let key := scratchKey m.tile (0x40000 * m.core + (d.extractLsb' 0 18).toNat + m.off)
    (back → exec .windowAccessCheck s = answer (Reply.trapped kAccess 0x03 m.addr)) ∧
    (¬back → state = 0 → exec .windowAccessCheck s = answer (Reply.trapped kNack 0x02 m.addr)) ∧
    (¬back → state = 2 → exec .windowAccessCheck s = answer (Reply.trapped kNack 0x03 m.addr)) ∧
    (¬back → state ≠ 0 → state ≠ 2 → allowed = false →
      exec .windowAccessCheck s = answer (Reply.trapped kNack 0x04 m.addr)) ∧
    (¬back → state ≠ 0 → state ≠ 2 → allowed = true → len < m.off + m.size →
      exec .windowAccessCheck s = answer (Reply.trapped kNack 0x01 m.addr)) ∧
    (¬back → state ≠ 0 → state ≠ 2 → allowed = true → m.off + m.size ≤ len →
      (m.write = true → exec .windowAccessCheck s = .next ((m.bad.foldl (fun s o => s.poisonAt (key + o) 4)
        (s.wrN key m.data)).reply m.by_.core m.by_.ctx { Reply.plain with fmask := if m.sat then 0x100 else 0, fval := 0x100 })) ∧
      (m.write = false → s.poisonIn key m.size = none →
        exec .windowAccessCheck s = answer { Reply.plain with a := some (memExt m.ty (s.rdNat key m.size)) }))) ∧
  (∀ (s : State) (m : WinReq), s.arg = .win m → m.rel = true → s.releasedFor m.by_ = false →
    exec .windowAccessCheck s = .next (s.dueIn 4 ⟨.windowAccessCheck, .win m⟩))

/-- R180, R187, R188, R197: PUT, PUTC and MCST with their checks passed and room in the queue of the core complete at
issue and send their data, which are the low bytes of A (of the operand's type) or 64 bytes of the scratchpad, with
the counter target of X or one replica per die that X names; the bytes of a PUTC that lie on a second page go there.
An MCST to no die only completes. WINSET writes a window register that is well formed. The choices of the model in it
are those of logs 27, 28 and 64. -/
def Obligations.PostedInstructions : Prop :=
  ∀ (s : State) (p : BitVec 3) (pm : PostMode) (pre : Prefixes), s.Chosen pre → (s.core s.me).posted < 32 →
    let n := sizeOf' pre.ty
    let k := s.strand
    let q := k.ptr p.toNat
    let k' : Ctx := { k.applyPost p pm n with f := storeFlags pre k.a k.f }
    let bytes := storedBytes pre k.a
    (∀ d, (Instr.put p pm pre).WellFormed → s.checked .put q.addr n false true = .ok d →
      s.targetOk d q.addr k.x = .ok () → s.vecOverlaps d n = false →
      exec (.put p pm pre) s = .next (((s.postBegin s.me).complete k' (k.next pre)).due
        [⟨.putDelivery, .put ⟨s.issuer, q.addr, d, bytes, k.x, [], false, none, false⟩⟩])) ∧
    (∀ o, let ea : Addr := k.a.setWidth 48
      let data := s.rdN (scratchKey s.myTile o) 64
      let sent (m : PutMsg) : Host.Outcome State Fault Refusal := .next (((s.postBegin s.me).complete (k.applyPost p pm 64)
        (k.next pre)).due [⟨.putDelivery, .put m⟩])
      let free (e : Dest × Nat) : Prop := s.accessPending e.1 (pieceSize e) = false ∧ s.vecOverlaps e.1 64 = false
      (Instr.putc p pm pre).WellFormed → k.a.extractLsb' 48 16 = 0 → Family.put.accepts 0 (apertureOf ea) = true →
      q.addr.toNat = 0xF00000000000 + o → o + 64 ≤ 2 ^ 21 → o % 4 = 0 → s.poison = [] →
      (s.core s.me).vecPending o 64 = false →
      (∀ d, s.lineParts ea = .ok [(d, 16)] → s.targetOk d ea k.x = .ok () → free (d, 16) →
        exec (.putc p pm pre) s = sent ⟨s.issuer, ea, d, data, k.x, [], false, none, false⟩) ∧
      (∀ d d' m m', s.lineParts ea = .ok [(d, m), (d', m')] → s.targetOk d ea k.x = .ok () →
        targetV k.x = false ∨ s.destPkg d' = s.destPkg d → free (d, m) → free (d', m') →
        exec (.putc p pm pre) s = sent ⟨s.issuer, ea, d, data.take (4 * m), k.x, [], false,
          some ⟨d', ea + BitVec.ofNat 48 (4 * m), data.drop (4 * m), []⟩, false⟩)) ∧
    (∀ off, let part := s.part (s.pidOf s.me)
      let dies := (List.range 4).filter fun d => k.x.getLsbD d
      let keys := dies.map fun d => dieKey d (part.dssBase d + off)
      (Instr.mcst p pm pre).WellFormed → apertureOf q.addr = .dieStore 0 off → q.addr.toNat % n = 0 →
      k.x.extractLsb' 4 60 = 0 → (∀ d ∈ dies, off + n ≤ part.dssSize d) →
      (dies = [] → exec (.mcst p pm pre) s = .next (s.complete k' (k.next pre))) ∧
      (dies ≠ [] → s.accessPending (.mem keys) n = false →
        exec (.mcst p pm pre) s = .next (((s.postBegin s.me).complete k' (k.next pre)).due (replicas s.issuer bytes keys)))) ∧
    (∀ w, (Instr.winset w pre).WellFormed → windowOk k.a = true →
      exec (.winset w pre) s = .next ((s.modCore s.me fun c => { c with wins := Tab.set 0 c.wins w.toNat k.a }).skip pre))

/-- R186, R189, R190, R196, R197: a put's bytes land at its destination, and then its counter is incremented; where
more of it lies on a second page, that is sent then. A put to a window is checked at its target: a descriptor in
service that permits puts and covers the bytes takes them, any other refuses the put, with detail 0x02, 0x03, 0x04 or
0x01, as a refusal queued for its context, or as a record where the context is no longer live or 16 are queued. A put
to another package is sent there. A refusal that was queued is raised as a deferred NACK whose ADDR is the
destination; a failed posted operation is reported to its task; a replica of a multicast lands, the last one
completing it. The choices of the model in it are those of logs 1, 2, 40, 41 and 48. -/
def Obligations.PostedDeliveries : Prop :=
  (∀ (s : State) (m : PutMsg), s.arg = .put m → m.rel = false ∨ s.releasedFor m.by_ = true → m.bad = [] →
    let ended (t : State) : State := if m.left then t.opEnd m.by_.pid m.by_.tcb else t.postEnd m.by_
    let on (t : State) : State := match m.rest with
      | some r => t.due [⟨.putDelivery, .put
          { m with addr := r.addr, dest := r.dest, data := r.data, bad := r.bad, rest := none }⟩]
      | none => ended (t.signal m.by_.pid m.target)
    (∀ key, m.dest = .mem [key] →
      (s.heldBy (dieOf (m.by_.core / 8)) (keyStacks [key]) = none → exec .putDelivery s = .next (on (s.wrN key m.data))) ∧
      (∀ h, s.heldBy (dieOf (m.by_.core / 8)) (keyStacks [key]) = some h →
        exec .putDelivery s = .next (s.waitFor h ⟨.putDelivery, .put m⟩))) ∧
    (∀ t c w o, m.dest = .window t c w o →
      let back := s.heldBack t = true ∧ ((s.tileEntry t).extractLsb' 32 16).toNat = m.by_.pid
      let d := Tab.get 0 (s.core (8 * t + c)).wins w
      let state := d.extractLsb' 62 2
      let x := s.core m.by_.core
      let queued := (x.ctx m.by_.ctx).live = true ∧ s.tcbOf m.by_.core = m.by_.tcb ∧ x.refusals.length < 16
      let refused (detail : BitVec 8) : Prop :=
        (queued → exec .putDelivery s = .next ((s.setCore m.by_.core
          { x with refusals := x.refusals ++ [⟨m.by_.ctx, m.by_.opc, m.addr, detail⟩] }).postEnd m.by_)) ∧
        (¬queued → exec .putDelivery s = .next (s.due [⟨.postedOpFailure, .failed m.by_ 3 detail m.addr⟩]))
      (back → exec .putDelivery s = .next (s.due [⟨.postedOpFailure, .failed m.by_ 3 0 m.addr⟩])) ∧
      (¬back → state = 0 → refused 0x02) ∧
      (¬back → state = 2 → refused 0x03) ∧
      (¬back → state ≠ 0 → state ≠ 2 → d.getLsbD 61 = false → refused 0x04) ∧
      (¬back → state ≠ 0 → state ≠ 2 → d.getLsbD 61 = true → (d.extractLsb' 20 19).toNat < o + m.data.length → refused 0x01) ∧
      (¬back → state ≠ 0 → state ≠ 2 → d.getLsbD 61 = true → o + m.data.length ≤ (d.extractLsb' 20 19).toNat →
        exec .putDelivery s = .next (on
          (s.wrN (scratchKey t (0x40000 * c + (d.extractLsb' 0 18).toNat + o)) m.data)))) ∧
    (∀ pkg va, m.dest = .remote pkg va → exec .putDelivery s = .next ((if m.left then s else s.postLeave m.by_).sendRequest
      m.by_ pkg fun here job tag => .put here job tag { m with left := true }))) ∧
  (∀ (s : State) (m : PutMsg), s.arg = .put m → m.rel = true → s.releasedFor m.by_ = false →
    exec .putDelivery s = .next (s.dueIn 4 ⟨.putDelivery, .put m⟩)) ∧
  (∀ (s : State) (g c : Nat) (r : Refused) (rest : List Refused), s.arg = .num g c 0 0 →
    (s.core g).refusals = r :: rest → r.ctx = c →
    let s' := (s.modCore g fun x => { x with refusals := rest }).modCtx g c fun k => { k with copyHeld := none }
    exec .deferredRefusal s = .next (s'.takeTrap g c ⟨kNack, r.detail, r.dest, 0, 0, true, (s'.ctx g c).pc, some r.opc⟩)) ∧
  (∀ (s : State) (i : Issuer) (st : Nat) (d : BitVec 8) (a : Addr), s.arg = .failed i st d a →
    ∃ x : FaultInfo, x.src = 4 ∧ x.status = st ∧ x.detail = d.toNat ∧ x.addr = a.toNat ∧
      exec .postedOpFailure s = .next ((s.fault i x).postEnd i)) ∧
  (∀ (s : State) (i : Issuer) (key : Nat) (data : List Byte) (bad : List Nat) (last : Bool),
    s.arg = .replica i key data bad last →
    let written := bad.foldl (fun s o => s.poisonAt (key + o) 4) (s.wrN key data)
    exec .mcstReplicaWrite s = .next (if last then written.postEnd i else written))

/-- R191 to R194: an atomic whose checks pass is sent to its location, once; a returning one takes its operand from X
and compares with A while its context waits, a posted one takes its operand from A with room in the queue. At the
location, without an error there, it writes the new value and answers with the old one: C set, V clear, and for a
compare-and-swap Z where it swapped; with poison there, or in the operands that it carries, it is not applied, MEMORY
with detail 0x01 or a record. One for another package is sent there. The choices of the model in it are those of logs
1, 2, 48, 81 and 84. -/
def Obligations.Atomics : Prop :=
  (∀ (s : State) (p : BitVec 3) (o : AtomOrder) (sc : Scope) (pre : Prefixes) (d : Dest), s.Chosen pre →
    let n := sizeOf' pre.ty
    let k := s.strand
    let ea := (k.ptr p.toNat).addr
    let rel := decide (o = .release ∨ o = .acqRel)
    s.checked .atom ea n true true = .ok d →
    (∀ e ∈ [(AtomOp.add, Instr.atomAdd p o sc pre), (.min, .atomMin p o sc pre), (.max, .atomMax p o sc pre),
        (.and, .atomAnd p o sc pre), (.or, .atomOr p o sc pre), (.xor, .atomXor p o sc pre), (.xchg, .atomXchg p o sc pre),
        (.cas, .atomCas p o sc pre)],
      exec e.2 s = .next ((s.await ⟨k.next pre, false, none, pre.ty, some k.a⟩).due
        [⟨.atomicPerform, .atom ⟨s.issuer, ea, d, e.1, pre.ty, true, k.x, k.a, rel, false⟩⟩])) ∧
    ((s.core s.me).posted < 32 →
      ∀ e ∈ [(AtomOp.add, Instr.atomnAdd p o sc pre), (.min, .atomnMin p o sc pre), (.max, .atomnMax p o sc pre),
        (.and, .atomnAnd p o sc pre), (.or, .atomnOr p o sc pre), (.xor, .atomnXor p o sc pre)],
      exec e.2 s = .next (((s.postBegin s.me).skip pre).due
        [⟨.atomicPerform, .atom ⟨s.issuer, ea, d, e.1, pre.ty, false, k.a, 0, rel, false⟩⟩]))) ∧
  (∀ (s : State) (m : AtomMsg), s.arg = .atom m → m.rel = false ∨ s.releasedFor m.by_ = true →
    (∀ key, m.dest = .mem [key] → s.heldBy (dieOf (m.by_.core / 8)) (keyStacks [key]) = none →
      let n := sizeOf' m.ty
      let old := s.rdNat key n
      (m.bad = false → s.poisonIn key n = none → m.ty = none ∨ m.ty = some .i32 ∨ m.ty = some .f32 →
        let swapped := m.op = .cas ∧ BitVec.ofNat (8 * n) old = m.cmp.setWidth _
        let written := s.wrNat key n (atomResult m.ty m.op old m.v m.cmp)
        (m.returning = false → exec .atomicPerform s = .next (written.postEnd m.by_)) ∧
        (m.returning = true → ∃ r : Reply, r.a = some (loadedValue m.ty old) ∧ r.trap = none ∧ r.x = none ∧
          r.fmask = (if m.op = .cas then 0xD else 0xC) ∧ r.fval &&& r.fmask = (if swapped then 5 else 4) ∧
          exec .atomicPerform s = .next (written.reply m.by_.core m.by_.ctx r))) ∧
      (∀ bad, (if m.bad then some 0 else s.poisonIn key n) = some bad → let a := m.addr + BitVec.ofNat 48 bad
        (m.returning = true →
          exec .atomicPerform s = .next (s.reply m.by_.core m.by_.ctx (Reply.trapped kMemory 0x01 a))) ∧
        (m.returning = false →
          exec .atomicPerform s = .next (s.due [⟨.postedOpFailure, .failed m.by_ 2 0 a⟩])))) ∧
    (∀ key h, m.dest = .mem [key] → s.heldBy (dieOf (m.by_.core / 8)) (keyStacks [key]) = some h →
      exec .atomicPerform s = .next (s.waitFor h ⟨.atomicPerform, .atom m⟩)) ∧
    (∀ pkg va, m.dest = .remote pkg va → exec .atomicPerform s = .next ((if m.returning then s else
      s.postLeave m.by_).sendRequest m.by_ pkg fun here job tag => .atom here job tag m))) ∧
  (∀ (s : State) (m : AtomMsg), s.arg = .atom m → m.rel = true → s.releasedFor m.by_ = false →
    exec .atomicPerform s = .next (s.dueIn 4 ⟨.atomicPerform, .atom m⟩))

/-- R176, R177, R185, R187, R376: the checks of page 2 in their order. A reserved address raises ACCESS 0x03, an
aperture that the family does not accept ACCESS 0x02, a misaligned address ALIGN 0x01. A window of a tile outside the
partition raises ACCESS 0x03, one that LDW or STW may not reach 0x05, one that the tile's permission table lacks
0x08; an offset beyond the partition's share of a die store 0x03. A global address is translated: a miss waits for
the walk, a fault raises XLATE; then another package where only puts and atomics may go raises ACCESS 0x02, a stack
of another die on a page without remote-allowed 0x04, and an atomic on the CXL tier 0x07. A malformed counter target,
die mask or window descriptor raises ACCESS 0x06, a target that the permission table lacks 0x08. The record's ADDR is
the address, and that of the source where PUTC's source is at fault. The choices of the model in it are those of logs
27, 28 and 64. -/
def Obligations.PageTwoTraps : Prop :=
  ∀ (s : State) (p : BitVec 3) (pm : PostMode) (o : AtomOrder) (sc : Scope) (pre : Prefixes), s.Chosen pre →
    let n := sizeOf' pre.ty
    let k := s.strand
    let q := (k.ptr p.toNat).addr
    let pid := s.pidOf s.me
    let t := s.myTile
    let access (i : Instr) (d : BitVec 8) (a : Addr) : Prop := exec i s = .next (s.raise (trapOf kAccess d a))
    let align (i : Instr) (a : Addr) : Prop := exec i s = .next (s.raise (trapOf kAlign 0x01 a))
    let checks (u : Family) (i : Instr) (ea : Addr) (size : Nat) : Prop :=
      (∀ l c w off, apertureOf ea = .window l c w off →
        (s.reachTile pid l = none → access i 0x03 ea) ∧
        (∀ x, s.reachTile pid l = some x → let far := u = .ldw ∧ (clusterOf x ≠ clusterOf t ∨ x = t)
          (far → access i 0x05 ea) ∧ (¬far → s.permitted pid t l = false → access i 0x08 ea))) ∧
      (∀ die off, apertureOf ea = .dieStore die off → (s.part pid).dssSize die < off + size → access i 0x03 ea)
    (∀ e ∈ [(Family.ldg, true, false, Instr.ldg p pm pre), (.ldg, true, false, .ldgAcq p pm sc pre),
        (.ldg, false, true, .stg p pm pre), (.ldg, false, true, .stgRel p pm sc pre), (.ldw, true, false, .ldw p pm pre),
        (.ldw, true, false, .ldwAcq p pm sc pre), (.ldw, false, true, .stw p pm pre), (.ldw, false, true, .stwRel p pm sc pre),
        (.put, false, true, .put p pm pre), (.atom, true, true, .atomAdd p o sc pre), (.atom, true, true, .atomMin p o sc pre),
        (.atom, true, true, .atomMax p o sc pre), (.atom, true, true, .atomAnd p o sc pre), (.atom, true, true, .atomOr p o sc pre),
        (.atom, true, true, .atomXor p o sc pre), (.atom, true, true, .atomXchg p o sc pre),
        (.atom, true, true, .atomCas p o sc pre), (.atom, true, true, .atomnAdd p o sc pre),
        (.atom, true, true, .atomnMin p o sc pre), (.atom, true, true, .atomnMax p o sc pre),
        (.atom, true, true, .atomnAnd p o sc pre), (.atom, true, true, .atomnOr p o sc pre),
        (.atom, true, true, .atomnXor p o sc pre)],
      let u := e.1
      let i := e.2.2.2
      let accepted := u.accepts (dieOf t) (apertureOf q) = true
      (apertureOf q = .reserved → access i 0x03 q) ∧
      (apertureOf q ≠ .reserved → ¬accepted → access i 0x02 q) ∧
      (accepted → q.toNat % n ≠ 0 → align i q) ∧
      (accepted → q.toNat % n = 0 → checks u i q n ∧
        (apertureOf q = .global →
          let x := s.translate t pid q.toNat e.2.1 e.2.2.1
          (x = .miss → (s.misses t).length < 16 → exec i s =
            .next ((s.leaveRunning s.me s.myCtx .waitLoad).sendWalk s.me s.myCtx q e.2.1 e.2.2.1)) ∧
          (∀ d, x = .fault d → exec i s = .next (s.raise (trapOf kXlate d q))) ∧
          (∀ y, x = .page y → let pa := y.phys q.toNat
            (y.rem = true → u ≠ .put → u ≠ .atom → access i 0x02 q) ∧
            (y.rem = false → s.physKey pa = none → exec i s = .next (s.raise (trapOf kXlate 0x05 q))) ∧
            (y.rem = false → s.physKey pa ≠ none →
              (∀ h, s.stackOf pa = some h → s.ownerFor (dieOf t) h ≠ dieOf t → y.ra = false → access i 0x04 q) ∧
              (s.stackOf pa = none → u = .atom → access i 0x07 q)))))) ∧
    (∀ d, s.checked .put q n false true = .ok d →
      (s.targetBad pid (s.destPkg d) k.x = true → access (.put p pm pre) 0x06 q) ∧
      (s.targetBad pid (s.destPkg d) k.x = false → s.targetBarred t pid (s.destPkg d) k.x = true →
        access (.put p pm pre) 0x08 q)) ∧
    (let ea : Addr := k.a.setWidth 48
     let i := Instr.putc p pm pre
     let fine := k.a.extractLsb' 48 16 = 0 ∧ apertureOf ea ≠ .reserved ∧ apertureOf q ≠ .reserved
     let accepted := Family.put.accepts 0 (apertureOf ea) = true
     (k.a.extractLsb' 48 16 ≠ 0 ∨ apertureOf ea = .reserved → access i 0x03 ea) ∧
     (fine → ¬accepted → access i 0x02 ea) ∧
     (fine → accepted → (∀ off, apertureOf q ≠ .localMem off) → access i 0x02 q) ∧
     (∀ off, fine → accepted → apertureOf q = .localMem off →
      (2 ^ 21 < off + 64 → access i 0x01 q) ∧
      (off + 64 ≤ 2 ^ 21 → off % 4 ≠ 0 → align i q) ∧
      (off + 64 ≤ 2 ^ 21 → off % 4 = 0 → ea.toNat % 4 ≠ 0 → align i ea) ∧
      (off + 64 ≤ 2 ^ 21 → off % 4 = 0 → ea.toNat % 4 = 0 → checks .put i ea 64 ∧
        (∀ d m more, s.lineParts ea = .ok ((d, m) :: more) →
          (∀ e ∈ more, s.destPkg e.1 = s.destPkg d) → s.targetBad pid (s.destPkg d) k.x = true → access i 0x06 ea)))) ∧
    (let i := Instr.mcst p pm pre
     let part := s.part pid
     let beyond (off : Nat) := ∃ d < 4, k.x.getLsbD d = true ∧ part.dssSize d < off + n
     (apertureOf q = .reserved → access i 0x03 q) ∧
     (apertureOf q ≠ .reserved → (∀ die off, apertureOf q ≠ .dieStore die off) → access i 0x02 q) ∧
     (∀ die off, apertureOf q = .dieStore die off →
      (die ≠ 0 → access i 0x03 q) ∧
      (die = 0 → q.toNat % n ≠ 0 → align i q) ∧
      (die = 0 → q.toNat % n = 0 → beyond off → access i 0x03 q) ∧
      (die = 0 → q.toNat % n = 0 → ¬beyond off → k.x.extractLsb' 4 60 ≠ 0 → access i 0x06 q))) ∧
    (∀ w, windowOk k.a = false → access (.winset w pre) 0x06 0)

/-! ### Copies -/

/-- R206, R207, R208, R214: CPY and CPYC read their descriptor, and for a chain its hop entries, at a local address,
which moves the banks' pointers. An address that is not local raises ACCESS 0x01, a misaligned one ALIGN 0x01, a
malformed descriptor COPY 0x01, entries that pass the end of the scratchpad ACCESS 0x01, a malformed hop entry COPY
0x01. Then come the checks of the source and of every destination, each of its aperture, its alignment and its whole
span; an overlap raises COPY 0x02, a malformed counter target ACCESS 0x06, one that the permission table lacks ACCESS
0x08, a dependence target that names no live TCB COPY 0x03; the first page of a global source is translated, another
package refusing it with ACCESS 0x02, and then that of a global destination. A copy that passes is counted on the
core and on the task and sent to its engine, and the pointer moves by 32 bytes or strides; with 512 copies in flight
on the core its context holds it and stalls, and goes on from that test with its descriptor as it was read. The
choices of the model in it are those of logs 28, 30, 71 and 81. -/
def Obligations.CopyIssue : Prop :=
  (∀ (s : State) (p : BitVec 3) (pm : PostMode) (pre : Prefixes) (chain : Bool), s.Chosen pre →
    let k := s.strand
    let d := (k.ptr p.toNat).addr
    let i : Instr := if chain then .cpyc p pm pre else .cpy p pm pre
    let sent (s : State) (m : CopyMsg) : State :=
      (((s.modCore s.me fun c => { c with copies := c.copies + 1 }).opBegin (s.pidOf s.me)
        (s.tcbOf s.me)).complete { k.applyPost p pm 32 with copyHeld := none } (k.next pre)).due [⟨.copyServe, .copy { m with by_ := s.issuer } 0⟩]
    let tried (s : State) (m : CopyMsg) : State :=
      if 512 ≤ (s.core s.me).copies then (s.modCtx s.me s.myCtx fun k => { k with copyHeld := some m }).stall
      else sent s m
    (∀ m, k.copyHeld = some m → exec i s = .next (tried s m)) ∧
    (∀ t, k.copyHeld = none → firstTrap (pointerTraps d 32 8) = some t → exec i s = .next (s.raise t)) ∧
    (∀ off : Nat, k.copyHeld = none →
      d.toNat = 0xF00000000000 + off → off + 32 ≤ 2 ^ 21 → d.toNat % 8 = 0 → s.poison = [] →
      let desc : BitVec 256 := BitVec.ofNat 256 (s.rdNat (scratchKey s.myTile off) 32)
      let n := if chain then (desc.extractLsb' 166 4).toNat else 0
      let hops : List (BitVec 128) := (List.range n).map fun h =>
        BitVec.ofNat 128 (s.rdNat (scratchKey s.myTile (off + 32)) (16 * n) / 2 ^ (128 * h))
      (s.core s.me).vecPending off (32 + 16 * n) = false →
      (CopyMalformed chain desc → exec i s = .next (s.raise (trapOf kCopy 0x01 d))) ∧
      (¬CopyMalformed chain desc → 2 ^ 21 < off + 32 + 16 * n → exec i s = .next (s.raise (trapOf kAccess 0x01 d))) ∧
      (¬CopyMalformed chain desc → off + 32 + 16 * n ≤ 2 ^ 21 →
        (hopsBad (s.logCore s.me / 8) hops = true → exec i s = .next (s.raise (trapOf kCopy 0x01 d))) ∧
        (hopsBad (s.logCore s.me / 8) hops = false →
          (∀ t, s.copyCheck d desc hops chain = .error (.trap t) → exec i s = .next (s.raise t)) ∧
          (∀ a rd wr, s.copyCheck d desc hops chain = .error (.walk a rd wr) →
            let room := (s.misses s.myTile).length < 16 ∨ a.toNat / 2 ^ 16 ∈ s.misses s.myTile
            (room → exec i s = .next ((s.leaveRunning s.me s.myCtx .waitLoad).sendWalk s.me s.myCtx a rd wr)) ∧
            (¬room → exec i s = .next s.stall)) ∧
          (s.copyCheck d desc hops chain = .ok () → exec i s = .next
            (tried (s.touched off (32 + 16 * n)) ⟨s.issuer, d, desc, hops, chain, 0, false⟩)))))) ∧
  (∀ (s : State) (d : Addr) (desc : BitVec 256) (hops : List (BitVec 128)) (chain : Bool),
    (chain = false → hops = []) → (chain = true → hopsBad (s.logCore s.me / 8) hops = false) →
    let pid := s.pidOf s.me
    let own := s.pod.pkgn.toNat
    let n := (desc.extractLsb' 128 28).toNat
    let src : Addr := desc.extractLsb' 0 48
    let dst : Addr := desc.extractLsb' 64 48
    let ctgt : Word64 := desc.extractLsb' 192 64
    let ck := desc.extractLsb' 164 2
    let dsts : List Addr := if chain then hops.map fun h => h.extractLsb' 0 48 else [dst]
    let targets : List (Nat × Word64) := (if ck = 1 then [(if chain then own else s.dstPackage dst, ctgt)] else []) ++
      hops.map fun h => (own, h.extractLsb' 64 64)
    let checks : List (Option Trap) := s.copySpan src n false ++ dsts.flatMap (fun a => s.copySpan a n true) ++
      [trapIf ((dsts.any fun a => decide (src.toNat < a.toNat + n ∧ a.toNat < src.toNat + n)) = true) (trapOf kCopy 0x02 d),
       trapIf ((targets.any fun t => s.targetBad pid t.1 t.2) = true) (trapOf kAccess 0x06 d),
       trapIf ((targets.any fun t => s.targetBarred s.myTile pid t.1 t.2) = true) (trapOf kAccess 0x08 d),
       trapIf (ck = 2 ∧ (s.part pid).taskSlot (ctgt.setWidth 32) = none) (trapOf kCopy 0x03 d)]
    let done := s.copyCheck d desc hops chain
    let page (a : Addr) (wr : Bool) : Xlate := s.translate s.myTile pid a.toNat (!wr) wr
    let stopped (a : Addr) (wr : Bool) : Prop := apertureOf a = .global →
      (page a wr = .miss → done = .error (.walk a (!wr) wr)) ∧
      (∀ x, page a wr = .fault x → done = .error (.trap (trapOf kXlate x a))) ∧
      (∀ e, page a wr = .page e → e.rem = false → s.physKey (e.phys a.toNat) = none →
        done = .error (.trap (trapOf kXlate 0x05 a)))
    let there (a : Addr) (wr : Bool) : Prop := apertureOf a = .global →
      ∃ e, page a wr = .page e ∧ (e.rem = true ∨ s.physKey (e.phys a.toNat) ≠ none)
    let far : Prop := apertureOf src = .global ∧ ∃ e, page src false = .page e ∧ e.rem = true ∧ e.pkg ≠ own
    (∀ t, firstTrap checks = some t → done = .error (.trap t)) ∧
    (firstTrap checks = none →
      stopped src false ∧
      (far → done = .error (.trap (trapOf kAccess 0x02 src))) ∧
      (there src false → ¬far → chain = false → stopped dst true) ∧
      (there src false → ¬far → (chain = false → there dst true) → done = .ok ())))

/-- R207, R209, R211, R212, R214: an engine reaches a local address, a die store, a window by the check of R186 and
global memory through the tables of the job, whose page goes into the TLB; it writes the next words of a copy to the
same offset from its destination, and then goes on, or completes, or forwards the first hop; words for another
package go there as a request. A translation fault holds the copy for replay; a refusal ends it with its record at
the first unwritten word. The completion signals the named counter, of another package by a request, or decrements
the dependence counter, and counts the copy out; the last hop counts and completes, an earlier one forwards the data
from its own scratchpad, and a hop that is refused ends the chain. A poisoned word stays poisoned where it goes and
is reported once. The choices of the model in it are those of logs 2, 29, 40 and 63. -/
def Obligations.CopySteps : Prop :=
  (∀ (s : State) (i : Issuer) (a : Addr) (n : Nat) (u : WinUse) (span : Option Nat),
    (∀ o, apertureOf a = .localMem o → s.reach i a n u span = .at_ (scratchKey (i.core / 8) o) n) ∧
    (∀ d o, apertureOf a = .dieStore d o → s.reach i a n u span = .at_ (dieKey d ((s.part i.pid).dssBase d + o)) n) ∧
    (∀ l c w o, apertureOf a = .window l c w o →
      (s.reachTile i.pid l = none → s.reach i a n u span = .refused 0) ∧
      (∀ t, s.reachTile i.pid l = some t →
        let len := ((Tab.get 0 (s.core (8 * t + c)).wins w).extractLsb' 20 19).toNat
        let n' := span.getD (min n (max 4 (len - o)))
        (∀ d, s.windowCheck t c w o n' u = .error d → s.reach i a n u span = .refused d) ∧
        (∀ k, s.windowCheck t c w o n' u = .ok k → s.reach i a n u span = .at_ k (min n n')))) ∧
    (apertureOf a = .global →
      (∀ d, s.translateFor (i.core / 8) i.pid a.toNat (decide (u = .load)) (decide (u ≠ .load)) = .error d →
        s.reach i a n u span = .xlate d) ∧
      (∀ e, s.translateFor (i.core / 8) i.pid a.toNat (decide (u = .load)) (decide (u ≠ .load)) = .ok e →
        (e.rem = true → s.reach i a n u span = .remote e.pkg (BitVec.ofNat 48 (e.phys a.toNat))) ∧
        (∀ k, e.rem = false → s.physKey (e.phys a.toNat) = some k →
          s.reach i a n u span = .at_ k (min n (4096 - a.toNat % 4096)))))) ∧
  (∀ (s : State) (m : CopyMsg) (h : Nat), s.arg = .copy m h →
    let i := m.by_
    let len := (m.desc.extractLsb' 128 28).toNat
    let src : Addr := m.desc.extractLsb' 0 48 + BitVec.ofNat 48 m.done
    let dst : Addr := (match m.chain, m.hops with
      | true, e :: _ => e.extractLsb' 0 48
      | _, _ => m.desc.extractLsb' 64 48) + BitVec.ofNat 48 m.done
    let left := len - m.done
    let held := (m.done = 0 ∧ s.releasedFor i = false) ∨ i.pid ∈ s.board.draining
    let t := (s.fillAt i src false).fillAt i dst true
    let ended (s : State) : State :=
      (s.modCore i.core fun c => { c with copies := c.copies - 1 }).opEnd i.pid i.tcb
    let failed (s : State) (d : BitVec 8) (a : Addr) : State :=
      ended (s.fault i ⟨4, 3, if d = 0 then 0 else 6, d.toNat, a.toNat, m.daddr.toNat, 0⟩)
    let told (s : State) (a : Addr) (k n : Nat) : State × CopyMsg :=
      match s.badWords k n with
      | b :: _ => if m.reported then (s, m)
        else (s.fault i ⟨4, 9, 0, 0, (a + BitVec.ofNat 48 b).toNat, m.daddr.toNat, 0⟩, { m with reported := true })
      | [] => (s, m)
    let moved (s : State) (k : Nat) (data : List Byte) (bad : List Nat) : State :=
      bad.foldl (fun s o => s.poisonAt (k + o) 4) (s.wrN k data)
    (held → exec .copyServe s = .next (s.dueIn 8 ⟨.copyServe, .copy m 0⟩)) ∧
    (¬held →
      (∀ d, t.reach i src (min left 4096) .load none = .xlate d →
        exec .copyServe s = .next (t.due [⟨.copyFaultHold, .copyFault m src d⟩])) ∧
      (∀ d, t.reach i src (min left 4096) .load none = .refused d → exec .copyServe s = .next (failed t d dst)) ∧
      (∀ k n, t.reach i src (min left 4096) .load none = .at_ k n →
        let there := t.reach i dst n .put (if m.chain then some left else none)
        (∀ d, there = .xlate d → exec .copyServe s = .next (t.due [⟨.copyFaultHold, .copyFault m dst d⟩])) ∧
        (∀ d, there = .refused d → exec .copyServe s = .next (failed t d dst)) ∧
        (∀ pkg a, there = .remote pkg a →
          let n := min n (4096 - a.toNat % 4096)
          let q := told t src k n
          exec .copyServe s = .next (q.1.sendRequest i pkg fun me job tag =>
            .copyWords me job tag q.2 a (t.rdN k n) (t.badWords k n))) ∧
        (∀ k' n, there = .at_ k' n →
          let q := told t src k n
          exec .copyServe s = .next ((moved q.1 k' (t.rdN k n) (t.badWords k n)).due
            [⟨if m.done + n < len then .copyServe else if m.chain then .chainHop else .copyComplete,
              .copy { q.2 with done := m.done + n } (if m.done + n < len then 0 else if m.chain then 1 else 0)⟩])))) ∧
    (let ck := m.desc.extractLsb' 164 2
     let ctgt : Word64 := m.desc.extractLsb' 192 64
     (ck = 0 → exec .copyComplete s = .next (ended s)) ∧
     (ck = 1 → (ctgt.getLsbD 31 = false ∨ targetPkg ctgt = s.pod.pkgn.toNat) →
       exec .copyComplete s = .next (ended (s.signal i.pid ctgt))) ∧
     (ck = 1 → ctgt.getLsbD 31 = true → targetPkg ctgt ≠ s.pod.pkgn.toNat → exec .copyComplete s = .next
       (s.sendRequest i (targetPkg ctgt) fun me job tag => .signal me job tag m ctgt)) ∧
     (ck = 2 →
       ((s.part i.pid).taskSlot (ctgt.setWidth 32) = none → exec .copyComplete s = .next (ended s)) ∧
       (∀ n, (s.part i.pid).taskSlot (ctgt.setWidth 32) = some n →
         let q := s.depDec i.pid n
         exec .copyComplete s = .next
           (ended (if q.2 = tkUnder then q.1.fault i ⟨4, 6, 0, 0, 0, m.daddr.toNat, 0⟩ else q.1))))) ∧
    (∀ (g : Nat) (e : BitVec 128), h = g + 1 → m.hops[g]? = some e →
      let t := s.signal i.pid (e.extractLsb' 64 64)
      (m.hops[g + 1]? = none → exec .chainHop s = .next (t.due [⟨.copyComplete, .copy m 0⟩])) ∧
      (∀ f key x, m.hops[g + 1]? = some f → t.reach i (e.extractLsb' 0 48) len .put (some len) = .at_ key x →
        (∀ key' y, t.reach i (f.extractLsb' 0 48) len .put (some len) = .at_ key' y →
          let q := told t (e.extractLsb' 0 48) key len
          exec .chainHop s = .next ((moved q.1 key' (t.rdN key len) (t.badWords key len)).due [⟨.chainHop, .copy q.2 (g + 2)⟩])) ∧
        (∀ d, t.reach i (f.extractLsb' 0 48) len .put (some len) = .refused d →
          exec .chainHop s = .next (failed t d (f.extractLsb' 0 48)))))) ∧
  (∀ (s : State) (m : CopyMsg) (va : Addr) (d : BitVec 8), s.arg = .copyFault m va d →
    exec .copyFaultHold s = .next (s.hold m.by_ (.op ⟨.copyServe, .copy m 0⟩ m.by_.tcb)
      ⟨3, 0, kXlate.toNat, d.toNat, va.toNat, m.daddr.toNat, 0⟩))

/-! ### The matrix unit -/

/-- R29, R145, R147: a matrix instruction with a true predicate becomes the request of its core with its next PC and
the pointer after the post-mode, whose size is 1, or that of the type for a drain; the core stalls until it retires. -/
def Obligations.MatrixIssue : Prop :=
  ∀ (s : State) (p : BitVec 3) (pm : PostMode) (pre : Prefixes), s.Chosen pre →
    let k := s.strand
    let moved (n : Nat) : Option (Nat × Addr) := some (p.toNat, (k.ptr p.toNat).post pm n)
    ∀ e ∈ [(Instr.mctx p pm pre, moved 1), (.wpl p pm pre, moved 1), (.mzero pre, none), (.mma p pm pre, moved 1),
        (.mrow p pm pre, moved 1), (.mcol p pm pre, moved 1), (.mdrain p pm pre, moved (pre.ty.getD .i32).size),
        (.mdrainf p pm pre, moved (pre.ty.getD .f32).size), (.qnt p pm pre, moved 1), (.qntg p pm pre, moved 1),
        (.deq p pm pre, moved 1), (.blset p pm pre, moved 1), (.blcnt pre, none)],
      let r : MReq := ⟨e.1, s.myCtx, false, k.next pre, e.2, none, none, 0, none, false, none, false⟩
      exec e.1 s = .next ((s.modCore s.me fun c => { c with stalled := true, mreq := some r }).due
        [.num .matrixPortGrant s.myTile])

/-- R29, R30, R144: with a free read phase and a free buffer the port grants the first eligible core in ring order,
from the core after the last one granted. A request that traps leaves the port with nothing changed; any other one
makes the writes of its read phase, holds the read phase and a buffer, and queues its array phase. It retires after
its read phase; the array phases run one at a time, in grant order, and each frees its buffer. The choices of the
model in it are those of logs 2 and 23. -/
def Obligations.MatrixPort : Prop :=
  (∀ (s : State) (t k n : Nat) (r : MReq), s.arg = .num t 0 0 0 → s.holdsBack = false → (s.tile t).readPhase = none →
    (s.tile t).buffers < 2 → n < 8 → k = ((s.tile t).portPtr + n) % 8 → s.eligible t k = true →
    (∀ m < n, s.eligible t (((s.tile t).portPtr + m) % 8) = false) →
    let g := 8 * t + k
    let s1 := s.modTile t fun x => { x with portPtr := (k + 1) % 8 }
    let a : Addr := match matrixPtr r.instr with
      | some p => ((s.ctx g r.ctx).ptr p.1.toNat).addr
      | none => 0
    (s.core g).mreq = some r →
    (∀ tr, grantOf s1 g a r.instr = .error (.trap tr) → exec .matrixPortGrant s = .next (s1.matrixStop g r.ctx tr)) ∧
    (∀ x, grantOf s1 g a r.instr = .ok x →
      let jobs : List ArrayJob := (x.job.map fun j =>
        (⟨s1.issuerOf g r.ctx, j.1, (s.core g).fctx, j.2.1, j.2.2.1, j.2.2.2, false⟩ : ArrayJob)).toList
      let r' : MReq := { r with granted := true, fctx := x.fctx, ka := x.ka, mset := x.mset, ecnt := x.ecnt,
                                clear := x.clear, a := x.a, array := x.job.isSome }
      exec .matrixPortGrant s = .next ((((x.writes.foldl (fun s w => s.wrN (scratchKey t w.1) w.2) s1).modCore g fun c =>
          { c with mreq := some r' }).modTile t fun y =>
          { y with readPhase := some g, buffers := y.buffers + 1, arrays := y.arrays ++ jobs }).dueIn x.cycles
            (.num .matrixRetire g)))) ∧
  (∀ (s : State) (g : Nat) (r : MReq), s.arg = .num g 0 0 0 → (s.core g).mreq = some r →
    (s.core g).running = some r.ctx →
    exec .matrixRetire s = .next ((((s.modCore g fun c => c.retire r).modCtx g r.ctx fun k => k.retire r).modTile (g / 8)
      fun x => { x with readPhase := none, buffers := if r.array then x.buffers else x.buffers - 1,
                        arrays := x.arrays.map fun j => if j.by_.core = g then { j with ready := true } else j }).due
        [.num .arrayPhaseStart (g / 8), .num .matrixPortGrant (g / 8)])) ∧
  (∀ (s : State) (t : Nat) (j : ArrayJob) (rest : List ArrayJob), s.arg = .num t 0 0 0 → (s.tile t).arrays = j :: rest →
    (j.ready = true → (s.tile t).arrayOn = false → exec .arrayPhaseStart s = .next
      ((s.modTile t fun x => { x with arrayOn := true }).dueIn j.cycles (.num .arrayPhaseEnd t))) ∧
    ((s.tile t).arrayOn = true → exec .arrayPhaseEnd s = .next
      (((s.arrayWork t j).modTile t fun x => { x with arrays := rest, arrayOn := false, buffers := x.buffers - 1 }).due
        [.num .arrayPhaseStart t, .num .matrixPortGrant t])))

/-- R143, R144, R148 to R151, R153 to R163: what the read phases of page 1 come to, each check in its order with its
trap, and then what is written, what the retirement sets and what the array phase is given. MCTX loads its record as
the format context; WPL selects a weight block and copies its columns; MMA counts the escapes of A and B and advances
KA; MROW and MCOL take their coefficients; MDRAIN and MDRAINF write the accumulators through the drain table; QNT and
QNTG write codes, group words and the kept electees' entries; DEQ writes the values of its codes; BLSET sets a list's
base and length and loads entries; BLCNT reads MST[44:0] into A and clears MST[6:0]. The choices of the model in it
are those of logs 23, 24, 67, 68, 69 and 82. -/
def Obligations.MatrixContext : Prop :=
  (∀ (s : State) (g off : Nat) (a : Addr) (p : BitVec 3) (pm : PostMode) (pre : Prefixes),
    a.toNat = 0xF00000000000 + off → off + 32 ≤ 2 ^ 21 → a.toNat % 8 = 0 →
    s.poisonIn (scratchKey (g / 8) off) 32 = none →
    let c : BitVec 256 := BitVec.ofNat 256 (s.rdNat (scratchKey (g / 8) off) 32)
    match formatDetail c with
    | some d => grantOf s g a (.mctx p pm pre) = .error (.trap (trapOf kMatrix d 0))
    | none => ∃ x : Grant, grantOf s g a (.mctx p pm pre) = .ok x ∧ x.fctx = some c ∧ x.writes = [] ∧ x.ka = none ∧
        x.mset = 0 ∧ x.ecnt = none ∧ x.clear = false ∧ x.a = none ∧ x.job = none) ∧
  (∀ (s : State) (g off : Nat) (a : Addr) (p : BitVec 3) (pm : PostMode) (pre : Prefixes),
    a.toNat = 0xF00000000000 + off → off + 512 ≤ 2 ^ 21 → a.toNat % 4 = 0 → (s.core g).fctx.extractLsb' 8 2 ≠ 0 →
    ∀ i ∈ [Instr.mrow p pm pre, .mcol p pm pre], grantOf s g a i = .error (.trap (trapOf kMatrix 0x05 0))) ∧
  (∀ (s : State) (t : Nat) (j : ArrayJob), j.kind = .zero →
    s.arrayWork t j = s.modCore j.by_.core fun c => { c with acc := [], srow := [], scol := [] }) ∧
  (∀ (s : State) (g : Nat) (a : Addr) (pre : Prefixes) (r : MReq), r.fctx = none →
    ∃ x : Grant, grantOf s g a (.blcnt pre) = .ok x ∧ x.a = some ((s.core g).mst &&& 0x1FFFFFFFFFFF) ∧ x.job = none ∧
      x.writes = [] ∧
      (s.core g).retire { r with mset := x.mset, ecnt := x.ecnt, ka := x.ka, clear := x.clear } =
        { s.core g with mst := (s.core g).mst &&& ~~~0x7F, mreq := none, stalled := false }) ∧
  (∀ (s : State) (g : Nat) (a : Addr) (p : BitVec 3) (pm : PostMode) (pre : Prefixes),
    let off := a.toNat - 0xF00000000000
    let key (o : Nat) : Nat := scratchKey (g / 8) o
    let fctx := (s.core g).fctx
    let record (n : Nat) : BitVec 256 := BitVec.ofNat 256 (s.rdNat (key off) n)
    let nothing (x : Grant) : Prop := x.writes = [] ∧ x.mset = 0 ∧ x.ecnt = none ∧ x.clear = false ∧ x.a = none
    -- WPL
    (let d := record 16
     let n (lo w : Nat) : Nat := (d.extractLsb' lo w).toNat
     let cls := n 48 3
     let src := n 0 21
     let wa := n 32 15
     let c := if cls = 0 then 64 else if cls = 2 ∨ cls = 3 then 256 else 128
     let gw := if d.getLsbD 51 then 4 * (128 / (32 * 2 ^ n 52 2)) else 0
     let word (m : Nat) : Word32 := BitVec.ofNat 32 (s.rdNat (key (src + 128 * c + 4 * m)) 4)
     let fields := n 56 72 = 0 ∧ n 54 1 = 0 ∧ n 47 1 = 0 ∧ n 21 11 = 0 ∧ n 52 2 ≠ 3 ∧ cls ≤ 5 ∧ wa % 4 = 0
     let tr := firstTrap (pointerTraps a 16 8 ++ [s.poisonTrap g off 16, trapIf (¬fields) (matrixDetail 0x01)] ++
       if d.getLsbD 55 then [] else spanTraps src (128 * (c + gw)) ++
         [trapIf (0x7F00 < wa + c + gw) (matrixDetail 0x08), s.poisonTrap g src (128 * (c + gw)),
          trapIf (¬∀ m < 32 * gw, cls = 0 → (groupWordGood .i4 (word m) || groupWordGood .ui4 (word m)) = true) (matrixDetail 0x01),
          trapIf (¬∀ m < 32 * gw, cls ≠ 0 → groupWordGood .i8 (word m) = true) (matrixDetail 0x01)])
     (∀ t, tr = some t → grantOf s g a (.wpl p pm pre) = .error (.trap t)) ∧
     (tr = none → ∃ x : Grant, grantOf s g a (.wpl p pm pre) = .ok x ∧ nothing x ∧ x.ka = none ∧
       x.fctx = some (setField fctx 149 15 wa) ∧
       if d.getLsbD 55 then x.job = none
       else ∃ data m, x.job = some (.weights, wa, data, m) ∧ data.length = 128 * (c + gw) ∧
         ∀ j < 128, ∀ k < c + gw, data.getD (j * (c + gw) + k) 0 =
           s.byte (key (src + if k < c then j * c + k else 128 * c + j * gw + (k - c))))) ∧
    -- MMA
    (let ta := FCtx.tyA fctx
     let tb := FCtx.tyB fctx
     let ng := 128 / (32 * 2 ^ (fctx.extractLsb' 10 2).toNat)
     let rows := 512 * ta.bits
     let grouped (n : Nat) : Bool := decide (fctx.extractLsb' 8 2 = 1) && fctx.getLsbD n
     let sizeA := rows + if grouped 16 then 128 * ng else 0
     let sizeB := 16 * tb.bits + if grouped 17 then 4 * ng else 0
     let wb := (fctx.extractLsb' 149 15).toNat
     let ka := ((s.core g).mst.extractLsb' 32 13).toNat
     let data := s.rdN (key off) sizeA
     let bdata := (List.range 128).flatMap fun j => s.rdN (weightKey (g / 8) j wb) (16 * tb.bits)
     let nA := countTo (escapeAt (fctx.getLsbD 13) ta data) 4096
     let nB := countTo (escapeAt (fctx.getLsbD 14) tb bdata) 16384
     let word (m : Nat) : Word32 := BitVec.ofNat 32 (s.rdNat (key (off + rows + 4 * m)) 4)
     let tr := firstTrap (pointerTraps a sizeA 4 ++ [s.poisonTrap g off sizeA,
       trapIf (¬∀ m < if grouped 16 then 32 * ng else 0, groupWordGood ta (word m) = true) (matrixDetail 0x01),
       trapIf ((fctx.extractLsb' 76 13).toNat < ka + nA) (matrixDetail 0x06),
       trapIf ((fctx.extractLsb' 101 13).toNat < nB) (matrixDetail 0x06), trapIf (0x7F00 < wb + sizeB) (matrixDetail 0x08)])
     wb + sizeB ≤ 0x8000 →
     (∀ t, tr = some t → grantOf s g a (.mma p pm pre) = .error (.trap t)) ∧
     (tr = none → ∃ x : Grant, grantOf s g a (.mma p pm pre) = .ok x ∧ nothing x ∧ x.fctx = none ∧ x.ka = some (ka + nA) ∧
       ∃ m, x.job = some (.mma, ka, data, m))) ∧
    -- MROW, MCOL
    (∀ e ∈ [(Instr.mrow p pm pre, ArrayKind.mrow, 128), (.mcol p pm pre, .mcol, 512)],
     let tr := firstTrap (pointerTraps a e.2.2 4 ++
       [trapIf (fctx.extractLsb' 8 2 ≠ 0) (matrixDetail 0x05), s.poisonTrap g off e.2.2])
     (∀ t, tr = some t → grantOf s g a e.1 = .error (.trap t)) ∧
     (tr = none → ∃ x : Grant, grantOf s g a e.1 = .ok x ∧ nothing x ∧ x.fctx = none ∧ x.ka = none ∧
       ∃ m, x.job = some (e.2.1, 0, s.rdN (key off) e.2.2, m))) ∧
    -- MDRAIN, MDRAINF
    (let md := rndMode pre.rnd
     let integer := decide (fctx.extractLsb' 8 2 = 0)
     let tab := (fctx.extractLsb' 128 21).toNat
     let entry (e : Nat) : Option Word64 :=
       if fctx.getLsbD 15 then some (BitVec.ofNat 64 (s.rdNat (key (tab + 8 * (e % 128))) 8)) else none
     let table := if fctx.getLsbD 15 then [s.poisonTrap g tab 1024,
       trapIf (∃ e ∈ List.range 128, (BitVec.ofNat 64 (s.rdNat (key (tab + 8 * e)) 8)).extractLsb' 38 10 ≠ 0)
         (matrixDetail 0x01)] else []
     let acc (e : Nat) : Word32 := Tab.get 0 (s.core g).acc e
     (let t := pre.ty.getD .i32
      let v (e : Nat) : Int := drainValue md (entry e) (acc e)
      let w (e : Nat) : Int := if pre.sat then (if v e < t.lo then t.lo else if t.hi < v e then t.hi else v e) else v e
      let tr := firstTrap (pointerTraps a (4096 * t.size) 4 ++ [trapIf (integer = false) (matrixDetail 0x05)] ++ table)
      t ∈ [Ty.i8, .ui8, .i16, .i32] →
      (∀ u, tr = some u → grantOf s g a (.mdrain p pm pre) = .error (.trap u)) ∧
      (tr = none → ∃ x : Grant, grantOf s g a (.mdrain p pm pre) = .ok x ∧ x.fctx = none ∧ x.ka = none ∧ x.ecnt = none ∧
        x.clear = false ∧ x.a = none ∧ x.job = none ∧
        x.writes = [(off, (List.range 4096).flatMap fun e => natToBytes t.size (BitVec.ofInt 64 (w e)).toNat)] ∧
        ((∃ e < 4096, w e ≠ v e) → x.mset = 8) ∧ ((∀ e < 4096, w e = v e) → x.mset = 0))) ∧
     (let t := pre.ty.getD .f32
      let v (e : Nat) : FV :=
        let y := if integer then FV.ofInt (acc e).toInt else Ty.f32.value (acc e).toNat
        match entry e with
        | some d => (FV.mul y (Ty.f32.value (d.toNat % 2 ^ 32))).1
        | none => y
      let lost (e : Nat) : Prop := pre.sat = true ∧ (v e).isNaN = false ∧ ((v e).round t md false).1 % 2 ^ (t.bits - 1) = t.infinity
      let tr := firstTrap (pointerTraps a (4096 * t.size) 4 ++ table)
      (∀ u, tr = some u → grantOf s g a (.mdrainf p pm pre) = .error (.trap u)) ∧
      (tr = none → ∃ x : Grant, grantOf s g a (.mdrainf p pm pre) = .ok x ∧ x.fctx = none ∧ x.ka = none ∧ x.ecnt = none ∧
        x.clear = false ∧ x.a = none ∧ x.job = none ∧
        x.writes = [(off, (List.range 4096).flatMap fun e => natToBytes t.size ((v e).round t md pre.sat).1)] ∧
        ((∃ e < 4096, lost e) → x.mset = 8) ∧ ((∀ e < 4096, ¬lost e) → x.mset = 0)))) ∧
    -- QNT, QNTG, DEQ
    (let t := pre.ty.getD .i8
     let d := record 32
     let n (lo w : Nat) : Nat := (d.extractLsb' lo w).toNat
     let esc := d.getLsbD 94
     let count := n 64 16
     let src := n 0 21
     let dst := n 32 21
     let gaddr := n 208 21
     let g0 := 32 * 2 ^ n 200 2
     let start := n 80 12
     let cap := 4096 - start
     let codes := count * t.bits / 8
     let list := if d.getLsbD 92 then 1 else 0
     let qlo : Int := if esc then -t.hi else t.lo
     let z : Int := t.intOf (n 160 8)
     let x (e : Nat) : FV := Ty.f32.value (s.rdNat (key (src + 4 * e)) 4)
     let pos (e : Nat) : Nat := (n 184 7 + e / n 176 8) % 128 * 128 + (n 192 7 + e % n 176 8) % 128
     let common := n 229 27 = 0 ∧ n 202 6 = 0 ∧ n 199 1 = 0 ∧ n 191 1 = 0 ∧ n 175 1 = 0 ∧ n 96 32 = 0 ∧ n 53 11 = 0 ∧
       n 21 11 = 0 ∧ 1 ≤ count ∧ count ≤ 32768 ∧ (t.bits = 4 → count % 2 = 0)
     let columns := 1 ≤ n 176 8 ∧ n 176 8 ≤ 128
     let groups := n 200 2 ≠ 3 ∧ count % g0 = 0
     let real := Ty.f32.value (n 128 32)
     let top (fields : Bool) : List (Option Trap) := pointerTraps a 32 8 ++ [s.poisonTrap g off 32,
       trapIf (fields = false) (matrixDetail 0x01), trapIf (esc = true ∧ t.isUnsigned = true) (matrixDetail 0x03)]
     -- the codes, the entries and MST after an election: `el` who is elected, `q` a code before its clamp, `v` a kept entry
     let elected (el kept : Nat → Bool) (code entry : Nat → Nat) (x : Grant) (more : List (Nat × List Byte)) : Prop :=
       x.fctx = none ∧ x.ka = none ∧ x.clear = false ∧ x.a = none ∧ x.ecnt = some (min (countTo el count) cap) ∧
       (∃ data, x.writes = (dst, data) :: more ∧ data.length = codes ∧ ∀ e < count, codeAt t data e = code e) ∧
       (countTo kept count = 0 → x.job = none) ∧
       (countTo kept count ≠ 0 → ∃ data m, x.job = some (.entries, 4096 * list + start, data, m) ∧
         data.length = 4 * countTo kept count ∧ ∀ e < count, kept e = true → wordAt data (countTo kept e) = entry e)
     let bits (x : Grant) (sat nan : Prop) (el : Nat → Bool) : Prop :=
       (x.mset.getLsbD 4 = true ↔ sat) ∧ (x.mset.getLsbD 5 = true ↔ nan) ∧ (x.mset.getLsbD 6 = true ↔ cap < countTo el count) ∧
       x.mset &&& ~~~0x70 = 0
     (t ∈ [Ty.i4, .ui4, .i8, .ui8] →
      (let q (e : Nat) : Option Int := quantValue real z (x e)
       let lim : Int := if n 168 7 = 0 then t.hi else n 168 7
       let el (e : Nat) : Bool := esc && match q e with
         | some q => decide (q < -lim) || decide (lim < q)
         | none => false
       let kept (e : Nat) : Bool := el e && decide (countTo el e < cap)
       let r (e : Nat) : Int := (q e).getD z
       let code (e : Nat) : Nat := if kept e then 2 ^ (t.bits - 1) else (BitVec.ofInt t.bits (clampInt qlo t.hi (r e))).toNat
       let entry (e : Nat) : Nat := (BitVec.ofInt 16 (clampInt (-32768) 32767 (r e))).toNat * 2 ^ 16 + pos e
       let fields := decide (common ∧ columns ∧ (n 168 7 : Int) ≤ t.hi ∧ zeroPointOk t (d.extractLsb' 160 8) = true ∧
         real.isNaN = false ∧ real.isInf = false)
       let tr := firstTrap (top fields ++ spanTraps src (4 * count) ++ spanTraps dst codes ++
         [s.poisonTrap g src (4 * count), trapIf (cap < countTo el count ∧ d.getLsbD 93 = false) (matrixDetail 0x07)])
       (∀ u, tr = some u → grantOf s g a (.qnt p pm pre) = .error (.trap u)) ∧
       (tr = none → ∃ y : Grant, grantOf s g a (.qnt p pm pre) = .ok y ∧ elected el kept code entry y [] ∧
         bits y (∃ e < count, if kept e then clampInt (-32768) 32767 (r e) ≠ r e else clampInt qlo t.hi (r e) ≠ r e)
           (∃ e < count, q e = none) el)) ∧
      (let el (e : Nat) : Bool := esc && decide (FV.compare (Ty.f32.value (s.rdNat (key (src + 4 * e)) 4 % 2 ^ 31)) real = some 1)
       let kept (e : Nat) : Bool := el e && decide (countTo el e < cap)
       let rest (m : Nat) : List FV := (((List.range g0).map (g0 * m + ·)).filter fun e => !kept e).map fun e =>
         if (x e).isNaN then .fin false 0 0 else x e
       let lo (m : Nat) : FV := leastOf (rest m)
       let hi (m : Nat) : FV := greatestOf (rest m)
       let quotient (m : Nat) : Nat :=
         ((FV.div (FV.add .nearest (hi m) (lo m).negate).1 (FV.ofInt (t.hi - qlo))).round .f16 .nearest false).1
       let scale (m : Nat) : Nat := if quotient m % 2 ^ 15 = 0 then 0x3C00 else if quotient m = 0x7C00 then 0x7BFF else quotient m
       let sv (m : Nat) : FV := Ty.f16.value (scale m)
       let zp (m : Nat) : Int := clampInt qlo t.hi (qlo - nearestInt (FV.div (lo m) (sv m)))
       let r (e : Nat) : Int :=
         if (x e).isNaN then zp (e / g0) else nearestInt (FV.div (x e) (sv (e / g0))) + zp (e / g0)
       let code (e : Nat) : Nat := if kept e then 2 ^ (t.bits - 1) else (BitVec.ofInt t.bits (clampInt qlo t.hi (r e))).toNat
       let entry (e : Nat) : Nat := ((x e).round .f16 .nearest false).1 * 2 ^ 16 + pos e
       let fields := decide (common ∧ columns ∧ groups ∧ real.isNaN = false ∧ (real.isZero = true ∨ real.neg = false))
       let tr := firstTrap (top fields ++ spanTraps src (4 * count) ++ spanTraps dst codes ++ spanTraps gaddr (4 * (count / g0)) ++
         [s.poisonTrap g src (4 * count), trapIf (cap < countTo el count ∧ d.getLsbD 93 = false) (matrixDetail 0x07)])
       (∀ u, tr = some u → grantOf s g a (.qntg p pm pre) = .error (.trap u)) ∧
       (tr = none → ∃ y : Grant, grantOf s g a (.qntg p pm pre) = .ok y ∧
         elected el kept code entry y [(gaddr, (List.range (count / g0)).flatMap fun m =>
           natToBytes 4 ((BitVec.ofInt 8 (zp m)).toNat * 2 ^ 16 + scale m))] ∧
         bits y ((∃ m < count / g0, quotient m = 0x7C00) ∨ ∃ e < count,
             if kept e then ((x e).round .f16 .nearest false).2.fo = true else clampInt qlo t.hi (r e) ≠ r e)
           (∃ e < count, (x e).isNaN = true) el)) ∧
      (let grp := d.getLsbD 95
       let data := s.rdN (key src) codes
       let escapes := countTo (escapeAt esc t data) count
       let word (e : Nat) : Word32 := BitVec.ofNat 32 (s.rdNat (key (gaddr + 4 * (e / g0))) 4)
       let elem (e : Nat) : Elem := s.elemAt (g / 8) list start esc t data e
       let v (e : Nat) : FV :=
         if grp then elemReal t (Ty.f16.value ((word e).toNat % 2 ^ 16), t.intOf ((word e).extractLsb' 16 8).toNat) (elem e)
         else FV.ofInt (elemInt t z (elem e))
       let fields := decide (common ∧ if grp then groups else zeroPointOk t (d.extractLsb' 160 8) = true)
       let tr := firstTrap (top fields ++ spanTraps src codes ++ spanTraps dst (4 * count) ++
         (if grp then spanTraps gaddr (4 * (count / g0)) else []) ++ [s.poisonTrap g src codes] ++
         (if grp then [s.poisonTrap g gaddr (4 * (count / g0)),
           trapIf (¬∀ m < count / g0, groupWordGood t (word (m * g0)) = true) (matrixDetail 0x01)] else []) ++
         [trapIf (4096 < start + escapes) (matrixDetail 0x06),
          trapIf (¬∀ m < escapes, s.poisonIn (burnKey (g / 8) list (start + m)) 4 = none) (trapOf kMemory 0x03 0)])
       (∀ u, tr = some u → grantOf s g a (.deq p pm pre) = .error (.trap u)) ∧
       (tr = none → ∃ y : Grant, grantOf s g a (.deq p pm pre) = .ok y ∧ y.fctx = none ∧ y.ka = none ∧ y.mset = 0 ∧
         y.ecnt = none ∧ y.clear = false ∧ y.a = none ∧ y.job = none ∧
         y.writes = [(dst, (List.range count).flatMap fun e => natToBytes 4 (roundTo32 .nearest (v e)).toNat)])))) ∧
    -- BLSET
    (let d := record 16
     let n (lo w : Nat) : Nat := (d.extractLsb' lo w).toNat
     let src := n 0 21
     let load := n 64 13
     let second := d.getLsbD 57
     let tr := firstTrap (pointerTraps a 16 8 ++ [s.poisonTrap g off 16,
       trapIf (¬(n 77 51 = 0 ∧ n 58 6 = 0 ∧ n 21 11 = 0)) (matrixDetail 0x01),
       trapIf (¬(n 32 12 + n 44 13 ≤ 4096 ∧ load ≤ n 44 13)) (matrixDetail 0x04)] ++ spanTraps src (4 * load) ++
       [s.poisonTrap g src (4 * load),
        trapIf (¬∀ m < load, (BitVec.ofNat 32 (s.rdNat (key (src + 4 * m)) 4)).extractLsb' 14 2 = 0) (matrixDetail 0x01)])
     (∀ t, tr = some t → grantOf s g a (.blset p pm pre) = .error (.trap t)) ∧
     (tr = none → ∃ x : Grant, grantOf s g a (.blset p pm pre) = .ok x ∧ nothing x ∧
       x.fctx = some (if second then setField (setField fctx 89 12 (n 32 12)) 101 13 (n 44 13)
         else setField (setField fctx 64 12 (n 32 12)) 76 13 (n 44 13)) ∧
       x.ka = (if second then none else some 0) ∧
       (load = 0 → x.job = none) ∧
       (load ≠ 0 → ∃ m, x.job = some (.entries, (if second then 4096 else 0) + n 32 12, s.rdN (key src) (4 * load), m)))))

/-- R149 to R153, R161; R92 to R98: what the array phases come to. An MMA in integer mode gives every element of ACC
the exact sum of the products of its row of A and its column of B, less the zero points, with VAL of its entry for an
escape, clamped or modulo 2^32 as SAT says; SCOL and SROW get the sums of the factors modulo 2^32; MST says that a
clamp, or a wrap, changed a value. In group mode it takes the groups in turn by R96, in float mode the four blocks by
R98, and MST says that a NaN was met. MROW and MCOL add their coefficients times the sums. The array phase of WPL
writes each column at WA of its slice, and that of BLSET, QNT and QNTG the entries of a list. The choices of the
model in it are those of logs 23 and 67. -/
def Obligations.MatrixMultiply : Prop :=
  (∀ (s : State) (t : Nat) (j : ArrayJob), j.kind = .mma → s.poison = [] → j.data.length = 4096 →
    let c := j.fctx
    let x := s.core j.by_.core
    let wb := (c.extractLsb' 149 15).toNat
    c.extractLsb' 8 2 = 0 → c.extractLsb' 0 3 = 1 → c.extractLsb' 4 3 = 1 → c.getLsbD 13 = false → c.getLsbD 14 = false →
    wb + 128 ≤ 0x8000 →
    let fa (i k : Nat) : Int := factor (c.getLsbD 3) (c.extractLsb' 24 8) (j.data.getD (128 * i + k) 0)
    let fb (k n : Nat) : Int := factor (c.getLsbD 7) (c.extractLsb' 32 8) (s.byte (weightKey t n (wb + k)))
    let sat := c.getLsbD 12
    let sum (i n : Nat) : Int := (Tab.get 0 x.acc (128 * i + n)).toInt + sum128 fun k => fa i k * fb k n
    let lost := ∃ i < 32, ∃ n < 128, (clamp32 sat (sum i n)).toInt ≠ sum i n
    ∃ (acc scol srow : Tab Word32) (bits : Word64),
      s.arrayWork t j = s.setCore j.by_.core { x with acc := acc, scol := scol, srow := srow, mst := x.mst ||| bits } ∧
      (∀ i < 32, ∀ n < 128, Tab.get 0 acc (128 * i + n) = clamp32 sat (sum i n)) ∧
      (∀ i < 32, Tab.get 0 scol i = BitVec.ofInt 32 ((Tab.get 0 x.scol i).toNat + sum128 fun k => fa i k)) ∧
      (∀ n < 128, Tab.get 0 srow n = BitVec.ofInt 32 ((Tab.get 0 x.srow n).toNat + sum128 fun k => fb k n)) ∧
      (lost → bits = if sat then 1 else 2) ∧ (¬lost → bits = 0)) ∧
  (∀ (s : State) (t : Nat) (j : ArrayJob), j.kind = .mma → s.poison = [] →
    let c := j.fctx
    let x := s.core j.by_.core
    let n (lo w : Nat) : Nat := (c.extractLsb' lo w).toNat
    let ta := FCtx.tyA c
    let tb := FCtx.tyB c
    let wb := n 149 15
    let g := 32 * 2 ^ n 10 2
    let ng := 128 / g
    let grouped (b : Nat) : Bool := decide (n 8 2 = 1) && c.getLsbD b
    let rows := 512 * ta.bits
    let cols := 16 * tb.bits
    j.data.length = rows + (if grouped 16 then 128 * ng else 0) → wb + cols + (if grouped 17 then 4 * ng else 0) ≤ 0x8000 →
    n 10 2 ≠ 3 →
    let bdata := (List.range 128).flatMap fun k => s.rdN (weightKey t k wb) cols
    let ea (i k : Nat) : Elem := s.elemAt t 0 (n 64 12 + j.base) (c.getLsbD 13) ta j.data (128 * i + k)
    let eb (k m : Nat) : Elem := s.elemAt t 1 (n 89 12) (c.getLsbD 14) tb bdata (128 * m + k)
    let fa (i k : Nat) : Int := elemInt ta (ta.intOf (n 24 8)) (ea i k)
    let fb (k m : Nat) : Int := elemInt tb (tb.intOf (n 32 8)) (eb k m)
    let sat := c.getLsbD 12
    let group (on : Bool) (u : Ty) (w : Nat) : FV × Int :=
      if on then (Ty.f16.value (w % 2 ^ 16), u.intOf (w / 2 ^ 16)) else (.fin false 1 0, 0)
    let ga (i m : Nat) : FV × Int := group (grouped 16) ta (bytesToNat ((j.data.drop (rows + 4 * (i * ng + m))).take 4))
    let gb (k m : Nat) : FV × Int := group (grouped 17) tb (s.rdNat (weightKey t k (wb + cols + 4 * m)) 4)
    let va (i k : Nat) : FV := ta.value (codeAt ta j.data (128 * i + k))
    let vb (k m : Nat) : FV := tb.value (codeAt tb bdata (128 * m + k))
    let old (i m : Nat) : Word32 := Tab.get 0 x.acc (128 * i + m)
    let sum (i m : Nat) : Int := (old i m).toInt + sum128 fun k => fa i k * fb k m
    let nan := (∃ i < 32, ∃ k < 128, (va i k).isNaN = true) ∨ ∃ m < 128, ∃ k < 128, (vb k m).isNaN = true
    ∃ (acc scol srow : Tab Word32) (bits : Word64),
      s.arrayWork t j = s.setCore j.by_.core { x with acc := acc, scol := scol, srow := srow, mst := x.mst ||| bits } ∧
      (n 8 2 ≠ 0 → scol = x.scol ∧ srow = x.srow) ∧
      (n 8 2 = 0 →
        (∀ i < 32, ∀ m < 128, Tab.get 0 acc (128 * i + m) = clamp32 sat (sum i m)) ∧
        (∀ i < 32, Tab.get 0 scol i = BitVec.ofInt 32 ((Tab.get 0 x.scol i).toNat + sum128 fun k => fa i k)) ∧
        (∀ m < 128, Tab.get 0 srow m = BitVec.ofInt 32 ((Tab.get 0 x.srow m).toNat + sum128 fun k => fb k m)) ∧
        ((∃ i < 32, ∃ m < 128, (clamp32 sat (sum i m)).toInt ≠ sum i m) → bits = if sat then 1 else 2) ∧
        ((∀ i < 32, ∀ m < 128, (clamp32 sat (sum i m)).toInt = sum i m) → bits = 0)) ∧
      (n 8 2 = 1 → bits = 0 ∧ ∀ i < 32, ∀ m < 128, Tab.get 0 acc (128 * i + m) = roundTo32 .nearest
        ((List.range ng).foldl (fun v q => groupResult ta tb (ga i q) (gb m q) (ea i) (fun k => eb k m) (g * q) g v)
          (Ty.f32.value (old i m).toNat))) ∧
      (n 8 2 = 2 → c.getLsbD 13 = false → c.getLsbD 14 = false →
        (nan → bits = 4) ∧ (¬nan → bits = 0) ∧ ∀ i < 32, ∀ m < 128, Tab.get 0 acc (128 * i + m) = roundTo32 .nearest
          ((List.range 4).foldl (fun v q => blockResult (va i) (fun k => vb k m) (32 * q) v) (Ty.f32.value (old i m).toNat)))) ∧
  (∀ (s : State) (t : Nat) (j : ArrayJob),
    let x := s.core j.by_.core
    let sat := j.fctx.getLsbD 12
    let u (n : Nat) : Int := (BitVec.ofNat 32 (wordAt j.data n)).toInt
    let sum (i n : Nat) : Int := (Tab.get 0 x.acc (128 * i + n)).toInt +
      if j.kind = .mrow then u i * (Tab.get 0 x.srow n).toInt else (Tab.get 0 x.scol i).toInt * u n
    (j.kind = .mrow ∧ j.data.length = 128) ∨ (j.kind = .mcol ∧ j.data.length = 512) →
    ∃ (acc : Tab Word32) (bits : Word64),
      s.arrayWork t j = s.setCore j.by_.core { x with acc := acc, mst := x.mst ||| bits } ∧
      (∀ i < 32, ∀ n < 128, Tab.get 0 acc (128 * i + n) = clamp32 sat (sum i n)) ∧
      ((∃ i < 32, ∃ n < 128, (clamp32 sat (sum i n)).toInt ≠ sum i n) → bits = if sat then 1 else 2) ∧
      ((∀ i < 32, ∀ n < 128, (clamp32 sat (sum i n)).toInt = sum i n) → bits = 0)) ∧
  (∀ (s : State) (t f : Nat) (j : ArrayJob), s.MemOk → j.kind = .weights → j.data.length = 128 * f → j.base + f ≤ 0x7F00 →
    let s' := s.arrayWork t j
    s' = { s with mem := s'.mem, poison := s'.poison } ∧ (s.poison = [] → s'.poison = []) ∧
    (∀ n < 128, ∀ k < f, s'.byte (weightKey t n (j.base + k)) = j.data.getD (n * f + k) 0) ∧
    ∀ key, (∀ n < 128, ∀ k < f, key ≠ weightKey t n (j.base + k)) → s'.byte key = s.byte key) ∧
  (∀ (s : State) (t n list first : Nat) (j : ArrayJob), s.MemOk → j.kind = .entries → j.data.length = 4 * n → list < 2 →
    j.base = 4096 * list + first → first + n ≤ 4096 →
    let s' := s.arrayWork t j
    s' = { s with mem := s'.mem, poison := s'.poison } ∧ (s.poison = [] → s'.poison = []) ∧
    (∀ m < n, ∀ k < 4, s'.byte (burnKey t list (first + m) + k) = j.data.getD (4 * m + k) 0) ∧
    ∀ key, (∀ m < n, ∀ k < 4, key ≠ burnKey t list (first + m) + k) → s'.byte key = s.byte key)

/-! ### Page 3: counting -/

/-- R272 to R280: TOK, ATOK, CVOID and CPEEK whose register bits are zero and whose handle names a live instance send
their request into it while their context waits; a reserved bit, a stale handle and an instance of a sequence come
back as COUNT with details 0x03, 0x01 and 0x02. TOKN with a result word in the scratchpad and room in the queue goes
on at once. The choices of the model in it are those of log 1. -/
def Obligations.CountingIssue : Prop :=
  ∀ (s : State) (pre : Prefixes), s.Chosen pre →
    let k := s.strand
    let h : BitVec 32 := k.a.setWidth 32
    let p := s.part (s.pidOf s.me)
    let waiting := s.await ⟨k.next pre, false, none, none, none⟩
    let refused (d : BitVec 8) : State := waiting.reply s.me s.myCtx (Reply.trapped kCount d 0)
    let req (kind : TokKind) (n : Nat) : TokReq :=
      ⟨s.issuer, h, kind, (s.logCore s.me / 8) % 2 ^ (p.inst n).lw, 0, k.x.toNat, 0, 0⟩
    let plain := [(Instr.tok pre, TokKind.tok, Instr.balancerTraversal), (.atok pre, .atok, .balancerTraversal),
      (.cvoid pre, .cvoid, .cancellationArrival)]
    let cvoidOk (i : Instr) : Prop := i = .cvoid pre → k.x.extractLsb' 46 18 = 0
    (k.a.extractLsb' 32 32 ≠ 0 → ∀ i ∈ [Instr.tok pre, .atok pre, .cvoid pre, .cpeek pre], exec i s = .next (refused 0x03)) ∧
    (k.x.extractLsb' 46 18 ≠ 0 → exec (.cvoid pre) s = .next (refused 0x03)) ∧
    (k.a.extractLsb' 32 32 = 0 →
      (p.instSlot h = none → ∀ e ∈ plain, cvoidOk e.1 → exec e.1 s = .next (refused 0x01)) ∧
      (∀ n, p.instSlot h = some n → ∀ e ∈ plain, cvoidOk e.1 →
        exec e.1 s = .next (if (p.inst n).isSeq then refused 0x02 else waiting.due [⟨e.2.2, .tok (req e.2.1 n) 0⟩])) ∧
      (∀ n, p.instSlot h = some n → k.x.extractLsb' 9 55 = 0 → (k.x.extractLsb' 6 3).toNat ≤ 4 →
        exec (.cpeek pre) s = .next (if (k.x.extractLsb' 0 6).toNat < 2 ^ (p.inst n).lw
          then waiting.due [⟨.peekArrival, .tok (req .peek n) 0⟩] else refused 0x03))) ∧
    (∀ n off, k.a.extractLsb' 36 28 = 0 → k.x.toNat = 0xF00000000000 + off → off + 8 ≤ 2 ^ 21 → off % 8 = 0 →
      p.instSlot h = some n → (p.inst n).isSeq = false → (s.core s.me).posted < 32 →
      exec (.tokn pre) s = .next (((s.postBegin s.me).skip pre).due [⟨.balancerTraversal,
        .tok { req .tokn n with arg := 0, result := k.x.setWidth 48, counter := (k.a.extractLsb' 32 4).toNat } 0⟩]))

/-- R265, R267 to R269, R277, R278: a token that passes the balancer of its wire flips the toggle cell and leaves on
the lower wire where the cell was 0; an antitoken flips it first and goes where the new value says. After the last
layer its exit serves it. A token of TOKN leaves its posted-write queue entry as it enters. A request whose instance
has been released comes back as COUNT with detail 0x01, or is discarded. What an exit answers, and what its entry
becomes: where the index below the top is a pinhole, it and those below it become vacancies. -/
def Obligations.CountingNetwork : Prop :=
  (∀ (s : State) (r : TokReq) (v : Word64) (n : Nat) (l : Nat × Nat), s.arg = .tok r v →
    (s.part r.by_.pid).instSlot r.inst = some n → ∀ x, x = (s.part r.by_.pid).inst n → (netLayers x.lw)[r.layer]? = some l →
    let exit_ : Instr := if r.kind = .atok then .exitServeAntitoken else .exitServeToken
    let lower := (pairOf l r.wire).1
    let cell := 2 ^ x.lw / 2 * r.layer + rankOf l lower
    let c := Tab.get false x.cells cell
    let straight := if r.kind = .atok then c else !c
    let r' : TokReq := { r with wire := if straight then lower else (pairOf l r.wire).2, layer := r.layer + 1 }
    let entered : State :=
      if r.kind = .tokn ∧ r.layer = 0 then s.modCore r.by_.core fun c => { c with posted := c.posted - 1 } else s
    exec .balancerTraversal s = .next
      ((entered.modInst r.by_.pid n fun x => { x with cells := Tab.set false x.cells cell (!c) }).due
        [⟨if (netLayers x.lw).length ≤ r.layer + 1 then exit_ else .balancerTraversal, .tok r' v⟩])) ∧
  (∀ (s : State) (r : TokReq) (v : Word64), s.arg = .tok r v → (s.part r.by_.pid).instSlot r.inst = none → r.kind ≠ .res →
    (r.kind ≠ .tokn → exec .balancerTraversal s = .next (s.reply r.by_.core r.by_.ctx (Reply.trapped kCount 0x01 0))) ∧
    (r.kind = .tokn → r.layer ≠ 0 → exec .balancerTraversal s = .next (s.opEnd r.by_.pid r.by_.tcb))) ∧
  (∀ (x : Exit) (w e : Nat),
    (x.cnt < 0 → x.token w e = ⟨1, none, { x with cnt := x.cnt + 1 }⟩) ∧
    (∀ k ks, 0 ≤ x.cnt → x.ph = k :: ks → x.token w e = ⟨0, some (e + w * k), ⟨x.cnt, x.vac + 1, ks⟩⟩) ∧
    (0 ≤ x.cnt → x.ph = [] → x.token w e = if x.cnt = 2 ^ 39 - 1 then ⟨7, none, { x with vac := x.vac + 1 }⟩
      else ⟨0, some (e + w * x.cnt.toNat), { x with cnt := x.cnt + 1 }⟩) ∧
    (0 < x.vac → x.antitoken w e = ⟨2, some (e + w * (x.cnt + (x.vac - 1 : Nat)).toNat), { x with vac := x.vac - 1 }⟩) ∧
    (x.vac = 0 → x.cnt ≤ 0 → x.antitoken w e = ⟨3, none, { x with cnt := x.cnt - 1 }⟩) ∧
    (x.vac = 0 → 0 < x.cnt → (x.antitoken w e).status = 0 ∧ (x.antitoken w e).value = some (e + w * (x.cnt - 1).toNat)) ∧
    (x.vac = 0 → 0 < x.cnt → x.ph.Pairwise (· < ·) → (∀ k ∈ x.ph, (k : Int) < x.cnt) → (x.cnt - 1).toNat ∉ x.ph →
      ∃ m : Nat, (x.antitoken w e).exit = ⟨x.cnt - 1 - m, m, x.ph.filter fun k => decide ((k : Int) < x.cnt - 1 - m)⟩ ∧
        (∀ i < m, ∃ k ∈ x.ph, (k : Int) = x.cnt - 2 - i) ∧ ∀ k ∈ x.ph, (k : Int) ≠ x.cnt - 2 - m)) ∧
  (∀ (x : Exit) (k : Nat),
    (x.cnt ≤ k ∨ k ∈ x.ph → x.cancel k = ⟨5, some 0, x⟩) ∧
    ((k : Int) < x.cnt - 1 → k ∉ x.ph → x.ph.length = 4 → x.cancel k = ⟨6, some 0, x⟩) ∧
    ((k : Int) < x.cnt - 1 → k ∉ x.ph → x.ph.length ≠ 4 → (x.cancel k).status = 4 ∧ (x.cancel k).value = some 0 ∧
      (x.cancel k).exit.cnt = x.cnt ∧ (x.cancel k).exit.vac = x.vac ∧ ∀ j, j ∈ (x.cancel k).exit.ph ↔ j = k ∨ j ∈ x.ph) ∧
    (0 < x.cnt → (k : Int) = x.cnt - 1 → k ∉ x.ph → ∃ steps : Nat, 0 < steps ∧ (x.cancel k).status = 0 ∧
      (x.cancel k).value = some steps ∧ (x.cancel k).exit.cnt = x.cnt - steps ∧ (x.cancel k).exit.vac = x.vac + steps ∧
      (∀ j, j ∈ x.ph ↔ (j ∈ (x.cancel k).exit.ph ∨ ((x.cancel k).exit.cnt ≤ (j : Int) ∧ j ∈ x.ph))) ∧
      (x.ph.Pairwise (· < ·) → (∀ k ∈ x.ph, (k : Int) < x.cnt) →
        (x.cancel k).exit.ph = (x.ph.filter fun (j : Nat) => decide ((j : Int) < x.cnt - steps)) ∧
        (∀ i : Nat, 1 ≤ i → i < steps → ∃ j ∈ x.ph, (j : Int) = x.cnt - 1 - i) ∧ ∀ j ∈ x.ph, (j : Int) ≠ x.cnt - 1 - steps)))

/-- R265: an antitoken that enters on the wire of the last token, with no other traversal between them, takes the
token's path and undoes every flip that it made: the cells are as before, and both leave on one wire. -/
def Obligations.AntitokenUndoesToken : Prop :=
  ∀ (m : Nat) (cells : Tab Bool) (wire : Nat), Tab.wf false cells = true → wire < 2 ^ m →
    let t := passAll (2 ^ m / 2) false 0 (netLayers m) cells wire
    passAll (2 ^ m / 2) true 0 (netLayers m) t.2 wire = (t.1, cells)

/-- R276 to R279: an exit of a live instance serves a token of TOK, an antitoken, a cancellation or a peek and
answers its context with the index or the steps, the status and F.Z; the entry becomes what the rules say. For a TOKN
it gives the result word, STATUS in [63:56] and INDEX in [47:0], all ones where there is none, which is written at
its address, and then its counter is incremented. The choices of the model in it are those of log 1. -/
def Obligations.CountingServes : Prop :=
  (∀ (s : State) (r : TokReq) (v : Word64) (n : Nat), s.arg = .tok r v → (s.part r.by_.pid).instSlot r.inst = some n →
    let x := (s.part r.by_.pid).inst n
    let w := 2 ^ x.lw
    let e := r.arg % w
    let answer (y : Served) : Reply :=
      statusReply y.status (some (match y.value with | some i => BitVec.ofNat 64 i | none => BitVec.allOnes 64))
    let served (e : Nat) (y : Served) : Host.Outcome State Fault Refusal :=
      .next ((s.modInst r.by_.pid n fun i => i.setExit e y.exit).reply r.by_.core r.by_.ctx (answer y))
    (r.kind = .tok → exec .exitServeToken s = served r.wire ((x.exit r.wire).token w r.wire)) ∧
    (let y := (x.exit r.wire).token w r.wire
     let word : Word64 := BitVec.ofNat 8 y.status ++ (0 : BitVec 8) ++
       (match y.value with | some i => BitVec.ofNat 48 i | none => BitVec.allOnes 48)
     r.kind = .tokn → exec .exitServeToken s = .next
       ((s.modInst r.by_.pid n fun i => i.setExit r.wire y.exit).due [⟨.toknResultWrite, .tok r word⟩])) ∧
    exec .exitServeAntitoken s = served r.wire ((x.exit r.wire).antitoken w r.wire) ∧
    exec .cancellationArrival s = served e ((x.exit e).cancel (r.arg / w)) ∧
    (let q := x.exit (r.arg % 64)
     let sel := r.arg / 64 % 8
     exec .peekArrival s = .next (s.reply r.by_.core r.by_.ctx
       (if sel = 0 then { statusReply 0 (some (BitVec.ofInt 64 q.cnt)) with
            x := some (BitVec.ofNat 64 (q.vac + q.ph.length * 2 ^ 40)) }
        else statusReply 0 (some (match q.ph[sel - 1]? with
          | some k => BitVec.ofNat 64 (r.arg % 64 + w * k)
          | none => BitVec.allOnes 64)))))) ∧
  (∀ (s : State) (r : TokReq) (v : Word64) (off : Nat), s.arg = .tok r v → r.result.toNat = 0xF00000000000 + off →
    off < 2 ^ 21 → exec .toknResultWrite s = .next (((s.wrNat (scratchKey (r.by_.core / 8) off) 8 v.toNat).due
      [.num .counterIncrement r.by_.core r.counter]).opEnd r.by_.pid r.by_.tcb))

/-- R281 to R283: NETRED and NBAR at issue: no participant, one, more than there are live tiles, or a wait for the
others; pod scope without a gang is package scope (R439). An arrival that opens a reduction or a counting barrier
waits, and so does one that joins it; one that differs in fn, type or count, or whose tile has joined already, gets
MISMATCH; the last one that completes it answers every participant, a reduction with the operands combined in arrival
order at the width of their type. The choices of the model in it are those of log 1. -/
def Obligations.Reductions : Prop :=
  (∀ (s : State) (fn : RedFn) (noTrap : Bool) (sc : Scope) (pre : Prefixes), s.Chosen pre →
    pre.ty = none ∨ pre.ty = some .i32 ∨ (pre.ty = some .f32 ∧ fn ∈ [RedFn.add, .min, .max]) →
    let k := s.strand
    let p := (k.x.extractLsb' 0 16).toNat
    let gang := match s.taskOf s.me with
      | some (_, t) => t.pgang
      | none => 0
    let at_ : Scope := if sc = .pod ∧ gang = 0 then .package else sc
    let live := s.liveTiles at_
    let ends (status : Nat) (a : Word64) : Host.Outcome State Fault Refusal := .next (s.complete
      { k with a := a, x := BitVec.ofNat 64 status, f := setBit k.f 0 (decide (status = 0)) } (k.next pre))
    let joins (what : Instr) (fn : RedFn) (v : Word64) : Host.Outcome State Fault Refusal :=
      .next ((s.await ⟨k.next pre, false, none, none, none⟩).due [⟨what, .arr ⟨s.issuer, fn, pre.ty, at_,
        netDomain s.me at_, p, (k.x.extractLsb' 16 16).toNat, v⟩⟩])
    let red := exec (.netred fn noTrap sc pre) s
    let bar := exec (.nbar sc pre) s
    (k.x.extractLsb' 32 32 ≠ 0 →
      red = .next (s.raise (trapOf kCount 0x07 0)) ∧ bar = .next (s.raise (trapOf kCount 0x07 0))) ∧
    (k.x.extractLsb' 32 32 = 0 →
      (p = 0 → red = ends 8 (reductionIdentity fn pre.ty) ∧ bar = ends 8 k.a) ∧
      (p = 1 → red = ends 0 k.a ∧ bar = ends 0 k.a) ∧
      (2 ≤ p → live < p → red = (if noTrap then ends 9 k.a else .next (s.raise (trapOf kCount 0x06 0))) ∧
        bar = .next (s.raise (trapOf kCount 0x06 0))) ∧
      (2 ≤ p → p ≤ live →
        red = joins .reductionArrival fn (if pre.ty.isSome then (k.a.setWidth 32).setWidth 64 else k.a) ∧
        bar = joins .countingBarrierArrival .add 0))) ∧
  (∀ (s : State) (r : RedArr), s.arg = .arr r → r.scope ≠ .pod → 2 ≤ r.p →
    r.ty = none ∨ r.ty = some .i32 ∨ (r.ty = some .f32 ∧ r.fn ∈ [RedFn.add, .min, .max]) →
    ∀ e ∈ [(Instr.reductionArrival, (1 : BitVec 2)), (.countingBarrierArrival, 2)],
    ((∀ m ∈ s.meetings, m.fits e.2 r = false) → exec e.1 s = .next { s with
      meetings := s.meetings ++ [⟨e.2, r.by_.pid, r.by_.tcb, r.scope, r.domain, r.tag, r.p, [r]⟩] }) ∧
    (∀ (before after : List Meeting) (m : Meeting) (q : RedArr) (qs : List RedArr), s.meetings = before ++ m :: after →
      m.arrived = q :: qs → (∀ x ∈ before ++ after, x.fits e.2 r = false) → m.fits e.2 r = true →
      let differs := m.need ≠ r.p ∨ q.fn ≠ r.fn ∨ q.ty ≠ r.ty ∨ ∃ x ∈ q :: qs, x.by_.core / 8 = r.by_.core / 8
      let wide : Word64 := (qs ++ [r]).foldl (fun v x => reductionValue r.fn v x.v) q.v
      let narrow : Word32 := (qs ++ [r]).foldl
        (fun v x => combineBits r.fn (decide (r.ty = some .f32)) .nearest v (x.v.setWidth 32)) (q.v.setWidth 32)
      let result : Word64 := match r.ty with
        | none => wide
        | some .f32 => narrow.setWidth 64
        | some _ => narrow.signExtend 64
      (differs → exec e.1 s = .next (s.reply r.by_.core r.by_.ctx (statusReply 11 none))) ∧
      (¬differs → qs.length + 2 < r.p → exec e.1 s = .next
        { s with meetings := before ++ { m with arrived := q :: qs ++ [r] } :: after }) ∧
      (¬differs → qs.length + 2 = r.p → exec e.1 s = .next ((q :: qs ++ [r]).foldl
        (fun s x => s.reply x.by_.core x.by_.ctx (statusReply 0 (if e.2 = 1 then some result else none)))
        { s with meetings := before ++ after }))))

/-! ### Page 4: tasks and graphs -/

/-- R302, R311 to R319, R325, R326: the instructions of page 4. ARM, LINK and DEPDEC do at the named task what R315
says, with its status in X and F.Z; ARM, DEPDEC and a SPAWN that arms its task wait until what they release has been
performed; GNEW makes a graph under a parent that accepts one; TCBRD reads a doubleword of a TCB; GCANCEL answers and
starts the cancellation; GWAIT returns, traps or waits, and on a final graph writes A, X and F.Z, and a creator's
releases the hold; QRES takes the next index of a queue of the job; QPOST sends a record of the scratchpad; SPAWN
answers with the new task. A spawn refuses a malformed descriptor, a graph that accepts nothing, a malformed image, a
gang or tiles or a trap entry that do not fit, and a full table, and otherwise fills the TCB and counts the task in
its graph, and arms it at once if asked to; a new graph takes the lowest free slot, with its record filled and its
parent's CHILD and NCHILD moved on. The pointers of QPOST and SPAWN are checked as local ones. Reserved bits and
stale handles raise TASK with details 0x04 and 0x01. The choices of the model in it are those of logs 2, 8 and 61. -/
def Obligations.TaskInstructions : Prop :=
  (∀ (s : State) (pid n : Nat), let t := s.task pid n
    let refuses := s.taskDead pid n = true ∨ gAccepts (s.graphOf pid t.graph) = false
    (refuses → s.armTask pid n = (s, 5)) ∧ (¬refuses → t.state ≠ 1 → s.armTask pid n = (s, 2)) ∧
    (¬refuses → t.state = 1 → s.armTask pid n = (if t.dep = 0 then s.taskReady pid n else s.taskTo pid n 2, 0)) ∧
    (t.state = 7 ∨ s.taskDead pid n = true → s.depDec pid n = (s, 5)) ∧
    (t.state ≠ 7 → s.taskDead pid n = false → t.dep = 0 → s.depDec pid n = (s, 4)) ∧
    (t.state ≠ 7 → s.taskDead pid n = false → t.dep ≠ 0 →
      let u := s.modTask pid n fun t => t.set 224 16 (t.dep - 1)
      s.depDec pid n = (if t.dep = 1 then u.depZero pid n else u, 0)) ∧
    (∀ m, let b := s.task pid m
      let refuses := s.taskDead pid m = true ∨ s.taskDead pid n = true ∨ gAccepts (s.graphOf pid b.graph) = false
      (refuses → s.linkTasks pid n m = (s, 5)) ∧
      (¬refuses → b.state ≠ 1 ∨ n = m → s.linkTasks pid n m = (s, 2)) ∧
      (¬refuses → b.state = 1 → n ≠ m → t.state = 7 → s.linkTasks pid n m = (s, 1)) ∧
      (¬refuses → b.state = 1 → n ≠ m → t.state ≠ 7 → b.dep = 0xFFFF → s.linkTasks pid n m = (s, 3)) ∧
      (¬refuses → b.state = 1 → n ≠ m → t.state ≠ 7 → b.dep ≠ 0xFFFF → t.nsucc < 8 →
        s.linkTasks pid n m = ((s.setPart pid ((s.part pid).setTask n
          ((t.set (768 + 32 * t.nsucc) 32 b.self.toNat).set 240 4 (t.nsucc + 1)))).modTask pid m fun b =>
            let b := b.set 224 16 (b.dep + 1)
            if t.state = 1 ∨ t.state = 2 then b.set 560 16 (b.nwait + 1) else b, 0)))) ∧
  (∀ (s : State) (pre : Prefixes) (d : BitVec 4), s.Chosen pre →
    let k := s.strand
    let pid := s.pidOf s.me
    let slot (v : Word64) : Option Nat := (s.part pid).taskSlot (v.setWidth 32)
    let answer (t : State) (r : Reply) : Host.Outcome State Fault Refusal :=
      .next ((t.await ⟨t.strand.next pre, false, none, none, none⟩).reply s.me s.myCtx r)
    let trapped (d : BitVec 8) : Host.Outcome State Fault Refusal := answer s (Reply.trapped kTask d 0)
    let waiting := s.await ⟨k.next pre, false, none, none, none⟩
    let free := waiting.releasedFor s.issuer = true
    (¬free → ∀ e ∈ [(Instr.arm pre, ReqOp.arm), (.depdec pre, .depdec)],
      exec e.1 s = .next (waiting.dueIn 4 ⟨.loadReply, .req ⟨s.issuer, e.2, k.a, k.x⟩⟩)) ∧
    (k.a.extractLsb' 32 32 ≠ 0 → ∀ i ∈ [Instr.tcbrd d pre, .gnew pre], exec i s = trapped 0x04) ∧
    (k.a.extractLsb' 32 32 ≠ 0 → free → ∀ i ∈ [Instr.arm pre, .depdec pre], exec i s = trapped 0x04) ∧
    (k.x.extractLsb' 32 32 ≠ 0 → exec (.link pre) s = trapped 0x04) ∧
    (k.a.extractLsb' 32 32 = 0 →
      (slot k.a = none → exec (.tcbrd d pre) s = trapped 0x01) ∧
      (slot k.a = none → free → ∀ i ∈ [Instr.arm pre, .depdec pre], exec i s = trapped 0x01) ∧
      (∀ n, slot k.a = some n →
        (free → exec (.arm pre) s = .next
          ((waiting.armTask pid n).1.reply s.me s.myCtx (statusReply (waiting.armTask pid n).2 none))) ∧
        (free → exec (.depdec pre) s = .next
          ((waiting.depDec pid n).1.reply s.me s.myCtx (statusReply (waiting.depDec pid n).2 none))) ∧
        exec (.tcbrd d pre) s =
          answer s { Reply.plain with a := some ((s.task pid n).tcb.extractLsb' (64 * d.toNat) 64) } ∧
        ∀ m, k.x.extractLsb' 32 32 = 0 → slot k.x = some m →
          exec (.link pre) s = answer (s.linkTasks pid n m).1 (statusReply (s.linkTasks pid n m).2 none)) ∧
      (∀ g, k.x.extractLsb' 48 16 = 0 → k.x.extractLsb' 0 3 = 0 →
        (s.part pid).graphSlot (if k.a = 0 then s.myGraph else k.a.setWidth 32) = some g →
        (gAccepts (s.graph pid g) = false → exec (.gnew pre) s = answer s (statusReply 5 (some 0))) ∧
        (gAccepts (s.graph pid g) = true →
          match s.newGraph pid (some g) (s.tcbOf s.me) (k.x.extractLsb' 0 48).toNat with
          | none => exec (.gnew pre) s = answer s (statusReply 3 (some 0))
          | some (t, n) => exec (.gnew pre) s = answer t (statusReply 0 (some ((gSelf (t.graph pid n)).setWidth 64))))) ∧
      (∀ n, (s.part pid).graphSlot (k.a.setWidth 32) = some n → let g := s.graph pid n
        let st := if gState g = 3 then 1 else if gState g = 1 ∨ gState g = 2 then 0 else 5
        exec (.gcancel pre) s = .next ((((s.await ⟨k.next pre, false, none, none, none⟩).reply s.me s.myCtx
          (statusReply st none)).cancelGraph pid n false).1) ∧
        (k.a ≠ 0 → s.inGraph pid n = true → exec (.gwait pre) s = trapped 0x05) ∧
        (k.a ≠ 0 → s.inGraph pid n = false →
          let t := (s.skip pre).leaveRunning s.me s.myCtx (.waitSync (.graph (gSelf g)))
          let u := if gState g = 3 ∨ gState g = 5 then t.wakeGraph pid n else t
          exec (.gwait pre) s = .next (if gCreator g = s.tcbOf s.me then u.releaseHold pid n else u)))) ∧
    (k.a = 0 → exec (.gwait pre) s = .next
      (if (match s.taskOf s.me with | some (_, t) => decide (t.state = 4) | none => false)
        then (s.skip pre).leaveRunning s.me s.myCtx (.waitSync .leaveEarly)
        else s.complete { k with x := 0, f := setBit k.f 0 true } (k.next pre))) ∧
    (k.a.extractLsb' 15 49 = 0 → ∀ q, s.jobQueue pid k.a.toNat = some q →
      let full := (qTail q + 2 ^ 32 - qHead q) % 2 ^ 32 = qSize q
      (full → exec (.qres pre) s = answer s (statusReply 7 none)) ∧
      (¬full → exec (.qres pre) s = answer (s.modQueue k.a.toNat fun x => setField x 128 32 (qTail x + 1))
        (statusReply 0 (some (BitVec.ofNat 64 (qTail q))))))) ∧
  (∀ (s : State) (p : BitVec 3) (pm : PostMode) (pre : Prefixes) (off : Nat), s.Chosen pre →
    let k := s.strand
    let a := (k.ptr p.toNat).addr
    let pid := s.pidOf s.me
    let rec_ := s.rdNat (scratchKey s.myTile off) 64
    (∀ t, firstTrap (pointerTraps a 64 8) = some t → ∀ i ∈ [Instr.qpost p pm pre, .spawn p pm pre], exec i s = .next (s.raise t)) ∧
    (a.toNat = 0xF00000000000 + off → off + 64 ≤ 2 ^ 21 → a.toNat % 8 = 0 → (s.core s.me).vecPending off 64 = false →
    s.poisonIn (scratchKey s.myTile off) 64 = none →
    (∀ q, k.x.extractLsb' 15 49 = 0 → s.jobQueue pid k.x.toNat = some q → (s.core s.me).posted < 32 →
      let i := (k.a.extractLsb' 0 32).toNat
      (i + 2 ^ 32 - qHead q) % 2 ^ 32 < (qTail q + 2 ^ 32 - qHead q) % 2 ^ 32 →
      exec (.qpost p pm pre) s = .next ((((s.touched off 64).postBegin s.me).complete (k.applyPost p pm 64) (k.next pre)).due
        [⟨.qpostDelivery, .post s.issuer k.x.toNat i (BitVec.ofNat 512 rec_) false⟩])) ∧
    (s.host.assisted = [] →
      let waiting := (s.touched off 64).await
        ⟨k.next pre, false, some (p.toNat, (k.ptr p.toNat).post pm 64), none, none⟩
      let again : Due := ⟨.loadReply, .req ⟨s.issuer, .spawn (BitVec.ofNat 512 rec_), k.a, k.x⟩⟩
      let answer (t : State) (r : Reply) : Host.Outcome State Fault Refusal := .next ((t.forget 2 again).reply s.me s.myCtx r)
      let held := rec_.testBit 118 = true ∧ waiting.releasedFor s.issuer = false
      let read (t : State) : State := t.fillImage s.myTile pid (rec_ % 2 ^ 48)
      (held → exec (.spawn p pm pre) s = .next (waiting.dueIn 4 again)) ∧
      (¬held → match waiting.spawn (some s.myTile) pid s.myGraph rec_ [] with
        | .made t h => exec (.spawn p pm pre) s = answer (read t) (statusReply 0 (some (h.setWidth 64)))
        | .status st => exec (.spawn p pm pre) s =
          answer (if st = 5 then waiting else read waiting) { statusReply st (some 0) with post := false }
        | .malformed => exec (.spawn p pm pre) s = answer waiting (Reply.trapped kTask 0x03 0)
        | .stale => exec (.spawn p pm pre) s = answer waiting (Reply.trapped kTask 0x01 0)
        | .xlate va d => exec (.spawn p pm pre) s = answer waiting (Reply.trapped kXlate d (BitVec.ofNat 48 va))
        | .ask bad body => exec (.spawn p pm pre) s = .next (waiting.askAgain 2 pid body bad again))))) ∧
  (∀ (s : State) (tile : Option Nat) (pid : Nat) (mine : BitVec 32) (d : Nat) (answers : List Word64), d < 2 ^ 512 →
    let v : BitVec 512 := BitVec.ofNat 512 d
    let h : BitVec 32 := v.extractLsb' 64 32
    let trb := (v.extractLsb' 160 21).toNat
    let malformed := v.extractLsb' 240 16 ≠ 0 ∨ v.extractLsb' 181 11 ≠ 0 ∨ v.extractLsb' 122 6 ≠ 0 ∨ v.extractLsb' 112 2 ≠ 0 ∨
      v.extractLsb' 48 16 ≠ 0 ∨ v.extractLsb' 192 3 ≠ 0 ∨ v.extractLsb' 0 6 ≠ 0 ∨
      (if v.getLsbD 120 then trb % 64 ≠ 0 ∨ 0x200000 < trb + 0x2000 ∨ v.getLsbD 128 = true
        else trb ≠ 0 ∨ v.extractLsb' 128 32 ≠ 0)
    let graph := (s.part pid).graphSlot (if h = 0 then mine else h)
    (malformed ↔ spawnBad d = true) ∧ (malformed → s.spawn tile pid mine d answers = .malformed) ∧
    (¬malformed → graph = none → s.spawn tile pid mine d answers = .stale) ∧
    (∀ g, ¬malformed → graph = some g → s.spawn tile pid mine d answers = s.spawnIn tile pid g d answers)) ∧
  (∀ l : Nat, l < 2 ^ 512 → let v : BitVec 512 := BitVec.ofNat 512 l
    let tiles := (v.extractLsb' 64 10).toNat
    launchBad l = true ↔ v.extractLsb' 213 11 ≠ 0 ∨ v.extractLsb' 81 15 ≠ 0 ∨ v.extractLsb' 48 16 ≠ 0 ∨ v.getLsbD 0 = true ∨
      tiles = 0 ∨ 512 < tiles ∨ v.getLsbD 128 = true ∨ v.extractLsb' 192 2 ≠ 0 ∨
      0x200000 < (v.extractLsb' 192 21).toNat + (v.extractLsb' 160 32).toNat) ∧
  (∀ r : Nat, r < 2 ^ 128 → let v : BitVec 128 := BitVec.ofNat 128 r
    let kind := v.extractLsb' 0 8
    let size := (v.extractLsb' 8 8).toNat
    let tier := (v.extractLsb' 16 8).toNat
    requestBad r = false ↔ v.extractLsb' 53 75 = 0 ∧ v.extractLsb' 24 8 = 0 ∧ v.extractLsb' 32 2 = 0 ∧
      ((kind = 1 ∧ 6 ≤ size ∧ size ≤ 16 ∧ tier ≤ 1) ∨ (kind = 2 ∧ 1 ≤ size ∧ size ≤ 6 ∧ tier = 0))) ∧
  (∀ (s : State) (tile : Option Nat) (pid g d : Nat) (answers : List Word64), d < 2 ^ 512 → s.Ok →
    let v : BitVec 512 := BitVec.ofNat 512 d
    let image := d % 2 ^ 48
    let done := s.spawnIn tile pid g d answers
    (gAccepts (s.graph pid g) = false → done = .status 5) ∧
    (gAccepts (s.graph pid g) = true →
      (∀ va x, s.keysFor tile pid image 8 true false 8 = .error (va, x) → done = .xlate va x) ∧
      (∀ ks, s.keysFor tile pid image 8 true false 8 = .ok ks →
        let l : BitVec 512 := BitVec.ofNat 512 (bytesToNat (ks.flatMap fun k => s.rdN k 8))
        let n (lo w : Nat) : Nat := (l.extractLsb' lo w).toNat
        let bad := launchBad l.toNat
        let nreq := n 224 8 + n 232 8
        (∀ va x, bad = false → s.keysFor tile pid (image + 64) 16 true false nreq = .error (va, x) → done = .xlate va x) ∧
        (bad = true → done = .status 6) ∧
        (∀ ks', bad = false → s.keysFor tile pid (image + 64) 16 true false nreq = .ok ks' →
          let rs := ks'.map fun k => s.rdNat k 16
          let gang := n 240 16
          let refused := (∃ r ∈ rs, requestBad r = true) ∨ (rs.filter fun r => decide (r % 256 = 1)).length ≠ n 224 8 ∨
            s.capacity pid < n 64 10 ∨ (v.getLsbD 120 = true ∧ n 128 32 ≤ (v.extractLsb' 128 32).toNat) ∨
            (gang ≠ 0 ∧ ((s.part pid).pjob = 0 ∨
              ∃ e ∈ (s.part pid).tasks, e.2.pgang = gang ∧ e.2.state ≠ 0 ∧ e.2.state < 7))
          let free (m : Nat) : Prop := 1 ≤ m ∧ m ≤ ((s.part pid).record.extractLsb' 128 16).toNat ∧ (s.task pid m).state = 0
          (refused → done = .status 6) ∧
          (¬refused → (∀ m, ¬free m) → done = .status 3) ∧
          (∀ slot, ¬refused → free slot → (∀ m < slot, ¬free m) →
            match s.makeObjects pid (gSelf (s.graph pid g)) answers rs with
            | .full => done = .status 3
            | .ask bad body => done = .ask bad body
            | .made u objs =>
              let self := mkHandle slot (Tab.get 0 (s.part pid).taskGen slot)
              let prio := if v.getLsbD 117 then (v.extractLsb' 114 3).toNat else n 78 3
              ∃ t : State,
                done = .made (if v.getLsbD 118 then (t.armTask pid slot).1 else t) self ∧
                (∀ e ∈ [(0, 48, image), (48, 16, 0), (64, 32, (v.extractLsb' 128 32).toNat), (96, 21, (v.extractLsb' 160 21).toNat),
                    (117, 10, 0), (127, 1, (v.extractLsb' 120 1).toNat), (128, 32, n 0 32), (160, 10, n 64 10), (170, 4, n 74 4),
                    (174, 3, prio), (177, 3, prio), (180, 1, (v.extractLsb' 119 1).toNat), (181, 11, 0), (192, 32, n 96 32),
                    (224, 16, (v.extractLsb' 96 16).toNat), (240, 4, 0), (244, 4, 1), (248, 136, 0),
                    (384, 32, (gSelf (s.graph pid g)).toNat), (416, 32, self.toNat), (448, 48, (v.extractLsb' 192 48).toNat),
                    (496, 528, 0)], ((t.task pid slot).tcb.extractLsb' e.1 e.2.1).toNat = e.2.2) ∧
                t.task pid slot = { Task.absent with
                  tcb := (t.task pid slot).tcb
                  params := (List.range 4).map fun i =>
                    if v.getLsbD 121 then v.extractLsb' (256 + 64 * i) 64 else l.extractLsb' (256 + 64 * i) 64
                  entryAt := l.extractLsb' 0 48
                  dataOff := n 192 21
                  dataSize := n 160 32
                  codeSize := n 128 32
                  nreq := nreq
                  pgang := gang
                  handles := objs.map fun o => (o.1, o.2.2)
                  objects := objs.map Prod.snd } ∧
                t.graph pid g = setField (u.graph pid g) 160 32 (gNtask (u.graph pid g) + 1)))))) ∧
  (∀ (s : State) (pid : Nat) (parent : Option Nat) (creator : BitVec 32) (fq : Nat), fq < 2 ^ 48 → s.Ok →
    let free (m : Nat) : Prop := 1 ≤ m ∧ m ≤ ((s.part pid).record.extractLsb' 144 16).toNat ∧ gState (s.graph pid m) = 0
    ((∀ m, ¬free m) → s.newGraph pid parent creator fq = none) ∧
    (∀ n, free n → (∀ m < n, ¬free m) → parent ≠ some n → ∃ t : State, s.newGraph pid parent creator fq = some (t, n) ∧
      let self := mkHandle n (Tab.get 0 (s.part pid).graphGen n)
      let up : BitVec 32 × BitVec 32 := match parent with
        | some m => (gSelf (s.graph pid m), gChild (s.graph pid m))
        | none => (0, 0)
      (∀ e ∈ [(0, 32, up.1.toNat), (32, 32, self.toNat), (64, 32, 0), (96, 32, up.2.toNat), (128, 32, creator.toNat),
          (160, 64, 0), (224, 3, 1), (227, 1, 1), (228, 28, 0), (256, 48, fq), (304, 208, 0)],
        ((t.graph pid n).extractLsb' e.1 e.2.1).toNat = e.2.2) ∧
      (∀ m, parent = some m → t.graph pid m = setField (setField (s.graph pid m) 64 32 self.toNat) 192 32
        (gNchild (s.graph pid m) + 1)) ∧
      ∀ m, m ≠ n → parent ≠ some m → t.graph pid m = s.graph pid m)) ∧
  (∀ (s : State) (pid n : Nat), s.Ok → (∀ e ∈ (s.part pid).tasks, e.2.saved = false) →
    let g := s.graph pid n
    let done := gState g = 3
    let v : Word64 := if done then 0 else BitVec.ofNat 64 (gDisc g)
    s.wakeGraph pid n = (s.graphWaiters pid (gSelf g)).foldl (fun s w => (s.modCtx w.1 w.2 fun k =>
      { k with a := v, x := if done then 0 else 5, f := setBit k.f 0 (decide done) }).wake w.1 w.2) s ∧
    ∀ w, w ∈ s.graphWaiters pid (gSelf g) ↔ w.2 < 16 ∧ s.pidOf w.1 = pid ∧ (s.ctx w.1 w.2).live = true ∧
      (s.ctx w.1 w.2).mode = .waitSync (.graph (gSelf g))) ∧
  (∀ (s : State) (q : Req), s.arg = .req q → q.op = .arm ∨ q.op = .depdec → s.awaits q.by_ = true →
    q ∉ s.queueAt q.by_.pid (handleSlot (q.a.setWidth 32)) → q.a.extractLsb' 32 32 = 0 →
    (s.releasedFor q.by_ = false → exec .loadReply s = .next (s.dueIn 4 ⟨.loadReply, .req q⟩)) ∧
    (∀ n, s.releasedFor q.by_ = true → (s.part q.by_.pid).taskSlot (q.a.setWidth 32) = some n →
      let z := if q.op = .arm then s.armTask q.by_.pid n else s.depDec q.by_.pid n
      exec .loadReply s = .next (z.1.reply q.by_.core q.by_.ctx (statusReply z.2 none))))

/-- R322, R323, R326: the engine of a queue fetches the record at HEAD while EN is set and HEAD differs from NOTE,
and a record whose stamp is not that of its lap again after 1,880 cycles, up to eight times; while the injection of
its partition is held it waits; a write of NOTE restarts it from the first try; a command does what its kind says,
with a stale handle as BADCMD; then its result word is written and HEAD advances; a posted record leaves its tile's
queue, waits while the stack of its place is being handed over, is written with its stamp, and NOTE becomes TAIL. The
choices of the model in it are those of logs 2, 48, 55 and 63. -/
def Obligations.HostCommands : Prop :=
  (∀ (s : State) (q tries : Nat), s.arg = .num q tries 0 0 →
    let x := s.queue q
    let head := (x.extractLsb' 160 32).toNat
    let idle := x.getLsbD 63 = false ∨ head = (x.extractLsb' 64 32).toNat
    let lap := head / 2 ^ (x.extractLsb' 48 4).toNat % 256
    let paused := (x.extractLsb' 112 16).toNat ∈ s.board.draining
    (idle → exec .queueRecordFetch s = .next s ∧ exec .stampRetry s = .next s) ∧
    (¬idle → paused → exec .queueRecordFetch s = .next (s.dueIn 64 (.num .stampRetry q 0)) ∧
      exec .stampRetry s = .next (s.dueIn 64 (.num .stampRetry q tries))) ∧
    (∀ r, ¬idle → ¬paused → s.fetchRecord x = some r → r / 2 ^ 8 % 2 ^ 8 = lap →
      let next_ : Host.Outcome State Fault Refusal := .next (s.due [⟨cmdStep r, .cmd q (BitVec.ofNat 512 r)⟩])
      exec .queueRecordFetch s = next_ ∧ exec .stampRetry s = next_) ∧
    (¬idle → ¬paused → (∀ r, s.fetchRecord x = some r → r / 2 ^ 8 % 2 ^ 8 ≠ lap) →
      exec .queueRecordFetch s = .next (s.dueIn 1880 (.num .stampRetry q 1)) ∧
      exec .stampRetry s = .next (if tries = 8 then s else s.dueIn 1880 (.num .stampRetry q (tries + 1))))) ∧
  (∀ r : Nat, r < 2 ^ 512 → let rec_ : BitVec 512 := BitVec.ofNat 512 r
    (rec_.extractLsb' 192 320 ≠ 0 ∨ rec_.extractLsb' 112 16 ≠ 0 ∨ rec_.extractLsb' 33 31 ≠ 0 ∨
      rec_.extractLsb' 16 16 ≠ 0 → cmdStep r = .hostBadcmd) ∧
    (∀ n < 256, r = n → cmdStep r = match n with
      | 1 => .hostLaunch | 2 => .hostGnew | 3 => .hostArm | 4 => .hostDepdec | 5 => .hostGcancel | 6 => .hostLink
      | 7 => .grelease | _ => .hostBadcmd)) ∧
  (∀ (s : State) (q : Nat) (rec_ : BitVec 512), s.arg = .cmd q rec_ →
    let pid := ((s.queue q).extractLsb' 112 16).toNat
    let ends (t : State) (st h : Nat) : Host.Outcome State Fault Refusal := .next (t.cmdDone q rec_ st h)
    let slot := (s.part pid).taskSlot (rec_.extractLsb' 128 32)
    let graph := (s.part pid).graphSlot (rec_.extractLsb' 128 32)
    exec .hostBadcmd s = ends s 8 0 ∧
    (slot = none → ∀ i ∈ [Instr.hostArm, .hostDepdec, .hostLink], exec i s = ends s 8 0) ∧
    (graph = none → ∀ i ∈ [Instr.hostGcancel, .grelease], exec i s = ends s 8 0) ∧
    (∀ n, slot = some n →
      exec .hostArm s = ends (s.armTask pid n).1 (s.armTask pid n).2 0 ∧
      exec .hostDepdec s = ends (s.depDec pid n).1 (s.depDec pid n).2 0 ∧
      ∀ m, (s.part pid).taskSlot (rec_.extractLsb' 160 32) = some m →
        exec .hostLink s = ends (s.linkTasks pid n m).1 (s.linkTasks pid n m).2 0) ∧
    (∀ n, graph = some n →
      exec .hostGcancel s = ends (s.cancelGraph pid n true).1 (s.cancelGraph pid n true).2 0 ∧
      exec .grelease s = if gCreator (s.graph pid n) = 0 ∧ gHold (s.graph pid n) = true
        then ends (s.releaseHold pid n) 0 0 else ends s 8 0) ∧
    (match s.newGraph pid none 0 (rec_.extractLsb' 128 48).toNat with
      | none => exec .hostGnew s = ends s 3 0
      | some (t, n) => exec .hostGnew s = ends t 0 (gSelf (t.graph pid n)).toNat) ∧
    (∀ ks, s.host.assisted = [] → s.vKeys pid (rec_.extractLsb' 128 48).toNat 1 true false 64 = .ok ks →
      let d := bytesToNat (ks.map fun k => s.byte k)
      let past := s.forget 2 ⟨.hostLaunch, .cmd q rec_⟩
      let came (r : Spawned) : Host.Outcome State Fault Refusal := match r with
        | .made t h => ends t 0 h.toNat
        | .status st => ends past st 0
        | .malformed => ends past 8 0
        | .stale => ends past 8 0
        | .xlate _ _ => ends past 6 0
        | .ask bad body => .next (s.askAgain 2 pid body bad ⟨.hostLaunch, .cmd q rec_⟩)
      (d / 2 ^ 64 % 2 ^ 32 ≠ 0 → exec .hostLaunch s = came (past.spawn none pid 0 d [])) ∧
      (d / 2 ^ 64 % 2 ^ 32 = 0 → spawnBad d = true → exec .hostLaunch s = ends past 8 0) ∧
      (d / 2 ^ 64 % 2 ^ 32 = 0 → spawnBad d = false →
        (past.newGraph pid none 0 0 = none → exec .hostLaunch s = ends past 3 0) ∧
        (∀ t g, past.newGraph pid none 0 0 = some (t, g) → exec .hostLaunch s = came (t.spawnIn none pid g d [])))) ∧
    ((∀ ks, s.vKeys pid (rec_.extractLsb' 128 48).toNat 1 true false 64 ≠ .ok ks) →
      exec .hostLaunch s = ends (s.forget 2 ⟨.hostLaunch, .cmd q rec_⟩) 8 0) ∧
    (∀ (t : State) (st h : Nat), st < 256 → h < 2 ^ 32 → rec_.getLsbD 32 = false →
      let goes (t : State) : State := (t.modQueue q fun y => setField y 160 32 (qHead y + 1)).due [.num .queueRecordFetch q]
      let res := (rec_.extractLsb' 64 48).toNat
      (res = 0 → t.cmdDone q rec_ st h = goes t) ∧
      (∀ key, res ≠ 0 → res % 8 = 0 → t.vKey (qPart (t.queue q)) res false true = .ok key →
        t.cmdDone q rec_ st h = goes (t.wrNat key 8 (h + st * 2 ^ 56))))) ∧
  (∀ (s : State) (i : Issuer) (q idx : Nat) (rec_ : BitVec 512) (left : Bool), s.arg = .post i q idx rec_ left →
    let x := s.queue q
    let size := 2 ^ (x.extractLsb' 48 4).toNat
    let a := (x.extractLsb' 0 48).toNat + 64 * (idx % size)
    let gone : State := if left then s else s.modCore i.core fun c => { c with posted := c.posted - 1 }
    (∀ va d, s.vKeys i.pid a 8 false true 8 = .error (va, d) → exec .qpostDelivery s = .next
      (gone.hold i (.op ⟨.qpostDelivery, .post i q idx rec_ true⟩ i.tcb) ⟨3, 0, kXlate.toNat, d.toNat, va, 0, 0⟩)) ∧
    (∀ ks h, s.vKeys i.pid a 8 false true 8 = .ok ks → s.heldBy (dieOf (i.core / 8)) (keyStacks ks) = some h →
      exec .qpostDelivery s = .next (gone.waitFor h ⟨.qpostDelivery, .post i q idx rec_ true⟩)) ∧
    (∀ ks t, s.vKeys i.pid a 8 false true 8 = .ok ks → s.heldBy (dieOf (i.core / 8)) (keyStacks ks) = none →
      gone.vWrite i.pid a 8 (setField rec_ 8 8 (idx / size % 256)).toNat = some t →
      exec .qpostDelivery s = .next ((t.setNote q (qTail (t.queue q))).opEnd i.pid i.tcb))) ∧
  (∀ (s : State) (q v : Nat), s.host.assisted = [] → (∀ d ∈ s.agenda, ofQueue q d = false) →
    let noted := s.modQueue q fun x => setField x 64 32 v
    s.setNote q v = (noted.dropSteps fun d => decide (d.what = .stampRetry) && ofQueue q d).due [.num .queueRecordFetch q])

/-- R299, R301, R304 to R310, R327, 03 R77: the steps of the scheduler. A task whose strands and operations have
ended completes, or drains; a READY task's level falls with 2^20 cycles of waiting; a placement pass of a partition
places the head of the READY tasks on its lowest free tiles, or reclaims lent tiles where it does not fit; a task
that cannot be placed is halted and cancelled; the last step of a stop bath makes a graph without tasks and children
CANCELLED. A tile on which a task starts has context 0 of every core live at the entry point with the parameters, and
its scratchpad holds the data image and zero elsewhere. The choices of the model in it are those of logs 2, 7, 8, 33,
73 and 81. -/
def Obligations.SchedulerSteps : Prop :=
  (∀ (s : State) (pid slot : Nat), s.arg = .num pid slot 0 0 → let t := s.task pid slot
    (t.nofit = false → gState (s.graphOf pid t.graph) ≠ 4 → t.live = 0 →
      (t.state = 5 ∨ t.state = 6 → t.aops = 0 → exec .taskCompletion s = .next (s.completeTask pid slot)) ∧
      (t.state = 5 → t.aops ≠ 0 → exec .taskCompletion s = .next (s.taskTo pid slot 6))) ∧
    (t.state = 3 → let l := if t.prio0 = 0 then 0 else max 1 (t.prio0 - (s.now - t.readyc) / 2 ^ 20)
      let u := s.modTask pid slot fun t => t.set 174 3 l
      exec .priorityAging s = .next (if 1 < l then u.dueIn (2 ^ 20) (.num .priorityAging pid slot) else u)) ∧
    (1 ≤ t.state → t.state ≤ 6 →
      let s1 := if t.nofit then s else (s.modTask pid slot fun t => { t with nofit := true }).fault
        ⟨0, 0, pid, t.self, 0, s.now⟩ ⟨5, 5, 0, 0, 0, 0, 0⟩
      let s2 := (s1.haltTask pid slot).dropMeetings pid t.self
      let s3 := ((s2.part pid).seqs.foldl (fun s e =>
        if seqState e.2 = 0 then s else s.voidHeld pid e.1 fun u => decide (u = slot)) s2).discardOps pid slot
      (s2.traversing pid t.self = true → exec .taskNofitCancel s = .next (s2.dueIn 64 (.num .taskNofitCancel pid slot))) ∧
      (s2.traversing pid t.self = false → exec .taskNofitCancel s = .next (if s3.taskQuiet pid slot
        then (s3.cancelTask pid slot fun _ => true).taskGone pid t.graph
        else s3.dueIn 64 (.num .taskNofitCancel pid slot))))) ∧
  (∀ (s : State) (pid : Nat), s.arg = .num pid 0 0 0 →
    let free := s.freeTilesOf pid
    let needOf (n : Nat) : Nat := (s.task pid n).nTiles
    let lost := ((s.part pid).tasks.filter fun e => decide (s.capacity pid < e.2.nTiles) && !e.2.nofit &&
      (decide (e.2.state = 3) || e.2.saved)).map Prod.fst
    let pass : Due := .num .placementPass pid
    let ends (u : State) : Host.Outcome State Fault Refusal :=
      let v := u.placeEarly pid
      .next (if (v.tilesOf pid).any fun t => decide ((v.tile t).tcb = 0) && !v.tileQuiet t then v.dueIn 16 pass else v)
    (s.frozen pid = true → exec .placementPass s = .next s) ∧
    (s.frozen pid = false → lost ≠ [] →
      exec .placementPass s = .next (s.due (lost.map (fun n => .num .taskNofitCancel pid n) ++ [pass]))) ∧
    (s.frozen pid = false → lost = [] → s.restorable pid ≠ [] →
      exec .placementPass s = .next (s.due ((s.restorable pid).map (fun n => .num .preemptRestore pid n) ++ [pass]))) ∧
    (s.frozen pid = false → lost = [] → s.restorable pid = [] → s.isAssisted 1 = false → s.host.assisted = [] →
      (s.readyTasks pid = [] → exec .placementPass s = ends (((s.tilesOf pid).filter fun t =>
        decide (entryPid (s.tileEntry t) = pid) && (s.tile t).held && decide ((s.tile t).tcb = 0)).foldl (fun s t =>
          (s.modTile t fun x => { x with held := false, wanted := false }).due
            [.num .placementPass (entryBpid (s.tileEntry t))]) s)) ∧
      (∀ h l, s.readyTasks pid = h :: l → needOf h ≤ free.length →
        exec .placementPass s = ends ((s.place pid h (free.take (needOf h)) false).placeHeads pid (l.length + 1))) ∧
      (∀ h l, s.readyTasks pid = h :: l → free.length < needOf h →
        exec .placementPass s = ends ((s.toReclaim pid free.length (needOf h)).foldl (fun s t =>
          (s.modTile t fun x => { x with wanted := true }).due [.num .tileReclaim pid t]) s))) ∧
    (s.frozen pid = false → lost = [] → s.restorable pid = [] → s.isAssisted 1 = true → s.host.assisted = [] →
      s.readyTasks pid ≠ [] → s.earlyTasks pid = [] →
      (∀ t ∈ s.tilesOf pid, (s.tile t).tcb = 0 → s.tileQuiet t = true) →
      ∃ u : State, exec .placementPass s = .next u ∧ u.parts = s.parts ∧ u.tiles = s.tiles ∧
        u.host.assisted = [⟨s.host.tags % 2 ^ 32, 1, pass, none⟩]) ∧
    (let lent := (s.tilesOf pid).filter fun t => decide (entryPid (s.tileEntry t) = pid) &&
        decide (entryBpid (s.tileEntry t) ≠ 0) && !(s.tile t).held && !s.tileRetired t
      ∀ h n, (h + lent.length < n → s.toReclaim pid h n = []) ∧
        (n ≤ h + lent.length → (s.toReclaim pid h n).length = n - h ∧ (∀ t ∈ s.toReclaim pid h n, t ∈ lent) ∧
          ∀ t ∈ s.toReclaim pid h n, (s.tile t).tcb ≠ 0 → ∀ u ∈ lent, (s.tile u).tcb = 0 → u ∈ s.toReclaim pid h n)) ∧
    (∀ t, t ∈ free ↔ ∃ l < 512, l ∉ (s.part pid).reserved ∧ s.physTile pid l = some t ∧ s.usable pid t = true ∧
      s.tileFree t = true) ∧
    free.Pairwise (fun a b => ∃ i j, i < j ∧ s.physTile pid i = some a ∧ s.physTile pid j = some b) ∧
    (Tab.wf Task.absent (s.part pid).tasks = true → (s.readyTasks pid).Pairwise fun a b =>
      let x := s.task pid a
      let y := s.task pid b
      x.state = 3 ∧ y.state = 3 ∧ (s.levelOf x < s.levelOf y ∨ (s.levelOf x = s.levelOf y ∧
        (x.readyc < y.readyc ∨ (x.readyc = y.readyc ∧ a < b))))) ∧
    (∀ c, s.earlyTasks pid = [c] → s.placeEarly pid =
      if needOf c + ((s.readyTasks pid).map needOf).sum ≤ free.length then s.place pid c (free.take (needOf c)) true else s) ∧
    (∀ n, Tab.wf Task.absent (s.part pid).tasks = true → n ∈ s.earlyTasks pid → let c := s.task pid n
      c.state = 2 ∧ c.tcb.getLsbD 180 = true ∧ c.nwait = 0) ∧
    (∀ h ts early, s.place pid h ts early =
      let k := s.task pid h
      let image := s.imageBytes pid (k.dataSize / 4096 + 2) (k.code + k.codeSize) k.dataSize
      (ts.foldl (fun s x => s.startTile pid h x image) (s.modTask pid h fun t =>
        { t.set 288 17 (8 * ts.length) with tiles := ts })).taskTo pid h (if early then 4 else 5)) ∧
    (∀ va n k fuel, 0 < n → va % 4096 + n ≤ 4096 → s.vKey pid va true false = .ok k →
      s.imageBytes pid (fuel + 1) va n = s.rdN k n)) ∧
  (∀ (s : State) (pid slot t : Nat) (image : List Byte), s.Ok → let k := s.task pid slot
    k.handles = [] → k.dataOff + image.length ≤ 2 ^ 21 →
    let u := s.startTile pid slot t image
    (∀ c < 8, (u.ctx (8 * t + c) 0).live = true ∧ (u.ctx (8 * t + c) 0).pc = BitVec.ofNat 48 k.code + k.entryAt ∧
      (u.ctx (8 * t + c) 0).a = k.params.getD 0 0 ∧ (u.ctx (8 * t + c) 0).x = k.params.getD 1 0 ∧
      (u.ctx (8 * t + c) 0).f = 0 ∧ (∀ n, n ≠ 0 → u.ctx (8 * t + c) n = Ctx.idle) ∧
      (∀ n, u.counter (8 * t + c) n = 0) ∧ (u.core (8 * t + c)).wins = [] ∧ (u.core (8 * t + c)).vw = k.weight c) ∧
    (u.tile t).icache = [] ∧ (u.tile t).tcb = k.self ∧ (u.tile t).pid = pid ∧
    ∀ o < 2 ^ 21, u.byte (scratchKey t o) = if k.dataOff ≤ o then image.getD (o - k.dataOff) 0 else 0) ∧
  (∀ (s : State) (pid n : Nat), s.arg = .num pid n 0 0 → ((s.part pid).cancels.any fun c => decide (c.1 = n)) = true →
    let sub := (s.part pid).subtree n
    let tasks := (s.part pid).tasksOf sub
    let active := tasks.filter fun t => decide (4 ≤ (s.task pid t).state) && decide ((s.task pid t).state < 7)
    let s1 := active.foldl (fun s t => (s.haltTask pid t).dropMeetings pid (s.task pid t).self) (s.bathStep pid n 3)
    let again (u : State) : Host.Outcome State Fault Refusal := .next (u.dueIn 64 (.num .stopBathSettle pid n))
    (∀ t ∈ active, s1.traversing pid (s1.task pid t).self = true → exec .stopBathSettle s = again s1) ∧
    ((∀ t ∈ active, s1.traversing pid (s1.task pid t).self = false) →
      let s2 := s1.bathStep pid n 4
      let owned := sub.map fun m => gSelf (s2.graph pid m)
      let s3 := ((s2.part pid).seqs.filter fun e => decide (seqState e.2 ≠ 0) && decide (seqOwner e.2 ∉ owned)).foldl
        (fun s e => s.voidHeld pid e.1 fun t => decide (t ∈ tasks)) s2
      let s4 := sub.foldl (fun s m =>
        if gState (s.graph pid m) = 4 then s.dropOwned pid (gSelf (s.graph pid m)) else s) s3
      let s5 := active.foldl (fun s t => s.discardOps pid t) (s4.bathStep pid n 5)
      let s6 := ((active.filter fun t => s5.taskQuiet pid t).foldl (fun s t => (s.cancelTask pid t fun u =>
        decide (u ∉ tasks)).taskGone pid (s.task pid t).graph) s5).bathStep pid n 6
      let s7 := sub.reverse.foldl (fun s m => s.endCancel pid m) s6
      let busy := ∃ m ∈ sub, gState (s4.graph pid m) = 4 ∧ s4.ownsSeqs pid (gSelf (s4.graph pid m)) = true
      (busy → exec .stopBathSettle s = again s4) ∧
      (¬busy → gState (s7.graph pid n) = 4 → exec .stopBathSettle s = again s7) ∧
      (¬busy → gState (s7.graph pid n) ≠ 4 →
        let s8 := (s7.bathStep pid n 7).dropCancel pid n
        let s9 := match (s8.part pid).graphSlot (gParent (s7.graph pid n)) with
          | some m => s8.checkGraph pid m
          | none => s8
        exec .stopBathSettle s = .next (sub.reverse.foldl (fun s m => if s.graph pid m ≠ 0 then s.tryFree pid m else s) s9)))) ∧
  (∀ (s : State) (pid n : Nat) (g : BitVec 512), s.arg = .num pid n 0 0 → s.Ok → let p := s.part pid
    gState g = 4 → gNtask g = 0 → gNchild g = 0 → gHold g = true → gParent g = 0 →
    p.graphs = [(n, g)] → p.tasks = [] → p.seqs = [] → p.cancels = [(n, false, 7)] →
    ∃ u : State, exec .stopBathSettle s = .next u ∧ gState (u.graph pid n) = 5 ∧ (u.part pid).cancels = []) ∧
  (∀ (s : State) (pid n m : Nat) (g h : BitVec 512), s.arg = .num pid n 0 0 → s.Ok → let p := s.part pid
    gState g = 4 → gNtask g = 0 → gNchild g = 0 → gHold g = true → p.graphSlot (gParent g) = some m → m < n →
    gParent h = 0 → gState h = 2 → gHold h = true → gSelf h = gParent g → gSelf g ≠ gSelf h → gSelf g ≠ 0 →
    p.graphs = [(m, h), (n, g)] → p.tasks = [] → p.seqs = [] → p.cancels = [(n, false, 7)] → 0 < gNchild h →
    ∃ u : State, exec .stopBathSettle s = .next u ∧ gState (u.graph pid n) = 5 ∧ gState (u.graph pid m) = 2 ∧
      gNchild (u.graph pid m) = gNchild h - 1 ∧ (u.part pid).cancels = []) ∧
  (∀ (s : State) (pid n k : Nat) (g : BitVec 512) (t : Task), s.arg = .num pid n 0 0 → s.Ok → let p := s.part pid
    gState g = 4 → gNtask g = 1 → gNchild g = 0 → gHold g = true → gParent g = 0 → gCreator g = 0 →
    t.state = 5 ∨ t.state = 6 → t.graph = gSelf g → p.graphSlot t.graph = some n → t.live = 0 → t.aops = 0 →
    t.saved = false → t.tiles = [] → t.nsucc = 0 → t.novf = 0 → t.self ≠ 0 → t.pgang = 0 →
    p.graphs = [(n, g)] → p.tasks = [(k, t)] → p.seqs = [] → p.held = [] → p.heldWait = [] →
    p.cancels = [(n, false, 7)] → s.agenda = [] → s.later = [] → s.pod.outbox = [] →
    ∃ u : State, exec .stopBathSettle s = .next u ∧ gState (u.graph pid n) = 5 ∧ (u.task pid k).state = 8 ∧
      gNtask (u.graph pid n) = 0 ∧ (u.part pid).cancels = [])

/-! ### Page 5: sequences -/

/-- R334 to R348: the instructions of page 5. Each waits for its reply in WAIT-LOAD; a commit first waits until what
it releases has been performed; a request to a sequence at whose record others wait takes its place after them.
Reserved bits of A and X, a stale handle and an index beyond the capacity raise SEQUENCE with details 0x02, 0x01 and
0x04. SQLEN and SQADDR read the record and the state of a slot; SQCMT and SQVOID make a HELD slot COMMITTED or VOID,
or give its reservation back, and SQVOID with X[63] = 1 closes a pinhole or the lowest vacancy; SQRES sends a token
into the sequence's instance, or finds it closed, and its slot is then marked HELD; SQCLOSE closes, SQDROP removes,
SQFORK and SQNEW create. CLEN passes over exactly the run of final slots above it (R341). The choices of the model in
it are those of logs 2, 8, 42 and 43. -/
def Obligations.SequenceInstructions : Prop :=
  (∀ (s : State) (pre : Prefixes), s.Chosen pre →
    let k := s.strand
    let pid := s.pidOf s.me
    let h : BitVec 32 := k.a.setWidth 32
    let index := (k.x.extractLsb' 0 48).toNat
    let w := s.await ⟨k.next pre, false, none, none, none⟩
    let req (op : ReqOp) : Req := ⟨s.issuer, op, k.a, k.x⟩
    let step_ (op : ReqOp) : Due := ⟨.loadReply, .req (req op)⟩
    let answer (op : ReqOp) (t : State) (st : Nat) (a : Option Word64) : Host.Outcome State Fault Refusal :=
      .next ((t.forget 2 (step_ op)).reply s.me s.myCtx (statusReply st a))
    let trapped (op : ReqOp) (d : BitVec 8) : Host.Outcome State Fault Refusal :=
      .next ((w.forget 2 (step_ op)).reply s.me s.myCtx (Reply.trapped kSequence d 0))
    let commits := [(Instr.sqcmt pre, ReqOp.cmt), (.sqvoidCancel pre, .cancel), (.sqvoidCommit pre, .void)]
    let others := [(Instr.sqres pre, ReqOp.res), (.sqlen pre, .len), (.sqfork pre, .fork), (.sqclose pre, .close),
      (.sqdrop pre, .drop), (.sqaddr pre, .addr)]
    let reserved (i : Instr) : Nat := match i with
      | .sqcmt _ | .sqaddr _ | .sqfork _ => k.x.toNat / 2 ^ 48
      | .sqvoidCancel _ | .sqvoidCommit _ => k.x.toNat / 2 ^ 48 % 2 ^ 15
      | .sqlen _ => k.x.toNat / 4
      | _ => 0
    let clear (i : Instr) : Prop := k.a.extractLsb' 32 32 = 0 ∧ reserved i = 0
    let slot := (w.part pid).seqSlot h
    (w.releasedFor s.issuer = false → ∀ e ∈ commits, exec e.1 s = .next (w.dueIn 4 (step_ e.2))) ∧
    (∀ n, slot = some n → w.queueAt pid n ≠ [] → (∀ e ∈ others,
        exec e.1 s = .next (w.setQueueAt pid n (w.queueAt pid n ++ [req e.2]))) ∧
      (w.releasedFor s.issuer = true → ∀ e ∈ commits,
        exec e.1 s = .next (w.setQueueAt pid n (w.queueAt pid n ++ [req e.2])))) ∧
    (w.releasedFor s.issuer = true → (∀ n, slot = some n → w.queueAt pid n = []) → ∀ e ∈ commits ++ others,
      (¬clear e.1 → exec e.1 s = trapped e.2 0x02) ∧ (clear e.1 → slot = none → exec e.1 s = trapped e.2 0x01)) ∧
    (w.releasedFor s.issuer = true → k.a.extractLsb' 32 32 = 0 → ∀ n, slot = some n → w.queueAt pid n = [] →
      let r := w.seq pid n
      let st := w.slotState pid r index
      let m := handleSlot (seqInst r)
      let x := (w.part pid).inst m
      let j := index - seqBase r
      let y := x.exit (j % x.width)
      let again (t : State) (op : ReqOp) : Host.Outcome State Fault Refusal :=
        .next ((t.setQueueAt pid n [req op]).dueIn 64 ⟨.loadReply, .record pid n⟩)
      (clear (.sqlen pre) → exec (.sqlen pre) s = .next ((w.forget 2 (step_ .len)).reply s.me s.myCtx { statusReply 0 (some (match k.x.toNat with
        | 0 => BitVec.ofNat 64 (seqClen r) | 1 => BitVec.ofNat 64 (seqBase r) | 2 => (seqInst r).setWidth 64
        | _ => BitVec.ofNat 64 (seqCap r))) with x := none })) ∧
      (seqState r = 2 → exec (.sqres pre) s = answer .res w 6 (some (BitVec.allOnes 64))) ∧
      (seqState r ≠ 2 → exec (.sqres pre) s = .next (w.due
        [⟨.balancerTraversal, .tok ⟨s.issuer, seqInst r, .res, (w.logCore s.me / 8) % 2 ^ seqLw r, 0, h.toNat, 0, 0⟩ 0⟩])) ∧
      (seqCap r ≤ index → ∀ e ∈ commits ++ [(.sqaddr pre, .addr)], clear e.1 → exec e.1 s = trapped e.2 0x04) ∧
      (index < seqCap r →
        (clear (.sqaddr pre) → exec (.sqaddr pre) s = answer .addr w (match st with | 2 => 0 | 3 => 2 | 1 => 3 | _ => 4)
          (some (BitVec.ofNat 64 (seqVbase r + index * 2 ^ seqLog2S r)))) ∧
        (st = 2 ∨ st = 3 → ∀ e ∈ commits, clear e.1 → exec e.1 s = answer e.2 w 1 none) ∧
        (clear (.sqcmt pre) → (st = 1 → exec (.sqcmt pre) s = answer .cmt (w.finish pid n index 2) 0 none) ∧
          (st = 0 → exec (.sqcmt pre) s = answer .cmt w 4 none)) ∧
        (clear (.sqvoidCancel pre) →
          (st = 1 → exec (.sqvoidCancel pre) s = if (y.cancel (j / x.width)).status = 6 then answer .cancel w 5 none
            else answer .cancel ((w.modInst pid m fun x => x.setExit (j % x.width) (y.cancel (j / x.width)).exit).setSlot pid r
              index 0 0) 0 none) ∧
          (st = 0 → exec (.sqvoidCancel pre) s = answer .cancel w 4 none)) ∧
        (clear (.sqvoidCommit pre) →
          let hole := seqBase r ≤ index ∧ (j / x.width ∈ y.ph ∨ ((j / x.width : Nat) : Int) = y.cnt ∧ 0 < y.vac)
          let z : Exit := if j / x.width ∈ y.ph then { y with ph := y.ph.erase (j / x.width) }
            else { y with cnt := y.cnt + 1, vac := y.vac - 1 }
          (st = 1 → exec (.sqvoidCommit pre) s = answer .void (w.finish pid n index 3) 0 none) ∧
          (st = 0 → ¬hole → exec (.sqvoidCommit pre) s = answer .void w 4 none) ∧
          (st = 0 → hole → match w.mapSlot pid r index with
            | some t => exec (.sqvoidCommit pre) s =
                answer .void ((t.modInst pid m fun x => x.setExit (j % x.width) z).finish pid n index 3) 0 none
            | none => exec (.sqvoidCommit pre) s = again w .void))) ∧
      (seqState r = 2 → exec (.sqclose pre) s = answer .close w 1 (some (BitVec.ofNat 64 (seqBase r + x.total)))) ∧
      (seqState r ≠ 2 → let t := w.modSeq pid n fun r => setField r 118 2 2
        let q := t.closeHoles pid n
        let r' := t.seq pid n
        (t.reserving pid h = true → exec (.sqclose pre) s = again t .closing) ∧
        (t.reserving pid h = false → q.2 = false → exec (.sqclose pre) s = again q.1 .closing) ∧
        (t.reserving pid h = false → q.2 = true → exec (.sqclose pre) s = answer .close q.1 0 (some
          (BitVec.ofNat 64 (seqBase r' + ((q.1.part pid).inst (handleSlot (seqInst r'))).total))))) ∧
      (w.reserving pid h = true → exec (.sqdrop pre) s = again w .drop) ∧
      (w.reserving pid h = false → exec (.sqdrop pre) s =
        answer .drop (w.dropSeq pid n).1 0 (some (BitVec.ofNat 64 (w.dropSeq pid n).2))) ∧
      (clear (.sqfork pre) →
        let mine := w.graphFor s.issuer
        let accepts := ∃ g, (w.part pid).graphSlot mine = some g ∧ gAccepts ((w.part pid).graph g) = true
        (seqCap r < index → exec (.sqfork pre) s = trapped .fork 0x04) ∧
        (index ≤ seqCap r → ¬accepts → exec (.sqfork pre) s = answer .fork w 9 (some 0)) ∧
        (index ≤ seqCap r → accepts → seqClen r < index → exec (.sqfork pre) s = answer .fork w 8 (some 0)) ∧
        (accepts → index ≤ seqCap r → index ≤ seqClen r →
          match w.newSeq pid mine (seqLog2S r) (seqTier r) (seqLw r) (decide (index % seqPer r ≠ 0))
              (w.answers 2 (step_ .fork)) with
          | .made t h' new _ => exec (.sqfork pre) s = answer .fork (t.fillFork pid n (handleSlot h') index h new) 0
              (some (h'.setWidth 64))
          | .full => exec (.sqfork pre) s = answer .fork w 5 (some 0)
          | .ask bad body => exec (.sqfork pre) s =
              .next ((w.askAgain 2 pid body bad (step_ .fork)).setQueueAt pid n [req .fork]))))) ∧
  (∀ (s : State) (p : BitVec 3) (pm : PostMode) (pre : Prefixes), s.Chosen pre →
    let k := s.strand
    let a := (k.ptr p.toNat).addr
    let pid := s.pidOf s.me
    (a.toNat < 0xF00000000000 → exec (.sqnew p pm pre) s = .next (s.raise (trapOf kAccess 0x01 a))) ∧
    ∀ off, a.toNat = 0xF00000000000 + off → off + 16 ≤ 2 ^ 21 →
      (a.toNat % 8 ≠ 0 → exec (.sqnew p pm pre) s = .next (s.raise (trapOf kAlign 0x01 a))) ∧
      (a.toNat % 8 = 0 → (s.core s.me).vecPending off 16 = false → s.poisonIn (scratchKey s.myTile off) 16 = none →
        let d : BitVec 128 := BitVec.ofNat 128 (s.rdNat (scratchKey s.myTile off) 16)
        let n (lo w : Nat) : Nat := (d.extractLsb' lo w).toNat
        let w := (s.touched off 16).await ⟨k.next pre, false, some (p.toNat, (k.ptr p.toNat).post pm 16), none, none⟩
        let again : Due := ⟨.loadReply, .req ⟨s.issuer, .new d, k.a, k.x⟩⟩
        let answer (t : State) (r : Reply) : Host.Outcome State Fault Refusal := .next ((t.forget 2 again).reply s.me s.myCtx r)
        let malformed := n 64 64 ≠ 0 ∨ n 15 17 ≠ 0 ∨ n 9 3 ≠ 0 ∨ n 5 3 ≠ 0 ∨ n 12 3 = 0 ∨ n 12 3 = 7 ∨ n 0 5 < 6 ∨ 16 < n 0 5
        let owner : BitVec 32 := if n 32 32 = 0 then w.graphFor s.issuer else d.extractLsb' 32 32
        (malformed ∨ (w.part pid).graphSlot owner = none →
          exec (.sqnew p pm pre) s = answer w (Reply.trapped kSequence 0x03 0)) ∧
        (∀ g, ¬malformed → (w.part pid).graphSlot owner = some g →
          (gAccepts ((w.part pid).graph g) = false → exec (.sqnew p pm pre) s = answer w (statusReply 9 (some 0))) ∧
          (gAccepts ((w.part pid).graph g) = true →
            match w.newSeq pid owner (n 0 5) (n 8 1) (n 12 3) false (w.answers 2 again) with
            | .made t h _ _ => exec (.sqnew p pm pre) s = answer t (statusReply 0 (some (h.setWidth 64)))
            | .full => exec (.sqnew p pm pre) s = answer w (statusReply 5 (some 0))
            | .ask bad body => exec (.sqnew p pm pre) s =
                .next (w.askAgain 2 pid body bad again))))) ∧
  (∀ (s : State) (r : TokReq) (v : Word64) (t : State) (y : Served), s.arg = .tok r v → r.kind = .res →
    s.serveExit r r.wire (fun w x => x.token w r.wire) = (t, some y) →
    exec .exitServeToken s = .next (t.arriveAt ⟨r.by_, .mark (y.value.getD (2 ^ 30)), BitVec.ofNat 64 r.arg, 0⟩
      (t.awaits r.by_))) ∧
  (∀ (s : State) (i : Issuer) (h : BitVec 32) (index n : Nat) (alive : Bool),
    let pid := i.pid
    let q : Req := ⟨i, .mark index, h.setWidth 64, 0⟩
    (s.part pid).seqSlot h = some n → s.queueAt pid n = [] →
    let r := s.seq pid n
    let at_ := seqBase r + index
    let m := handleSlot (seqInst r)
    let x := (s.part pid).inst m
    let y := (x.exit (index % x.width)).cancel (index / x.width)
    let answer (t : State) (st : Nat) : State := (t.forget 2 ⟨.loadReply, .req q⟩).reply i.core i.ctx (statusReply st (some (BitVec.ofNat 64 at_)))
    let again : State := (s.setQueueAt pid n [q]).dueIn 64 ⟨.loadReply, .record pid n⟩
    (seqCap r ≤ at_ → s.arriveAt q alive = if alive then answer s 7 else s.forget 2 ⟨.loadReply, .req q⟩) ∧
    (at_ < seqCap r → s.arriveAt q true = match s.mapSlot pid r at_ with
      | some t => answer (t.setSlot pid r at_ 1 (handleSlot i.tcb)) 0
      | none => again) ∧
    (at_ < seqCap r → y.status ≠ 6 → s.arriveAt q false = s.modInst pid m fun x => x.setExit (index % x.width) y.exit) ∧
    (at_ < seqCap r → y.status = 6 → s.arriveAt q false = match s.mapSlot pid r at_ with
      | some t => t.finish pid n at_ 3
      | none => again)) ∧
  (∀ (s : State) (pid i n : Nat) (r : BitVec 512),
    let d := s.dirAt pid r (i / seqPer r)
    (d.testBit 31 = true → s.mapSlot pid r i = some s) ∧
    (d.testBit 31 = false → s.mapSlot pid r i = match s.takeChunk pid (seqTier r) with
      | some (c, t) => some ((t.modPart pid fun p => p.setChunk (seqTier r) c ⟨1, [], []⟩).setDir pid r (i / seqPer r)
          (2 ^ 31 + c % 2 ^ 24))
      | none => none) ∧
    ((s.part pid).poolFree (seqTier r) = 0 → s.takeChunk pid (seqTier r) = none) ∧
    (let r := s.seq pid n
     let x := (s.part pid).inst (handleSlot (seqInst r))
     let holes := (List.range (x.width * x.reach)).filter fun j => let y := x.exit (j % x.width)
       let k := j / x.width
       decide (seqBase r + j < seqCap r) && (decide (k ∈ y.ph) || (decide (y.cnt ≤ (k : Int)) && decide ((k : Int) < y.cnt + y.vac)))
     s.closeHoles pid n = holes.foldl (fun a j => if a.2 then match a.1.voidSlot pid n (seqBase r + j) with
       | some q => (q.1, true)
       | none => (a.1, false) else a) (s, true)) ∧
    (s.Ok → n ≠ 0 → ((s.dropSeq pid n).1.part pid).seqSlot (mkHandle n (Tab.get 0 (s.part pid).seqGen n)) = none)) ∧
  (∀ (s : State) (pid : Nat) (owner : BitVec 32) (log2s tier lw : Nat) (extra : Bool) (answers : List Word64),
    s.Ok → 6 ≤ log2s → log2s ≤ 16 → tier < 2 → lw < 8 → (s.part pid).nseq < 2 ^ 20 →
    match s.newSeq pid owner log2s tier lw extra answers with
    | .made t h _ _ => ∃ n, 1 ≤ n ∧ n ≤ (s.part pid).nseq ∧ seqState (s.seq pid n) = 0 ∧
        (∀ m, 1 ≤ m → m < n → seqState (s.seq pid m) ≠ 0) ∧ h = mkHandle n (Tab.get 0 (s.part pid).seqGen n) ∧
        let r := t.seq pid n
        seqState r = 1 ∧ seqClen r = 0 ∧ seqBase r = 0 ∧ seqOwner r = owner ∧ seqCap r = 2 ^ (30 - log2s) ∧
        seqLog2S r = log2s ∧ seqTier r = tier ∧ seqLw r = lw
    | _ => True) ∧
  (∀ (s : State) (pid : Nat) (r : BitVec 512) (fuel l : Nat), let m := s.runLen pid r fuel l
    l ≤ m ∧ m ≤ l + fuel ∧ (∀ i, l ≤ i → i < m → slFinal (s.slotState pid r i) = true) ∧
    (m < l + fuel → slFinal (s.slotState pid r m) = false))

/-! ### Page 6: traps, contexts, translation, partitions -/

/-- R362, R364, R365: CSAVE and CLOAD by context 0 on a context t other than 0. Their pointer is a local one of 128
bytes, or they raise ACCESS 0x01, and aligned to 8, or ALIGN 0x01; then their checks raise SYSTEM with details 0x02,
0x03, 0x04, and CLOAD's HELPER 0x01 and SYSTEM 0x05, in this order. CSAVE writes the 128 bytes of t's context entry,
and with STOP ends t; CLOAD makes t live with the registers of the entry, READY or in the wait that the entry names.
The choices of the model in it are those of log 46. -/
def Obligations.ContextEntries : Prop :=
  ∀ (s : State) (p : BitVec 3) (pm : PostMode) (pre : Prefixes) (off : Nat), s.Chosen pre →
    let k := s.strand
    let a := (k.ptr p.toNat).addr
    let t := (k.x.extractLsb' 0 4).toNat
    let c := s.ctx s.me t
    let save := exec (.csave p pm pre) s
    let load := exec (.cload p pm pre) s
    let trapped (d : BitVec 8) : Host.Outcome State Fault Refusal := .next (s.raise (trapOf kSystem d 0))
    let plain := t ≠ 0 ∧ k.x.extractLsb' 5 59 = 0
    (∀ t, firstTrap (pointerTraps a 128 8) = some t → save = .next (s.raise t) ∧ load = .next (s.raise t)) ∧
    (a.toNat = 0xF00000000000 + off → off + 128 ≤ 2 ^ 21 → a.toNat % 8 = 0 →
    (s.core s.me).vecPending off 128 = false →
    (s.myCtx ≠ 0 → save = trapped 0x02 ∧ load = trapped 0x02) ∧
    (s.myCtx = 0 → ¬plain → save = trapped 0x03 ∧ load = trapped 0x03) ∧
    (s.myCtx = 0 → k.x.getLsbD 4 = true → load = trapped 0x03) ∧
    (s.myCtx = 0 → plain → c.live = false → save = trapped 0x04) ∧
    (s.myCtx = 0 → plain → k.x.getLsbD 4 = false → c.live = true → load = trapped 0x04) ∧
    (s.myCtx = 0 → plain → c.live = true →
      (c.mode = .waitLoad → save = .next s) ∧
      (c.mode ≠ .waitLoad → ∃ e : BitVec 1024,
        let saved := ((s.wrNat (scratchKey s.myTile off) 128 e.toNat).served (wordsOf' off 128)).complete
          (k.applyPost p pm 128) (k.next pre)
        save = .next (if k.x.getLsbD 4 then (saved.dropHeld s.me t).endStrand s.me t else saved) ∧
        e.extractLsb' 0 64 = c.a ∧ e.extractLsb' 64 64 = c.x ∧
        (∀ n < 8, e.extractLsb' (128 + 64 * n) 64 = (c.ptr n).stride ++ (c.ptr n).addr) ∧
        e.extractLsb' 640 48 = c.pc ∧ e.extractLsb' 688 16 = 0 ∧ e.extractLsb' 704 16 = c.f ∧ e.extractLsb' 720 16 = 0 ∧
        e.extractLsb' 736 48 = c.loop.lend ∧ e.extractLsb' 784 48 = c.loop.lstart ∧ e.extractLsb' 832 32 = c.loop.lcount ∧
        e.getLsbD 864 = c.loop.lact ∧ e.getLsbD 865 = true ∧ e.getLsbD 866 = c.inh ∧ e.extractLsb' 874 6 = 0 ∧
        e.extractLsb' 944 80 = 0 ∧
        ((e.extractLsb' 867 3).toNat, e.extractLsb' 870 4, e.extractLsb' 880 32, e.extractLsb' 912 32) = match c.mode with
          | .waitSync (.counter n v) => (1, BitVec.ofNat 4 n, v, 0)
          | .waitSync (.helper h) => (2, BitVec.ofNat 4 h, 0, 0)
          | .waitSync .leaveEarly => (3, 0, 0, 0)
          | .waitSync (.graph h) => (3, 0, h, 0)
          | .suspended tag => (4, 0, 0, tag)
          | .waitSync (.barrier sc n) => (5, BitVec.ofNat 4 (scopeNum sc), BitVec.ofNat 32 n, 0)
          | _ => (0, 0, 0, 0))) ∧
    (s.myCtx = 0 → plain → k.x.getLsbD 4 = false → c.live = false → s.poisonIn (scratchKey s.myTile off) 128 = none →
      let e : BitVec 1024 := BitVec.ofNat 1024 (s.rdNat (scratchKey s.myTile off) 128)
      let cst := (e.extractLsb' 867 3).toNat
      let bad := e.extractLsb' 944 80 ≠ 0 ∨ e.extractLsb' 874 6 ≠ 0 ∨ e.extractLsb' 720 16 ≠ 0 ∨ e.extractLsb' 688 16 ≠ 0 ∨
        e.getLsbD 865 = false ∨ 4 ≤ cst ∨ e.getLsbD 640 = true ∨ (e.getLsbD 864 = false ∧ e.extractLsb' 736 128 ≠ 0)
      ∀ slot task, s.taskOf s.me = some (slot, task) →
      (task.helpers < t → load = .next (s.raise (trapOf kHelper 0x01 0))) ∧
      (t ≤ task.helpers → bad → load = trapped 0x05) ∧
      (t ≤ task.helpers → ¬bad → ∃ n : Ctx,
        load = .next (((((s.served (wordsOf' off 128)).complete (k.applyPost p pm 128) (k.next pre)).setCtx s.me t n).liveUp
          s.me).settleWait s.me t) ∧
        n.live = true ∧ n.a = e.extractLsb' 0 64 ∧ n.x = e.extractLsb' 64 64 ∧ n.pc = e.extractLsb' 640 48 ∧
        (∀ i < 8, n.ptr i = ⟨e.extractLsb' (176 + 64 * i) 16, e.extractLsb' (128 + 64 * i) 48⟩) ∧
        n.f = e.extractLsb' 704 16 &&& 0x0DFF ∧ n.inh = e.getLsbD 866 ∧ n.await = none ∧ n.reply = none ∧
        n.loop = ⟨e.getLsbD 864, e.extractLsb' 832 32, e.extractLsb' 784 48, e.extractLsb' 736 48⟩ ∧
        n.mode = match cst with
          | 1 => .waitSync (.counter (e.extractLsb' 870 4).toNat (e.extractLsb' 880 32))
          | 2 => .waitSync (.helper (e.extractLsb' 870 4).toNat)
          | 3 => if e.extractLsb' 880 32 = 0 then .waitSync .leaveEarly else .waitSync (.graph (e.extractLsb' 880 32))
          | _ => .ready)))

/-- R366, R368, R369: TLBINV, once its release is made, removes the entries of the job that its mode names from every
TLB, and returns 0 when no access of the job that the removed pages translated before remains to be performed, a
put's later part, an operation held and the words of a copy on their way to another package among them; FLTRD checks
its local pointer, and takes or reads the record at HEAD, or returns EMPTY, also for a queue whose header is
malformed (log 74), and RESUME replays the strand or the operation that a tag holds, or returns STALE. Their bad
operands raise SYSTEM with details 0x06, 0x07. The choices of the model in it are those of logs 2, 47, 74 and 81. -/
def Obligations.TranslationInstructions : Prop :=
  (∀ (s : State) (pre : Prefixes), s.Chosen pre →
    let k := s.strand
    let pid := s.pidOf s.me
    let w := s.await ⟨k.next pre, false, none, none, none⟩
    let gone (i : Instr) (op : ReqOp) (p : TlbEntry → Bool) : Prop :=
      let gone := fun e => decide (e.pid = pid) && p e
      let u := w.dropTlb gone
      let pages := w.pagesOf gone
      let busy := ∃ x ∈ u.accesses, x.by_.pid = pid ∧ x.cycle ≤ w.now ∧
        ∃ q ∈ pages, x.addr.toNat < q.1 + q.2 ∧ q.1 < x.addr.toNat + x.size
      (w.releasedFor s.issuer = false → exec i s = .next (w.dueIn 4 ⟨.loadReply, .req ⟨s.issuer, op, k.a, k.x⟩⟩)) ∧
      (w.releasedFor s.issuer = true → busy →
        exec i s = .next (u.dueIn 16 ⟨.loadReply, .req ⟨s.issuer, .performed w.now pages, k.a, k.x⟩⟩)) ∧
      (w.releasedFor s.issuer = true → ¬busy → exec i s = .next (u.reply s.me s.myCtx (statusReply 0 none)))
    (0xF00000000000 ≤ k.a.toNat → exec (.tlbinvPage pre) s = .next (s.raise (trapOf kSystem 0x06 0))) ∧
    (k.x.extractLsb' 3 61 ≠ 0 → exec (.tlbinvStack pre) s = .next (s.raise (trapOf kSystem 0x06 0))) ∧
    gone (.tlbinvJob pre) .tlbJob (fun _ => true) ∧
    (k.a.toNat < 0xF00000000000 → gone (.tlbinvPage pre) .tlbPage fun e =>
      decide (e.vbase ≤ k.a.toNat) && decide (k.a.toNat < e.vbase + e.size)) ∧
    (k.x.extractLsb' 3 61 = 0 → gone (.tlbinvStack pre) .tlbStack fun e => e.mask.getLsbD (k.x.extractLsb' 0 3).toNat)) ∧
  (∀ (s : State) (q : Req) (cycle : Nat) (pages : List (Nat × Nat)), s.arg = .req q → q.op = .performed cycle pages →
    s.awaits q.by_ = true → q ∉ s.queueAt q.by_.pid (handleSlot (q.a.setWidth 32)) →
    let busy := ∃ x ∈ s.accesses, x.by_.pid = q.by_.pid ∧ x.cycle ≤ cycle ∧
      ∃ y ∈ pages, x.addr.toNat < y.1 + y.2 ∧ y.1 < x.addr.toNat + x.size
    (busy → exec .loadReply s = .next (s.dueIn 16 ⟨.loadReply, .req q⟩)) ∧
    (¬busy → exec .loadReply s = .next (s.reply q.by_.core q.by_.ctx (statusReply 0 none)))) ∧
  (∀ (s : State) (p : TlbEntry → Bool) (y : Nat × Nat),
    y ∈ s.pagesOf p ↔ ∃ t ∈ s.tiles, ∃ e ∈ t.2.tlb, p e = true ∧ y = (e.vbase, e.size)) ∧
  (∀ (s : State) (m : PutMsg), ⟨.putDelivery, .put m⟩ ∈ s.agenda →
    (∃ x ∈ s.accesses, x.by_ = m.by_ ∧ x.cycle = m.by_.cycle ∧ x.addr = m.addr ∧ x.size = m.data.length ∧ x.dest = m.dest) ∧
    ∀ r, m.rest = some r → ∃ x ∈ s.accesses, x.by_ = m.by_ ∧ x.addr = r.addr ∧ x.size = r.data.length ∧ x.dest = r.dest) ∧
  (∀ (s : State) (e : Sent), e ∈ s.pod.outbox → e.own = true →
    (∀ p j t m, e.msg = .put p j t m → ∃ x ∈ s.accesses, x.by_ = m.by_ ∧ x.addr = m.addr ∧ x.size = m.data.length) ∧
    (∀ p j t m, e.msg = .atom p j t m → ∃ x ∈ s.accesses, x.by_ = m.by_ ∧ x.addr = m.addr ∧ x.size = sizeOf' m.ty) ∧
    (∀ p j t m a data bad, e.msg = .copyWords p j t m a data bad → ∃ x ∈ s.accesses, x.by_ = m.by_ ∧ x.cycle = e.since ∧
      x.addr = (m.desc.extractLsb' 64 48 : Addr) + BitVec.ofNat 48 m.done ∧ x.size = data.length)) ∧
  (∀ (s : State) (q : TlbEntry → Bool) (t : Nat), Tab.wf Tile.idle s.tiles = true →
    (s.dropTlb q).tile t = { s.tile t with tlb := (s.tile t).tlb.filter fun e => !q e }) ∧
  (∀ (s : State) (p : BitVec 3) (pm : PostMode) (pre : Prefixes) (off : Nat), s.Chosen pre →
    let k := s.strand
    let a := (k.ptr p.toNat).addr
    let q := k.a.toNat
    let pid := s.pidOf s.me
    let ends (t : State) (r : Reply) : Host.Outcome State Fault Refusal :=
      .next ((t.await ⟨k.next pre, false, some (p.toNat, (k.ptr p.toNat).post pm 128), none, none⟩).reply s.me s.myCtx r)
    let ok := statusReply 0 (some 0)
    let bad : Host.Outcome State Fault Refusal := .next (s.raise (trapOf kSystem 0x07 0))
    let take := exec (.fltrdTake p pm pre) s
    let peek := exec (.fltrdPeek p pm pre) s
    let resume := exec (.fltrdResume p pm pre) s
    (∀ t, firstTrap (pointerTraps a 128 8) = some t → take = .next (s.raise t) ∧ peek = .next (s.raise t) ∧
      resume = .next (s.raise t)) ∧
    (a.toNat = 0xF00000000000 + off → off + 128 ≤ 2 ^ 21 → a.toNat % 8 = 0 →
    (k.x.extractLsb' 0 2 = 3 → take = bad) ∧
    (0xF00000000000 ≤ q ∨ q % 8 ≠ 0 → take = bad ∧ peek = bad) ∧
    (q < 0xF00000000000 → q % 8 = 0 → k.x.extractLsb' 0 2 ≠ 3 → (s.core s.me).vecPending off 128 = false →
      let keys (va : Nat) (wr : Bool) (n : Nat) := s.tKeys s.myTile pid va 8 true wr n
      (∀ va d, keys q true 8 = .error (va, d) → take = .next (s.raise (trapOf kXlate d (BitVec.ofNat 48 va)))) ∧
      (∀ va d, keys q false 8 = .error (va, d) → peek = .next (s.raise (trapOf kXlate d (BitVec.ofNat 48 va)))) ∧
      ∀ hk, keys q true 8 = .ok hk → keys q false 8 = .ok hk →
      let h : BitVec 512 := BitVec.ofNat 512 (bytesToNat (hk.flatMap fun a => s.rdN a 8))
      let head := h.extractLsb' 0 32
      let log2n := (h.extractLsb' 192 4).toNat
      let none_ := h.extractLsb' 256 256 ≠ 0 ∨ h.extractLsb' 196 28 ≠ 0 ∨ h.extractLsb' 64 64 ≠ 0 ∨ log2n < 2 ∨ 12 < log2n ∨
        head = h.extractLsb' 32 32
      let seen (wr : Bool) : State := s.fillAll s.myTile pid [q, q + 56] true wr
      let place := q + 64 + 128 * (head.toNat % 2 ^ log2n)
      (none_ → take = ends (seen true) { statusReply 1 none with post := false } ∧
        peek = ends (seen false) { statusReply 1 none with post := false }) ∧
      (∀ rk t, ¬none_ → keys place false 16 = .ok rk →
        let copied (wr : Bool) : State := ((seen wr).fillAll s.myTile pid [place, place + 120] true false).wrNat
          (scratchKey s.myTile off) 128 (bytesToNat (rk.flatMap fun a => s.rdN a 8))
        (copied true).vWrite pid q 8 (h.extractLsb' 32 480 ++ (head + 1)).toNat = some t →
        take = ends t ok ∧ peek = ends (copied false) ok)) ∧
    (k.a.extractLsb' 32 32 ≠ 0 → resume = bad) ∧
    (k.a.extractLsb' 32 32 = 0 →
      (∀ t, s.resume pid (k.a.setWidth 32) = some t → resume = ends t ok) ∧
      (s.resume pid (k.a.setWidth 32) = none → resume = ends s { statusReply 2 none with post := false })))) ∧
  (∀ (s : State) (pid : Nat) (tag : BitVec 32),
    ((s.part pid).heldAt tag = none → s.resume pid tag = none) ∧
    (∀ n h, (s.part pid).heldAt tag = some (n, h) →
      let dying := ∃ m, (s.part pid).taskSlot h.tcb = some m ∧ s.taskDead pid m = true
      (dying → s.resume pid tag = none) ∧
      (¬dying → ∀ d t, h = .op d t → s.resume pid tag = some ((s.unhold pid n).due [d])) ∧
      (¬dying → ∀ g c t, h = .strand g c t → ((s.unhold pid n).part pid).isSaved t = false →
        s.resume pid tag = some ((s.unhold pid n).wake g c))))

/-- R380, R383, R384, R395, R397, R430: the instructions of page 6 that need the system right: without it they raise
SYSTEM with detail 0x08. STKPASS begins a hand-over of its stack, or is BUSY or RETIRED; RGNRD reads a region entry
and the owners; RGNWR refuses a malformed entry or one that meets another with SYSTEM 0x09, is BUSY while a hand-over
of its stacks is under way, and else writes the entry once its release is made and waits for the accesses to this
package's memory that were translated before; PLCMT prepares, commits or discards a layout, which in host-assisted
mode the host decides, and is BUSY while the management processor is down (R430). The choices of the model in it are
those of logs 2, 38, 39, 45, 47, 76 and 78. -/
def Obligations.PlacementInstructions : Prop :=
  (∀ (s : State) (c : BitVec 4) (k : BitVec 3) (e : BitVec 6) (pre : Prefixes), s.Chosen pre →
    let pid := s.pidOf s.me
    let p := s.part pid
    let trapped (d : BitVec 8) : Host.Outcome State Fault Refusal := .next (s.raise (trapOf kSystem d 0))
    let w := s.await ⟨s.strand.next pre, false, none, none, none⟩
    let ends (t : State) (st : Nat) (a : Option Word64) : State := t.reply s.me s.myCtx (statusReply st a)
    let a := s.strand.a
    let x := s.strand.x
    let step_ (op : ReqOp) : Due := ⟨.loadReply, .req ⟨s.issuer, op, a, x⟩⟩
    let passing (j : Nat) : Prop := ∃ h ∈ s.board.handovers, h.stack = j
    (p.record.getLsbD 18 = false → ∀ i ∈ [Instr.stkpass c k pre, .rgnrd e pre, .rgnwr e pre, .plcmtPrep pre,
      .plcmtCommit pre, .plcmtAbort pre], exec i s = trapped 0x08) ∧
    (p.record.getLsbD 18 = true →
      (let other := if s.ownerOf k.toNat = k.toNat / 2 then (k.toNat / 2 + 1) % 4 else k.toNat / 2
       let out := (∀ j < 4, s.isRetired (unitCluster (4 * other + j)) = true) ∨ s.isRetired (unitLink (k.toNat / 2)) = true ∨
         s.isRetired (unitStack k.toNat) = true
       let rewriting := ∃ d ∈ s.steps, ∃ q : Req, d.arg = .req q ∧
         ((∃ r, q.op = .rgnwr r ∧ (q.a.getLsbD k.toNat = true ∨ (Tab.get 0 s.board.regions r).getLsbD k.toNat = true)) ∨
          ∃ r, q.op = .written r ∧ (q.a.getLsbD k.toNat = true ∨ q.x.getLsbD k.toNat = true))
       let busy := passing k.toNat ∨ rewriting ∨ s.mgmt.down = true
       (busy → exec (.stkpass c k pre) s = .next (ends w 1 none)) ∧
       (¬busy → out → exec (.stkpass c k pre) s = .next (ends w 5 none)) ∧
       (¬busy → ¬out →
        let h : HandOver := ⟨k.toNat, !Tab.get false s.board.owners k.toNat, 1, s.issuer, c.toNat, s.now,
          s.host.mpmode.getLsbD 3, false, []⟩
        exec (.stkpass c k pre) s = .next ((((ends w 0 none).modBoard fun b => { b with
          handovers := b.handovers ++ [h] }).opBegin pid (s.tcbOf s.me)).due [.num .handoverStep k.toNat]))) ∧
      (∃ own : Word64, (∀ j < 8, own.extractLsb' (2 * j) 2 = BitVec.ofNat 2 (s.ownerOf j)) ∧ own.extractLsb' 16 48 = 0 ∧
        exec (.rgnrd e pre) s = .next (w.reply s.me s.myCtx
          { Reply.plain with a := some (Tab.get 0 s.board.regions e.toNat), x := some own })) ∧
      (let old := Tab.get 0 s.board.regions e.toNat
       let meets := ∃ r ∈ s.board.regions, r.1 ≠ e.toNat ∧ regionsMeet a r.2 = true
       let busy := ∃ j < 8, passing j ∧ (a.getLsbD j = true ∨ old.getLsbD j = true)
       let v := w.writeRegion e.toNat a
       let left := ∃ i ∈ v.accesses, i.cycle ≤ w.now ∧ ∃ ks, i.dest = .mem ks
       (regionOk a = false ∨ meets → exec (.rgnwr e pre) s = trapped 0x09) ∧
       (regionOk a = true → ¬meets → busy → exec (.rgnwr e pre) s = .next (ends w 1 none)) ∧
       (regionOk a = true → ¬meets → ¬busy → w.releasedFor s.issuer = false →
        exec (.rgnwr e pre) s = .next (w.dueIn 4 (step_ (.rgnwr e.toNat)))) ∧
       (regionOk a = true → ¬meets → ¬busy → w.releasedFor s.issuer = true →
        (left → exec (.rgnwr e pre) s = .next (v.dueIn 16 ⟨.loadReply, .req ⟨s.issuer, .written w.now, a, old⟩⟩)) ∧
        (¬left → exec (.rgnwr e pre) s = .next (ends v 0 none)))) ∧
      (let fine := a.toNat < 0xF00000000000 ∧ a.toNat % 64 = 0
       let busy := s.board.prepared ≠ none ∨ s.board.switching ≠ 0 ∨ s.mgmt.down = true
       let keys := s.vKeys pid a.toNat 8 true false (imageSize (s.readImage pid a.toNat) / 8)
       let v := w.forget 4 (step_ (.layout 0))
       let r := v.prepare (v.readImage pid a.toNat) a.toNat
       (¬fine → exec (.plcmtPrep pre) s = trapped 0x0A) ∧
       (fine → busy → exec (.plcmtPrep pre) s = .next (ends w 1 none)) ∧
       (∀ va d, fine → ¬busy → keys = .error (va, d) →
        exec (.plcmtPrep pre) s = .next (s.raise (trapOf kXlate d (BitVec.ofNat 48 va)))) ∧
       (∀ ks, fine → ¬busy → keys = .ok ks →
        (s.host.mpmode.getLsbD 4 = false →
          exec (.plcmtPrep pre) s = .next (ends r.1 r.2.1 (r.2.2.map fun v => BitVec.ofNat 64 v))) ∧
        (s.host.mpmode.getLsbD 4 = true → w.answers 4 (step_ (.layout 0)) = [] → exec (.plcmtPrep pre) s =
          .next (w.ask 4 pid (a.toNat * 2 ^ 16) (step_ (.layout 0)))))) ∧
      (let bad := s.targetBad pid s.pod.pkgn.toNat x
       let barred := s.targetBarred s.myTile pid s.pod.pkgn.toNat x
       (bad = true → exec (.plcmtCommit pre) s = trapped 0x0A) ∧
       (bad = false → barred = true → exec (.plcmtCommit pre) s = .next (s.raise (trapOf kAccess 0x08 0))) ∧
       (s.mgmt.down = true → exec (.plcmtAbort pre) s = .next (ends w 1 none) ∧
        (bad = false → barred = false → exec (.plcmtCommit pre) s = .next (ends w 1 none))) ∧
       (s.mgmt.down = false → s.board.prepared = none → exec (.plcmtAbort pre) s = .next (ends w 3 none) ∧
        (bad = false → barred = false → exec (.plcmtCommit pre) s = .next (ends w 3 none))) ∧
       (∀ l, s.mgmt.down = false → s.board.prepared = some l → s.host.mpmode.getLsbD 4 = false →
        let v (op : Nat) := w.forget 4 (step_ (.layout op))
        let dropped (op kind : Nat) : State := ((v op).modBoard fun b => { b with prepared := none }).journalLayout kind l
        exec (.plcmtAbort pre) s = .next (ends (dropped 2 0x05) 0 none) ∧
        (bad = false → barred = false → exec (.plcmtCommit pre) s = .next (
          if s.board.switching ≠ 0 then ends (v 1) 1 none
          else ends ((dropped 1 0x02).startSwitch l x pid) 0 none))) ∧
       (∀ l, s.mgmt.down = false → s.board.prepared = some l → s.host.mpmode.getLsbD 4 = true →
        (w.answers 4 (step_ (.layout 2)) = [] → exec (.plcmtAbort pre) s = .next (w.ask 4 pid 2 (step_ (.layout 2)))) ∧
        (bad = false → barred = false → w.answers 4 (step_ (.layout 1)) = [] →
          exec (.plcmtCommit pre) s = .next (w.ask 4 pid 1 (step_ (.layout 1)))))))) ∧
  (∀ (s : State) (q : Req) (what : Nat) (v : Word64) (l : List Word64), s.arg = .req q → q.op = .layout what →
    s.awaits q.by_ = true → q ∉ s.queueAt q.by_.pid (handleSlot (q.a.setWidth 32)) → what < 3 →
    s.host.mpmode.getLsbD 4 = true → s.answers 4 ⟨.loadReply, .req q⟩ = v :: l →
    (what = 0 → s.board.prepared = none ∧ s.board.switching = 0 ∧ s.mgmt.down = false) →
    (what ≠ 0 → s.board.prepared ≠ none ∧ s.mgmt.down = false) →
    let st := v.toNat % 256
    let t := s.forget 4 ⟨.loadReply, .req q⟩
    let body := what + (if what = 0 then q.a.toNat % 2 ^ 48 * 2 ^ 16 else 0)
    let answer (r : State × Nat × Option Nat) : State := r.1.reply q.by_.core q.by_.ctx
      (statusReply r.2.1 (r.2.2.map fun v => BitVec.ofNat 64 v))
    (5 < st → exec .loadReply s = .next (s.askAgain 4 q.by_.pid body 1 ⟨.loadReply, .req q⟩)) ∧
    (st ≠ 0 → st ≤ 5 → exec .loadReply s = .next (answer (t, st,
      if what = 0 ∧ st = 2 then some (v.toNat / 2 ^ 32) else if what = 0 ∧ st = 4 then some 0 else none))) ∧
    (st = 0 → exec .loadReply s = .next (answer (match what with
      | 0 => t.prepare (t.readImage q.by_.pid q.a.toNat) q.a.toNat
      | 1 => let r := t.commit q.x q.by_.pid
        (r.1, r.2, none)
      | _ => let r := t.abort
        (r.1, r.2, none))))) ∧
  (∀ (s : State) (get : Nat → Nat → Nat) (addr : Nat),
    (s.board.prepared = none → s.board.switching = 0 → s.mgmt.down = false →
      s.prepare get addr = match s.checkImage get addr with
        | .bad o => (s, 2, some o)
        | .nofit => (s, 4, some 0)
        | .ok l => ((s.modBoard fun b => { b with prepared := some l }).journalLayout 0x01 l, 0, some 0)) ∧
    (s.parts = [] → let h := get 0 64
      (bitsAt 16 16 h ≠ 0 → s.checkImage get addr = .bad 2) ∧
      (bitsAt 16 16 h = 0 → bitsAt 32 32 h ≤ s.board.layout.version.toNat → s.checkImage get addr = .bad 4) ∧
      (∀ l, s.checkImage get addr = .ok l → l.image = BitVec.ofNat 48 addr ∧ l.version.toNat = bitsAt 32 32 h ∧
        l.records.length = bitsAt 0 16 h ∧ bitsAt 16 16 h = 0 ∧ s.board.layout.version.toNat < bitsAt 32 32 h)))

/-- R350, R353 to R356, R370, R372, R377, R378, R385, R386, R389, R391, R393, R398, R401: the device steps behind
page 6. A walk stops at the first leaf, checking each entry, and its page enters the TLB of the tile, or its fault
suspends the strand; with 64 walkers of its die at work and 1,024 requests in their queue a miss is held and offered
again; a task is saved at its superstep boundary, with the cores of its tiles idle, and is restored on the tiles of
its logical numbers, or cancelled alone where its save record is malformed; a lent tile that its owner wants goes
back; a layout switch saves the moved tasks, flips the selector and the layout when no traffic of them is left, with
the places that the host has chosen in host-assisted mode, and ends; before the flip the inactive bank of routing
entries goes around the retired links; a chunk pool gets its place when there is room, from the host in host-assisted
mode; a hand-over does its next step, the owner bit changing in step 6; a function-level reset empties the partition
and its memories; the arbiter of a die serves the trace records of a partition within its share first, by class and
then round robin, and spends its credit; a trace record enters the ring of its partition. The choices of the model in
it are those of logs 2, 9, 19, 32, 35, 48, 49, 51, 58, 63, 74, 78 and 83. -/
def Obligations.SystemSteps : Prop :=
  (∀ (s : State) (g c : Nat) (va : Addr) (rd wr : Bool), s.arg = .fetch g c va rd wr →
    let t := g / 8
    let pid := s.pidOf g
    let k := s.ctx g c
    let found := (s.tile t).lookup pid va.toNat
    let fault (d : BitVec 8) : Prop := k.mode = .waitLoad → exec .pageWalk s = .next ((s.wake g c).takeTrap g c
      { trapOf kXlate d (if s.fetching g c va then k.pc else va) with pc := k.pc })
    (∀ e, found = none → s.walk pid va.toNat rd wr = .ok e → exec .pageWalk s = .next ((s.modTile t fun x =>
      x.install { e with direct := s.direct (dieOf t) e.mask }).retry g c)) ∧
    (∀ d, found = none → s.walk pid va.toNat rd wr = .error d → fault d) ∧
    (∀ e, found = some e → (wr = true → e.wr = true) → (rd = true → e.rd = true) →
      exec .pageWalk s = .next (s.retry g c)) ∧
    (∀ e, found = some e → wr = true → e.wr = false → fault 0x02) ∧
    (∀ e, found = some e → (wr = true → e.wr = true) → rd = true → e.rd = false → fault 0x03)) ∧
  (∀ (s : State) (g c : Nat) (va : Addr) (rd wr : Bool),
    (s.walking (dieOf (g / 8)) < 1088 → s.sendWalk g c va rd wr = s.due [⟨.pageWalk, .fetch g c va rd wr⟩]) ∧
    (1088 ≤ s.walking (dieOf (g / 8)) →
      s.sendWalk g c va rd wr = s.dueIn 16 (.num .pageWalk g c va.toNat (rd.toNat + 2 * wr.toNat))) ∧
    (s.arg = .num g c va.toNat (rd.toNat + 2 * wr.toNat) → exec .pageWalk s = .next (s.sendWalk g c va rd wr))) ∧
  (∀ (x : Tile) (e : TlbEntry), (e ∈ x.tlb → x.install e = x) ∧
    (e ∉ x.tlb → (x.install e).tlb = if x.tlb.length < 256 then x.tlb ++ [e] else x.tlb.drop 1 ++ [e])) ∧
  (∀ (s : State) (pid va : Nat) (rd wr : Bool) (fuel lvl a key : Nat),
    s.physKey (a + 8 * levelIndex va lvl) = some key →
    let e : Word64 := BitVec.ofNat 64 (s.rdNat key 8)
    let walked := s.walkFrom pid va rd wr (fuel + 1) lvl a
    let fine := e.getLsbD 0 = true ∧ entryMalformed s.pod.pkgn.toNat lvl e.toNat = false
    (e.getLsbD 0 = false → walked = .error 0x01) ∧
    (e.getLsbD 0 = true → entryMalformed s.pod.pkgn.toNat lvl e.toNat = true → walked = .error 0x04) ∧
    (fine → e.getLsbD 1 = false → walked = s.walkFrom pid va rd wr fuel (lvl + 1) ((e.extractLsb' 8 40).toNat * 256)) ∧
    (fine → e.getLsbD 1 = true → wr = true → e.getLsbD 3 = false → walked = .error 0x02) ∧
    (fine → e.getLsbD 1 = true → (wr = true → e.getLsbD 3 = true) → rd = true → e.getLsbD 2 = false →
      walked = .error 0x03) ∧
    (fine → e.getLsbD 1 = true → (wr = true → e.getLsbD 3 = true) → (rd = true → e.getLsbD 2 = true) →
      e.getLsbD 5 = false → e.getLsbD 6 = true ∨ s.physKey ((e.extractLsb' 8 40).toNat * 256) ≠ none →
      ∃ p : TlbEntry, walked = .ok p ∧ p.pid = pid ∧ p.vbase ≤ va ∧ va < p.vbase + p.size ∧ p.rd = e.getLsbD 2 ∧
        p.wr = e.getLsbD 3 ∧ p.rem = e.getLsbD 6 ∧
        p.phys va = (e.extractLsb' 8 40).toNat * 256 + va % p.size) ∧
    (fine → e.getLsbD 1 = true → (wr = true → e.getLsbD 3 = true) → (rd = true → e.getLsbD 2 = true) →
      e.getLsbD 5 = true →
      ((s.part pid).seqAt va = none → walked = .error 0x06) ∧
      (∀ q, (s.part pid).seqAt va = some q → let d := s.dirEntry (s.part pid) q (va % 2 ^ 30 / 2 ^ 16)
        (d.testBit 31 = false → walked = .error 0x06) ∧
        (d.testBit 31 = true → d / 2 ^ 24 % 2 ^ 6 ≠ 0 → walked = .error 0x04) ∧
        (d.testBit 31 = true → d / 2 ^ 24 % 2 ^ 6 = 0 → wr = true → d.testBit 30 = true → walked = .error 0x02) ∧
        (d.testBit 31 = true → d / 2 ^ 24 % 2 ^ 6 = 0 → wr = false ∨ d.testBit 30 = false → ∃ p : TlbEntry, walked = .ok p ∧ p.size = 2 ^ 16 ∧
          p.vbase = va / 2 ^ 16 * 2 ^ 16 ∧ p.pbase = (s.part pid).chunkAddr (seqTier q) (d % 2 ^ 24) ∧
          p.rd = e.getLsbD 2 ∧ p.wr = (e.getLsbD 3 && !d.testBit 30))))) ∧
  (∀ (s : State) (pid slot : Nat), s.arg = .num pid slot 0 0 → let t := s.task pid slot
    (t.stopping = false → exec .preemptSave s = .next s) ∧
    (t.stopping = true → s.boundary pid slot = false →
      exec .preemptSave s = .next (s.dueIn 64 (.num .preemptSave pid slot))) ∧
    (t.stopping = true → s.boundary pid slot = true → exec .preemptSave s = .next (s.saveTask pid slot) ∧
      (s.Ok → ∀ g ∈ t.cores, (s.saveTask pid slot).core g = Core.idle)) ∧
    (slot ∉ s.restorable pid → exec .preemptRestore s = .next s) ∧
    (slot ∈ s.restorable pid → (∃ l ∈ t.tiles, s.saveBad pid l = true) →
      exec .preemptRestore s = .next (s.due [.num .taskNofitCancel pid slot])) ∧
    (slot ∈ s.restorable pid → (∀ l ∈ t.tiles, s.saveBad pid l = false) →
      let ts := t.tiles.map fun l => (s.physTile pid l).getD 0
      let u := (t.tiles.zip ts).foldl (fun s e => s.restoreTile pid slot e.1 e.2) s
      let v := u.renumber pid t.self fun g => 8 * (s.physTile pid (g / 8)).getD 0 + g % 8
      let w := v.modTask pid slot fun t => { t with tiles := ts, saved := false, kept := [] }
      let cores := ts.flatMap fun x => (List.range 8).map (8 * x + ·)
      exec .preemptRestore s = .next (((cores.foldl (fun s g => s.departs pid t.self g) w).traceAt pid 4
        (1 + t.self.toNat * 2 ^ 32) 0 0 (dieOf (ts.headD 0))).checkBars pid t.self))) ∧
  (∀ (s : State) (pid t : Nat), s.arg = .num pid t 0 0 → let e := s.tileEntry t
    let x := s.tile t
    let wanted := (e.extractLsb' 0 16).toNat = pid ∧ e.extractLsb' 32 16 ≠ 0 ∧ x.wanted = true ∧ s.tileRetired t = false
    (¬wanted → exec .tileReclaim s = .next s) ∧
    (wanted → s.readyTasks pid = [] → (s.part x.pid).taskSlot x.tcb = none → exec .tileReclaim s = .next
      ((s.modTile t fun x => { x with wanted := false }).due [.num .placementPass (e.extractLsb' 32 16).toNat])) ∧
    (wanted → s.readyTasks pid ≠ [] → s.tileFree t = true → exec .tileReclaim s = .next
      ((s.modTile t fun x => { x with held := true, wanted := false }).due [.num .placementPass pid])) ∧
    (∀ n, wanted → s.readyTasks pid ≠ [] → s.tileFree t = false → (s.part x.pid).taskSlot x.tcb = some n →
      exec .tileReclaim s = .next ((s.stopTask x.pid n).dueIn 64 (.num .tileReclaim pid t)))) ∧
  (∀ (s : State) (pid l : Nat),
    let entry (k n : Nat) : BitVec 1024 := BitVec.ofNat 1024 (s.saveGet pid l (0x8000 * k + 128 * n) 128)
    let refused (k : Nat) : Nat := s.saveGet pid l (0x8000 * k + 0x880) 8
    s.saveBad pid l = true ↔ (s.saveGet pid l 0x640000 8 / 2 ^ 10) % 2 ^ 22 ≠ 0 ∨ ∃ k < 8,
      (∃ n < 16, (entry k n).extractLsb' 944 80 ≠ 0 ∨ (entry k n).extractLsb' 874 6 ≠ 0 ∨ (entry k n).extractLsb' 720 16 ≠ 0 ∨
        (entry k n).extractLsb' 688 16 ≠ 0 ∨ 5 < ((entry k n).extractLsb' 867 3).toNat) ∨
      16 < refused k ∨ ∃ i < 16, i < refused k ∧ s.saveGet pid l (0x8000 * k + 0x888 + 8 * i) 8 / 2 ^ 56 % 2 ^ 8 ≠ 0) ∧
  (∀ (s : State) (l : Layout), s.board.next = some l → (∀ pid tier, s.arg ≠ .record pid tier) →
    let v := s.modMgmt fun m => { m with watchdog := s.now }
    let busy := v.board.moved.flatMap fun pid => (v.part pid).placed.map fun t => (pid, t)
    let step (s : State) (k : Nat) : State := s.modBoard fun b => { b with switching := k }
    let again (s : State) (n : Nat) : Host.Outcome State Fault Refusal := .next (s.dueIn n ⟨.layoutSwitch, .none⟩)
    (s.mgmt.down = true → exec .layoutSwitch s = again s 64) ∧
    (s.mgmt.down = false →
      (s.board.switching = 1 → busy ≠ [] → exec .layoutSwitch s = again (busy.foldl (fun s e => s.stopTask e.1 e.2) v) 64) ∧
      (s.board.switching = 1 → busy = [] → exec .layoutSwitch s = again (step (v.traceSwitch 1) 2) 0) ∧
      (s.board.switching = 2 → exec .layoutSwitch s = .next ((step (v.traceSwitch 2) 3).due [.num .bankSwap 0])) ∧
      (s.board.switching = 4 → let w := (step (v.traceSwitch 4) 5).modBoard fun b => { b with moved := [] }
        exec .layoutSwitch s = again (w.due (w.partList.map fun e => .num .placementPass e.1)) 64) ∧
      (s.board.switching = 5 → (∃ e ∈ v.partList, v.restorable e.1 ≠ []) → exec .layoutSwitch s = again v 64) ∧
      (s.board.switching = 5 → (∀ e ∈ v.partList, v.restorable e.1 = []) → ∃ u : State, exec .layoutSwitch s = .next u ∧
        u.board.layout = s.board.layout ∧ u.board.next = none ∧ u.board.switching = 0 ∧ u.board.moved = s.board.moved)) ∧
    (∀ routes held, s.arg = .num routes held 0 0 → (routes = 0 → s.board.switching = 3) →
      let again (s : State) (held n : Nat) : Host.Outcome State Fault Refusal := .next (s.dueIn n (.num .bankSwap routes held))
      let h := s.holdInjection (if routes = 0 then s.board.moved else [])
      (s.mgmt.down = true ∨ (held = 0 ∧ s.board.draining ≠ []) → exec .bankSwap s = again s held 64) ∧
      let entry (u : State) (bank : Bool) (pid x y : Nat) : BitVec 4 := Tab.get 0 u.board.banks (bankKey bank pid x y)
      let differs (pid : Nat) : Prop := ∃ x < 4, ∃ y < 4, entry h true pid x y ≠ entry h false pid x y
      (s.mgmt.down = false → held = 0 → s.board.draining = [] → exec .bankSwap s = again h 1 0 ∧
        (Tab.wf 0 s.board.banks = true → (∀ pid x y, x < 4 → y < 4 →
          entry h s.board.selector pid x y = entry s s.board.selector pid x y) ∧
          ∀ pid x y, x < 4 → y < 4 → (∃ e ∈ s.partList, e.1 = pid) ∨ (∃ r ∈ l.records, (r.extractLsb' 0 16).toNat = pid) →
            let meets := ∃ i < (y + 4 - x) % 4, s.isRetired (unitLink ((x + i) % 4)) = true
            (meets → entry h (!s.board.selector) pid x y = 0xF) ∧ (¬meets → entry h (!s.board.selector) pid x y = 0)) ∧
        ∀ pid, pid ∈ h.board.draining ↔ (∃ e ∈ s.partList, e.1 = pid) ∧
          ((routes = 0 ∧ pid ∈ s.board.moved) ∨ differs pid)) ∧
      (s.mgmt.down = false → held ≠ 0 → (∃ pid ∈ s.board.draining, s.hasTraffic pid = true) →
        exec .bankSwap s = again s 1 64) ∧
      let asked := s.placesToAsk l (.num .bankSwap routes held)
      (s.host.mpmode.getLsbD 2 = false → asked = none) ∧
      (∀ bad pid body, s.mgmt.down = false → held ≠ 0 → (∀ pid ∈ s.board.draining, s.hasTraffic pid = false) → routes = 0 →
        asked = some (bad, pid, body) →
        let waits := ∃ a ∈ s.host.assisted, a.due = .num .bankSwap routes held ∧ a.answer = none
        (waits → exec .bankSwap s = .next s) ∧
        (¬waits → exec .bankSwap s = .next (s.askAgain 2 pid body bad (.num .bankSwap routes held)))) ∧
      (s.mgmt.down = false → held ≠ 0 → (∀ pid ∈ s.board.draining, s.hasTraffic pid = false) → routes ≠ 0 ∨ asked = none → ∃ u : State,
        exec .bankSwap s = .next u ∧ u.board.selector = (!s.board.selector) ∧ u.board.banks = s.board.banks ∧
        u.board.draining = [] ∧ u.board.regions = s.board.regions ∧ u.board.owners = s.board.owners ∧
        u.board.layout = (if routes = 0 then l else s.board.layout) ∧
        u.board.switching = if routes = 0 then 4 else s.board.switching)) ∧
    (∀ held, s.arg = .num 0 held 0 0 → s.board.switching ≠ 3 → exec .bankSwap s = .next s)) ∧
  (∀ (s : State) (h : HandOver), s.arg = .num h.stack 0 0 0 →
    s.board.handovers.find? (fun x => decide (x.stack = h.stack)) = some h →
    let step : Due := .num .handoverStep h.stack
    let arg := h.stack + h.step * 2 ^ 8
    let go := h.assisted = false ∨ s.answers 3 step ≠ []
    (s.mgmt.down = true → exec .handoverStep s = .next (s.dueIn 64 step)) ∧
    (s.mgmt.down = false → ¬go → (∃ a ∈ s.host.assisted, a.due = step) → exec .handoverStep s = .next s) ∧
    (s.mgmt.down = false → ¬go → (∀ a ∈ s.host.assisted, a.due ≠ step) →
      exec .handoverStep s = .next (s.ask 3 h.by_.pid arg step)) ∧
    (s.mgmt.down = false → go → h.step = 3 → s.acceptedFor h.stack h.since = true →
      exec .handoverStep s = .next (s.dueIn 16 step)) ∧
    (s.mgmt.down = false → go → h.step ≠ 3 ∨ s.acceptedFor h.stack h.since = false →
      let v := (s.modMgmt fun m => { m with watchdog := s.now }).forget 3 step
      let u := ((v.journal 0x10 s.board.layout.version.toNat arg).handStep h).trace h.by_.pid 7
        (1 + h.step * 2 ^ 4 + h.stack * 2 ^ 8)
      let keep (f : HandOver → Option HandOver) : State := u.modBoard fun b =>
        { b with handovers := b.handovers.filterMap fun x => if x.stack = h.stack then f x else some x }
      (h.step < 7 → exec .handoverStep s = .next (((keep fun x => some { x with
        step := h.step + 1, since := if h.step = 2 then u.now else x.since }).due []).dueIn 128 step)) ∧
      (h.step = 7 → exec .handoverStep s = .next (((keep fun x => some { x with
        step := 8, waiting := [] }).due h.waiting).dueIn 128 step)) ∧
      (8 ≤ h.step → exec .handoverStep s = .next (keep fun _ => none)) ∧
      (Tab.wf false s.board.owners = true → ∀ j, u.ownerOf j =
        if h.step = 6 ∧ j = h.stack then (if h.owner then (j / 2 + 1) % 4 else j / 2) else s.ownerOf j)) ∧
    (h.step = 8 → s.handStep h = (if h.dropped then s else s.due [.num .counterIncrement h.by_.core h.counter]).opEnd
      h.by_.pid h.by_.tcb) ∧
    (h.step = 5 → Tab.wf Tile.idle s.tiles = true → ∀ t, ((s.handStep h).tile t).tlb =
      if dieOf t = (if h.owner then h.stack / 2 else (h.stack / 2 + 1) % 4)
      then (s.tile t).tlb.filter fun e => !(e.direct && e.mask.getLsbD h.stack) else (s.tile t).tlb)) ∧
  (∀ (s : State) (pid : Nat), s.arg = .num pid 0 0 0 →
    let p := s.part pid
    let halted := (((s.modPart pid fun p => { p with discarding := true }).haltPart pid).dropTraffic pid)
    let quiet := ∀ t ∈ s.tilesIn pid, halted.tileQuiet t = true
    (p.record = 0 → exec .functionLevelReset s = .next s) ∧
    (p.record ≠ 0 → ¬quiet → exec .functionLevelReset s = .next (halted.dueIn 64 (.num .functionLevelReset pid))) ∧
    (p.record ≠ 0 → pid ≠ 0 → quiet → s.Ok → Tab.wf Part.absent s.parts = true →
      ∃ u : State, exec .functionLevelReset s = .next (u.due [.num .resetDrainEnd pid]) ∧
        (u.part pid).record = p.record ∧ (u.part pid).tasks = [] ∧ (u.part pid).graphs = [] ∧ (u.part pid).held = [] ∧
        (u.part pid).discarding = true ∧ (∀ q, q ≠ pid → u.part q = s.part q) ∧
        ∀ t ∈ s.tilesIn pid, (∀ o < 2 ^ 21, u.byte (scratchKey t o) = 0) ∧
          (∀ j < 128, ∀ o < 2 ^ 15, u.byte (weightKey t j o) = 0) ∧ ∀ c < 8, u.core (8 * t + c) = Core.idle) ∧
    (p.discarding = false → exec .resetDrainEnd s = .next s) ∧
    (p.discarding = true → s.hasTraffic pid = true → exec .resetDrainEnd s = .next (s.dueIn 64 (.num .resetDrainEnd pid))) ∧
    (p.discarding = true → s.hasTraffic pid = false → exec .resetDrainEnd s = .next
      (((s.modPart pid fun p => { p with discarding := false }).event 0x05 pid 0).due [.num .placementPass pid]))) ∧
  (∀ (s : State) (pid tier : Nat), Tab.wf Part.absent s.parts = true →
    let slot := 2 ^ 20 + tier
    let x := (s.part pid).inst slot
    let step : Due := ⟨.layoutSwitch, .record pid tier⟩
    let p := s.makePool pid tier
    let placed (u : State) (place : Nat × Nat) : State := u.modInst pid slot fun x =>
      { x with header := setField (setField x.header 3 9 place.1) 12 9 place.2 }
    (x.live = true → p = s) ∧
    (x.live = true → x.rstep ≠ 0 → s.placePool pid tier = s) ∧
    ((p.part pid |>.inst slot).rstep = 0 →
      (p.findPlace pid 6 = none → s.placePool pid tier = p) ∧
      ∀ place, p.findPlace pid 6 = some place →
        (s.host.mpmode.getLsbD 2 = false → s.placePool pid tier = placed p place) ∧
        (s.host.mpmode.getLsbD 2 = true → (∃ a ∈ s.host.assisted, a.due = step) → s.placePool pid tier = p) ∧
        (s.host.mpmode.getLsbD 2 = true → (∀ a ∈ s.host.assisted, a.due ≠ step) → s.placePool pid tier = p.ask 2 pid 14 step)) ∧
    (s.arg = .record pid tier →
      (x.live = false ∨ x.rstep ≠ 0 → exec .layoutSwitch s = .next (s.forget 2 step)) ∧
      (x.live = true → x.rstep = 0 →
        (s.host.mpmode.getLsbD 2 = false → exec .layoutSwitch s = .next ((s.forget 2 step).placePool pid tier)) ∧
        (s.host.mpmode.getLsbD 2 = true → s.answers 2 step = [] → exec .layoutSwitch s = .next s) ∧
        (∀ a rest, s.host.mpmode.getLsbD 2 = true → s.answers 2 step = a :: rest →
          let place : Nat × Nat := ((a.extractLsb' 3 9).toNat, (a.extractLsb' 12 9).toNat)
          (s.placeable pid 6 place.1 place.2 = true → exec .layoutSwitch s = .next (placed (s.forget 2 step) place)) ∧
          (s.placeable pid 6 place.1 place.2 = false → exec .layoutSwitch s = .next (s.askAgain 2 pid 14 1 step)))))) ∧
  (∀ (s : State) (a : Arbiter) (pids : List Nat),
    let credit (p : Nat) : Nat := let c := Tab.get (0, 0) a.credits p
      let share := if (s.part p).suspended then 0 else (s.part p).fbw
      min (c.1 + share * (s.now - c.2)) (share * 4096)
    let cls (p : Nat) : Nat := ((s.part p).record.extractLsb' 16 2).toNat
    let within (p : Nat) : Prop := p ∈ pids ∧ 1024 ≤ credit p
    let may (p : Nat) : Prop := p ∈ pids ∧ ((∃ q, within q) → within p ∧ ∀ q, within q → cls p ≤ cls q)
    (pids = [] → s.arbitrate a pids = none) ∧
    (pids ≠ [] → ∃ p, s.arbitrate a pids = some p ∧ may p ∧
      ((∃ q, may q ∧ a.last < q) → a.last < p ∧ ∀ q, may q → a.last < q → p ≤ q) ∧
      ((∀ q, may q → q ≤ a.last) → ∀ q, may q → p ≤ q)) ∧
    ∀ p, a.serve (if (s.part p).suspended then 0 else (s.part p).fbw) s.now p =
      ⟨Tab.set (0, 0) a.credits p (credit p - 1024, s.now), p⟩) ∧
  (∀ (s : State) (die pid : Nat) (r : BitVec 256), s.arg = .num die 0 0 0 →
    let l := Tab.get [] s.board.traces die
    let arbiter := Tab.get Arbiter.idle s.board.arbiters die
    s.arbitrate arbiter (l.map Prod.fst).eraseDups = some pid → l.find? (fun e => decide (e.1 = pid)) = some (pid, r) →
    let u := s.modBoard fun b => { b with
      traces := Tab.set [] b.traces die (l.erase (pid, r))
      arbiters := Tab.set Arbiter.idle b.arbiters die
        (arbiter.serve (if (s.part pid).suspended then 0 else (s.part pid).fbw) s.now pid) }
    let slb := (s.part pid).slb
    (slb = 0 ∨ (s.part pid).untraced = true → exec .traceRecordWrite s = .next u) ∧
    (slb ≠ 0 → (s.part pid).untraced = false → u.traceHeader pid = none →
      exec .traceRecordWrite s = .next (u.stopTrace pid)) ∧
    ∀ h, slb ≠ 0 → (s.part pid).untraced = false → u.traceHeader pid = some h →
    let slb := (s.part pid).slb
    let n := 2 ^ (h / 2 ^ 192 % 16)
    let head := h / 2 ^ 64 % 2 ^ 32
    let tail := h / 2 ^ 96 % 2 ^ 32
    (n ≤ (tail + 2 ^ 32 - head) % 2 ^ 32 → exec .traceRecordWrite s = .next (u.dropTrace pid h)) ∧
    ((tail + 2 ^ 32 - head) % 2 ^ 32 < n → ∀ v w, u.vWrite pid (slb + 64 + 32 * (tail % n)) 4 r.toNat = some v →
      v.vWrite pid slb 8 (putBits 96 32 (tail + 1) h) = some w →
      exec .traceRecordWrite s = .next (if (tail + 1) % (n / 4) = 0
        then w.signal pid (BitVec.ofNat 64 (h / 2 ^ 128 % 2 ^ 64)) else w)))

/-! ### Errors, retirement, power -/

/-- R388, R392, R419 to R426, R430, R434, R448, R449: planes and escape channels; the error record of a corrected or
an uncorrectable error, the poison of its word, and the retirement that enough of them bring; links, send windows,
channels, stacks and clusters; what remains of the region table when a stack is retired; the reset of the management
processor, its restart from the last valid records of its journal, and the resets of the module, which keep what the
journal and the non-volatile store hold and enter recovery where the stored image fails its check, from which a
restart with a new image brings the module up, the host block as it was. The choices of the model in it are those of
logs 2, 4, 5, 7, 50, 51, 52, 53, 63, 77, 78, 79 and 80. -/
def Obligations.FaultEvents : Prop :=
  (∀ (s : State) (n m k die : Nat), s.arg = .num n m k die →
    let b := s.board
    (1 ≤ n → n ≤ 3 → b.planes.getLsbD (n - 1) = true → 1024 ≤ m → ∃ u : State, exec .planePowerUp s = .next u ∧
      u = { s with board := { b with planes := u.board.planes } } ∧
      ∀ j < 4, u.board.planes.getLsbD j = (b.planes.getLsbD j || decide (j = n))) ∧
    (n = 0 ∨ 4 ≤ n ∨ b.planes.getLsbD (n - 1) = false ∨ m < 1024 → exec .planePowerUp s = .next s) ∧
    (n = 0 ∨ m < 2 ^ 16 → exec .planePowerDown s = .next s) ∧
    (n ≠ 0 → 2 ^ 16 ≤ m → ∃ u : State, exec .planePowerDown s = .next u ∧ u = { s with board := { b with planes := u.board.planes } } ∧
      ∀ j < 4, u.board.planes.getLsbD j = (b.planes.getLsbD j && decide (j ≠ n))) ∧
    (let held (ch : Nat) : List (Nat × Nat) := Tab.get [] b.escapes ch
     let enters (s : State) (ch : Nat) (q : Nat × Nat) : State := (s.modBoard fun b => { b with
       escapes := Tab.set [] b.escapes ch (Tab.get [] b.escapes ch ++ [q]) }).dueIn 64 (.num .escapeChannelMove ch 1)
     let q := (k % 2 ^ 32, k / 2 ^ 32 % 512)
     let follows := 64 ≤ die ∨ ∃ e ∈ held n, e.1 = q.1
     let router := n / 32
     (m = 0 → follows → exec .escapeChannelMove s = .next (enters s n q)) ∧
     (m = 0 → ¬follows → exec .escapeChannelMove s = .next s) ∧
     (m ≠ 0 → held n = [] → exec .escapeChannelMove s = .next s) ∧
     (∀ q rest, m ≠ 0 → held n = q :: rest →
       let u := s.modBoard fun b => { b with escapes := Tab.set [] b.escapes n rest }
       let to_ := if dieOf router ≠ dieOf q.2 then (dieOf router + 1) % 4 * 128 + router % 128
         else if clusterOf router ≠ clusterOf q.2 then clusterOf q.2 * 32 + router % 32 else q.2
       exec .escapeChannelMove s = .next (if router = q.2 then u else enters u (to_ * 32 + n % 32) q))) ∧
    exec .creditExhausted s = .next (s.traceAt n 6 (m % 2 + k % 2 ^ 16 * 2 ^ 16) 0 0 die)) ∧
  (∀ (s : State) (x : ErrInfo),
    let l := Tab.get [] s.mgmt.errors x.die
    let raised (r : BitVec 256) : BitVec 256 := setField r 64 16 (min ((r.extractLsb' 64 16).toNat + 1) 0xFFFF)
    let waits := ∃ r ∈ l, x.merges s.now r = true
    let posted := s.mgmt.posted.find? fun e => x.merges s.now e.2
    let counted := Tab.set [] s.mgmt.errors x.die (l.map fun r => if x.merges s.now r then raised r else r)
    (waits → s.errorRec x = { s with mgmt := { s.mgmt with errors := counted } }) ∧
    (∀ e, ¬waits → posted = some e →
      let again := s.mgmt.posted.map fun f => if f = e then (e.1, raised e.2) else f
      s.errorRec x = ({ s with mgmt := { s.mgmt with posted := again } } : State).wrNat (e.1 + 8) 2
        ((raised e.2).extractLsb' 64 16).toNat) ∧
    (¬waits → posted = none → l.length < 64 → ∃ r : BitVec 256, s.errorRec x =
        ({ s with mgmt := { s.mgmt with errors := Tab.set [] s.mgmt.errors x.die (l ++ [r]) } } : State).due
          [⟨.eventPost, .none⟩] ∧
      r.extractLsb' 0 3 = BitVec.ofNat 3 x.sev ∧ r.extractLsb' 32 8 = BitVec.ofNat 8 x.ecode ∧
      r.extractLsb' 40 8 = BitVec.ofNat 8 x.ucls ∧ r.extractLsb' 48 16 = BitVec.ofNat 16 x.unum ∧
      r.extractLsb' 64 16 = 1 ∧ r.extractLsb' 80 16 = BitVec.ofNat 16 x.pid ∧ r.extractLsb' 128 64 = BitVec.ofNat 64 s.now ∧
      r.extractLsb' 192 64 = BitVec.ofNat 64 x.addr) ∧
    (¬waits → posted = none → 64 ≤ l.length → s.errorRec x = { s with mgmt := { s.mgmt with
      drops := Tab.set 0 s.mgmt.drops x.die (Tab.get 0 s.mgmt.drops x.die + 1) } }) ∧
    (∀ r : BitVec 256, x.merges s.now r = true ↔ x.ecode = 1 ∧ r.extractLsb' 32 8 = 1 ∧
      (r.extractLsb' 40 8).toNat = x.ucls ∧ (r.extractLsb' 48 16).toNat = x.unum ∧
      s.now ≤ (r.extractLsb' 128 64).toNat + 2 ^ 20)) ∧
  (∀ (s : State) (key found c : Nat), s.arg = .num key found c 0 →
    let cxl := 2 ^ 40 ≤ key ∧ key < 2 ^ 48
    (found = 0 → exec .patrolScrub s = .next s) ∧
    (cxl → found = 1 → exec .patrolScrub s = .next s) ∧
    (cxl → 2 ≤ found → exec .patrolScrub s = .next (match s.cxlPort (key - 2 ^ 40) with
      | some p => s.due [.num .linkRetire 1 p]
      | none => s)) ∧
    (¬cxl → found = 1 → exec .patrolScrub s = .next ((s.errorRec (s.wordError key c 1 0)).wordLimits key c false)) ∧
    (¬cxl → 2 ≤ found → s.poisonIn key 1 ≠ none → exec .patrolScrub s = .next s) ∧
    (¬cxl → 2 ≤ found → s.poisonIn key 1 = none → Tab.wf false s.poison = true → ∃ u : State,
      exec .patrolScrub s = .next u ∧ u = ((s.poisonAt key 1).errorRec (s.wordError key c 2 1)).wordLimits key c true ∧
      (u.poisonIn key 1).isSome = true ∧ u.mem = s.mem)) ∧
  (∀ (s : State) (port found c router : Nat), s.arg = .num port found c router → router ≠ 0 → found ≠ 0 →
    let u := s.errorRec ⟨port / 16, 0x06, min found 2, min found 2 - 1, port, 0, 0⟩
    let at_ := c % 2 ^ 32
    let w := c / 2 ^ 32
    let k := u.agenda.length
    let hit (n : Nat) (bad : List Nat) : List Nat := if 4 * w < n then 4 * w :: bad.erase (4 * w) else bad
    let spoilt (m : PodMsg) : PodMsg := match m with
      | .put p j t m => .put p j t { m with bad := hit m.data.length m.bad }
      | .atom p j t m => .atom p j t { m with bad := true }
      | .copyWords p j t m a data bad => .copyWords p j t m a data (hit data.length bad)
      | m => m
    let step (d : Due) : Arg := match d.arg with
      | .put m => .put { m with bad := hit m.data.length m.bad }
      | .win m => .win { m with bad := hit m.data.length m.bad }
      | .atom m => .atom { m with bad := true }
      | .replica i key data bad last => .replica i key data (hit data.length bad) last
      | .pod m => .pod (spoilt m)
      | .packet dst m => .packet dst (spoilt m)
      | a => a
    ∃ v : State, exec .patrolScrub s = .next v ∧ (found = 1 → v = u) ∧ (found ≠ 1 →
      v = { u with agenda := v.agenda, pod := { u.pod with outbox := v.pod.outbox } } ∧
      (∀ i : Nat, v.agenda[i]? = (u.agenda[i]?).map fun d => if i = at_ then ⟨d.what, step d⟩ else d) ∧
      ∀ i : Nat, v.pod.outbox[i]? = (u.pod.outbox[i]?).map fun e => if i + k = at_ then { e with msg := spoilt e.msg } else e)) ∧
  (∀ (s : State) (key c n span : Nat),
    (s.countError n span).2 = ((Tab.get [] s.mgmt.counts n).filter fun c => decide (s.now < c + span)).length + 1 ∧
    (key < 2 ^ 39 → let k := key / 2 ^ 36
      let weak := s.countError (2 * unitChannel k c) (2 ^ 30)
      let bad := s.countError (2 * unitChannel k c + 1) (2 ^ 36)
      s.wordLimits key c false = (if 1024 < weak.2 then weak.1.due [.num .hbmChannelRetire k c] else weak.1) ∧
      s.wordLimits key c true = (if 2 ≤ bad.2 then bad.1.due [.num .hbmChannelRetire k c] else bad.1)) ∧
    (2 ^ 48 ≤ key → key < 2 ^ 50 → let t := if key < 2 ^ 49 then (key - 2 ^ 48) / 2 ^ 21 else (key - 2 ^ 49) / 2 ^ 22
      let bad := s.countError (2 ^ 20 + t) (2 ^ 30)
      s.wordLimits key c false = s ∧
      s.wordLimits key c true = if 2 ≤ bad.2 then bad.1.due [.num .clusterRetire (clusterOf t)] else bad.1)) ∧
  (∀ (s : State) (a b c : Nat), s.arg = .num a b c 0 →
    let unit := if a = 0 then unitLink b else if a = 1 then unitCxl b else unitJorrin b
    let name := unitName unit
    let counted := (s.errorRec ⟨name.2.2, name.1, 1, 0, name.2.1, 0, 0⟩).countError (2 ^ 21 + unit) (2 ^ 30)
    exec .linkCrcReplay s = .next (if 2 ^ 20 < counted.2 then counted.1.due [.num .linkRetire a b] else counted.1) ∧
    exec .linkLayerFailure s = .next (if c = 0 then s else s.dueIn (2 ^ 20) (.num .linkRetire a b)) ∧
    (s.mgmt.down = true → exec .linkRetire s = .next (s.dueIn 64 (.num .linkRetire a b))) ∧
    (s.mgmt.down = false → s.isRetired unit = true → exec .linkRetire s = .next s) ∧
    (s.mgmt.down = false → s.isRetired unit = false →
      (a = 0 → exec .linkRetire s = .next ((s.markUnit unit true).due [.num .bankSwap 1])) ∧
      (a = 1 → let range := s.cxlRange b
        exec .linkRetire s = .next (((s.dropCxl b).dropTlb fun e =>
          !e.rem && decide (range.1 < e.pbase + e.size) && decide (e.pbase < range.1 + range.2)).markUnit unit true)) ∧
      (2 ≤ a → exec .linkRetire s = .next (s.markUnit unit true).failUnrouted)) ∧
    (let w := Tab.get 0 s.mgmt.windows a
     let x : ErrInfo := ⟨a / 64 / 16, 0x05, 3, 0, a / 64, 0, 0⟩
     exec .windowParityError s = .next (if 2 ≤ b
       then (s.errorRec x).modMgmt fun m => { m with windows := Tab.set 0 m.windows a (setField w 16 16 c) }
       else ((s.errorRec x).modMgmt fun m => { m with stopped := Tab.set false m.stopped a true }).due
         [.num .sendWindowAudit a (w.extractLsb' 16 16).toNat (w.extractLsb' 48 16).toNat]))) ∧
  (∀ (s : State) (v f r sent : Nat), s.arg = .num v f r sent → Tab.wf 0 s.mgmt.windows = true → f ≤ 2 ^ 16 → r < 2 ^ 16 →
    sent < 2 ^ 32 →
    let w := Tab.get 0 s.mgmt.windows v
    let credits := (w.extractLsb' 0 16).toNat + sent / 2 ^ 16
    let n := if Tab.get false s.mgmt.stopped v then 0 else min (sent % 2 ^ 16) credits
    let k := BitVec.ofNat 16 (credits - n)
    let flits := w.extractLsb' 32 16 + BitVec.ofNat 16 n
    let f' := if f = 2 ^ 16 then w.extractLsb' 16 16 else BitVec.ofNat 16 f
    let r' := if f = 2 ^ 16 then w.extractLsb' 48 16 else BitVec.ofNat 16 r
    let e := f' - (flits - r')
    let audits := (Tab.get (0, 0) s.mgmt.audits v).1 + 1
    let kept (u : State) (k : BitVec 16) : Prop := Tab.get 0 u.mgmt.windows v = r' ++ flits ++ f' ++ k ∧
      (Tab.get (0, 0) u.mgmt.audits v).1 = audits ∧ ∃ x ∈ u.later, x.2 = .num .sendWindowAudit v (2 ^ 16)
    let step : Due := .num .sendWindowAudit v f r
    (s.answers 5 step ≠ [] → ∃ u : State, exec .sendWindowAudit s = .next u ∧
      Tab.get 0 u.mgmt.windows v = w.extractLsb' 16 48 ++ (w.extractLsb' 16 16 - (w.extractLsb' 32 16 - w.extractLsb' 48 16)) ∧
      u.mgmt.stopped = Tab.set false s.mgmt.stopped v false) ∧
    (s.host.mpmode.getLsbD 5 = false → s.answers 5 step = [] → ∃ u : State, exec .sendWindowAudit s = .next u ∧
      kept u e ∧ (k ≠ e → (Tab.get (0, 0) u.mgmt.audits v).2 = audits) ∧
      u.mgmt.stopped = Tab.set false s.mgmt.stopped v false) ∧
    (s.host.mpmode.getLsbD 5 = true → s.answers 5 step = [] → ∃ u : State, exec .sendWindowAudit s = .next u ∧ kept u k ∧
      (k = e → Tab.get false s.mgmt.stopped v = false → u.mgmt.stopped = s.mgmt.stopped ∧
        u.host.assisted = s.host.assisted) ∧
      (k ≠ e ∨ Tab.get false s.mgmt.stopped v = true → u.mgmt.stopped = Tab.set false s.mgmt.stopped v true ∧
        ∃ a ∈ u.host.assisted, a.due = step))) ∧
  (∀ (s : State) (k c : Nat), s.arg = .num k c 0 0 →
    let spare := ∃ j < 33, s.isRetired (unitChannel k j) = true
    (s.mgmt.down = true → exec .hbmChannelRetire s = .next (s.dueIn 64 (.num .hbmChannelRetire k c))) ∧
    (s.isRetired (unitStack k) = true → exec .stackRetire s = .next s ∧
      (s.mgmt.down = false → exec .hbmChannelRetire s = .next s)) ∧
    (s.isRetired (unitStack k) = false →
      (s.mgmt.down = false → s.isRetired (unitChannel k c) = true → exec .hbmChannelRetire s = .next s) ∧
      (s.mgmt.down = false → s.isRetired (unitChannel k c) = false → spare →
        exec .hbmChannelRetire s = .next (s.due [.num .stackRetire k])) ∧
      (s.mgmt.down = false → s.isRetired (unitChannel k c) = false → ¬spare → exec .hbmChannelRetire s = .next (s.markUnit (unitChannel k c) true)) ∧
      (s.mgmt.down = true ∨ (∃ h ∈ s.board.handovers, h.stack = k) →
        exec .stackRetire s = .next (s.dueIn 64 (.num .stackRetire k))) ∧
      (s.mgmt.down = false → (∀ h ∈ s.board.handovers, h.stack ≠ k) → Tab.wf 0 s.board.regions = true →
        Tab.wf false s.mgmt.retired = true →
        ∃ u : State, exec .stackRetire s = .next u ∧ u.isRetired (unitStack k) = true ∧
          ∀ r, Tab.get 0 u.board.regions r =
            if (Tab.get 0 s.board.regions r).getLsbD k then 0 else Tab.get 0 s.board.regions r))) ∧
  (∀ (s : State) (c : Nat), s.arg = .num c 0 0 0 →
    (s.Ok → ∃ u : State, exec .clusterLogicError s = .next u.refitDown ∧ u.isRetired (unitCluster c) = true ∧
      (∀ g n, g / 256 = c → n < 16 → ((u.core g).ctx n).live = false) ∧
      ∀ e ∈ s.tasksIn c, ∀ m, (s.part e.1).graphSlot (s.task e.1 e.2).graph = some m → gAccepts (u.graph e.1 m) = false) ∧
    (s.mgmt.down = true ∨ s.board.switching ≠ 0 → exec .clusterRetire s = .next (s.dueIn 64 (.num .clusterRetire c))) ∧
    (s.mgmt.down = false → s.board.switching = 0 → s.isRetired (unitCluster c) = true → exec .clusterRetire s = .next s) ∧
    (s.mgmt.down = false → s.board.switching = 0 → s.isRetired (unitCluster c) = false →
      let l := s.layoutWithout c
      let u := (s.markUnit (unitCluster c) true).shortenCluster c
      exec .clusterRetire s = .next (if u.board.layout = l then u
        else (u.journalLayout 0x02 l).startSwitch l 0 0).refitDown) ∧
    exec .thermalThreshold s = .next { s with mgmt := { s.mgmt with hold := BitVec.ofNat 2 (min c 2) } }) ∧
  (∀ s : State,
    let reset := if s.mgmt.down then s
      else ({ s with mgmt := { s.mgmt with down := true } } : State).dueIn 64 (.num .watchdogExpiry 1)
    exec .managementMemoryError s = .next reset ∧
    (∀ a b c d, s.arg = .num a b c d → a ≠ 1 → exec .watchdogExpiry s = .next (
      if s.mgmt.watchdog + 9400000 ≤ s.now then reset else s)) ∧
    (∀ b c d, s.arg = .num 1 b c d → s.mgmt.down = false → exec .watchdogExpiry s = .next s) ∧
    (∀ b c d, s.arg = .num 1 b c d → s.mgmt.down = true →
      let kind (l : Layout) : Nat := match s.mgmt.lastRecord fun r => decide (1 ≤ recordKind r) && decide (recordKind r ≤ 5) &&
          decide ((r.extractLsb' 64 32).toNat = l.version.toNat) && decide (recordArg r = l.image.toNat) with
        | some r => (r.extractLsb' 0 8).toNat
        | none => 0
      let resumed (h : HandOver) : Nat := match s.mgmt.lastRecord fun r =>
          decide (recordKind r = 0x10) && decide (recordArg r % 2 ^ 8 = h.stack) with
        | some r => min h.step ((r.extractLsb' 136 8).toNat)
        | none => h.step
      ∃ u : State, exec .watchdogExpiry s = .next u ∧ u.mgmt.down = false ∧ u.mgmt.watchdog = s.now ∧
        u.board.layout = s.board.layout ∧
        u.board.handovers.map (fun h => (h.stack, h.step)) = s.board.handovers.map (fun h => (h.stack, resumed h)) ∧
        u.board.prepared = none ∧
        (s.board.next = none → u.board.next = none ∧ u.board.switching = s.board.switching) ∧
        ∀ l, s.board.next = some l →
          (kind l = 1 → s.board.switching < 4 → u.board.next = none ∧ u.board.switching = 0) ∧
          (kind l = 2 ∨ kind l = 3 → u.board.next = s.board.next ∧
            u.board.switching = if s.board.switching < 4 then 1 else 4) ∧
          ((kind l = 1 ∧ 4 ≤ s.board.switching) ∨ kind l = 0 ∨ kind l = 4 ∨ kind l = 5 →
            u.board.next = s.board.next ∧ u.board.switching = s.board.switching)) ∧
    (∀ r : BitVec 512, r ∈ s.mgmt.records ↔ r ∈ s.mgmt.journal ∧
      (r.extractLsb' 480 32).toNat = crc32 480 (r.extractLsb' 0 480).toNat)) ∧
  (∀ (s : State) (mask : Nat), s.arg = .num mask 0 0 0 →
    let l := s.board.next.getD s.board.layout
    let h := s.mgmt.stored.take 64
    let bits (lo w : Nat) : Nat := bytesToNat h / 2 ^ lo % 2 ^ w
    let n := 64 + bits 64 32
    let good := Config.signatureValid Config.keyHash (s.mgmt.stored.take n) (s.mgmt.stored.drop n) = true ∧
      n < s.mgmt.stored.length ∧ bits 32 32 = 0 ∧ bits 96 416 = 0 ∧ s.mgmt.fuse.toNat ≤ bits 0 32
    ∃ u v : State, exec .powerOn s = .next u ∧ exec .thermalReset s = .next v ∧
      (∀ w ∈ [u, v], w.cores = [] ∧ w.tiles = [] ∧ w.meetings = [] ∧ w.poison = [] ∧ w.board.prepared = none ∧
        w.mgmt.leaf = s.mgmt.leaf ∧ w.mgmt.stored = s.mgmt.stored ∧ (∀ key < 2 ^ 64, w.byte key = 0) ∧
        (good → w.board.layout = l ∧ w.board.next = none ∧ w.mgmt.running = s.mgmt.stored ∧ w.mgmt.recovery = false ∧
          w.mgmt.fuse = BitVec.ofNat 64 (bits 0 32)) ∧
        (¬good → w.board.layout = s.board.layout ∧ w.board.next = s.board.next ∧ w.mgmt.running = [] ∧
          w.mgmt.recovery = true ∧ w.mgmt.fuse = s.mgmt.fuse ∧ ∀ e ∈ w.parts,
            e.2 = { Part.absent with suspended := true } ∧ ∃ p, (e.1, p) ∈ s.parts ∧ p.suspended = true)) ∧
      (good → ∀ p < 8, Tab.get 0 u.board.cxl p = (if mask.testBit (40 + p) then 0 else 2861) ∧
        Tab.get 0 v.board.cxl p = 2861)) ∧
  (∀ (s : State) (mask : Nat), s.arg = .num mask 1 0 0 →
    (s.mgmt.recovery = false → exec .powerOn s = .next s) ∧
    (s.mgmt.recovery = true → ∃ u : State, exec .powerOn s = .next u ∧ u.mgmt.recovery = false ∧
      u.mgmt.running = s.mgmt.stored ∧ u.mgmt.stored = s.mgmt.stored ∧
      u.mgmt.fuse = BitVec.ofNat 64 (bytesToNat (s.mgmt.stored.take 64) % 2 ^ 32) ∧
      u.board.layout = s.board.next.getD s.board.layout ∧ u.board.next = none ∧ u.host.eqbase = s.host.eqbase ∧
      u.host.eqctl = s.host.eqctl ∧ u.host.eqhead = s.host.eqhead ∧ u.host.mbres = s.host.mbres))

/-! ### The host block and the pod -/

/-- R8, R436, R440 to R448, R421, R430: a doorbell writes NOTE of a queue, or is recorded when another partition's
function writes it; an event, or with none waiting the oldest error record of a die, is written into the open host
ring; registers of the block; a write to MBELL submits MBOX as the command that the table of R443 names for its KIND;
each command does what R443 says and ends with MBRES holding its status, its kind and its result, and in recovery
every command but FWLOAD ends with NOFW. The choices of the model in it are those of logs 7, 34, 37, 39, 50, 51, 55,
56, 77, 78, 79 and 85. -/
def Obligations.HostEvents : Prop :=
  (∀ (s : State) (q v vf : Nat), s.arg = .num q v vf 0 →
    (32768 ≤ q → exec .notifyQueue s = .next s) ∧
    (q < 32768 → vf ≠ 0 → ((s.queue q).extractLsb' 112 16).toNat ≠ vf →
      exec .notifyQueue s = .next (s.errorRec ⟨0, 0x0A, 9, 4, vf, vf, 0⟩)) ∧
    (q < 32768 → vf = 0 ∨ ((s.queue q).extractLsb' 112 16).toNat = vf → Tab.wf 0 s.host.queues = true →
      ∃ u : State, exec .notifyQueue s = .next u ∧ (u.queue q).extractLsb' 64 32 = BitVec.ofNat 32 v ∧
        (u.queue q).extractLsb' 0 64 = (s.queue q).extractLsb' 0 64 ∧
        (u.queue q).extractLsb' 96 96 = (s.queue q).extractLsb' 96 96 ∧ ∀ p, p ≠ q → u.queue p = s.queue p)) ∧
  (∀ s : State,
    let h := s.host
    let size := 2 ^ (h.eqctl.extractLsb' 0 4).toNat
    let open_ := h.eqctl.getLsbD 8 = true ∧ 16 ≤ size ∧ (h.eqtail - h.eqhead).toNat < size ∧ s.mgmt.down = false
    let errors (d : Nat) : List (BitVec 256) := Tab.get [] s.mgmt.errors d
    let key := hostKey (h.eqbase.toNat + 256 * (h.eqtail.toNat % size))
    let lost : BitVec 16 := BitVec.ofNat 16 (min (h.lost + (s.mgmt.drops.map Prod.snd).sum) 0xFFFF)
    let old := s.mgmt.posted.filter fun x => decide (s.now ≤ (x.2.extractLsb' 128 64).toNat + 2 ^ 20) && decide (x.1 ≠ key + 32)
    (¬open_ → exec .eventPost s = .next s) ∧
    (open_ → h.events = [] → (∀ d < 4, errors d = []) → exec .eventPost s = .next s) ∧
    (∀ e rest, open_ → h.events = e :: rest → ∃ r : BitVec 2048,
      r.extractLsb' 0 48 = e.extractLsb' 0 48 ∧ r.extractLsb' 48 16 = lost ∧
      r.extractLsb' 64 1984 = e.extractLsb' 64 1984 ∧
      exec .eventPost s = .next (({ s.wrNat key 256 r.toNat with
        host := { h with events := rest, eqtail := h.eqtail + 1, msix := h.msix + 1, lost := 0 },
        mgmt := { s.mgmt with drops := [], posted := old } } : State).due [⟨.eventPost, .none⟩])) ∧
    (∀ d e rest, open_ → h.events = [] → d < 4 → (∀ j < d, errors j = []) → errors d = e :: rest → ∃ r : BitVec 2048,
      let new := if e.extractLsb' 32 8 = 1 then [(key + 32, setField e 128 64 s.now)] else []
      r.extractLsb' 0 32 = 0x01 ∧ r.extractLsb' 32 16 = e.extractLsb' 80 16 ∧
      r.extractLsb' 48 16 = lost ∧ r.extractLsb' 64 64 = BitVec.ofNat 64 s.now ∧
      r.extractLsb' 128 128 = 0 ∧ r.extractLsb' 256 256 = e ∧ r.extractLsb' 512 1536 = 0 ∧
      exec .eventPost s = .next (({ s.wrNat key 256 r.toNat with
        host := { h with eqtail := h.eqtail + 1, msix := h.msix + 1, lost := 0 },
        mgmt := { s.mgmt with
          errors := Tab.set [] s.mgmt.errors d rest, drops := [], posted := old ++ new } } : State).due
          [⟨.eventPost, .none⟩]))) ∧
  (∀ (s : State) (off : Nat) (v : Word64), s.arg = .value off v →
    let h := s.host
    let m := h.mbox
    let kind := m.extractLsb' 0 8
    let op := m.extractLsb' 64 2
    let submits (i : Instr) : Prop := exec .registerWrite s =
      .next (({ s with host := { h with busy := true } } : State).due [⟨i, .cmd 32768 m⟩])
    let moved : Mgmt := { s.mgmt with posted := [] }
    (off = 0x00 → exec .registerWrite s = .next { s with host := { h with eqbase := v }, mgmt := moved }) ∧
    (off = 0x08 → exec .registerWrite s =
      .next (({ s with host := { h with eqctl := v &&& 0x10F }, mgmt := moved } : State).due [⟨.eventPost, .none⟩])) ∧
    (off = 0x10 → exec .registerWrite s =
      .next (({ s with host := { h with eqhead := v } } : State).due [⟨.eventPost, .none⟩])) ∧
    (∀ j < 8, off = 0x40 + 8 * j → ∃ m : BitVec 512, exec .registerWrite s = .next { s with host := { h with mbox := m } } ∧
      m.extractLsb' (64 * j) 64 = v ∧ ∀ i < 8, i ≠ j → m.extractLsb' (64 * i) 64 = h.mbox.extractLsb' (64 * i) 64) ∧
    (off = 0x80 → h.busy = true → exec .registerWrite s = .next s) ∧
    (off = 0x80 → h.busy = false →
      (m.extractLsb' 8 56 ≠ 0 → submits .mboxBadcmd) ∧
      (m.extractLsb' 8 56 = 0 →
        (kind = 0x01 → submits .qcfg) ∧ (kind = 0x02 → submits .setMode) ∧
        (kind = 0x03 → (op = 0 → submits .layoutPrepare) ∧ (op = 1 → submits .layoutCommit) ∧
          (op = 2 → submits .layoutAbort) ∧ (op = 3 → submits .mboxBadcmd)) ∧
        (kind = 0x04 → submits .retire) ∧ (kind = 0x05 → submits .returnUnit) ∧ (kind = 0x06 → submits .answer) ∧
        (kind = 0x07 → submits .resumeFault) ∧ (kind = 0x08 → submits .attest) ∧ (kind = 0x09 → submits .fwload) ∧
        (kind = 0x0A → (op = 0 → submits .podcfgSetPkgn) ∧ (op = 1 → submits .podcfgSetRoute) ∧
          (op = 2 ∨ op = 3 → submits .mboxBadcmd)) ∧
        (kind = 0 ∨ 0x0A < kind.toNat → submits .mboxBadcmd))) ∧
    (off ∈ [0x18, 0x20, 0x28, 0x30, 0x38, 0x88] → exec .registerWrite s = .next s) ∧
    s.hostRead 0x00 = h.eqbase ∧ s.hostRead 0x08 = h.eqctl ∧ s.hostRead 0x10 = h.eqhead ∧ s.hostRead 0x18 = h.eqtail ∧
    s.hostRead 0x20 = h.mpmode ∧ (∀ j < 8, s.hostRead (0x40 + 8 * j) = m.extractLsb' (64 * j) 64) ∧ s.hostRead 0x80 = 0 ∧
    s.hostRead 0x88 = h.mbres ∧ ∀ q, s.hostRead (0x10000 + 8 * q) = 0) ∧
  (∀ (s : State) (m : BitVec 512) (status result : Nat), s.arg = .cmd 32768 m → status < 256 → result < 2 ^ 32 →
    ∃ r : Word64, s.endCommand status result = { s with host := { s.host with mbres := r, busy := false } } ∧
      r.extractLsb' 0 8 = BitVec.ofNat 8 status ∧ r.extractLsb' 8 8 = m.extractLsb' 0 8 ∧ r.extractLsb' 16 16 = 0 ∧
      r.extractLsb' 32 32 = BitVec.ofNat 32 result) ∧
  (∀ s : State, ∀ i ∈ [Instr.qcfg, .setMode, .layoutPrepare, .layoutCommit, .layoutAbort, .retire,
    .returnUnit, .answer, .resumeFault, .attest, .podcfgSetPkgn, .podcfgSetRoute, .mboxBadcmd],
    (s.mgmt.recovery = true → exec i s = .next (s.endCommand 8 0)) ∧
    (s.mgmt.recovery = false → s.mgmt.down = true → exec i s = .next (s.endCommand 1 0))) ∧
  (∀ (s : State) (m : BitVec 512), s.arg = .cmd 32768 m → s.mgmt.recovery = false → s.mgmt.down = false →
    let n (lo w : Nat) : Nat := (m.extractLsb' lo w).toNat
    let ends (i : Instr) (t : State) (st r : Nat) : Prop :=
      exec i s = .next (({ t with mgmt := { t.mgmt with watchdog := t.now } } : State).endCommand st r)
    let unit := unitOf (n 80 8) (n 64 16)
    let busy (u : Nat) : Prop := (u < 16 ∧ s.board.switching ≠ 0) ∨ (16 ≤ u ∧ u < 24 ∧ ∃ h ∈ s.board.handovers, h.stack = u - 16)
    ends .mboxBadcmd s 2 0 ∧
    (let q := n 64 15
     let new := m.extractLsb' 128 128
     let old := s.queue q
     let bad := new.extractLsb' 52 10 ≠ 0 ∨ new.extractLsb' 64 48 ≠ 0 ∨ new.extractLsb' 0 6 ≠ 0 ∨
       (new.extractLsb' 48 4).toNat < 4 ∨ (new.getLsbD 63 = true ∧ (s.part (new.extractLsb' 112 16).toNat).record = 0)
     let empty := old.extractLsb' 160 32 = if old.getLsbD 62 then old.extractLsb' 64 32 else old.extractLsb' 128 32
     let opens := new.getLsbD 63 = true ∧ old.getLsbD 63 = false
     (bad → ends .qcfg s 2 0) ∧ (¬bad → old.getLsbD 63 = true → ¬empty → ends .qcfg s 1 0) ∧
     (¬bad → opens → s.queueFits (new.extractLsb' 112 16).toNat = false → ends .qcfg s 3 0) ∧
     (¬bad → (old.getLsbD 63 = true → empty) → (opens → s.queueFits (new.extractLsb' 112 16).toNat = true) →
       ∃ x : BitVec 192, ends .qcfg (s.modQueue q fun _ => x) 0 0 ∧ x.extractLsb' 0 64 = new.extractLsb' 0 64 ∧
         x.extractLsb' 96 32 = new.extractLsb' 96 32 ∧
         (opens → x.extractLsb' 64 32 = 0 ∧ x.extractLsb' 128 64 = 0) ∧
         (¬opens → x.extractLsb' 64 32 = old.extractLsb' 64 32 ∧ x.extractLsb' 128 64 = old.extractLsb' 128 64))) ∧
    (s.board.switching ≠ 0 → ends .setMode s 1 0) ∧
    (s.board.switching = 0 → ∃ u : State, ends .setMode u 0 0 ∧ u.host.mpmode = (m.extractLsb' 64 6).setWidth 64 ∧
      (∀ a ∈ u.host.assisted, a ∈ s.host.assisted ∧ (m.getLsbD (64 + a.fn) = true ∧ a.fn < 6 ∨ a.answer ≠ none)) ∧
      (∀ a ∈ s.host.assisted, a.fn < 6 → m.getLsbD (64 + a.fn) = false → a.answer = none → a.due ∈ u.agenda) ∧
      (m.getLsbD 67 = false → ∀ h ∈ u.board.handovers, h.assisted = false)) ∧
    (let a := n 128 48
     let r := s.prepare (fun off k => s.rdNat (hostKey (a + off)) k) a
     (a % 64 ≠ 0 → ends .layoutPrepare s 2 0) ∧ (a % 64 = 0 → ends .layoutPrepare r.1 r.2.1 (r.2.2.getD 0))) ∧
    (s.board.prepared = none → ends .layoutCommit s 3 0 ∧ ends .layoutAbort s 3 0) ∧
    (∀ l, s.board.prepared = some l →
      let dropped (kind : Nat) : State := (s.modBoard fun b => { b with prepared := none }).journalLayout kind l
      ends .layoutAbort (dropped 0x05) 0 0 ∧ (s.board.switching ≠ 0 → ends .layoutCommit s 1 0) ∧
      (s.board.switching = 0 → ends .layoutCommit ((dropped 0x02).startSwitch l 0 0) 0 0)) ∧
    (unit = none → ends .retire s 2 0 ∧ ends .returnUnit s 2 0) ∧
    (∀ u, unit = some u →
      (s.isRetired u = true → ends .retire s 4 0) ∧ (s.isRetired u = false → busy u → ends .retire s 1 0) ∧
      (s.isRetired u = false → ¬busy u → ∃ d : Due, ends .retire (s.due [d]) 0 0 ∧
        (∀ c < 16, u = unitCluster c → d = .num .clusterRetire c) ∧ (∀ k < 8, u = unitStack k → d = .num .stackRetire k) ∧
        (∀ l < 4, u = unitLink l → d = .num .linkRetire 0 l) ∧ (∀ p < 8, u = unitCxl p → d = .num .linkRetire 1 p) ∧
        (∀ p < 16, u = unitJorrin p → d = .num .linkRetire 2 p)) ∧
      (busy u → ends .returnUnit s 1 0) ∧
      (¬busy u → s.isRetired u = true → ends .returnUnit (s.returnsUnit u) 0 0 ∧
        (Tab.wf false s.mgmt.retired = true → (s.returnsUnit u).isRetired u = false)) ∧
      (¬busy u → s.isRetired u = false →
        let c := unitChannel (n 64 16 / 64) (n 64 16 % 64)
        (n 80 8 = 0x04 ∧ s.isRetired c = true → ends .returnUnit (s.returnsUnit c) 0 0) ∧
        (¬(n 80 8 = 0x04 ∧ s.isRetired c = true) → ends .returnUnit s 2 0))) ∧
    ((∀ a ∈ s.host.assisted, a.tag = n 64 32 → a.answer ≠ none) → ends .answer s 5 0) ∧
    (∀ a, s.host.assisted.find? (fun x => decide (x.tag = n 64 32) && x.answer.isNone) = some a →
      ∃ u : State, ends .answer (u.due [a.due]) 0 0 ∧ { a with answer := some (m.extractLsb' 96 64) } ∈ u.host.assisted ∧
        u = { s with host := { s.host with assisted := u.host.assisted } }) ∧
    (s.resume (n 64 16) (m.extractLsb' 96 32) = none → ends .resumeFault s 5 0) ∧
    (∀ t, s.resume (n 64 16) (m.extractLsb' 96 32) = some t → ends .resumeFault t 0 0) ∧
    (2 ^ 20 ≤ s.mgmt.leaf.toNat → ends .attest s 9 0) ∧
    (s.mgmt.leaf.toNat < 2 ^ 20 → s.MemOk →
      let running := s.mgmt.running
      let body := natToBytes 32 (shake256 running) ++ natToBytes 4 (bytesToNat (running.take 64) % 2 ^ 32) ++
        natToBytes 4 s.board.layout.version.toNat ++ natToBytes 8 s.host.mpmode.toNat ++
        natToBytes 32 (m.extractLsb' 64 256).toNat
      let quote := body ++ Config.identitySignature s.mgmt.leaf body
      let addr := hostKey (n 320 48)
      ∃ u : State, ends .attest u 0 0 ∧ u.mgmt.leaf = s.mgmt.leaf + 1 ∧
        (∃ r, u.mgmt.journal.getLast? = some r ∧ recordKind r = 0x15 ∧ recordArg r = s.mgmt.leaf.toNat + 1) ∧
        (∀ i < quote.length, u.byte (addr + i) = quote.getD i 0) ∧
        ∀ key, key < addr ∨ addr + quote.length ≤ key → u.byte key = s.byte key) ∧
    (n 80 12 ≠ s.pod.pkgn.toNat → (∃ e ∈ s.partList, e.2.pjob ≠ 0) → ends .podcfgSetPkgn s 1 0) ∧
    (n 80 12 = s.pod.pkgn.toNat ∨ (∀ e ∈ s.partList, e.2.pjob = 0) → ends .podcfgSetPkgn { s with pod := { s.pod with
      pkgn := m.extractLsb' 80 12, routes := Tab.set 0 s.pod.routes (n 80 12) 0 } } 0 0) ∧
    ends .podcfgSetRoute (if n 80 12 = s.pod.pkgn.toNat then s
      else ({ s with pod := { s.pod with routes := Tab.set 0 s.pod.routes (n 80 12) (m.extractLsb' 96 16) } } : State).failUnrouted)
      0 0) ∧
  (∀ (s : State) (m : BitVec 512), s.arg = .cmd 32768 m →
    let image := s.rdN (hostKey (m.extractLsb' 64 48).toNat) (m.extractLsb' 128 32).toNat
    let header : BitVec 512 := BitVec.ofNat 512 (bytesToNat (image.take 64))
    let version := header.extractLsb' 0 32
    let n := 64 + (header.extractLsb' 64 32).toNat
    let signed := Config.signatureValid Config.keyHash (image.take n) (image.drop n) = true ∧ n < image.length ∧
      header.extractLsb' 32 32 = 0 ∧ header.extractLsb' 96 416 = 0
    let stored : State := { s with mgmt := { s.mgmt with
      stored := image, fuse := version.setWidth 64, watchdog := s.now } }
    (s.mgmt.down = true → exec .fwload s = .next (s.endCommand 1 0)) ∧
    (s.mgmt.down = false → ¬signed → exec .fwload s = .next (s.endCommand 6 0)) ∧
    (s.mgmt.down = false → signed → version.toNat < s.mgmt.fuse.toNat → exec .fwload s = .next (s.endCommand 7 0)) ∧
    (s.mgmt.down = false → signed → s.mgmt.fuse.toNat ≤ version.toNat → exec .fwload s = .next (
      if s.mgmt.recovery then (stored.endCommand 0 0).due [.num .powerOn 0 1] else stored.endCommand 0 0)))

/-- R436 to R439, 08 R172, R189, R193 to R196, 09 R211, R212, 11 R281 to R284, 21 R424: requests that arrive for a
pod job are served for its partition and answered, a put, an atomic and a signal once; with no such partition they
are refused. An answer ends its request. A message for another package is passed on; one with no route, or not
delivered in 2^24 cycles, has failed, and its destination is lost. At PROOT the arrivals of PMEM members release a
barrier, and P arrivals complete a reduction, whose operands are combined per package first (log 86); a lost member
completes it with SHORT, where PROOT is lost with its arrivals taken back, and cancels the graphs of the gangs. While
a stack is handed over a request to it waits. A replay counts toward the port's retirement. The choices of the model
in it are those of logs 1, 2, 48, 54, 63, 64, 84 and 86. -/
def Obligations.PodEvents : Prop :=
  (∀ (s : State) (pkg j tag : Nat) (x : PutMsg) (a : AtomMsg) (c : CopyMsg) (d : Addr) (data : List Byte) (bad : List Nat)
      (w : Word64),
    let key := appliedKey pkg j tag
    let gets (m : PodMsg) (t : State) : Prop := s.arg = .pod m → exec .podMessageReceive s = .next t
    let answer (st : Nat) (t : State) : State := t.sendPod pkg (.performed j tag st)
    let requests := [PodMsg.put pkg j tag x, .atom pkg j tag a, .copyWords pkg j tag c d data bad, .signal pkg j tag c w]
    (s.podPart j = none → ∀ m ∈ requests, gets m (answer 3 s)) ∧
    (∀ pid, s.podPart j = some pid →
      ((s.part pid).discarding = true → ∀ m ∈ requests, gets m s) ∧
      ((s.part pid).discarding = false → pid ∈ s.board.draining →
        ∀ m ∈ requests, gets m (s.dueIn 64 ⟨.podMessageReceive, .pod m⟩)) ∧
      ((s.part pid).discarding = false → pid ∉ s.board.draining →
        (s.repeated key = true → gets (.put pkg j tag x) (answer 0 s) ∧ gets (.signal pkg j tag c w) (answer 0 s) ∧
          gets (.atom pkg j tag a)
            (if a.returning then s.sendPod pkg (.atomReply j tag none true) else answer 0 s)) ∧
        (s.repeated key = false →
          (∀ p va, x.dest = .remote p va →
            let n := x.data.length
            (∀ e, s.vKeys pid va.toNat (min n 4) false true (n / min n 4) = .error e →
              gets (.put pkg j tag x) (s.sendPod pkg (.faulted j tag))) ∧
            (∀ keys h, s.vKeys pid va.toNat (min n 4) false true (n / min n 4) = .ok keys →
              s.heldBy 4 (keyStacks keys) = some h →
              gets (.put pkg j tag x) (s.waitFor h ⟨.podMessageReceive, .pod (.put pkg j tag x)⟩)) ∧
            (∀ keys, s.vKeys pid va.toNat (min n 4) false true (n / min n 4) = .ok keys →
              s.heldBy 4 (keyStacks keys) = none →
              let t := (s.apply key).land x keys
              gets (.put pkg j tag x) (answer 0 (if x.rest.isSome then t else t.signal pid x.target)))) ∧
          (∀ p va, a.dest = .remote p va →
            let n := sizeOf' a.ty
            (∀ e, s.vKey pid va.toNat true true = .error e →
              gets (.atom pkg j tag a) (s.sendPod pkg (.faulted j tag))) ∧
            (∀ k h, s.vKey pid va.toNat true true = .ok k → s.heldBy 4 (keyStacks [k]) = some h →
              gets (.atom pkg j tag a) (s.waitFor h ⟨.podMessageReceive, .pod (.atom pkg j tag a)⟩)) ∧
            (∀ k, s.vKey pid va.toNat true true = .ok k → s.heldBy 4 (keyStacks [k]) = none →
              (2 ^ 39 ≤ k → gets (.atom pkg j tag a) (answer 2 s)) ∧
              (k < 2 ^ 39 → a.bad = true ∨ s.poisonIn k n ≠ none → gets (.atom pkg j tag a) (answer 9 s)) ∧
              (k < 2 ^ 39 → a.bad = false → s.poisonIn k n = none → a.ty = none ∨ a.ty = some .i32 ∨ a.ty = some .f32 →
                let old := s.rdNat k n
                let t := (s.apply key).wrNat k n (atomResult a.ty a.op old a.v a.cmp)
                gets (.atom pkg j tag a) (if a.returning
                  then t.sendPod pkg (.atomReply j tag (some (BitVec.ofNat 64 old)) false) else answer 0 t)))) ∧
          gets (.signal pkg j tag c w) (answer 0 ((s.apply key).signal pid w))) ∧
        (∀ e, s.vKey pid d.toNat false true = .error e →
          gets (.copyWords pkg j tag c d data bad) (s.sendPod pkg (.faulted j tag))) ∧
        (∀ k, s.vKey pid d.toNat false true = .ok k →
          gets (.copyWords pkg j tag c d data bad) ((s.wrBad k data bad).sendPod pkg (.copied j tag data.length)))))) ∧
  (∀ (s : State) (j tag st n : Nat) (old : Option Word64) (error : Bool),
    let gets (m : PodMsg) (t : State) : Prop := s.arg = .pod m → exec .podMessageReceive s = .next t
    let mine (e : Sent) : Prop := e.own = true ∧ requestTag e.msg = some (j, tag)
    ((∀ e ∈ s.pod.outbox, ¬mine e) → ∀ m ∈ [PodMsg.performed j tag st, .faulted j tag, .copied j tag n,
      .atomReply j tag old error], gets m s) ∧
    (∀ pre e post, s.pod.outbox = pre ++ e :: post → (∀ f ∈ pre, ¬mine f) → e.own = true →
      let t : State := { s with pod := { s.pod with
        outbox := pre ++ post, unreachable := Tab.set false s.pod.unreachable e.dst false } }
      let ended (i : Issuer) (status : Nat) (addr : Addr) : State :=
        t.fault i ⟨4, status, 0, 0, addr.toNat, 0, 0⟩
      let held (i : Issuer) (d : Due) (addr aux : Addr) : State :=
        t.hold i (.op d i.tcb) ⟨3, 0, 0x07, 0x07, addr.toNat, aux.toNat, 0⟩
      (∀ pkg x, e.msg = .put pkg j tag x →
        (x.rest = none → gets (.performed j tag 0) (t.opEnd x.by_.pid x.by_.tcb)) ∧
        (∀ r, x.rest = some r → gets (.performed j tag 0) (t.due [⟨.putDelivery,
          .put { x with addr := r.addr, dest := r.dest, data := r.data, bad := r.bad, rest := none }⟩])) ∧
        (st ≠ 0 → gets (.performed j tag st) ((ended x.by_ st x.addr).opEnd x.by_.pid x.by_.tcb)) ∧
        gets (.faulted j tag) (held x.by_ ⟨.podFlitReplay, .pod e.msg⟩ x.addr 0)) ∧
      (∀ pkg a, e.msg = .atom pkg j tag a →
        let trapped (kind detail : BitVec 8) : State := t.reply a.by_.core a.by_.ctx (Reply.trapped kind detail a.addr)
        let n := 8 * sizeOf' a.ty
        (a.returning = true →
          (∀ m v, m = PodMsg.atomReply j tag old error ∧ v = old ∧ (error = true ∨ old = none) ∨
              (m = .performed j tag 0 ∨ m = .performed j tag 1) ∧ v = none →
            ∃ r : Reply, r.a = v.map (fun w => loadedValue a.ty w.toNat) ∧ r.trap = none ∧ r.x = none ∧
              r.fmask = (if a.op = .cas then 0xD else 0xC) ∧ r.fval &&& 0xC = (if v = none then 8 else 12) ∧
              gets m ((ended a.by_ 1 a.addr).reply a.by_.core a.by_.ctx r)) ∧
          (∀ v, old = some v → ∃ r : Reply, r.a = some (loadedValue a.ty v.toNat) ∧ r.trap = none ∧ r.x = none ∧
            r.fmask = (if a.op = .cas then 0xD else 0xC) ∧
            r.fval &&& r.fmask = (if a.op = .cas ∧ v.toNat = a.cmp.toNat % 2 ^ n then 5 else 4) ∧
            gets (.atomReply j tag old false) (t.reply a.by_.core a.by_.ctx r)) ∧
          (2 ≤ st → st ≠ 9 → gets (.performed j tag st) (trapped kMemory 0x02)) ∧
          gets (.performed j tag 9) (trapped kMemory 0x01) ∧ gets (.faulted j tag) (trapped kXlate 0x07)) ∧
        (a.returning = false →
          gets (.performed j tag 0) (t.opEnd a.by_.pid a.by_.tcb) ∧
          (st ≠ 0 → st ≠ 9 → gets (.performed j tag st) ((ended a.by_ st a.addr).opEnd a.by_.pid a.by_.tcb)) ∧
          gets (.performed j tag 9) ((ended a.by_ 2 a.addr).opEnd a.by_.pid a.by_.tcb) ∧
          gets (.faulted j tag) (held a.by_ ⟨.podFlitReplay, .pod e.msg⟩ a.addr 0))) ∧
      (∀ pkg c d data bad, e.msg = .copyWords pkg j tag c d data bad →
        gets (.performed j tag 0) t ∧
        (st ≠ 0 → gets (.performed j tag st) (t.copyFail c st 0 (copyDst c))) ∧
        gets (.faulted j tag) (held c.by_ ⟨.copyServe, .copy c 0⟩ (copyDst c) c.daddr) ∧
        gets (.copied j tag n) (
          let m := { c with done := c.done + n }
          t.due [if m.done < cpLen m.desc then ⟨.copyServe, .copy m 0⟩
            else if m.chain then ⟨.chainHop, .copy m 1⟩ else ⟨.copyComplete, .copy m 0⟩])) ∧
      (∀ pkg c w, e.msg = .signal pkg j tag c w →
        gets (.performed j tag 0) (t.copyEnd c) ∧
        (st ≠ 0 → gets (.performed j tag st) (t.copyFail c st 0 (copyDst c)))))) ∧
  (∀ (s : State) (m : PodMsg) (pkg : Nat),
    let sent (own : Bool) : State :=
      let u : State := { s with pod := { s.pod with outbox := s.pod.outbox ++ [⟨pkg, s.now, false, own, m⟩] } }
      if s.route pkg = [] then u.due [⟨.podDeliveryTimeout, .packet pkg m⟩]
      else u.dueIn (2 ^ 24) ⟨.podDeliveryTimeout, .packet pkg m⟩
    (pkg ≠ s.pod.pkgn.toNat → s.sendPod pkg m = sent true) ∧
    (s.arg = .packet pkg m → pkg ≠ s.pod.pkgn.toNat → exec .podMessageReceive s = .next (sent false)) ∧
    (pkg = s.pod.pkgn.toNat → s.sendPod pkg m = s.due [⟨.podMessageReceive, .pod m⟩]) ∧
    (s.arg = .packet pkg m → pkg = s.pod.pkgn.toNat →
      exec .podMessageReceive s = exec .podMessageReceive { s with arg := .pod m })) ∧
  (∀ (s : State) (pkg a b c : Nat), s.arg = .num pkg a b c →
    ((∀ e ∈ s.pod.outbox, e.dst = pkg → e.delivered = true) → exec .podMessageReceive s = .next s) ∧
    (∀ pre e post, s.pod.outbox = pre ++ e :: post → (∀ f ∈ pre, f.dst = pkg → f.delivered = true) → e ∉ post →
      e.dst = pkg → e.delivered = false →
      let mark := if e.own ∧ (requestTag e.msg).isSome = true then [{ e with delivered := true }] else []
      exec .podMessageReceive s = .next { s with pod := { s.pod with
        outbox := pre ++ mark ++ post, unreachable := Tab.set false s.pod.unreachable pkg false } })) ∧
  (∀ (s : State) (x : PutMsg) (y : AtomMsg) (a b c pkg : Nat) (va : Addr),
    (x.dest = .remote pkg va → s.arg = .pod (.put a b c x) → exec .podFlitReplay s = .next (s.sendPod pkg (.put a b c x))) ∧
    (y.dest = .remote pkg va → s.arg = .pod (.atom a b c y) →
      exec .podFlitReplay s = .next (s.sendPod pkg (.atom a b c y)))) ∧
  (∀ (s : State) (port a b c : Nat), s.arg = .num port a b c →
    let before := Tab.get [] s.mgmt.counts (2 ^ 21 + (48 + port))
    let recent := before.filter fun (x : Nat) => decide (s.now < x + 2 ^ 30)
    ∃ t u : State, t = s.errorRec ⟨port / 4, 0x0C, 1, 0, port, 0, 0⟩ ∧ u = t.modMgmt (fun m => { m with
        counts := Tab.set [] m.counts (2 ^ 21 + (48 + port)) (recent ++ [s.now]) }) ∧
      exec .podFlitReplay s = .next (if 2 ^ 20 ≤ recent.length then u.due [⟨.linkRetire, .num 2 port 0 0⟩] else u)) ∧
  (∀ (s : State) (pkg : Nat) (m : PodMsg), s.arg = .packet pkg m →
    let here (e : Sent) : Prop := e.dst = pkg ∧ e.msg = m
    ((∀ e ∈ s.pod.outbox, ¬here e) → exec .podDeliveryTimeout s = .next s) ∧
    (∀ pre e post, s.pod.outbox = pre ++ e :: post → (∀ f ∈ pre, ¬here f) → here e →
      let t : State := { s with pod := { s.pod with outbox := pre ++ post } }
      let lost : State := { t with pod := { t.pod with unreachable := Tab.set false s.pod.unreachable pkg true } }
      (e.delivered = true → s.now < e.since + 2 ^ 25 →
        exec .podDeliveryTimeout s = .next (s.dueIn (2 ^ 24) ⟨.podDeliveryTimeout, .packet pkg m⟩)) ∧
      (e.delivered = true → e.since + 2 ^ 25 ≤ s.now → exec .podDeliveryTimeout s = .next (t.endRequest m 1)) ∧
      (e.delivered = false → s.now < e.since + 2 ^ 24 → s.route pkg ≠ [] → exec .podDeliveryTimeout s = .next s) ∧
      (e.delivered = false → e.since + 2 ^ 24 ≤ s.now ∨ s.route pkg = [] → exec .podDeliveryTimeout s = .next (
        (if e.own then lost.endRequest m 2 else lost).packageLost pkg m)))) ∧
  (∀ (s : State) (p j g n pid : Nat) (qs : List Nat), s.podPart j = some pid → qs.Nodup → p ∉ qs →
    let pmem := (s.part pid).pmem
    let holds (ms : List PodMsg) : State := { s with pod := { s.pod with arrivals := ms } }
    let freed (u : State) : State := (qs ++ [p]).foldl (fun u q => u.sendPod q (.barRelease j g n)) u
    let at_ := qs.map fun q => PodMsg.barArrive q j g n
    (s.arg = .pod (.barArrive p j g n) → s.pod.arrivals = at_ →
      (qs.length + 1 < pmem → exec .podBarrierArrival s = .next (holds (at_ ++ [.barArrive p j g n]))) ∧
      (0 < pmem → pmem ≤ qs.length + 1 → exec .podBarrierArrival s = .next (freed (holds [])))) ∧
    (s.arg = .pod (.memberDone p j g) →
      (s.pod.arrivals = at_ → qs.length + 1 < pmem →
        exec .podBarrierArrival s = .next (holds (at_ ++ [.memberDone p j g]))) ∧
      (s.pod.arrivals = at_ → qs ≠ [] → pmem = qs.length + 1 →
        exec .podBarrierArrival s = .next (freed (holds [.memberDone p j g]))) ∧
      (s.pod.arrivals = qs.map (fun q => PodMsg.memberDone q j g) → pmem ≤ qs.length + 1 →
        exec .podBarrierArrival s = .next (holds []))) ∧
    (∀ pkg, s.arg = .pod (.memberGone j pkg) → exec .podMessageReceive s = .next (s.memberLost pid pkg)) ∧
    (∀ m r rest, s.arg = .pod (.barRelease j g n) → s.meetings = [m] → m.kind = 0 → m.scope = .pod → m.pid = pid →
      s.gangOf pid m.tcb = g → m.tag = n → m.arrived = r :: rest →
      exec .podMessageReceive s = .next (s.due [⟨.barRelease, .arr r⟩]))) ∧
  (∀ (s : State) (p j g kind : Nat) (r : RedArr) (here : List (Nat × RedArr)),
    s.pod.arrivals.filter (sameSum j g kind r) = here.map (fun e => PodMsg.sumArrive e.1 j g e.2 kind) →
    let inOrder (e : RedArr) (l : List Nat) : Nat := match l with
      | [] => 0
      | v :: vs => vs.foldl (redCombine e.fn e.ty) v
    let fold (l : List (Nat × RedArr)) : Nat := match l with
      | [] => 0
      | e :: _ => inOrder e.2 ((l.map Prod.fst).eraseDups.map fun q =>
          inOrder e.2 ((l.filter fun x => decide (x.1 = q)).map fun x => x.2.v.toNat))
    let tell (l : List (Nat × RedArr)) (st : Nat) (u : State) : State :=
      l.foldl (fun u e => u.sendPod e.1 (.sumRelease j g { e.2 with v := BitVec.ofNat 64 (fold l) } st)) u
    let holds (ms : List PodMsg) : State := { s with pod := { s.pod with arrivals := ms } }
    let others := s.pod.arrivals.filter fun m => !sameSum j g kind r m
    let agrees (e : Nat × RedArr) : Prop := e.2.fn = r.fn ∧ e.2.ty = r.ty ∧ e.2.p = r.p ∧
      ¬(e.1 = p ∧ e.2.by_.core / 8 = r.by_.core / 8)
    (s.arg = .pod (.sumArrive p j g r kind) →
      ((∃ e ∈ here, ¬agrees e) → exec .podMessageReceive s = .next (s.sendPod p (.sumRelease j g r ctMismatch))) ∧
      ((∀ e ∈ here, agrees e) → here.length + 1 < r.p →
        exec .podMessageReceive s = .next (holds (s.pod.arrivals ++ [.sumArrive p j g r kind]))) ∧
      ((∀ e ∈ here, agrees e) → r.p ≤ here.length + 1 →
        exec .podMessageReceive s = .next (tell (here ++ [(p, r)]) ctOk (holds others)))) ∧
    (s.arg = .pod (.sumShort p j g) → s.pod.arrivals = here.map (fun e => PodMsg.sumArrive e.1 j g e.2 kind) →
      exec .podMessageReceive s = .next (tell here ctShort (holds []))) ∧
    (s.arg = .pod (.sumCancel p j g) → s.pod.arrivals = here.map (fun e => PodMsg.sumArrive e.1 j g e.2 kind) →
      exec .podMessageReceive s = .next (holds ((here.filter fun e => decide (e.1 ≠ p)).map fun e =>
        .sumArrive e.1 j g e.2 kind)))) ∧
  (∀ (s : State) (j g st : Nat) (r q : RedArr) (m : Meeting), s.arg = .pod (.sumRelease j g r st) →
    s.meetings = [m] → m.kind ≠ 0 → m.scope = .pod → q ∈ m.arrived → q.by_ = r.by_ →
    let left := m.arrived.filter fun x => decide (x.by_ ≠ r.by_)
    exec .podMessageReceive s = .next (({ s with
      meetings := if left = [] then [] else [{ m with arrived := left }] } : State).reply r.by_.core r.by_.ctx
        (Reply.status st (if m.kind = 1 ∧ st ≠ ctMismatch then some (redResult r.ty r.v.toNat) else none)))) ∧
  (∀ (s : State) (pid pkg : Nat),
    let p := s.part pid
    let gangs (u : State) : Prop := s.memberLost pid pkg = u
    (p.tasks = [] →
      (p.proot ≠ pkg → p.proot ≠ s.pod.pkgn.toNat → gangs s) ∧
      (p.proot ≠ pkg → p.proot = s.pod.pkgn.toNat → gangs (s.countShort p.pjob fun _ => true)) ∧
      (let cut (u : State) : State := { u with pod := { u.pod with outbox := u.pod.outbox.filter fun e =>
          e.delivered || !e.own || match e.msg with
            | .sumArrive _ _ _ r _ => decide (r.by_.pid ≠ pid)
            | _ => true } }
       (p.proot = pkg → s.meetings = [] → gangs (cut s)) ∧
       (∀ m, p.proot = pkg → s.meetings = [m] → m.kind ≠ 0 → m.pid = pid → m.scope = .pod →
        gangs ((cut (m.arrived.foldl (fun u r => u.reply r.by_.core r.by_.ctx (Reply.status ctShort
          (if m.kind = 1 then some (redResult r.ty m.sum) else none))) ({ s with meetings := [] } : State))).sendPod pkg
          (.sumCancel s.pod.pkgn.toNat p.pjob (s.gangOf pid m.tcb)))))) ∧
    (∀ n t g u, p.tasks = [(n, t)] → p.proot ≠ pkg → p.proot ≠ s.pod.pkgn.toNat →
      t.pgang ≠ 0 → t.state ≠ 0 → t.state < tComplete → gAccepts (s.graphOf pid t.graph) = true →
      u = s.fault ⟨0, 0, pid, t.self, 0, s.now⟩ ⟨5, 4, 0, 0, 0, 0, 0⟩ → (u.part pid).graphSlot t.graph = some g →
      gangs (u.cancelGraph pid g false).1)) ∧
  (∀ (s : State) (pkg : Nat) (m : PodMsg),
    let others := (s.pod.routes.map Prod.fst).filter fun n => decide (n ≠ pkg ∧ s.route n ≠ [])
    ((∀ e ∈ s.partList, e.2.pjob = 0) → s.packageLost pkg m = s) ∧
    (∀ pid p, s.partList.filter (fun e => decide (e.2.pjob ≠ 0)) = [(pid, p)] → p.pjob = podJob m ∨ p.proot = pkg →
      s.packageLost pkg m = others.foldl (fun u n => u.sendPod n (.memberGone p.pjob pkg)) (s.memberLost pid pkg)))

/-! ### Frames -/

/-- R102, R104 to R115, R118 to R120, R179: what an instruction of the scalar formats leaves unchanged when it
completes: every register but A or X (its result), the flags and the pointers named for it, the PC and the loop
state; every other context, every counter, vector, window and matrix register; the task, the layout, the host block;
and every byte but the ones that it stores, which a form without a store has none of. The choices of the model in it
are those of log 16. -/
def Obligations.Frames : Prop :=
  ∀ (s : State) (p q disp : BitVec 3) (pm qm : PostMode) (imm off : BitVec 9) (pre : Prefixes) (o o' key : Nat),
    s.Ok → s.Chosen pre →
    let k := s.strand
    let n := sizeOf' pre.ty
    let nf := (pre.ty.getD .f32).size
    let sat := if pre.sat then [8] else []
    let span (a n : Nat) (x : Nat) : Prop := a ≤ x ∧ x < a + n
    let keeps (i : Instr) (stored : Nat → Prop) (result : Bool) (flags ptrs : List Nat) : Prop :=
      i.WellFormed → ∃ t, exec i s = .next t ∧ s.Frame t stored fun k k' => k.Only k' pre.ha result flags ptrs
    let nothing (_ : Nat) : Prop := False
    let at_ (a : Nat) := scratchKey s.myTile a
    let ea := k.apAddr p disp pre n
    (∀ i ∈ [Instr.addImm imm pre, .subImm imm pre, .mulImm imm pre, .addX pre, .subX pre, .mulX pre],
      keeps i nothing true ([0, 1, 2, 3] ++ sat) []) ∧
    (∀ i ∈ [Instr.shlImm imm pre, .shrImm imm pre, .sarImm imm pre, .rolImm imm pre], keeps i nothing true [0, 1, 2] []) ∧
    (∀ i ∈ [Instr.andImm imm pre, .orImm imm pre, .xorImm imm pre, .minImm imm pre, .maxImm imm pre, .andX pre, .orX pre,
      .xorX pre, .clz pre, .popc pre], keeps i nothing true [0, 1] []) ∧
    (∀ i ∈ [Instr.cmpImm imm pre, .cmpX pre], keeps i nothing false [0, 1, 2, 3] []) ∧
    keeps (.tstImm imm pre) nothing false [0, 1] [] ∧
    (∀ i ∈ [Instr.ldi imm pre, .getf pre, .getp p pre], keeps i nothing true [] []) ∧
    (∀ i ∈ [Instr.movp p q false pre, .movp p q true pre, .addp p pre, .sets p (imm.setWidth 5) pre],
      keeps i nothing false [] [p.toNat]) ∧
    (∀ i ∈ [Instr.nop pre, .jmp off pre, .brZ off pre, .brNz off pre, .brN off pre, .brNn off pre, .brC off pre,
      .brNc off pre, .brV off pre, .brNv off pre, .brGt off pre, .brGe off pre, .brLt off pre, .brLe off pre],
      keeps i nothing false [] []) ∧
    (k.loop.lact = false → keeps (.loop off pre) nothing false [] []) ∧
    (∀ d, ∀ i ∈ [Instr.faddX pre, .fmulX pre, .frcp pre, .fcvt d pre], keeps i nothing true [4, 5, 6, 7] []) ∧
    (s.Readable ea n o →
      (∀ i ∈ [Instr.addMem p pm disp pre, .adc p pm disp pre, .subMem p pm disp pre, .sbc p pm disp pre, .mulMem p pm disp pre],
        keeps i nothing true ([0, 1, 2, 3] ++ sat) [p.toNat]) ∧
      (∀ i ∈ [Instr.mulh p pm disp pre, .div p pm disp pre, .rem p pm disp pre],
        keeps i nothing true [0, 1, 2, 3] [p.toNat]) ∧
      (∀ i ∈ [Instr.shlMem p pm disp pre, .shrMem p pm disp pre, .sarMem p pm disp pre, .rolMem p pm disp pre],
        keeps i nothing true [0, 1, 2] [p.toNat]) ∧
      (∀ i ∈ [Instr.andMem p pm disp pre, .orMem p pm disp pre, .xorMem p pm disp pre, .minMem p pm disp pre,
        .maxMem p pm disp pre, .sel p pm disp pre], keeps i nothing true [0, 1] [p.toNat]) ∧
      keeps (.cmpMem p pm disp pre) nothing false [0, 1, 2, 3] [p.toNat] ∧
      keeps (.tstMem p pm disp pre) nothing false [0, 1] [p.toNat] ∧
      keeps (.lda p pm disp pre) nothing true [] [p.toNat]) ∧
    (s.Readable (k.apAddr p disp pre nf) nf o →
      (∀ i ∈ [Instr.faddMem p pm disp pre, .fmulMem p pm disp pre, .fmin p pm disp pre, .fmax p pm disp pre],
        keeps i nothing true [4, 5, 6, 7] [p.toNat]) ∧
      keeps (.fcmp p pm disp pre) nothing false [0, 1, 2, 3, 4] [p.toNat]) ∧
    (s.Readable (k.ptr p.toNat).addr n o → s.Readable (k.ptr q.toNat).addr n o' →
      ∀ i ∈ [Instr.mac p pm q qm pre, .msb p pm q qm pre], keeps i nothing true ([0, 1, 3] ++ sat) [p.toNat, q.toNat]) ∧
    (s.Reaches ea n o → keeps (.sta p pm disp pre) (span (at_ o) n) false sat [p.toNat]) ∧
    (s.Readable (k.ptr p.toNat).addr n o → s.Reaches (k.ptr q.toNat).addr n o' →
      keeps (.movm p pm q qm pre) (span (at_ o') n) false [] [p.toNat, q.toNat]) ∧
    (s.Reaches ((k.ptr 7).addr - 8) 8 o → keeps (.call off pre) (span (at_ o) 8) false [] [7]) ∧
    (s.checked .ldg (k.ptr p.toNat).addr n false true = .ok (.mem [key]) → (s.core s.me).posted < 32 →
      s.heldBy (dieOf s.myTile) (keyStacks [key]) = none →
      keeps (.stg p pm pre) (span key n) false sat [p.toNat])

/-! ### Encoding, stepping, reset -/

/-- R32, R37, R61, R70: the words of a well-formed instruction decode to it, with every operand at every value that
its encoding admits and whatever words follow (rows that share a word with another row, which X at issue tells apart,
decode to the first of them); and what decodes from any words is well formed and is its own reading. -/
def Obligations.DecodeAndEncode : Prop :=
  (∀ (i : Instr) (rest : List Half), i.WellFormed →
    decode (encode i ++ rest) = .instr i.canon (i.pre.count + 1) ∧ (encode i).length = i.pre.count + 1) ∧
  (∀ (ws : List Half) (i : Instr) (n : Nat), decode ws = .instr i n →
    i.WellFormed ∧ i.canon = i ∧ n = i.pre.count + 1 ∧ n ≤ ws.length ∧ decode (ws.take n) = .instr i n)

/-- R60, R70 and the tables of encodings of 02, 03, 06, 08, 09, 11, 14 to 17: words written out in the manual decode
to the instruction that it writes beside them, and words that it calls illegal to the detail that it names. -/
def Obligations.SampleWordsDecode : Prop :=
  let plain := Prefixes.none
  let page : Prefixes := { plain with pgx := true }
  let typed (t : Ty) : Prefixes := { plain with wdx := some ⟨false, .dflt, t⟩ }
  decode [0xF803, 0x20A9] = .instr (.mac 1 .plusStride 2 .plusStride (typed .i8)) 2 ∧
  decode [0xE07D, 0xF040, 0xF805, 0x0368] = .instr (.addMem 3 .plusStride 0
    { typed .i16 with imx := [0x07D], rgx := some ⟨0, true, false, 0⟩ }) 4 ∧
  decode [0x85FC] = .instr (.brNz 0x1FC plain) 1 ∧
  decode [0xF083, 0xA812] = .instr (.vfma 1 2 { plain with rgx := some ⟨1, false, false, 3⟩ }) 2 ∧
  decode [0xE002, 0xBF14] = .instr (.rep 1 4 { plain with imx := [2] }) 2 ∧
  decode [0xE00C, 0xC13C] = .instr (.waitc 3 true 4 { plain with imx := [0x00C] }) 2 ∧
  decode [0xF401, 0xF883, 0xC740] = .instr (.mdrain 2 .none { page with wdx := some ⟨true, .dflt, .i8⟩ }) 3 ∧
  decode [0xF402, 0xD74D] = .instr (.atomCas 2 .acquire .package page) 2 ∧
  decode [0xF403, 0xF807, 0xC655] = .instr (.netred .max true .package { page with wdx := some ⟨false, .dflt, .f32⟩ }) 3 ∧
  decode [0xF404, 0xC948] = .instr (.qpost 2 .plusStride page) 2 ∧
  decode [0xF100, 0xF405, 0xC300] = .instr (.sqcmt { page with rgx := some ⟨2, false, false, 0⟩ }) 3 ∧
  decode [0xF406, 0xD015] = .instr (.stkpass 2 5 page) 2 ∧
  decode [0x0000] = .illegal 0x06 ∧ decode [0xFFFF] = .illegal 0x02 ∧ decode [0xF403, 0xF403, 0xC100] = .illegal 0x03 ∧
  decode [0xF403, 0x0368] = .illegal 0x05

/-- R13, R20, R32, R61, R190, R350, R386, R448: a step with a device step due runs it; with none due the next core in
turn issues. Where the words from the PC on are in the instruction cache and decode to an instruction, the step is
that instruction's exec, or raises what the decoder says is illegal; a word that is missing is sent for. A deferred
refusal of the strand comes first while INH = 0. While the injection of its partition is held a strand stalls at what
injects. In recovery the steps of the PF's registers alone are run. The choices of the model in it are those of logs
1, 2 and 63. -/
def Obligations.StepRunsDecoded : Prop :=
  ∀ s : State,
    let u := s.tick
    (∀ d rest, u.agenda = d :: rest →
      let v : State := { u with agenda := rest, arg := d.arg }
      (s.mgmt.recovery = false ∨ inRecovery d.what = true → step s = exec d.what v) ∧
      (s.mgmt.recovery = true → inRecovery d.what = false → step s = .next v)) ∧
    (∀ g, u.agenda = [] → s.mgmt.recovery = false → u.nextCore = some g →
      let v : State := { u with turn := g }
      let k := v.strand
      let x := v.tile (g / 8)
      let held := v.pidOf g ∈ s.board.draining
      let pending := k.inh = false ∧ ∃ r ∈ (v.core g).refusals, r.ctx = v.myCtx
      let word (n : Nat) : Option Half := Tab.get none x.icache ((k.pc + BitVec.ofNat 48 (2 * n)).toNat / 2)
      let code (n : Nat) : Prop := (k.pc + BitVec.ofNat 48 (2 * n)).toNat < 0xF00000000000
      (pending → step s = exec .deferredRefusal { v with arg := .num g v.myCtx 0 0 }) ∧
      (∀ (ws : List Half) (i : Instr), ¬pending → (∀ n < ws.length, word n = ws[n]? ∧ code n) →
        decode ws = .instr i ws.length →
        (¬held ∨ injects i = false → step s = exec (refine k i) v) ∧
        (held → injects i = true → step s = .next v.stall)) ∧
      (∀ (ws : List Half) (d : BitVec 8), ¬pending → ws ≠ [] → (∀ n < ws.length, word n = ws[n]? ∧ code n) →
        decode ws = .illegal d → decode (ws.take (ws.length - 1)) = .more → step s = exec (.illegalInstruction d) v) ∧
      (∀ n < 5, ¬pending → (∀ m < n, code m) → code n → word n = none → (∀ m < n, ∃ w, word m = some w ∧
        w.extractLsb' 13 3 = 7) → (decode ((List.range n).map fun m => (word m).getD 0) = .more) →
        step s = .next (if held then v.stall else v.fetchMiss g v.myCtx (k.pc + BitVec.ofNat 48 (2 * n))))) ∧
    (u.agenda = [] → s.mgmt.recovery = true ∨ u.nextCore = none → step s = .next u) ∧
    (∀ g, u.nextCore = some g → (u.core g).running ≠ none ∧ (u.core g).stalled = false ∧ u.parked g = false) ∧
    (∀ g, (u.core g).running ≠ none → (u.core g).stalled = false → u.parked g = false → ∃ h, u.nextCore = some h) ∧
    u.now = s.now + 1 ∧ (∀ d ∈ u.agenda, d ∈ s.agenda ∨ ∃ e ∈ s.later, e.1 ≤ s.now + 1 ∧ e.2 = d) ∧
    (∀ e ∈ s.later, e.1 ≤ s.now + 1 ∨ e ∈ u.later)

/-- The tables of the state stay in canonical form, in every step from a state in which they are: what a step writes
is what later steps read. -/
def Obligations.StepKeepsForm : Prop :=
  ∀ s t : State, s.Ok → step s = .next t → t.Ok

/-- R3, R12, R394, R449, R450: the module after reset and bring-up. The tables are in canonical form; every byte and
every counter is zero; no context is live; die d owns stacks 2d and 2d + 1; region r has SET 0xFF, GRAN 12 and SOFF
512 r; no tile has a partition and no partition exists; the explicit regions have size 0; every queue is disabled and
empty; every function is in hardware mode; the event ring is disabled, and the event of KIND 0x09 waits for it. The
choices of the model in it are those of logs 4 and 6. -/
def Obligations.ResetState : Prop :=
  let s := State.reset
  s.Ok ∧ (∀ key, s.byte key = 0) ∧ (∀ key n, s.poisonIn key n = none) ∧
  (∀ g, (∀ n, (s.ctx g n).live = false) ∧ ∀ n, s.counter g n = 0) ∧
  (∀ d < 4, s.ownerOf (2 * d) = d ∧ s.ownerOf (2 * d + 1) = d) ∧
  (∀ r < 64, let e := Tab.get 0 s.board.regions r
    e.extractLsb' 0 8 = 0xFF ∧ e.extractLsb' 8 5 = 12 ∧ (e.extractLsb' 32 15).toNat = 512 * r ∧ e.extractLsb' 13 19 = 0 ∧
      e.extractLsb' 47 17 = 0) ∧
  (∀ t, s.tileEntry t = 0) ∧ (∀ pid, s.part pid = Part.absent) ∧ s.board.layout.expl = 0 ∧
  (∀ q, (s.queue q).getLsbD 63 = false ∧ (s.queue q).extractLsb' 64 32 = 0 ∧ (s.queue q).extractLsb' 128 64 = 0) ∧
  s.host.mpmode = 0 ∧ s.host.ringOpen = false ∧ (∀ u, s.isRetired u = false) ∧
  ∃ e, s.host.events = [e] ∧ e.extractLsb' 0 8 = 0x09
end

