-- ==== Sys2Proof/Laws/Tab.lean ====
section
/-! SUPPORT. Sparse tables: reading after writing, and the canonical form kept by every operation on them. -/

namespace Sys2Proof

theorem Tab.get_of_lt {α : Type} (d : α) (k n : Nat) (v : α) (t : Tab α) (h : n < k) : Tab.get d ((k, v) :: t) n = d := by
  have : n ≠ k := by omega
  simp [Tab.get, this, h]

/-- The canonical form from a bound only depends on the bound being below the first key. -/
theorem Tab.wfFrom_mono {α : Type} [DecidableEq α] (d : α) (t : Tab α) (a b : Nat) (hab : b ≤ a)
    (h : Tab.wfFrom d (some a) t = true) : Tab.wfFrom d (some b) t = true := by
  cases t with
  | nil => rfl
  | cons e t =>
    simp only [Tab.wfFrom, Bool.and_eq_true, decide_eq_true_eq] at h ⊢
    exact ⟨⟨by omega, h.1.2⟩, h.2⟩

theorem Tab.wfFrom_none {α : Type} [DecidableEq α] (d : α) (t : Tab α) (a : Nat)
    (h : Tab.wfFrom d (some a) t = true) : Tab.wfFrom d none t = true := by
  cases t with
  | nil => rfl
  | cons e t =>
    simp only [Tab.wfFrom, Bool.and_eq_true, decide_eq_true_eq] at h ⊢
    exact ⟨⟨trivial, h.1.2⟩, h.2⟩

theorem Tab.wfFrom_set {α : Type} [DecidableEq α] (d : α) (t : Tab α) (a n : Nat) (v : α) (hn : a < n)
    (h : Tab.wfFrom d (some a) t = true) : Tab.wfFrom d (some a) (Tab.set d t n v) = true := by
  induction t generalizing a with
  | nil => simp only [Tab.set]; split <;> simp_all [Tab.wfFrom]
  | cons e t ih =>
    obtain ⟨k, w⟩ := e
    simp only [Tab.wfFrom, Bool.and_eq_true, decide_eq_true_eq] at h
    obtain ⟨⟨hk, hw⟩, ht⟩ := h
    simp only [Tab.set]
    split
    · split <;> simp_all [Tab.wfFrom]
    · split
      · split
        · exact Tab.wfFrom_mono d t k a (by omega) ht
        · subst n; simp_all [Tab.wfFrom]
      · simp only [Tab.wfFrom, Bool.and_eq_true, decide_eq_true_eq]
        exact ⟨⟨hk, hw⟩, ih k (by omega) ht⟩

/-- Writing keeps the canonical form. -/
theorem Tab.wf_set {α : Type} [DecidableEq α] (d : α) (t : Tab α) (n : Nat) (v : α) (h : Tab.wf d t = true) :
    Tab.wf d (Tab.set d t n v) = true := by
  unfold Tab.wf at *
  cases t with
  | nil => simp only [Tab.set]; split <;> simp_all [Tab.wfFrom]
  | cons e t =>
    obtain ⟨k, w⟩ := e
    simp only [Tab.wfFrom, Bool.and_eq_true, decide_eq_true_eq] at h
    obtain ⟨⟨-, hw⟩, ht⟩ := h
    simp only [Tab.set]
    split
    · split <;> simp_all [Tab.wfFrom]
    · split
      · split
        · exact Tab.wfFrom_none d t k ht
        · subst n; simp_all [Tab.wfFrom]
      · simp only [Tab.wfFrom, Bool.and_eq_true, decide_eq_true_eq]
        exact ⟨⟨trivial, hw⟩, Tab.wfFrom_set d t k n v (by omega) ht⟩

theorem Tab.wf_setMany {α : Type} [DecidableEq α] (d : α) (t : Tab α) (n : Nat) (vs : List α) (h : Tab.wf d t = true) :
    Tab.wf d (Tab.setMany d t n vs) = true := by
  induction vs generalizing t n with
  | nil => exact h
  | cons v vs ih => exact ih _ _ (Tab.wf_set d t n v h)

theorem Tab.wfFrom_filter {α : Type} [DecidableEq α] (d : α) (p : Nat × α → Bool) (t : Tab α) (a : Nat)
    (h : Tab.wfFrom d (some a) t = true) : Tab.wfFrom d (some a) (t.filter p) = true := by
  induction t generalizing a with
  | nil => rfl
  | cons e t ih =>
    simp only [Tab.wfFrom, Bool.and_eq_true, decide_eq_true_eq] at h
    rw [List.filter_cons]
    split
    · simp only [Tab.wfFrom, Bool.and_eq_true, decide_eq_true_eq]
      exact ⟨h.1, ih e.1 h.2⟩
    · exact ih a (Tab.wfFrom_mono d t e.1 a (by omega) h.2)

/-- Dropping entries keeps the canonical form. -/
theorem Tab.wf_filter {α : Type} [DecidableEq α] (d : α) (p : Nat × α → Bool) (t : Tab α)
    (h : Tab.wf d t = true) : Tab.wf d (t.filter p) = true := by
  unfold Tab.wf at *
  cases t with
  | nil => rfl
  | cons e t =>
    simp only [Tab.wfFrom, Bool.and_eq_true, decide_eq_true_eq] at h
    rw [List.filter_cons]
    split
    · simp only [Tab.wfFrom, Bool.and_eq_true, decide_eq_true_eq]
      exact ⟨⟨trivial, h.1.2⟩, Tab.wfFrom_filter d p t e.1 h.2⟩
    · exact Tab.wfFrom_none d _ e.1 (Tab.wfFrom_filter d p t e.1 h.2)

theorem Tab.wf_clearRange {α : Type} [DecidableEq α] (d : α) (t : Tab α) (lo hi : Nat) (h : Tab.wf d t = true) :
    Tab.wf d (Tab.clearRange t lo hi) = true := Tab.wf_filter d _ t h

/-- A key that has been written reads as its value: whatever the form of the table. -/
@[simp] theorem Tab.get_set_self {α : Type} [DecidableEq α] (d : α) (t : Tab α) (n : Nat) (v : α)
    (h : Tab.wf d t = true) : Tab.get d (Tab.set d t n v) n = v := by
  have key : ∀ (t : Tab α) (a : Option Nat), Tab.wfFrom d a t = true → Tab.get d (Tab.set d t n v) n = v := by
    intro t
    induction t with
    | nil => intro a _; simp only [Tab.set]; split <;> simp_all [Tab.get]
    | cons e t ih =>
      intro a h
      obtain ⟨k, w⟩ := e
      simp only [Tab.wfFrom, Bool.and_eq_true, decide_eq_true_eq] at h
      obtain ⟨⟨-, hw⟩, ht⟩ := h
      simp only [Tab.set]
      split
      · rename_i hlt
        split
        · rename_i hv
          have : n ≠ k := by omega
          simp [Tab.get, this, hlt, hv]
        · simp [Tab.get]
      · split
        · split
          · rename_i hv
            subst n
            cases t with
            | nil => simp [Tab.get, hv]
            | cons e2 t2 =>
              simp only [Tab.wfFrom, Bool.and_eq_true, decide_eq_true_eq] at ht
              rw [Tab.get_of_lt d e2.1 k e2.2 t2 ht.1.1, hv]
          · simp [Tab.get]
        · rename_i h1 h2
          simp only [Tab.get, if_neg h2, if_neg h1]
          exact ih _ ht
  exact key t none h

/-- Other keys read as before. -/
@[simp] theorem Tab.get_set_ne {α : Type} [DecidableEq α] (d : α) (t : Tab α) (n m : Nat) (v : α) (hnm : m ≠ n)
    (h : Tab.wf d t = true) : Tab.get d (Tab.set d t n v) m = Tab.get d t m := by
  have key : ∀ (t : Tab α) (a : Option Nat), Tab.wfFrom d a t = true →
      Tab.get d (Tab.set d t n v) m = Tab.get d t m := by
    intro t
    induction t with
    | nil =>
      intro a _
      simp only [Tab.set]
      split <;> simp [Tab.get, hnm]
    | cons e t ih =>
      intro a h
      obtain ⟨k, w⟩ := e
      simp only [Tab.wfFrom, Bool.and_eq_true, decide_eq_true_eq] at h
      obtain ⟨⟨-, hw⟩, ht⟩ := h
      simp only [Tab.set]
      split
      · rename_i hlt
        split
        · rfl
        · simp only [Tab.get, if_neg hnm]
          split
          · rename_i h3
            rw [if_neg (by omega), if_pos (by omega)]
          · rfl
      · split
        · subst n
          split
          · simp only [Tab.get, if_neg hnm]
            cases t with
            | nil => split <;> simp [Tab.get]
            | cons e2 t2 =>
              simp only [Tab.wfFrom, Bool.and_eq_true, decide_eq_true_eq] at ht
              split
              · rename_i h3
                exact Tab.get_of_lt d e2.1 m e2.2 t2 (by omega)
              · rfl
          · simp only [Tab.get, if_neg hnm]
        · simp only [Tab.get]
          split
          · rfl
          · split
            · rfl
            · exact ih _ ht
  exact key t none h

end Sys2Proof
end

