-- ==== Sys2Proof/Laws/State.lean ====
section
/-! SUPPORT. One lemma per field per update of the state, and what reads after writes give. -/

namespace Sys2Proof.Machine

/-! ### setCore -/

@[simp] theorem State.setCore_now (s : State) (g : Nat) (c : Core) : (s.setCore g c).now = s.now := rfl
@[simp] theorem State.setCore_turn (s : State) (g : Nat) (c : Core) : (s.setCore g c).turn = s.turn := rfl
@[simp] theorem State.setCore_agenda (s : State) (g : Nat) (c : Core) : (s.setCore g c).agenda = s.agenda := rfl
@[simp] theorem State.setCore_later (s : State) (g : Nat) (c : Core) : (s.setCore g c).later = s.later := rfl
@[simp] theorem State.setCore_arg (s : State) (g : Nat) (c : Core) : (s.setCore g c).arg = s.arg := rfl
@[simp] theorem State.setCore_fresh (s : State) (g : Nat) (c : Core) : (s.setCore g c).fresh = s.fresh := rfl
@[simp] theorem State.setCore_mem (s : State) (g : Nat) (c : Core) : (s.setCore g c).mem = s.mem := rfl
@[simp] theorem State.setCore_poison (s : State) (g : Nat) (c : Core) : (s.setCore g c).poison = s.poison := rfl
@[simp] theorem State.setCore_tiles (s : State) (g : Nat) (c : Core) : (s.setCore g c).tiles = s.tiles := rfl
@[simp] theorem State.setCore_cores (s : State) (g : Nat) (c : Core) : (s.setCore g c).cores = Tab.set Core.idle s.cores g c := rfl
@[simp] theorem State.setCore_parts (s : State) (g : Nat) (c : Core) : (s.setCore g c).parts = s.parts := rfl
@[simp] theorem State.setCore_meetings (s : State) (g : Nat) (c : Core) : (s.setCore g c).meetings = s.meetings := rfl
@[simp] theorem State.setCore_board (s : State) (g : Nat) (c : Core) : (s.setCore g c).board = s.board := rfl
@[simp] theorem State.setCore_mgmt (s : State) (g : Nat) (c : Core) : (s.setCore g c).mgmt = s.mgmt := rfl
@[simp] theorem State.setCore_host (s : State) (g : Nat) (c : Core) : (s.setCore g c).host = s.host := rfl
@[simp] theorem State.setCore_pod (s : State) (g : Nat) (c : Core) : (s.setCore g c).pod = s.pod := rfl
@[simp] theorem State.setCore_tile (s : State) (g : Nat) (c : Core) (t' : Nat) : (s.setCore g c).tile t' = s.tile t' := rfl
@[simp] theorem State.setCore_part (s : State) (g : Nat) (c : Core) (n' : Nat) : (s.setCore g c).part n' = s.part n' := rfl
@[simp] theorem State.setCore_byte (s : State) (g : Nat) (c : Core) (k' : Nat) : (s.setCore g c).byte k' = s.byte k' := rfl

/-! ### setTile -/

@[simp] theorem State.setTile_now (s : State) (t : Nat) (x : Tile) : (s.setTile t x).now = s.now := rfl
@[simp] theorem State.setTile_turn (s : State) (t : Nat) (x : Tile) : (s.setTile t x).turn = s.turn := rfl
@[simp] theorem State.setTile_agenda (s : State) (t : Nat) (x : Tile) : (s.setTile t x).agenda = s.agenda := rfl
@[simp] theorem State.setTile_later (s : State) (t : Nat) (x : Tile) : (s.setTile t x).later = s.later := rfl
@[simp] theorem State.setTile_arg (s : State) (t : Nat) (x : Tile) : (s.setTile t x).arg = s.arg := rfl
@[simp] theorem State.setTile_fresh (s : State) (t : Nat) (x : Tile) : (s.setTile t x).fresh = s.fresh := rfl
@[simp] theorem State.setTile_mem (s : State) (t : Nat) (x : Tile) : (s.setTile t x).mem = s.mem := rfl
@[simp] theorem State.setTile_poison (s : State) (t : Nat) (x : Tile) : (s.setTile t x).poison = s.poison := rfl
@[simp] theorem State.setTile_tiles (s : State) (t : Nat) (x : Tile) : (s.setTile t x).tiles = Tab.set Tile.idle s.tiles t x := rfl
@[simp] theorem State.setTile_cores (s : State) (t : Nat) (x : Tile) : (s.setTile t x).cores = s.cores := rfl
@[simp] theorem State.setTile_parts (s : State) (t : Nat) (x : Tile) : (s.setTile t x).parts = s.parts := rfl
@[simp] theorem State.setTile_meetings (s : State) (t : Nat) (x : Tile) : (s.setTile t x).meetings = s.meetings := rfl
@[simp] theorem State.setTile_board (s : State) (t : Nat) (x : Tile) : (s.setTile t x).board = s.board := rfl
@[simp] theorem State.setTile_mgmt (s : State) (t : Nat) (x : Tile) : (s.setTile t x).mgmt = s.mgmt := rfl
@[simp] theorem State.setTile_host (s : State) (t : Nat) (x : Tile) : (s.setTile t x).host = s.host := rfl
@[simp] theorem State.setTile_pod (s : State) (t : Nat) (x : Tile) : (s.setTile t x).pod = s.pod := rfl
@[simp] theorem State.setTile_core (s : State) (t : Nat) (x : Tile) (g' : Nat) : (s.setTile t x).core g' = s.core g' := rfl
@[simp] theorem State.setTile_ctx (s : State) (t : Nat) (x : Tile) (g' n' : Nat) : (s.setTile t x).ctx g' n' = s.ctx g' n' := rfl
@[simp] theorem State.setTile_part (s : State) (t : Nat) (x : Tile) (n' : Nat) : (s.setTile t x).part n' = s.part n' := rfl
@[simp] theorem State.setTile_byte (s : State) (t : Nat) (x : Tile) (k' : Nat) : (s.setTile t x).byte k' = s.byte k' := rfl
@[simp] theorem State.setTile_me (s : State) (t : Nat) (x : Tile) : (s.setTile t x).me = s.me := rfl
@[simp] theorem State.setTile_myCtx (s : State) (t : Nat) (x : Tile) : (s.setTile t x).myCtx = s.myCtx := rfl
@[simp] theorem State.setTile_strand (s : State) (t : Nat) (x : Tile) : (s.setTile t x).strand = s.strand := rfl

/-! ### setPart -/

@[simp] theorem State.setPart_now (s : State) (n : Nat) (p : Part) : (s.setPart n p).now = s.now := rfl
@[simp] theorem State.setPart_turn (s : State) (n : Nat) (p : Part) : (s.setPart n p).turn = s.turn := rfl
@[simp] theorem State.setPart_agenda (s : State) (n : Nat) (p : Part) : (s.setPart n p).agenda = s.agenda := rfl
@[simp] theorem State.setPart_later (s : State) (n : Nat) (p : Part) : (s.setPart n p).later = s.later := rfl
@[simp] theorem State.setPart_arg (s : State) (n : Nat) (p : Part) : (s.setPart n p).arg = s.arg := rfl
@[simp] theorem State.setPart_fresh (s : State) (n : Nat) (p : Part) : (s.setPart n p).fresh = s.fresh := rfl
@[simp] theorem State.setPart_mem (s : State) (n : Nat) (p : Part) : (s.setPart n p).mem = s.mem := rfl
@[simp] theorem State.setPart_poison (s : State) (n : Nat) (p : Part) : (s.setPart n p).poison = s.poison := rfl
@[simp] theorem State.setPart_tiles (s : State) (n : Nat) (p : Part) : (s.setPart n p).tiles = s.tiles := rfl
@[simp] theorem State.setPart_cores (s : State) (n : Nat) (p : Part) : (s.setPart n p).cores = s.cores := rfl
@[simp] theorem State.setPart_parts (s : State) (n : Nat) (p : Part) : (s.setPart n p).parts = Tab.set Part.absent s.parts n p := rfl
@[simp] theorem State.setPart_meetings (s : State) (n : Nat) (p : Part) : (s.setPart n p).meetings = s.meetings := rfl
@[simp] theorem State.setPart_board (s : State) (n : Nat) (p : Part) : (s.setPart n p).board = s.board := rfl
@[simp] theorem State.setPart_mgmt (s : State) (n : Nat) (p : Part) : (s.setPart n p).mgmt = s.mgmt := rfl
@[simp] theorem State.setPart_host (s : State) (n : Nat) (p : Part) : (s.setPart n p).host = s.host := rfl
@[simp] theorem State.setPart_pod (s : State) (n : Nat) (p : Part) : (s.setPart n p).pod = s.pod := rfl
@[simp] theorem State.setPart_core (s : State) (n : Nat) (p : Part) (g' : Nat) : (s.setPart n p).core g' = s.core g' := rfl
@[simp] theorem State.setPart_ctx (s : State) (n : Nat) (p : Part) (g' n' : Nat) : (s.setPart n p).ctx g' n' = s.ctx g' n' := rfl
@[simp] theorem State.setPart_tile (s : State) (n : Nat) (p : Part) (t' : Nat) : (s.setPart n p).tile t' = s.tile t' := rfl
@[simp] theorem State.setPart_byte (s : State) (n : Nat) (p : Part) (k' : Nat) : (s.setPart n p).byte k' = s.byte k' := rfl
@[simp] theorem State.setPart_me (s : State) (n : Nat) (p : Part) : (s.setPart n p).me = s.me := rfl
@[simp] theorem State.setPart_myCtx (s : State) (n : Nat) (p : Part) : (s.setPart n p).myCtx = s.myCtx := rfl
@[simp] theorem State.setPart_strand (s : State) (n : Nat) (p : Part) : (s.setPart n p).strand = s.strand := rfl

/-! ### wrN -/

@[simp] theorem State.wrN_now (s : State) (k : Nat) (bs : List Byte) : (s.wrN k bs).now = s.now := rfl
@[simp] theorem State.wrN_turn (s : State) (k : Nat) (bs : List Byte) : (s.wrN k bs).turn = s.turn := rfl
@[simp] theorem State.wrN_agenda (s : State) (k : Nat) (bs : List Byte) : (s.wrN k bs).agenda = s.agenda := rfl
@[simp] theorem State.wrN_later (s : State) (k : Nat) (bs : List Byte) : (s.wrN k bs).later = s.later := rfl
@[simp] theorem State.wrN_arg (s : State) (k : Nat) (bs : List Byte) : (s.wrN k bs).arg = s.arg := rfl
@[simp] theorem State.wrN_fresh (s : State) (k : Nat) (bs : List Byte) : (s.wrN k bs).fresh = s.fresh := rfl
@[simp] theorem State.wrN_mem (s : State) (k : Nat) (bs : List Byte) : (s.wrN k bs).mem = s.mem.writeN k bs := rfl
@[simp] theorem State.wrN_poison (s : State) (k : Nat) (bs : List Byte) : (s.wrN k bs).poison = clearPoison s.poison k bs.length := rfl
@[simp] theorem State.wrN_tiles (s : State) (k : Nat) (bs : List Byte) : (s.wrN k bs).tiles = s.tiles := rfl
@[simp] theorem State.wrN_cores (s : State) (k : Nat) (bs : List Byte) : (s.wrN k bs).cores = s.cores := rfl
@[simp] theorem State.wrN_parts (s : State) (k : Nat) (bs : List Byte) : (s.wrN k bs).parts = s.parts := rfl
@[simp] theorem State.wrN_meetings (s : State) (k : Nat) (bs : List Byte) : (s.wrN k bs).meetings = s.meetings := rfl
@[simp] theorem State.wrN_board (s : State) (k : Nat) (bs : List Byte) : (s.wrN k bs).board = s.board := rfl
@[simp] theorem State.wrN_mgmt (s : State) (k : Nat) (bs : List Byte) : (s.wrN k bs).mgmt = s.mgmt := rfl
@[simp] theorem State.wrN_host (s : State) (k : Nat) (bs : List Byte) : (s.wrN k bs).host = s.host := rfl
@[simp] theorem State.wrN_pod (s : State) (k : Nat) (bs : List Byte) : (s.wrN k bs).pod = s.pod := rfl
@[simp] theorem State.wrN_core (s : State) (k : Nat) (bs : List Byte) (g' : Nat) : (s.wrN k bs).core g' = s.core g' := rfl
@[simp] theorem State.wrN_ctx (s : State) (k : Nat) (bs : List Byte) (g' n' : Nat) : (s.wrN k bs).ctx g' n' = s.ctx g' n' := rfl
@[simp] theorem State.wrN_tile (s : State) (k : Nat) (bs : List Byte) (t' : Nat) : (s.wrN k bs).tile t' = s.tile t' := rfl
@[simp] theorem State.wrN_part (s : State) (k : Nat) (bs : List Byte) (n' : Nat) : (s.wrN k bs).part n' = s.part n' := rfl
@[simp] theorem State.wrN_me (s : State) (k : Nat) (bs : List Byte) : (s.wrN k bs).me = s.me := rfl
@[simp] theorem State.wrN_myCtx (s : State) (k : Nat) (bs : List Byte) : (s.wrN k bs).myCtx = s.myCtx := rfl
@[simp] theorem State.wrN_strand (s : State) (k : Nat) (bs : List Byte) : (s.wrN k bs).strand = s.strand := rfl

/-! ### poisonAt -/

@[simp] theorem State.poisonAt_now (s : State) (k n : Nat) : (s.poisonAt k n).now = s.now := rfl
@[simp] theorem State.poisonAt_turn (s : State) (k n : Nat) : (s.poisonAt k n).turn = s.turn := rfl
@[simp] theorem State.poisonAt_agenda (s : State) (k n : Nat) : (s.poisonAt k n).agenda = s.agenda := rfl
@[simp] theorem State.poisonAt_later (s : State) (k n : Nat) : (s.poisonAt k n).later = s.later := rfl
@[simp] theorem State.poisonAt_arg (s : State) (k n : Nat) : (s.poisonAt k n).arg = s.arg := rfl
@[simp] theorem State.poisonAt_fresh (s : State) (k n : Nat) : (s.poisonAt k n).fresh = s.fresh := rfl
@[simp] theorem State.poisonAt_mem (s : State) (k n : Nat) : (s.poisonAt k n).mem = s.mem := rfl
@[simp] theorem State.poisonAt_tiles (s : State) (k n : Nat) : (s.poisonAt k n).tiles = s.tiles := rfl
@[simp] theorem State.poisonAt_cores (s : State) (k n : Nat) : (s.poisonAt k n).cores = s.cores := rfl
@[simp] theorem State.poisonAt_parts (s : State) (k n : Nat) : (s.poisonAt k n).parts = s.parts := rfl
@[simp] theorem State.poisonAt_meetings (s : State) (k n : Nat) : (s.poisonAt k n).meetings = s.meetings := rfl
@[simp] theorem State.poisonAt_board (s : State) (k n : Nat) : (s.poisonAt k n).board = s.board := rfl
@[simp] theorem State.poisonAt_mgmt (s : State) (k n : Nat) : (s.poisonAt k n).mgmt = s.mgmt := rfl
@[simp] theorem State.poisonAt_host (s : State) (k n : Nat) : (s.poisonAt k n).host = s.host := rfl
@[simp] theorem State.poisonAt_pod (s : State) (k n : Nat) : (s.poisonAt k n).pod = s.pod := rfl
@[simp] theorem State.poisonAt_core (s : State) (k n : Nat) (g' : Nat) : (s.poisonAt k n).core g' = s.core g' := rfl
@[simp] theorem State.poisonAt_ctx (s : State) (k n : Nat) (g' n' : Nat) : (s.poisonAt k n).ctx g' n' = s.ctx g' n' := rfl
@[simp] theorem State.poisonAt_tile (s : State) (k n : Nat) (t' : Nat) : (s.poisonAt k n).tile t' = s.tile t' := rfl
@[simp] theorem State.poisonAt_part (s : State) (k n : Nat) (n' : Nat) : (s.poisonAt k n).part n' = s.part n' := rfl
@[simp] theorem State.poisonAt_byte (s : State) (k n : Nat) (k' : Nat) : (s.poisonAt k n).byte k' = s.byte k' := rfl
@[simp] theorem State.poisonAt_me (s : State) (k n : Nat) : (s.poisonAt k n).me = s.me := rfl
@[simp] theorem State.poisonAt_myCtx (s : State) (k n : Nat) : (s.poisonAt k n).myCtx = s.myCtx := rfl
@[simp] theorem State.poisonAt_strand (s : State) (k n : Nat) : (s.poisonAt k n).strand = s.strand := rfl

/-! ### clearKeys -/

@[simp] theorem State.clearKeys_now (s : State) (k n : Nat) : (s.clearKeys k n).now = s.now := rfl
@[simp] theorem State.clearKeys_turn (s : State) (k n : Nat) : (s.clearKeys k n).turn = s.turn := rfl
@[simp] theorem State.clearKeys_agenda (s : State) (k n : Nat) : (s.clearKeys k n).agenda = s.agenda := rfl
@[simp] theorem State.clearKeys_later (s : State) (k n : Nat) : (s.clearKeys k n).later = s.later := rfl
@[simp] theorem State.clearKeys_arg (s : State) (k n : Nat) : (s.clearKeys k n).arg = s.arg := rfl
@[simp] theorem State.clearKeys_fresh (s : State) (k n : Nat) : (s.clearKeys k n).fresh = s.fresh := rfl
@[simp] theorem State.clearKeys_mem (s : State) (k n : Nat) : (s.clearKeys k n).mem = Tab.clearRange s.mem k (k + n) := rfl
@[simp] theorem State.clearKeys_poison (s : State) (k n : Nat) : (s.clearKeys k n).poison = Tab.clearRange s.poison k (k + n) := rfl
@[simp] theorem State.clearKeys_tiles (s : State) (k n : Nat) : (s.clearKeys k n).tiles = s.tiles := rfl
@[simp] theorem State.clearKeys_cores (s : State) (k n : Nat) : (s.clearKeys k n).cores = s.cores := rfl
@[simp] theorem State.clearKeys_parts (s : State) (k n : Nat) : (s.clearKeys k n).parts = s.parts := rfl
@[simp] theorem State.clearKeys_meetings (s : State) (k n : Nat) : (s.clearKeys k n).meetings = s.meetings := rfl
@[simp] theorem State.clearKeys_board (s : State) (k n : Nat) : (s.clearKeys k n).board = s.board := rfl
@[simp] theorem State.clearKeys_mgmt (s : State) (k n : Nat) : (s.clearKeys k n).mgmt = s.mgmt := rfl
@[simp] theorem State.clearKeys_host (s : State) (k n : Nat) : (s.clearKeys k n).host = s.host := rfl
@[simp] theorem State.clearKeys_pod (s : State) (k n : Nat) : (s.clearKeys k n).pod = s.pod := rfl
@[simp] theorem State.clearKeys_core (s : State) (k n : Nat) (g' : Nat) : (s.clearKeys k n).core g' = s.core g' := rfl
@[simp] theorem State.clearKeys_ctx (s : State) (k n : Nat) (g' n' : Nat) : (s.clearKeys k n).ctx g' n' = s.ctx g' n' := rfl
@[simp] theorem State.clearKeys_tile (s : State) (k n : Nat) (t' : Nat) : (s.clearKeys k n).tile t' = s.tile t' := rfl
@[simp] theorem State.clearKeys_part (s : State) (k n : Nat) (n' : Nat) : (s.clearKeys k n).part n' = s.part n' := rfl
@[simp] theorem State.clearKeys_me (s : State) (k n : Nat) : (s.clearKeys k n).me = s.me := rfl
@[simp] theorem State.clearKeys_myCtx (s : State) (k n : Nat) : (s.clearKeys k n).myCtx = s.myCtx := rfl
@[simp] theorem State.clearKeys_strand (s : State) (k n : Nat) : (s.clearKeys k n).strand = s.strand := rfl

/-! ### copyKeys -/

@[simp] theorem State.copyKeys_now (s : State) (a b n : Nat) : (s.copyKeys a b n).now = s.now := rfl
@[simp] theorem State.copyKeys_turn (s : State) (a b n : Nat) : (s.copyKeys a b n).turn = s.turn := rfl
@[simp] theorem State.copyKeys_agenda (s : State) (a b n : Nat) : (s.copyKeys a b n).agenda = s.agenda := rfl
@[simp] theorem State.copyKeys_later (s : State) (a b n : Nat) : (s.copyKeys a b n).later = s.later := rfl
@[simp] theorem State.copyKeys_arg (s : State) (a b n : Nat) : (s.copyKeys a b n).arg = s.arg := rfl
@[simp] theorem State.copyKeys_fresh (s : State) (a b n : Nat) : (s.copyKeys a b n).fresh = s.fresh := rfl
@[simp] theorem State.copyKeys_tiles (s : State) (a b n : Nat) : (s.copyKeys a b n).tiles = s.tiles := rfl
@[simp] theorem State.copyKeys_cores (s : State) (a b n : Nat) : (s.copyKeys a b n).cores = s.cores := rfl
@[simp] theorem State.copyKeys_parts (s : State) (a b n : Nat) : (s.copyKeys a b n).parts = s.parts := rfl
@[simp] theorem State.copyKeys_meetings (s : State) (a b n : Nat) : (s.copyKeys a b n).meetings = s.meetings := rfl
@[simp] theorem State.copyKeys_board (s : State) (a b n : Nat) : (s.copyKeys a b n).board = s.board := rfl
@[simp] theorem State.copyKeys_mgmt (s : State) (a b n : Nat) : (s.copyKeys a b n).mgmt = s.mgmt := rfl
@[simp] theorem State.copyKeys_host (s : State) (a b n : Nat) : (s.copyKeys a b n).host = s.host := rfl
@[simp] theorem State.copyKeys_pod (s : State) (a b n : Nat) : (s.copyKeys a b n).pod = s.pod := rfl
@[simp] theorem State.copyKeys_core (s : State) (a b n : Nat) (g' : Nat) : (s.copyKeys a b n).core g' = s.core g' := rfl
@[simp] theorem State.copyKeys_ctx (s : State) (a b n : Nat) (g' n' : Nat) : (s.copyKeys a b n).ctx g' n' = s.ctx g' n' := rfl
@[simp] theorem State.copyKeys_tile (s : State) (a b n : Nat) (t' : Nat) : (s.copyKeys a b n).tile t' = s.tile t' := rfl
@[simp] theorem State.copyKeys_part (s : State) (a b n : Nat) (n' : Nat) : (s.copyKeys a b n).part n' = s.part n' := rfl
@[simp] theorem State.copyKeys_me (s : State) (a b n : Nat) : (s.copyKeys a b n).me = s.me := rfl
@[simp] theorem State.copyKeys_myCtx (s : State) (a b n : Nat) : (s.copyKeys a b n).myCtx = s.myCtx := rfl
@[simp] theorem State.copyKeys_strand (s : State) (a b n : Nat) : (s.copyKeys a b n).strand = s.strand := rfl

/-! ### due -/

@[simp] theorem State.due_now (s : State) (ds : List Due) : (s.due ds).now = s.now := rfl
@[simp] theorem State.due_turn (s : State) (ds : List Due) : (s.due ds).turn = s.turn := rfl
@[simp] theorem State.due_agenda (s : State) (ds : List Due) : (s.due ds).agenda = s.agenda ++ ds := rfl
@[simp] theorem State.due_later (s : State) (ds : List Due) : (s.due ds).later = s.later := rfl
@[simp] theorem State.due_arg (s : State) (ds : List Due) : (s.due ds).arg = s.arg := rfl
@[simp] theorem State.due_fresh (s : State) (ds : List Due) : (s.due ds).fresh = s.fresh := rfl
@[simp] theorem State.due_mem (s : State) (ds : List Due) : (s.due ds).mem = s.mem := rfl
@[simp] theorem State.due_poison (s : State) (ds : List Due) : (s.due ds).poison = s.poison := rfl
@[simp] theorem State.due_tiles (s : State) (ds : List Due) : (s.due ds).tiles = s.tiles := rfl
@[simp] theorem State.due_cores (s : State) (ds : List Due) : (s.due ds).cores = s.cores := rfl
@[simp] theorem State.due_parts (s : State) (ds : List Due) : (s.due ds).parts = s.parts := rfl
@[simp] theorem State.due_meetings (s : State) (ds : List Due) : (s.due ds).meetings = s.meetings := rfl
@[simp] theorem State.due_board (s : State) (ds : List Due) : (s.due ds).board = s.board := rfl
@[simp] theorem State.due_mgmt (s : State) (ds : List Due) : (s.due ds).mgmt = s.mgmt := rfl
@[simp] theorem State.due_host (s : State) (ds : List Due) : (s.due ds).host = s.host := rfl
@[simp] theorem State.due_pod (s : State) (ds : List Due) : (s.due ds).pod = s.pod := rfl
@[simp] theorem State.due_core (s : State) (ds : List Due) (g' : Nat) : (s.due ds).core g' = s.core g' := rfl
@[simp] theorem State.due_ctx (s : State) (ds : List Due) (g' n' : Nat) : (s.due ds).ctx g' n' = s.ctx g' n' := rfl
@[simp] theorem State.due_tile (s : State) (ds : List Due) (t' : Nat) : (s.due ds).tile t' = s.tile t' := rfl
@[simp] theorem State.due_part (s : State) (ds : List Due) (n' : Nat) : (s.due ds).part n' = s.part n' := rfl
@[simp] theorem State.due_byte (s : State) (ds : List Due) (k' : Nat) : (s.due ds).byte k' = s.byte k' := rfl
@[simp] theorem State.due_me (s : State) (ds : List Due) : (s.due ds).me = s.me := rfl
@[simp] theorem State.due_myCtx (s : State) (ds : List Due) : (s.due ds).myCtx = s.myCtx := rfl
@[simp] theorem State.due_strand (s : State) (ds : List Due) : (s.due ds).strand = s.strand := rfl

/-! ### dueIn -/

@[simp] theorem State.dueIn_now (s : State) (n : Nat) (d : Due) : (s.dueIn n d).now = s.now := rfl
@[simp] theorem State.dueIn_turn (s : State) (n : Nat) (d : Due) : (s.dueIn n d).turn = s.turn := rfl
@[simp] theorem State.dueIn_agenda (s : State) (n : Nat) (d : Due) : (s.dueIn n d).agenda = s.agenda := rfl
@[simp] theorem State.dueIn_later (s : State) (n : Nat) (d : Due) : (s.dueIn n d).later = s.later ++ [(s.now + n, d)] := rfl
@[simp] theorem State.dueIn_arg (s : State) (n : Nat) (d : Due) : (s.dueIn n d).arg = s.arg := rfl
@[simp] theorem State.dueIn_fresh (s : State) (n : Nat) (d : Due) : (s.dueIn n d).fresh = s.fresh := rfl
@[simp] theorem State.dueIn_mem (s : State) (n : Nat) (d : Due) : (s.dueIn n d).mem = s.mem := rfl
@[simp] theorem State.dueIn_poison (s : State) (n : Nat) (d : Due) : (s.dueIn n d).poison = s.poison := rfl
@[simp] theorem State.dueIn_tiles (s : State) (n : Nat) (d : Due) : (s.dueIn n d).tiles = s.tiles := rfl
@[simp] theorem State.dueIn_cores (s : State) (n : Nat) (d : Due) : (s.dueIn n d).cores = s.cores := rfl
@[simp] theorem State.dueIn_parts (s : State) (n : Nat) (d : Due) : (s.dueIn n d).parts = s.parts := rfl
@[simp] theorem State.dueIn_meetings (s : State) (n : Nat) (d : Due) : (s.dueIn n d).meetings = s.meetings := rfl
@[simp] theorem State.dueIn_board (s : State) (n : Nat) (d : Due) : (s.dueIn n d).board = s.board := rfl
@[simp] theorem State.dueIn_mgmt (s : State) (n : Nat) (d : Due) : (s.dueIn n d).mgmt = s.mgmt := rfl
@[simp] theorem State.dueIn_host (s : State) (n : Nat) (d : Due) : (s.dueIn n d).host = s.host := rfl
@[simp] theorem State.dueIn_pod (s : State) (n : Nat) (d : Due) : (s.dueIn n d).pod = s.pod := rfl
@[simp] theorem State.dueIn_core (s : State) (n : Nat) (d : Due) (g' : Nat) : (s.dueIn n d).core g' = s.core g' := rfl
@[simp] theorem State.dueIn_ctx (s : State) (n : Nat) (d : Due) (g' n' : Nat) : (s.dueIn n d).ctx g' n' = s.ctx g' n' := rfl
@[simp] theorem State.dueIn_tile (s : State) (n : Nat) (d : Due) (t' : Nat) : (s.dueIn n d).tile t' = s.tile t' := rfl
@[simp] theorem State.dueIn_part (s : State) (n : Nat) (d : Due) (n' : Nat) : (s.dueIn n d).part n' = s.part n' := rfl
@[simp] theorem State.dueIn_byte (s : State) (n : Nat) (d : Due) (k' : Nat) : (s.dueIn n d).byte k' = s.byte k' := rfl
@[simp] theorem State.dueIn_me (s : State) (n : Nat) (d : Due) : (s.dueIn n d).me = s.me := rfl
@[simp] theorem State.dueIn_myCtx (s : State) (n : Nat) (d : Due) : (s.dueIn n d).myCtx = s.myCtx := rfl
@[simp] theorem State.dueIn_strand (s : State) (n : Nat) (d : Due) : (s.dueIn n d).strand = s.strand := rfl

/-! ### modMgmt -/

@[simp] theorem State.modMgmt_now (s : State) (f : Mgmt → Mgmt) : (s.modMgmt f).now = s.now := rfl
@[simp] theorem State.modMgmt_turn (s : State) (f : Mgmt → Mgmt) : (s.modMgmt f).turn = s.turn := rfl
@[simp] theorem State.modMgmt_agenda (s : State) (f : Mgmt → Mgmt) : (s.modMgmt f).agenda = s.agenda := rfl
@[simp] theorem State.modMgmt_later (s : State) (f : Mgmt → Mgmt) : (s.modMgmt f).later = s.later := rfl
@[simp] theorem State.modMgmt_arg (s : State) (f : Mgmt → Mgmt) : (s.modMgmt f).arg = s.arg := rfl
@[simp] theorem State.modMgmt_fresh (s : State) (f : Mgmt → Mgmt) : (s.modMgmt f).fresh = s.fresh := rfl
@[simp] theorem State.modMgmt_mem (s : State) (f : Mgmt → Mgmt) : (s.modMgmt f).mem = s.mem := rfl
@[simp] theorem State.modMgmt_poison (s : State) (f : Mgmt → Mgmt) : (s.modMgmt f).poison = s.poison := rfl
@[simp] theorem State.modMgmt_tiles (s : State) (f : Mgmt → Mgmt) : (s.modMgmt f).tiles = s.tiles := rfl
@[simp] theorem State.modMgmt_cores (s : State) (f : Mgmt → Mgmt) : (s.modMgmt f).cores = s.cores := rfl
@[simp] theorem State.modMgmt_parts (s : State) (f : Mgmt → Mgmt) : (s.modMgmt f).parts = s.parts := rfl
@[simp] theorem State.modMgmt_meetings (s : State) (f : Mgmt → Mgmt) : (s.modMgmt f).meetings = s.meetings := rfl
@[simp] theorem State.modMgmt_board (s : State) (f : Mgmt → Mgmt) : (s.modMgmt f).board = s.board := rfl
@[simp] theorem State.modMgmt_mgmt (s : State) (f : Mgmt → Mgmt) : (s.modMgmt f).mgmt = f s.mgmt := rfl
@[simp] theorem State.modMgmt_host (s : State) (f : Mgmt → Mgmt) : (s.modMgmt f).host = s.host := rfl
@[simp] theorem State.modMgmt_pod (s : State) (f : Mgmt → Mgmt) : (s.modMgmt f).pod = s.pod := rfl
@[simp] theorem State.modMgmt_core (s : State) (f : Mgmt → Mgmt) (g' : Nat) : (s.modMgmt f).core g' = s.core g' := rfl
@[simp] theorem State.modMgmt_ctx (s : State) (f : Mgmt → Mgmt) (g' n' : Nat) : (s.modMgmt f).ctx g' n' = s.ctx g' n' := rfl
@[simp] theorem State.modMgmt_tile (s : State) (f : Mgmt → Mgmt) (t' : Nat) : (s.modMgmt f).tile t' = s.tile t' := rfl
@[simp] theorem State.modMgmt_part (s : State) (f : Mgmt → Mgmt) (n' : Nat) : (s.modMgmt f).part n' = s.part n' := rfl
@[simp] theorem State.modMgmt_byte (s : State) (f : Mgmt → Mgmt) (k' : Nat) : (s.modMgmt f).byte k' = s.byte k' := rfl
@[simp] theorem State.modMgmt_me (s : State) (f : Mgmt → Mgmt) : (s.modMgmt f).me = s.me := rfl
@[simp] theorem State.modMgmt_myCtx (s : State) (f : Mgmt → Mgmt) : (s.modMgmt f).myCtx = s.myCtx := rfl
@[simp] theorem State.modMgmt_strand (s : State) (f : Mgmt → Mgmt) : (s.modMgmt f).strand = s.strand := rfl

/-! ### modBoard -/

@[simp] theorem State.modBoard_now (s : State) (f : Board → Board) : (s.modBoard f).now = s.now := rfl
@[simp] theorem State.modBoard_turn (s : State) (f : Board → Board) : (s.modBoard f).turn = s.turn := rfl
@[simp] theorem State.modBoard_agenda (s : State) (f : Board → Board) : (s.modBoard f).agenda = s.agenda := rfl
@[simp] theorem State.modBoard_later (s : State) (f : Board → Board) : (s.modBoard f).later = s.later := rfl
@[simp] theorem State.modBoard_arg (s : State) (f : Board → Board) : (s.modBoard f).arg = s.arg := rfl
@[simp] theorem State.modBoard_fresh (s : State) (f : Board → Board) : (s.modBoard f).fresh = s.fresh := rfl
@[simp] theorem State.modBoard_mem (s : State) (f : Board → Board) : (s.modBoard f).mem = s.mem := rfl
@[simp] theorem State.modBoard_poison (s : State) (f : Board → Board) : (s.modBoard f).poison = s.poison := rfl
@[simp] theorem State.modBoard_tiles (s : State) (f : Board → Board) : (s.modBoard f).tiles = s.tiles := rfl
@[simp] theorem State.modBoard_cores (s : State) (f : Board → Board) : (s.modBoard f).cores = s.cores := rfl
@[simp] theorem State.modBoard_parts (s : State) (f : Board → Board) : (s.modBoard f).parts = s.parts := rfl
@[simp] theorem State.modBoard_meetings (s : State) (f : Board → Board) : (s.modBoard f).meetings = s.meetings := rfl
@[simp] theorem State.modBoard_board (s : State) (f : Board → Board) : (s.modBoard f).board = f s.board := rfl
@[simp] theorem State.modBoard_mgmt (s : State) (f : Board → Board) : (s.modBoard f).mgmt = s.mgmt := rfl
@[simp] theorem State.modBoard_host (s : State) (f : Board → Board) : (s.modBoard f).host = s.host := rfl
@[simp] theorem State.modBoard_pod (s : State) (f : Board → Board) : (s.modBoard f).pod = s.pod := rfl
@[simp] theorem State.modBoard_core (s : State) (f : Board → Board) (g' : Nat) : (s.modBoard f).core g' = s.core g' := rfl
@[simp] theorem State.modBoard_ctx (s : State) (f : Board → Board) (g' n' : Nat) : (s.modBoard f).ctx g' n' = s.ctx g' n' := rfl
@[simp] theorem State.modBoard_tile (s : State) (f : Board → Board) (t' : Nat) : (s.modBoard f).tile t' = s.tile t' := rfl
@[simp] theorem State.modBoard_part (s : State) (f : Board → Board) (n' : Nat) : (s.modBoard f).part n' = s.part n' := rfl
@[simp] theorem State.modBoard_byte (s : State) (f : Board → Board) (k' : Nat) : (s.modBoard f).byte k' = s.byte k' := rfl
@[simp] theorem State.modBoard_me (s : State) (f : Board → Board) : (s.modBoard f).me = s.me := rfl
@[simp] theorem State.modBoard_myCtx (s : State) (f : Board → Board) : (s.modBoard f).myCtx = s.myCtx := rfl
@[simp] theorem State.modBoard_strand (s : State) (f : Board → Board) : (s.modBoard f).strand = s.strand := rfl

/-! ### modHost -/

@[simp] theorem State.modHost_now (s : State) (f : HostBlock → HostBlock) : (s.modHost f).now = s.now := rfl
@[simp] theorem State.modHost_turn (s : State) (f : HostBlock → HostBlock) : (s.modHost f).turn = s.turn := rfl
@[simp] theorem State.modHost_agenda (s : State) (f : HostBlock → HostBlock) : (s.modHost f).agenda = s.agenda := rfl
@[simp] theorem State.modHost_later (s : State) (f : HostBlock → HostBlock) : (s.modHost f).later = s.later := rfl
@[simp] theorem State.modHost_arg (s : State) (f : HostBlock → HostBlock) : (s.modHost f).arg = s.arg := rfl
@[simp] theorem State.modHost_fresh (s : State) (f : HostBlock → HostBlock) : (s.modHost f).fresh = s.fresh := rfl
@[simp] theorem State.modHost_mem (s : State) (f : HostBlock → HostBlock) : (s.modHost f).mem = s.mem := rfl
@[simp] theorem State.modHost_poison (s : State) (f : HostBlock → HostBlock) : (s.modHost f).poison = s.poison := rfl
@[simp] theorem State.modHost_tiles (s : State) (f : HostBlock → HostBlock) : (s.modHost f).tiles = s.tiles := rfl
@[simp] theorem State.modHost_cores (s : State) (f : HostBlock → HostBlock) : (s.modHost f).cores = s.cores := rfl
@[simp] theorem State.modHost_parts (s : State) (f : HostBlock → HostBlock) : (s.modHost f).parts = s.parts := rfl
@[simp] theorem State.modHost_meetings (s : State) (f : HostBlock → HostBlock) : (s.modHost f).meetings = s.meetings := rfl
@[simp] theorem State.modHost_board (s : State) (f : HostBlock → HostBlock) : (s.modHost f).board = s.board := rfl
@[simp] theorem State.modHost_mgmt (s : State) (f : HostBlock → HostBlock) : (s.modHost f).mgmt = s.mgmt := rfl
@[simp] theorem State.modHost_host (s : State) (f : HostBlock → HostBlock) : (s.modHost f).host = f s.host := rfl
@[simp] theorem State.modHost_pod (s : State) (f : HostBlock → HostBlock) : (s.modHost f).pod = s.pod := rfl
@[simp] theorem State.modHost_core (s : State) (f : HostBlock → HostBlock) (g' : Nat) : (s.modHost f).core g' = s.core g' := rfl
@[simp] theorem State.modHost_ctx (s : State) (f : HostBlock → HostBlock) (g' n' : Nat) : (s.modHost f).ctx g' n' = s.ctx g' n' := rfl
@[simp] theorem State.modHost_tile (s : State) (f : HostBlock → HostBlock) (t' : Nat) : (s.modHost f).tile t' = s.tile t' := rfl
@[simp] theorem State.modHost_part (s : State) (f : HostBlock → HostBlock) (n' : Nat) : (s.modHost f).part n' = s.part n' := rfl
@[simp] theorem State.modHost_byte (s : State) (f : HostBlock → HostBlock) (k' : Nat) : (s.modHost f).byte k' = s.byte k' := rfl
@[simp] theorem State.modHost_me (s : State) (f : HostBlock → HostBlock) : (s.modHost f).me = s.me := rfl
@[simp] theorem State.modHost_myCtx (s : State) (f : HostBlock → HostBlock) : (s.modHost f).myCtx = s.myCtx := rfl
@[simp] theorem State.modHost_strand (s : State) (f : HostBlock → HostBlock) : (s.modHost f).strand = s.strand := rfl

/-! ### modPod -/

@[simp] theorem State.modPod_now (s : State) (f : Pod → Pod) : (s.modPod f).now = s.now := rfl
@[simp] theorem State.modPod_turn (s : State) (f : Pod → Pod) : (s.modPod f).turn = s.turn := rfl
@[simp] theorem State.modPod_agenda (s : State) (f : Pod → Pod) : (s.modPod f).agenda = s.agenda := rfl
@[simp] theorem State.modPod_later (s : State) (f : Pod → Pod) : (s.modPod f).later = s.later := rfl
@[simp] theorem State.modPod_arg (s : State) (f : Pod → Pod) : (s.modPod f).arg = s.arg := rfl
@[simp] theorem State.modPod_fresh (s : State) (f : Pod → Pod) : (s.modPod f).fresh = s.fresh := rfl
@[simp] theorem State.modPod_mem (s : State) (f : Pod → Pod) : (s.modPod f).mem = s.mem := rfl
@[simp] theorem State.modPod_poison (s : State) (f : Pod → Pod) : (s.modPod f).poison = s.poison := rfl
@[simp] theorem State.modPod_tiles (s : State) (f : Pod → Pod) : (s.modPod f).tiles = s.tiles := rfl
@[simp] theorem State.modPod_cores (s : State) (f : Pod → Pod) : (s.modPod f).cores = s.cores := rfl
@[simp] theorem State.modPod_parts (s : State) (f : Pod → Pod) : (s.modPod f).parts = s.parts := rfl
@[simp] theorem State.modPod_meetings (s : State) (f : Pod → Pod) : (s.modPod f).meetings = s.meetings := rfl
@[simp] theorem State.modPod_board (s : State) (f : Pod → Pod) : (s.modPod f).board = s.board := rfl
@[simp] theorem State.modPod_mgmt (s : State) (f : Pod → Pod) : (s.modPod f).mgmt = s.mgmt := rfl
@[simp] theorem State.modPod_host (s : State) (f : Pod → Pod) : (s.modPod f).host = s.host := rfl
@[simp] theorem State.modPod_pod (s : State) (f : Pod → Pod) : (s.modPod f).pod = f s.pod := rfl
@[simp] theorem State.modPod_core (s : State) (f : Pod → Pod) (g' : Nat) : (s.modPod f).core g' = s.core g' := rfl
@[simp] theorem State.modPod_ctx (s : State) (f : Pod → Pod) (g' n' : Nat) : (s.modPod f).ctx g' n' = s.ctx g' n' := rfl
@[simp] theorem State.modPod_tile (s : State) (f : Pod → Pod) (t' : Nat) : (s.modPod f).tile t' = s.tile t' := rfl
@[simp] theorem State.modPod_part (s : State) (f : Pod → Pod) (n' : Nat) : (s.modPod f).part n' = s.part n' := rfl
@[simp] theorem State.modPod_byte (s : State) (f : Pod → Pod) (k' : Nat) : (s.modPod f).byte k' = s.byte k' := rfl
@[simp] theorem State.modPod_me (s : State) (f : Pod → Pod) : (s.modPod f).me = s.me := rfl
@[simp] theorem State.modPod_myCtx (s : State) (f : Pod → Pod) : (s.modPod f).myCtx = s.myCtx := rfl
@[simp] theorem State.modPod_strand (s : State) (f : Pod → Pod) : (s.modPod f).strand = s.strand := rfl

/-! ### Reads after writes, in the canonical form -/

theorem State.core_setCore (s : State) (g g' : Nat) (c : Core) (h : Tab.wf Core.idle s.cores = true) :
    (s.setCore g c).core g' = if g' = g then c else s.core g' := by
  by_cases e : g' = g
  · subst e; simp [State.core, Tab.get_set_self, h]
  · simp [State.core, Tab.get_set_ne, h, e]

theorem State.tile_setTile (s : State) (t t' : Nat) (x : Tile) (h : Tab.wf Tile.idle s.tiles = true) :
    (s.setTile t x).tile t' = if t' = t then x else s.tile t' := by
  by_cases e : t' = t
  · subst e; simp [State.tile, Tab.get_set_self, h]
  · simp [State.tile, Tab.get_set_ne, h, e]

theorem State.part_setPart (s : State) (n n' : Nat) (p : Part) (h : Tab.wf Part.absent s.parts = true) :
    (s.setPart n p).part n' = if n' = n then p else s.part n' := by
  by_cases e : n' = n
  · subst e; simp [State.part, Tab.get_set_self, h]
  · simp [State.part, Tab.get_set_ne, h, e]

theorem Core.ctx_setCtx (c : Core) (n n' : Nat) (k : Ctx) (h : Tab.wf Ctx.idle c.ctxs = true) :
    (c.setCtx n k).ctx n' = if n' = n then k else c.ctx n' := by
  by_cases e : n' = n
  · subst e; simp [Core.ctx, Core.setCtx, Tab.get_set_self, h]
  · simp [Core.ctx, Core.setCtx, Tab.get_set_ne, h, e]

theorem Ctx.ptr_setPtr (k : Ctx) (n n' : Nat) (p : Ptr) (h : k.Ok) :
    (k.setPtr n p).ptr n' = if n' = n then p else k.ptr n' := by
  unfold Ctx.Ok at h
  by_cases e : n' = n
  · subst e; simp [Ctx.ptr, Ctx.setPtr, Tab.get_set_self, h]
  · simp [Ctx.ptr, Ctx.setPtr, Tab.get_set_ne, h, e]

/-- The address that `Memory.writeN` leaves: the byte written there, or the one that was there. -/
theorem Tab.get_setMany {α : Type} [DecidableEq α] (d : α) (vs : List α) : ∀ (t : Tab α) (n m : Nat), Tab.wf d t = true →
    Tab.get d (Tab.setMany d t n vs) m = if n ≤ m ∧ m < n + vs.length then vs.getD (m - n) d else Tab.get d t m := by
  induction vs with
  | nil => intro t n m h; simp [Tab.setMany]
  | cons v vs ih =>
    intro t n m h
    rw [Tab.setMany, ih _ _ _ (Tab.wf_set d t n v h)]
    by_cases e : m = n
    · subst e; simp [Tab.get_set_self, h]
    · rw [Tab.get_set_ne d t n m v e h]
      by_cases i : n ≤ m ∧ m < n + (vs.length + 1)
      · have : n + 1 ≤ m ∧ m < n + 1 + vs.length := by omega
        have e2 : m - n = (m - (n + 1)) + 1 := by omega
        simp [this, i, e2]
      · have : ¬(n + 1 ≤ m ∧ m < n + 1 + vs.length) := by omega
        rw [if_neg this, List.length_cons, if_neg i]

theorem State.byte_wrN (s : State) (k : Nat) (bs : List Byte) (m : Nat) (h : s.MemOk) :
    (s.wrN k bs).byte m = if k ≤ m ∧ m < k + bs.length then bs.getD (m - k) 0 else s.byte m :=
  Tab.get_setMany 0 bs s.mem k m h

/-! ### Canonical memory -/

/-- Every operation on memory keeps its canonical form. -/
theorem Memory.wf_write (m : Memory) (k : Nat) (b : Byte) (h : m.wf = true) : (m.write k b).wf = true := Tab.wf_set 0 m k b h
theorem Memory.wf_writeN (m : Memory) (k : Nat) (bs : List Byte) (h : m.wf = true) : (m.writeN k bs).wf = true :=
  Tab.wf_setMany 0 m k bs h
theorem Memory.wf_reset : State.reset.mem.wf = true := rfl

theorem foldl_keeps {α β : Type} (p : α → Prop) (f : α → β → α) (l : List β) (a : α) (ha : p a)
    (hf : ∀ a b, p a → p (f a b)) : p (l.foldl f a) := by
  induction l generalizing a with
  | nil => exact ha
  | cons b l ih => exact ih _ (hf _ _ ha)

theorem Memory.wf_copy (cells : List (Nat × Byte)) (f : Nat × Byte → Nat) (m : Memory) (h : m.wf = true) :
    (cells.foldl (fun m e => Memory.write m (f e) e.2) m).wf = true :=
  foldl_keeps (fun m : Memory => m.wf = true) _ cells m h fun m e hm => Memory.wf_write m (f e) e.2 hm

end Sys2Proof.Machine
end

