-- ==== Sys2Proof/Laws/Ok.lean ====
section
/-! SUPPORT. Every operation keeps the canonical form of the state (`State.Ok`): one lemma per operation, in the order of the files under Machine. -/

namespace Sys2Proof.Machine

/-! ### What keeps the form says of each kind of result -/

/-- A next state is in canonical form. -/
def Keeps (o : Host.Outcome State Fault Refusal) : Prop := ∀ t, o = .next t → t.Ok
/-- The state of a result, where there is one, is in canonical form. -/
def KeepsSome (o : Option State) : Prop := ∀ t, o = some t → t.Ok
def KeepsFst {α : Type} (o : Option (State × α)) : Prop := ∀ t a, o = some (t, a) → t.Ok
def KeepsSnd {α : Type} (o : Option (α × State)) : Prop := ∀ a t, o = some (a, t) → t.Ok
def KeepsExc {ε : Type} (o : Except ε State) : Prop := ∀ t, o = .ok t → t.Ok
def KeepsExcFst {ε α : Type} (o : Except ε (State × α)) : Prop := ∀ t a, o = .ok (t, a) → t.Ok
def KeepsPair {α : Type} (o : State × α) : Prop := o.1.Ok

theorem keeps_next {s : State} (h : s.Ok) : Keeps (.next s) := by rintro t ⟨⟩; exact h
theorem keeps_some {s : State} (h : s.Ok) : KeepsSome (some s) := by rintro t ⟨⟩; exact h
theorem keeps_none : KeepsSome none := by rintro t ⟨⟩
theorem keeps_fst {α : Type} {s : State} {a : α} (h : s.Ok) : KeepsFst (some (s, a)) := by rintro t a ⟨⟩; exact h
theorem keeps_fst_none {α : Type} : KeepsFst (none : Option (State × α)) := by rintro t a ⟨⟩
theorem keeps_snd {α : Type} {s : State} {a : α} (h : s.Ok) : KeepsSnd (some (a, s)) := by rintro t a ⟨⟩; exact h
theorem keeps_snd_none {α : Type} : KeepsSnd (none : Option (α × State)) := by rintro t a ⟨⟩
theorem keeps_exc {ε : Type} {s : State} (h : s.Ok) : KeepsExc (.ok s : Except ε State) := by rintro t ⟨⟩; exact h
theorem keeps_exc_error {ε : Type} {e : ε} : KeepsExc (.error e : Except ε State) := by rintro t ⟨⟩
theorem keeps_excFst {ε α : Type} {s : State} {a : α} (h : s.Ok) : KeepsExcFst (.ok (s, a) : Except ε (State × α)) := by
  rintro t a ⟨⟩; exact h
theorem keeps_excFst_error {ε α : Type} {e : ε} : KeepsExcFst (.error e : Except ε (State × α)) := by rintro t a ⟨⟩
theorem keeps_pair {α : Type} {s : State} {a : α} (h : s.Ok) : KeepsPair (s, a) := h
theorem KeepsPair.fst {α : Type} {o : State × α} (h : KeepsPair o) : o.1.Ok := h
theorem KeepsPair.of {α : Type} {o : State × α} {t : State} {a : α} (h : KeepsPair o) (e : o = (t, a)) : t.Ok := by
  subst e; exact h
theorem foldl_ok {β : Type} {f : State → β → State} {l : List β} {s : State} (h : s.Ok)
    (hf : ∀ s b, s.Ok → (f s b).Ok) : (l.foldl f s).Ok := foldl_keeps State.Ok f l s h hf

/-! ### The parts of the state -/

theorem Ctx.idle_ok : Ctx.idle.Ok := rfl
theorem Core.idle_ok : Core.idle.Ok := ⟨rfl, rfl, fun _ => rfl⟩
theorem Part.absent_ok : Part.absent.Ok := ⟨rfl, rfl, rfl, rfl, rfl⟩
theorem State.reset_ok : State.reset.Ok :=
  ⟨rfl, rfl, rfl, rfl, fun _ => Core.idle_ok, fun _ => Part.absent_ok, rfl, rfl, rfl, rfl, rfl, rfl, rfl, rfl, rfl, rfl, rfl⟩

theorem State.Ok.mem {s : State} (h : s.Ok) : s.MemOk := h.1
theorem State.Ok.cores {s : State} (h : s.Ok) : Tab.wf Core.idle s.cores = true := h.2.1
theorem State.Ok.tiles {s : State} (h : s.Ok) : Tab.wf Tile.idle s.tiles = true := h.2.2.1
theorem State.Ok.parts {s : State} (h : s.Ok) : Tab.wf Part.absent s.parts = true := h.2.2.2.1
theorem State.Ok.core {s : State} {g : Nat} (h : s.Ok) : (s.core g).Ok := h.2.2.2.2.1 g
theorem State.Ok.part {s : State} {n : Nat} (h : s.Ok) : (s.part n).Ok := h.2.2.2.2.2.1 n
theorem State.Ok.tables {s : State} (h : s.Ok) : s.TablesOk := h.2.2.2.2.2.2
theorem Core.Ok.ctx {c : Core} {n : Nat} (h : c.Ok) : (c.ctx n).Ok := h.2.2 n
theorem State.Ok.ctx {s : State} {g n : Nat} (h : s.Ok) : (s.ctx g n).Ok := h.core.ctx
theorem State.Ok.strand {s : State} (h : s.Ok) : s.strand.Ok := h.ctx

/-- A state that differs in nothing that the canonical form is about is in it. -/
theorem State.Ok.of {s t : State} (h : s.Ok) (hm : t.MemOk) (hc : t.cores = s.cores) (hx : t.tiles = s.tiles)
    (hp : t.parts = s.parts) (ht : t.TablesOk) : t.Ok := by
  obtain ⟨-, h1, h2, h3, h4, h5, -⟩ := h
  simp only [State.Ok, State.core, State.part, hc, hx, hp] at *
  exact ⟨hm, h1, h2, h3, h4, h5, ht⟩

theorem Ctx.setPtr_ok {k : Ctx} {n : Nat} {p : Ptr} (h : k.Ok) : (k.setPtr n p).Ok := Tab.wf_set _ _ _ _ h
theorem Core.setCtx_ok {c : Core} {n : Nat} {k : Ctx} (h : c.Ok) (hk : k.Ok) : (c.setCtx n k).Ok := by
  refine ⟨Tab.wf_set _ _ _ _ h.1, h.2.1, fun m => ?_⟩
  rw [Core.ctx_setCtx _ _ _ _ h.1]
  split
  · exact hk
  · exact h.ctx
theorem State.setCore_ok {s : State} {g : Nat} {c : Core} (h : s.Ok) (hc : c.Ok) : (s.setCore g c).Ok := by
  refine ⟨h.mem, Tab.wf_set _ _ _ _ h.cores, h.tiles, h.parts, fun m => ?_, fun _ => h.part, h.tables⟩
  rw [State.core_setCore _ _ _ _ h.cores]
  split
  · exact hc
  · exact h.core
theorem State.modCore_ok {s : State} {g : Nat} {f : Core → Core} (h : s.Ok) (hf : ∀ c, c.Ok → (f c).Ok) : (s.modCore g f).Ok :=
  State.setCore_ok h (hf _ h.core)
theorem State.setCtx_ok {s : State} {g n : Nat} {k : Ctx} (h : s.Ok) (hk : k.Ok) : (s.setCtx g n k).Ok :=
  State.modCore_ok h fun _ hc => Core.setCtx_ok hc hk
theorem State.modCtx_ok {s : State} {g n : Nat} {f : Ctx → Ctx} (h : s.Ok) (hf : ∀ k, k.Ok → (f k).Ok) : (s.modCtx g n f).Ok :=
  State.setCtx_ok h (hf _ h.ctx)
theorem State.setTile_ok {s : State} {t : Nat} {x : Tile} (h : s.Ok) : (s.setTile t x).Ok :=
  ⟨h.mem, h.cores, Tab.wf_set _ _ _ _ h.tiles, h.parts, fun _ => h.core, fun _ => h.part, h.tables⟩
theorem State.modTile_ok {s : State} {t : Nat} {f : Tile → Tile} (h : s.Ok) : (s.modTile t f).Ok := State.setTile_ok h
theorem State.setPart_ok {s : State} {n : Nat} {p : Part} (h : s.Ok) (hp : p.Ok) : (s.setPart n p).Ok := by
  refine ⟨h.mem, h.cores, h.tiles, Tab.wf_set _ _ _ _ h.parts, fun _ => h.core, fun m => ?_, h.tables⟩
  rw [State.part_setPart _ _ _ _ h.parts]
  split
  · exact hp
  · exact h.part
theorem State.modPart_ok {s : State} {n : Nat} {f : Part → Part} (h : s.Ok) (hf : ∀ p, p.Ok → (f p).Ok) : (s.modPart n f).Ok :=
  State.setPart_ok h (hf _ h.part)
theorem Part.setTask_ok {p : Part} {n : Nat} {t : Task} (h : p.Ok) : (p.setTask n t).Ok :=
  ⟨Tab.wf_set _ _ _ _ h.1, h.2⟩
theorem Part.setGraph_ok {p : Part} {n : Nat} {g : BitVec 512} (h : p.Ok) : (p.setGraph n g).Ok :=
  ⟨h.1, Tab.wf_set _ _ _ _ h.2.1, h.2.2⟩
theorem Part.setInst_ok {p : Part} {n : Nat} {x : Inst} (h : p.Ok) : (p.setInst n x).Ok :=
  ⟨h.1, h.2.1, Tab.wf_set _ _ _ _ h.2.2.1, h.2.2.2⟩
theorem Part.setSeq_ok {p : Part} {n : Nat} {r : BitVec 512} (h : p.Ok) : (p.setSeq n r).Ok :=
  ⟨h.1, h.2.1, h.2.2.1, Tab.wf_set _ _ _ _ h.2.2.2.1, h.2.2.2.2⟩

theorem clearPoison_wf {p : Tab Bool} {k n : Nat} (h : Tab.wf false p = true) : Tab.wf false (clearPoison p k n) = true := by
  unfold clearPoison
  split
  · exact h
  · exact foldl_keeps (fun p => Tab.wf false p = true) _ _ _ h fun p u hp => by
      split
      · exact Tab.wf_set _ _ _ _ hp
      · exact hp
theorem State.wrN_ok {s : State} {k : Nat} {bs : List Byte} (h : s.Ok) : (s.wrN k bs).Ok :=
  h.of (Memory.wf_writeN _ _ _ h.mem) rfl rfl rfl ⟨clearPoison_wf h.tables.1, h.tables.2⟩
theorem State.poisonAt_ok {s : State} {k n : Nat} (h : s.Ok) : (s.poisonAt k n).Ok :=
  h.of h.mem rfl rfl rfl ⟨foldl_keeps (fun p => Tab.wf false p = true) _ _ _ h.tables.1 fun _ _ hp => Tab.wf_set _ _ _ _ hp,
    h.tables.2⟩
theorem State.clearKeys_ok {s : State} {k n : Nat} (h : s.Ok) : (s.clearKeys k n).Ok :=
  h.of (Tab.wf_clearRange _ _ _ _ h.mem) rfl rfl rfl ⟨Tab.wf_clearRange _ _ _ _ h.tables.1, h.tables.2⟩
theorem State.copyKeys_ok {s : State} {a b n : Nat} (h : s.Ok) : (s.copyKeys a b n).Ok := by
  have hs : ∀ (p : Tab Bool) (us : List Nat), Tab.wf false p = true →
      Tab.wf false (us.foldl (fun p u => Tab.set false p u true) p) = true := fun p us hp =>
    foldl_keeps (fun p => Tab.wf false p = true) _ us p hp fun _ _ hp => Tab.wf_set _ _ _ _ hp
  refine h.of (Memory.wf_copy _ _ _ (Tab.wf_clearRange _ _ _ _ h.mem)) rfl rfl rfl ⟨?_, h.tables.2⟩
  exact foldl_keeps (fun p => Tab.wf false p = true) _ _ _ (Tab.wf_clearRange _ _ _ _ h.tables.1) fun p e hp => hs p _ hp
theorem State.wrBad_ok {s : State} {k : Nat} {bs : List Byte} {bad : List Nat} (h : s.Ok) : (s.wrBad k bs bad).Ok :=
  foldl_ok (State.wrN_ok h) fun _ _ hs => State.poisonAt_ok hs
theorem State.due_ok {s : State} {ds : List Due} (h : s.Ok) : (s.due ds).Ok := h
theorem State.dueIn_ok {s : State} {n : Nat} {d : Due} (h : s.Ok) : (s.dueIn n d).Ok := h
theorem State.modMgmt_ok {s : State} {f : Mgmt → Mgmt} (h : s.Ok) (hr : Tab.wf false (f s.mgmt).retired = true)
    (hw : Tab.wf 0 (f s.mgmt).windows = true) (hs : Tab.wf false (f s.mgmt).stopped = true) : (s.modMgmt f).Ok :=
  h.of h.mem rfl rfl rfl ⟨h.tables.1, h.tables.2.1, h.tables.2.2.1, h.tables.2.2.2.1, hr, hw, hs, h.tables.2.2.2.2.2.2.2⟩
theorem State.modBoard_ok {s : State} {f : Board → Board} (h : s.Ok) (hr : Tab.wf 0 (f s.board).regions = true)
    (ho : Tab.wf false (f s.board).owners = true) (hb : Tab.wf 0 (f s.board).banks = true) : (s.modBoard f).Ok :=
  h.of h.mem rfl rfl rfl ⟨h.tables.1, hr, ho, hb, h.tables.2.2.2.2⟩
theorem State.modHost_ok {s : State} {f : HostBlock → HostBlock} (h : s.Ok) (hq : Tab.wf 0 (f s.host).queues = true) :
    (s.modHost f).Ok := by
  obtain ⟨h1, h2, h3, hb, h4, h5, h6, -, h8⟩ := h.tables
  exact h.of h.mem rfl rfl rfl ⟨h1, h2, h3, hb, h4, h5, h6, hq, h8⟩
theorem State.modPod_ok {s : State} {f : Pod → Pod} (h : s.Ok) (hr : Tab.wf 0 (f s.pod).routes = true)
    (hu : Tab.wf false (f s.pod).unreachable = true) (hn : Tab.wf 0 (f s.pod).numbers = true) : (s.modPod f).Ok := by
  obtain ⟨h1, h2, h3, hb, h4, h5, h6, h7, -⟩ := h.tables
  exact h.of h.mem rfl rfl rfl ⟨h1, h2, h3, hb, h4, h5, h6, h7, hr, hu, hn⟩

/-! ### Routing banks, escape channels and the places of instances -/

theorem State.modInst_ok {s : State} {pid n : Nat} {f : Inst → Inst} (h : s.Ok) : (s.modInst pid n f).Ok :=
  State.modPart_ok h fun _ hp => Part.setInst_ok hp
theorem State.setPlace_ok {s : State} {pid n : Nat} {place : Nat × Nat} (h : s.Ok) : (s.setPlace pid n place).Ok :=
  State.modInst_ok h
theorem State.makePool_ok {s : State} {pid tier : Nat} (h : s.Ok) : (s.makePool pid tier).Ok := by
  unfold State.makePool
  split
  · exact h
  · exact State.modPart_ok h fun _ hp => Part.setInst_ok hp
theorem State.writeBank_ok {s : State} {bank : Bool} {pids : List Nat} (h : s.Ok) : (s.writeBank bank pids).Ok :=
  State.modBoard_ok h h.tables.2.1 h.tables.2.2.1 <|
    foldl_keeps (fun t => Tab.wf 0 t = true) _ _ _ h.tables.2.2.2.1 fun _ _ ht =>
      foldl_keeps (fun t => Tab.wf 0 t = true) _ _ _ ht fun _ _ hu => Tab.wf_set _ _ _ _ hu
theorem State.holdInjection_ok {s : State} {moved : List Nat} (h : s.Ok) : (s.holdInjection moved).Ok := by
  have key : ∀ {t : State} {f : Board → List Nat}, t.Ok → (t.modBoard fun b => { b with draining := f b }).Ok := fun ht =>
    State.modBoard_ok ht ht.tables.2.1 ht.tables.2.2.1 ht.tables.2.2.2.1
  exact key (State.writeBank_ok h)
theorem State.flip_ok {s : State} (h : s.Ok) : s.flip.Ok :=
  State.modBoard_ok h h.tables.2.1 h.tables.2.2.1 h.tables.2.2.2.1
theorem State.enterEscape_ok {s : State} {ch : Nat} {packet : Nat × Nat} (h : s.Ok) : (s.enterEscape ch packet).Ok :=
  State.dueIn_ok (State.modBoard_ok h h.tables.2.1 h.tables.2.2.1 h.tables.2.2.2.1)
theorem State.poisonNth_ok {s : State} {n w : Nat} (h : s.Ok) : (s.poisonNth n w).Ok := h

/-- Writing a bank changes the banks alone, and a flip the selector and the holds. -/
@[simp] theorem State.writeBank_parts (s : State) (bank : Bool) (pids : List Nat) : (s.writeBank bank pids).parts = s.parts := rfl
@[simp] theorem State.writeBank_mem (s : State) (bank : Bool) (pids : List Nat) : (s.writeBank bank pids).mem = s.mem := rfl
@[simp] theorem State.writeBank_selector (s : State) (bank : Bool) (pids : List Nat) :
    (s.writeBank bank pids).board.selector = s.board.selector := rfl
@[simp] theorem State.flip_selector (s : State) : s.flip.board.selector = !s.board.selector := rfl
@[simp] theorem State.flip_banks (s : State) : s.flip.board.banks = s.board.banks := rfl
@[simp] theorem State.flip_draining (s : State) : s.flip.board.draining = [] := rfl

/-- What an arbiter keeps of a partition that it has served is what it had, less a cycle (17 R389). -/
theorem Arbiter.serve_credit (a : Arbiter) (share now pid : Nat) (h : Tab.wf (0, 0) a.credits = true) :
    (a.serve share now pid).credit share now pid = a.credit share now pid - 1024 := by
  have hc : a.credit share now pid ≤ share * 4096 := Nat.min_le_right _ _
  have hg : Tab.get (0, 0) (a.serve share now pid).credits pid = (a.credit share now pid - 1024, now) :=
    Tab.get_set_self (0, 0) a.credits pid _ h
  generalize a.credit share now pid = c at hc hg ⊢
  rw [Arbiter.credit, hg, Nat.sub_self, Nat.mul_zero, Nat.add_zero]
  exact Nat.min_eq_left (Nat.le_trans (Nat.sub_le _ _) hc)

/-- Tiles that a step changes one by one stay in canonical form where it drops those that become idle. -/
theorem tiles_filterMap_wf (f : Nat → Tile → Tile) (t : Tab Tile) (h : Tab.wf Tile.idle t = true) :
    Tab.wf Tile.idle (t.filterMap fun e => if f e.1 e.2 = Tile.idle then none else some (e.1, f e.1 e.2)) = true := by
  suffices g : ∀ (t : Tab Tile) (lo : Option Nat), Tab.wfFrom Tile.idle lo t = true →
      Tab.wfFrom Tile.idle lo (t.filterMap fun e => if f e.1 e.2 = Tile.idle then none else some (e.1, f e.1 e.2)) = true from
    g t none h
  intro t
  induction t with
  | nil => intro lo h; rfl
  | cons e t ih =>
    obtain ⟨k, x⟩ := e
    intro lo h
    simp only [Tab.wfFrom, Bool.and_eq_true] at h
    by_cases c : f k x = Tile.idle
    · rw [List.filterMap_cons_none (by simp [c])]
      refine ih lo ?_
      cases lo with
      | none => exact Tab.wfFrom_none _ _ _ h.2
      | some l => exact Tab.wfFrom_mono _ _ _ _ (by have := h.1.1; simp at this; omega) h.2
    · rw [List.filterMap_cons_some (b := (k, f k x)) (by simp [c])]
      simp only [Tab.wfFrom, Bool.and_eq_true]
      exact ⟨⟨h.1.1, by simpa using c⟩, ih _ h.2⟩

end Sys2Proof.Machine
end

