-- ==== Sys2Proof/Tests/Slice0.lean ====
section
/-! SUPPORT. Tests: words of the manual's encodings, a state and operands that meet the hypotheses of each statement clause by clause, ill-formed instructions, and single instructions whose results the manual's examples and tables give. -/

namespace Sys2Proof.Tests
open Sys2Proof Sys2Proof.Machine
set_option Elab.async false

abbrev plain : Prefixes := Prefixes.none
abbrev page : Prefixes := Prefixes.page
abbrev typed (t : Ty) : Prefixes := { plain with wdx := some ⟨false, .dflt, t⟩ }
abbrev third : Prefixes := { plain with rgx := some ⟨1, false, false, 3⟩ }
abbrev narrowed : Prefixes := { typed .f32 with rgx := some ⟨0, false, false, 2⟩ }
abbrev twice : Prefixes := { plain with imx := [2] }
def allDecode (l : List (List Half × Instr)) : Bool := l.all fun e => decide (decode e.1 = .instr e.2 e.1.length)
/-! ### Every encoded row of the opcode table, by a word written out from the tables of encodings -/

theorem test_decode_memory : allDecode
    [([0x0150], Instr.lda 2 .minusStride 0 plain), ([0x02FD], Instr.sta 7 .plusElem 5 plain),
     ([0x0382], Instr.addMem 4 .none 2 plain), ([0x042F], Instr.adc 1 .plusStride 7 plain),
     ([0x05D4], Instr.subMem 6 .minusStride 4 plain), ([0x0679], Instr.sbc 3 .plusElem 1 plain),
     ([0x0706], Instr.mulMem 0 .none 6 plain), ([0x08AB], Instr.mulh 5 .plusStride 3 plain),
     ([0x0950], Instr.div 2 .minusStride 0 plain), ([0x0AFD], Instr.rem 7 .plusElem 5 plain),
     ([0x0B82], Instr.andMem 4 .none 2 plain), ([0x0C2F], Instr.orMem 1 .plusStride 7 plain),
     ([0x0DD4], Instr.xorMem 6 .minusStride 4 plain), ([0x0E79], Instr.shlMem 3 .plusElem 1 plain),
     ([0x0F06], Instr.shrMem 0 .none 6 plain), ([0x10AB], Instr.sarMem 5 .plusStride 3 plain),
     ([0x1150], Instr.rolMem 2 .minusStride 0 plain), ([0x12FD], Instr.cmpMem 7 .plusElem 5 plain),
     ([0x1382], Instr.tstMem 4 .none 2 plain), ([0x142F], Instr.minMem 1 .plusStride 7 plain),
     ([0x15D4], Instr.maxMem 6 .minusStride 4 plain), ([0x1679], Instr.sel 3 .plusElem 1 plain),
     ([0x1706], Instr.faddMem 0 .none 6 plain), ([0x18AB], Instr.fmulMem 5 .plusStride 3 plain),
     ([0x1950], Instr.fmin 2 .minusStride 0 plain), ([0x1AFD], Instr.fmax 7 .plusElem 5 plain),
     ([0x1B82], Instr.fcmp 4 .none 2 plain)] = true := by decide

theorem test_decode_products : allDecode
    [([0x20BF], Instr.mac 1 .plusStride 7 .plusElem plain), ([0x2750], Instr.msb 6 .minusStride 4 .none plain),
     ([0x29E5], Instr.ffma 3 .plusElem 1 .plusStride plain), ([0x2C1A], Instr.movm 0 .none 6 .minusStride plain)] = true := by decide

theorem test_decode_immediate : allDecode
    [([0x41F5], Instr.ldi 501 plain), ([0x421A], Instr.addImm 26 plain), ([0x443F], Instr.subImm 63 plain),
     ([0x4664], Instr.mulImm 100 plain), ([0x4889], Instr.andImm 137 plain), ([0x4AAE], Instr.orImm 174 plain),
     ([0x4CD3], Instr.xorImm 211 plain), ([0x4EF8], Instr.shlImm 248 plain), ([0x511D], Instr.shrImm 285 plain),
     ([0x5342], Instr.sarImm 322 plain), ([0x5567], Instr.rolImm 359 plain), ([0x578C], Instr.cmpImm 396 plain),
     ([0x59B1], Instr.tstImm 433 plain), ([0x5BD6], Instr.minImm 470 plain), ([0x5DFB], Instr.maxImm 507 plain)] = true := by decide

theorem test_decode_register : allDecode
    [([0x6000], Instr.addX plain), ([0x6100], Instr.subX plain), ([0x6200], Instr.andX plain),
     ([0x6300], Instr.orX plain), ([0x6400], Instr.xorX plain), ([0x6500], Instr.mulX plain),
     ([0x6600], Instr.cmpX plain), ([0x6700], Instr.xcha plain), ([0x6800], Instr.clz plain),
     ([0x6900], Instr.popc plain), ([0x6A00], Instr.faddX plain), ([0x6B00], Instr.fmulX plain),
     ([0x6C02], Instr.fcvt .narrow plain), ([0x6D00], Instr.frcp plain), ([0x6ECC], Instr.movp 6 3 false plain),
     ([0x6F60], Instr.addp 3 plain), ([0x701B], Instr.sets 0 27 plain), ([0x71A0], Instr.getp 5 plain),
     ([0x7200], Instr.ret plain), ([0x7300], Instr.movf plain), ([0x7400], Instr.getf plain),
     ([0x7500], Instr.nop plain)] = true := by decide

theorem test_decode_branch : allDecode
    [([0x814E], Instr.jmp 334 plain), ([0x8373], Instr.brZ 371 plain), ([0x8598], Instr.brNz 408 plain),
     ([0x87BD], Instr.brN 445 plain), ([0x89E2], Instr.brNn 482 plain), ([0x8A07], Instr.brC 7 plain),
     ([0x8C2C], Instr.brNc 44 plain), ([0x8E51], Instr.brV 81 plain), ([0x9076], Instr.brNv 118 plain),
     ([0x929B], Instr.brGt 155 plain), ([0x94C0], Instr.brGe 192 plain), ([0x96E5], Instr.brLt 229 plain),
     ([0x990A], Instr.brLe 266 plain), ([0x9B2F], Instr.call 303 plain), ([0x9C55], Instr.loop 85 plain),
     ([0x9E00], Instr.jmpA plain), ([0x9E01], Instr.callA plain)] = true := by decide

theorem test_decode_vector_1 : allDecode
    [([0xA03C], Instr.vld 3 6 false plain), ([0xA187], Instr.vst 8 3 true plain),
     ([0xA2D0], Instr.vldt 13 0 false plain), ([0xA32D], Instr.vmov 2 13 plain), ([0xA470], Instr.vbcast 7 plain),
     ([0xA5C7], Instr.vadd 12 7 plain), ([0xA61C], Instr.vsub 1 12 plain), ([0xA761], Instr.vmul 6 1 plain),
     ([0xF083, 0xA8B6], Instr.vfma 11 6 third), ([0xA90B], Instr.vmin 0 11 plain), ([0xAA50], Instr.vmax 5 0 plain),
     ([0xABA5], Instr.vabs 10 5 plain), ([0xACFA], Instr.vneg 15 10 plain), ([0xAD4F], Instr.vand 4 15 plain),
     ([0xAE94], Instr.vor 9 4 plain), ([0xAFE9], Instr.vxor 14 9 plain), ([0xB03E], Instr.vshl 3 14 plain),
     ([0xB183], Instr.vshr 8 3 plain), ([0xB2D8], Instr.vcmpEq 13 8 plain), ([0xB32D], Instr.vcmpLt 2 13 plain),
     ([0xB472], Instr.vcmpLe 7 2 plain), ([0xF083, 0xB5C7], Instr.vsel 12 7 third),
     ([0xF002, 0xF807, 0xB61C], Instr.vcvt 1 12 narrowed), ([0xB761], Instr.vred 6 1 plain),
     ([0xB8B6], Instr.vscan 11 6 plain), ([0xB90B], Instr.vperm 0 11 plain), ([0xBA50], Instr.vexp2 5 0 plain),
     ([0xBBA5], Instr.vlog2 10 5 plain), ([0xBCFA], Instr.vrcp 15 10 plain), ([0xBD4F], Instr.vrsq 4 15 plain)] = true := by decide

theorem test_decode_vector_2 : allDecode
    [([0xF083, 0xBE94], Instr.vclamp 9 4 third), ([0xE002, 0xBFE9], Instr.rep 14 9 twice)] = true := by decide

theorem test_decode_system : allDecode
    [([0xC190], Instr.waitc 9 false 0 plain), ([0xC29D], Instr.sleep 9 true 5 plain),
     ([0xC390], Instr.setc 9 false 0 plain), ([0xC49D], Instr.addc 9 true 5 plain),
     ([0xC503], Instr.bar .cluster plain), ([0xC604], Instr.fence .die plain),
     ([0xC60D], Instr.fenceAcq .package plain), ([0xC616], Instr.fenceRel .pod plain),
     ([0xC7B0], Instr.hstart 11 plain), ([0xC800], Instr.hexit plain), ([0xC950], Instr.hjoin 5 plain),
     ([0xCA00], Instr.yield plain), ([0xCB1F], Instr.trap 31 plain), ([0xCC80], Instr.cpy 4 .none plain),
     ([0xCD28], Instr.cpyc 1 .plusStride plain)] = true := by decide

theorem test_decode_matrix : allDecode
    [([0xF401, 0xC1D0], Instr.mctx 6 .minusStride page), ([0xF401, 0xC278], Instr.wpl 3 .plusElem page),
     ([0xF401, 0xC300], Instr.mzero page), ([0xF401, 0xC4A8], Instr.mma 5 .plusStride page),
     ([0xF401, 0xC550], Instr.mrow 2 .minusStride page), ([0xF401, 0xC6F8], Instr.mcol 7 .plusElem page),
     ([0xF401, 0xC780], Instr.mdrain 4 .none page), ([0xF401, 0xC828], Instr.mdrainf 1 .plusStride page),
     ([0xF401, 0xC9D0], Instr.qnt 6 .minusStride page), ([0xF401, 0xCA78], Instr.qntg 3 .plusElem page),
     ([0xF401, 0xCB00], Instr.deq 0 .none page), ([0xF401, 0xCCA8], Instr.blset 5 .plusStride page),
     ([0xF401, 0xCD00], Instr.blcnt page)] = true := by decide

theorem test_decode_global : allDecode
    [([0xF402, 0xC1F8], Instr.ldg 7 .plusElem page), ([0xF402, 0xC280], Instr.stg 4 .none page),
     ([0xF402, 0xC328], Instr.ldw 1 .plusStride page), ([0xF402, 0xC4D0], Instr.stw 6 .minusStride page),
     ([0xF402, 0xC57D], Instr.ldgAcq 3 .plusElem .package page), ([0xF402, 0xC606], Instr.stgRel 0 .none .pod page),
     ([0xF402, 0xC7A8], Instr.ldwAcq 5 .plusStride .context page),
     ([0xF402, 0xC851], Instr.stwRel 2 .minusStride .core page), ([0xF402, 0xC9F8], Instr.put 7 .plusElem page),
     ([0xF402, 0xCA80], Instr.putc 4 .none page), ([0xF402, 0xCB28], Instr.mcst 1 .plusStride page),
     ([0xF402, 0xCCC0], Instr.winset 6 page), ([0xF402, 0xD07E], Instr.atomAdd 3 .acqRel .pod page),
     ([0xF402, 0xD100], Instr.atomMin 0 .relaxed .context page),
     ([0xF402, 0xD2A9], Instr.atomMax 5 .acquire .core page),
     ([0xF402, 0xD352], Instr.atomAnd 2 .release .tile page),
     ([0xF402, 0xD4FB], Instr.atomOr 7 .acqRel .cluster page),
     ([0xF402, 0xD584], Instr.atomXor 4 .relaxed .die page),
     ([0xF402, 0xD62D], Instr.atomXchg 1 .acquire .package page),
     ([0xF402, 0xD7D6], Instr.atomCas 6 .release .pod page),
     ([0xF402, 0xD860], Instr.atomnAdd 3 .relaxed .context page),
     ([0xF402, 0xD911], Instr.atomnMin 0 .release .core page),
     ([0xF402, 0xDAA2], Instr.atomnMax 5 .relaxed .tile page),
     ([0xF402, 0xDB53], Instr.atomnAnd 2 .release .cluster page),
     ([0xF402, 0xDCE4], Instr.atomnOr 7 .relaxed .die page),
     ([0xF402, 0xDD95], Instr.atomnXor 4 .release .package page)] = true := by decide

theorem test_decode_counting : allDecode
    [([0xF403, 0xC100], Instr.tok page), ([0xF403, 0xC200], Instr.tokn page), ([0xF403, 0xC300], Instr.atok page),
     ([0xF403, 0xC400], Instr.cvoid page), ([0xF403, 0xC500], Instr.cpeek page),
     ([0xF403, 0xC6B4], Instr.netred .xor true .die page), ([0xF403, 0xC703], Instr.nbar .cluster page)] = true := by decide

theorem test_decode_tasks : allDecode
    [([0xF404, 0xC180], Instr.spawn 4 .none page), ([0xF404, 0xC200], Instr.arm page),
     ([0xF404, 0xC300], Instr.link page), ([0xF404, 0xC400], Instr.depdec page),
     ([0xF404, 0xC500], Instr.gnew page), ([0xF404, 0xC600], Instr.gcancel page),
     ([0xF404, 0xC700], Instr.gwait page), ([0xF404, 0xC800], Instr.qres page),
     ([0xF404, 0xC980], Instr.qpost 4 .none page), ([0xF404, 0xCA01], Instr.tcbrd 1 page)] = true := by decide

theorem test_decode_sequences : allDecode
    [([0xF405, 0xC1D0], Instr.sqnew 6 .minusStride page), ([0xF405, 0xC200], Instr.sqres page),
     ([0xF405, 0xC300], Instr.sqcmt page), ([0xF405, 0xC400], Instr.sqvoidCancel page),
     ([0xF405, 0xC500], Instr.sqlen page), ([0xF405, 0xC600], Instr.sqfork page),
     ([0xF405, 0xC700], Instr.sqclose page), ([0xF405, 0xC800], Instr.sqdrop page),
     ([0xF405, 0xC900], Instr.sqaddr page)] = true := by decide

theorem test_decode_placement : allDecode
    [([0xF406, 0xC100], Instr.eret page), ([0xF406, 0xC200], Instr.csave 0 .none page),
     ([0xF406, 0xC3A8], Instr.cload 5 .plusStride page), ([0xF406, 0xC400], Instr.tlbinvPage page),
     ([0xF406, 0xC401], Instr.tlbinvJob page), ([0xF406, 0xC402], Instr.tlbinvStack page),
     ([0xF406, 0xC528], Instr.fltrdTake 1 .plusStride page), ([0xF406, 0xD031], Instr.stkpass 6 1 page),
     ([0xF406, 0xD11B], Instr.rgnrd 27 page), ([0xF406, 0xD200], Instr.rgnwr 0 page),
     ([0xF406, 0xD300], Instr.plcmtPrep page), ([0xF406, 0xD301], Instr.plcmtCommit page),
     ([0xF406, 0xD302], Instr.plcmtAbort page)] = true := by decide

/-- The canonical form of a state, as a check of its tables. -/
def formOk (s : State) : Bool :=
  (s.mem.wf && Tab.wf Core.idle s.cores && Tab.wf Tile.idle s.tiles && Tab.wf Part.absent s.parts) &&
  (s.cores.all fun e => Tab.wf Ctx.idle e.2.ctxs && Tab.wf 0 e.2.counters &&
    e.2.ctxs.all fun k => Tab.wf Ptr.zero k.2.ptrs) &&
  (s.parts.all fun e => Tab.wf Task.absent e.2.tasks && (Tab.wf 0 e.2.graphs && (Tab.wf Inst.free e.2.insts &&
    (Tab.wf 0 e.2.seqs && Tab.wf none e.2.held)))) &&
  (Tab.wf false s.poison && (Tab.wf 0 s.board.regions && (Tab.wf false s.board.owners && (Tab.wf 0 s.board.banks && (Tab.wf false s.mgmt.retired &&
    (Tab.wf 0 s.mgmt.windows && (Tab.wf false s.mgmt.stopped && (Tab.wf 0 s.host.queues && (Tab.wf 0 s.pod.routes &&
      (Tab.wf false s.pod.unreachable && Tab.wf 0 s.pod.numbers))))))))))

theorem ok_of_formOk (s : State) (h : formOk s = true) : s.Ok := by
  simp only [formOk, Bool.and_eq_true, List.all_eq_true] at h
  obtain ⟨⟨⟨⟨⟨⟨hm, hc⟩, ht⟩, hp⟩, hall⟩, hparts⟩, htab⟩ := h
  have key : ∀ {α : Type} (d : α) (t : Tab α) (P : α → Prop), P d → (∀ e ∈ t, P e.2) → ∀ n, P (Tab.get d t n) := by
    intro α d t P hd ht n
    induction t with
    | nil => exact hd
    | cons e t ih =>
      simp only [Tab.get]
      split
      · exact ht e (by simp)
      · split
        · exact hd
        · exact ih fun e he => ht e (by simp [he])
  refine ⟨hm, hc, ht, hp, fun g => ?_, fun n => key Part.absent s.parts Part.Ok Part.absent_ok hparts n, htab⟩
  refine key Core.idle s.cores Core.Ok Core.idle_ok (fun e he => ?_) g
  obtain ⟨⟨h1, h2⟩, h3⟩ := hall e he
  exact ⟨h1, h2, fun n => key Ctx.idle e.2.ctxs Ctx.Ok Ctx.idle_ok (fun k hk => h3 k hk) n⟩

/-! ### A small machine: tiles 0 and 1 belong to partition 1, whose task 1 runs on tile 0 -/

/-- P1 points to 0x100 of the scratchpad, P2 into the own die store, P3 to 0x208 and P7 to the stack. -/
def strandNow : Ctx := { Ctx.idle with
  live := true, mode := .running, pc := 0x1000, a := 5, x := 3,
  ptrs := [(1, ⟨4, 0xF00000000100⟩), (2, ⟨8, 0xF20000000040⟩), (3, ⟨2, 0xF00000000208⟩), (7, ⟨0, 0xF00000001000⟩)] }
def coreNow (k : Ctx) : Core := { Core.idle with ctxs := [(0, k)], running := some 0, from_ := 1 }
/-- A task that runs on one tile, with three helpers and a trap entry at 0x40; its trap records lie at 0x100000. -/
def taskNow : Task := { Task.absent with
  tiles := [0], tcb := 0x10000000100000000000000000000000000100000000005000000000000000000C010000000080100000000000400000000000010000#1024 }
/-- An ACTIVE graph that holds the task, created by the host. -/
def graphNow : BitVec 512 := 0x200000000000000010000000000000000000000000000100000000000#512
/-- The partition has the system right and 32 MiB of the store of die 0. -/
def partNow : Part := { Part.absent with
  record := 0x8000000000000000000040001#1024, perm := [(0, 3), (1, 3)],
  tasks := [(1, taskNow)], graphs := [(1, graphNow)] }
/-- Core 0 has the turn and its context 0 is `k`. -/
def machine (k : Ctx) : State := { State.reset with
  cores := [(0, coreNow k)], tiles := [(0, { Tile.idle with pid := 1, tcb := 0x1000 }), (1, { Tile.idle with pid := 1 })],
  parts := [(1, partNow)],
  board := { Board.reset with layout := ⟨0, 1, 0, [], [(0, 1), (1, 0x10001)], []⟩ } }
def demo : State := machine strandNow

/-! ### Witnesses: a state and operands that meet the hypotheses of each statement, clause by clause -/

/-- A strand whose pointer 1 points to `a` with stride `n`. -/
def at1 (a : Addr) (n : BitVec 16 := 0) : State := machine { strandNow with ptrs := [(1, ⟨n, a⟩), (7, ⟨0, 0xF00000000008⟩)] }
/-- The strand with A, X and F replaced. -/
def with_ (a x : Word64) (f : BitVec 16 := 0) : State := machine { strandNow with a := a, x := x, f := f }

theorem witness_ImmediateArithmetic : demo.Chosen plain ∧ (Instr.addImm 511 plain).WellFormed ∧
    (Instr.mulImm 0 { typed .i8 with wdx := some ⟨true, .dflt, .i8⟩, imx := [0xFFF, 0, 0] }).WellFormed := by
  simp only [State.Chosen, Instr.WellFormed]; decide +kernel
theorem witness_RegisterArithmetic : (with_ 0 0 1).Chosen { plain with rgx := some ⟨1, true, false, 0⟩ } ∧
    (Instr.addX { plain with rgx := some ⟨1, true, false, 0⟩ }).WellFormed := by
  simp only [State.Chosen, Instr.WellFormed]; decide +kernel
theorem witness_MemoryArithmetic : demo.Chosen plain ∧ (Instr.addMem 1 .none 7 plain).WellFormed ∧
    demo.Readable (demo.strand.apAddr 1 0 plain 8) 8 0x100 := by
  simp only [State.Chosen, Instr.WellFormed, State.Readable, State.Reaches]; decide +kernel
theorem witness_MemoryArithmetic_last : (at1 0xF000001FFFFF).Chosen (typed .i8) ∧ (Instr.sel 1 .plusElem 0 (typed .i8)).WellFormed ∧
    (at1 0xF000001FFFFF).Readable ((at1 0xF000001FFFFF).strand.apAddr 1 0 (typed .i8) 1) 1 0x1FFFFF := by
  simp only [State.Chosen, Instr.WellFormed, State.Readable, State.Reaches]; decide +kernel
theorem witness_LocalLoads : demo.Chosen plain ∧ (Instr.lda 1 .none 0 plain).WellFormed ∧ (Instr.ldi 256 plain).WellFormed ∧
    demo.Readable (demo.strand.apAddr 1 0 plain 8) 8 0x100 := by
  simp only [State.Chosen, Instr.WellFormed, State.Readable, State.Reaches]; decide +kernel
theorem witness_LocalStores : let s := at1 0xF00000000000
    s.Chosen (typed .i16) ∧ (Instr.sta 1 .minusStride 0 (typed .i16)).WellFormed ∧
    s.Reaches (s.strand.apAddr 1 0 (typed .i16) 2) 2 0 ∧
    (Instr.movm 1 .none 7 .plusElem (typed .i16)).WellFormed ∧ s.Readable (s.strand.ptr 1).addr 2 0 ∧
    s.Reaches (s.strand.ptr 7).addr 2 8 := by
  simp only [State.Chosen, Instr.WellFormed, State.Readable, State.Reaches]; decide +kernel
theorem witness_MultiplyAccumulate : demo.Chosen (typed .i32) ∧ (Instr.mac 1 .plusStride 3 .plusElem (typed .i32)).WellFormed ∧
    (Instr.msb 1 .plusStride 3 .plusElem (typed .i32)).WellFormed ∧
    demo.Readable (demo.strand.ptr 1).addr 4 0x100 ∧ demo.Readable (demo.strand.ptr 3).addr 4 0x208 := by
  simp only [State.Chosen, Instr.WellFormed, State.Readable, State.Reaches]; decide +kernel
theorem witness_FloatRegisterForms : demo.Chosen plain ∧ (Instr.faddX plain).WellFormed ∧ (Instr.frcp plain).WellFormed ∧
    (Instr.fcvt .itof (typed .f16)).WellFormed ∧ (Instr.fcvt .widen (typed .e4m3)).WellFormed := by
  simp only [State.Chosen, Instr.WellFormed]; decide +kernel
theorem witness_FloatMemoryForms : demo.Chosen (typed .bf16) ∧ (Instr.faddMem 1 .none 0 (typed .bf16)).WellFormed ∧
    (Instr.fcmp 1 .none 0 (typed .bf16)).WellFormed ∧ (Instr.ffma 1 .none 3 .none (typed .bf16)).WellFormed ∧
    demo.Readable (demo.strand.apAddr 1 0 (typed .bf16) 2) 2 0x100 ∧ demo.Readable (demo.strand.ptr 1).addr 2 0x100 ∧
    demo.Readable (demo.strand.ptr 3).addr 2 0x208 := by
  simp only [State.Chosen, Instr.WellFormed, State.Readable, State.Reaches]; decide +kernel
theorem witness_RoundingKeepsValues : Ty.f16.isFloat = true ∧ 0xFC00 < 2 ^ Ty.f16.bits ∧ (Ty.f16.value 0xFC00).isNaN = false ∧
    0xFFFF < 2 ^ Ty.f16.bits ∧ (Ty.f16.value 0xFFFF).isNaN = true ∧ (Ty.e4m3.value 0x7F).isNaN = true ∧
    (Ty.e4m3.value 0x7E).isNaN = false := by decide +kernel
theorem witness_RoundingKeepsValues_between : let mag (a : Nat) : Nat := match Ty.e4m3.value a with
      | .fin _ n f => n * 2 ^ (f + 10).toNat
      | _ => 0
    let top := Ty.e4m3.maxFinite
    let next := 2 * mag top - mag (top - 1)
    (-10 : Int) ≤ 1 - Ty.e4m3.bias - Ty.e4m3.fracBits ∧ mag top = 448 * 2 ^ 10 ∧ (mag (top - 1) < 432 * 2 ^ 10 ∧ 432 * 2 ^ 10 < mag top) ∧
    (mag 0 < 1 ∧ 1 < mag (0 + 1)) ∧ mag top < 464 * 2 ^ 10 ∧ mag top + next = 2 * (464 * 2 ^ 10) ∧ top % 2 = 0 ∧
    mag top + next < 2 * (464 * 2 ^ 10 + 1) ∧ next ≤ 480 * 2 ^ 10 ∧ Ty.f16.maxFinite % 2 = 1 := by decide +kernel
theorem witness_RoundingKeepsValues_nans : (FV.nan true).isNaN = true ∧ (FV.inf true).isNaN = false ∧ (FV.fin true 0 5).isNaN = false ∧
    (FV.mul (.inf true) (.fin true 0 5)).1.isNaN = true ∧ (FV.mul (.inf true) (.fin true 1 5)).1.isNaN = false := by decide +kernel
theorem witness_RegisterForms : demo.Chosen plain ∧ (Instr.xcha plain).WellFormed ∧ (Instr.popc (typed .i16)).WellFormed ∧
    (Instr.movp 7 0 true plain).WellFormed ∧ (Instr.movp 0 7 false plain).WellFormed ∧
    (Instr.sets 7 31 { plain with imx := [0x3FF] }).WellFormed ∧ (Instr.sets 7 0 { plain with imx := [0xC00] }).WellFormed := by
  simp only [State.Chosen, Instr.WellFormed]; decide +kernel
theorem witness_Branches : demo.Chosen plain ∧ (Instr.jmp 0x100 plain).WellFormed ∧ (Instr.brLe 0xFF plain).WellFormed := by
  simp only [State.Chosen, Instr.WellFormed]; decide +kernel
theorem witness_CallsAndReturns : let s := machine { strandNow with a := 0x2000 }
    s.Chosen plain ∧ s.Reaches ((s.strand.ptr 7).addr - 8) 8 0xFF8 ∧ (Instr.call 0 plain).WellFormed ∧
    (Instr.callA plain).WellFormed ∧ (Instr.jmpA plain).WellFormed ∧ s.strand.a.getLsbD 0 = false ∧ (Instr.ret plain).WellFormed ∧
    s.Readable (s.strand.ptr 7).addr 8 0x1000 ∧ s.rdNat (scratchKey s.myTile 0x1000) 8 % 2 = 0 ∧
    demo.strand.a.getLsbD 0 = true := by
  simp only [State.Chosen, Instr.WellFormed, State.Readable, State.Reaches]; decide +kernel
theorem witness_CallsAndReturns_bottom : let s := at1 0
    s.Reaches ((s.strand.ptr 7).addr - 8) 8 0 := by simp only [State.Reaches]; decide +kernel
/-- The strand with P7 at an address. -/
def stackAt (a : Addr) : State := machine { strandNow with a := 0x2000, ptrs := [(7, ⟨0, a⟩)] }
theorem witness_CallsAndReturns_traps :
    let inside (s : State) (d : Addr) : Bool := let a := (s.strand.ptr 7).addr - d
      decide (0xF00000000000 ≤ a.toNat) && decide (a.toNat + 8 ≤ 0xF00000000000 + 2 ^ 21)
    (stackAt 0xF00000000000).Chosen plain ∧ inside (stackAt 0xF00000000000) 8 = false ∧ inside (stackAt 0xF00000200000) 0 = false ∧
    inside (stackAt 0xF0000000000C) 8 = true ∧ ((stackAt 0xF0000000000C).strand.ptr 7).addr.toNat % 8 ≠ 0 ∧
    inside (stackAt 0xF0000000000C) 0 = true ∧ (stackAt 0xF0000000000C).strand.a.getLsbD 0 = false := by
  simp only [State.Chosen]; decide +kernel
theorem witness_CallsAndReturns_odd : let s : State := { demo with mem := [(scratchKey 0 0x1000, 1)] }
    s.Readable (s.strand.ptr 7).addr 8 0x1000 ∧ s.rdNat (scratchKey s.myTile 0x1000) 8 % 2 = 1 := by
  simp only [State.Readable, State.Reaches]; decide +kernel
theorem witness_HardwareLoop : demo.Chosen plain ∧ (Instr.loop 1 plain).WellFormed ∧ demo.strand.loop.lact = false ∧
    demo.strand.x.setWidth 32 ≠ (0 : Word32) ∧ (with_ 0 (2 ^ 32)).strand.x.setWidth 32 = (0 : Word32) ∧
    (machine { strandNow with loop := ⟨true, 1, 0x800, 0x900⟩ }).strand.loop.lact = true := by
  simp only [State.Chosen, Instr.WellFormed]; decide +kernel
theorem witness_FalsePredicate : let pre : Prefixes := { plain with rgx := some ⟨7, false, false, 0⟩ }
    (Instr.nop pre).WellFormed ∧ isVx (.nop pre) = false ∧ demo.strand.cond pre.pred.toNat = false := by
  simp only [Instr.WellFormed]; decide +kernel
theorem witness_OperandTraps : let inside (ea : Addr) (n : Nat) : Prop := 0xF00000000000 ≤ ea.toNat ∧ ea.toNat + n ≤ 0xF00000000000 + 2 ^ 21
    (at1 0xF000001FFFFE).Chosen (typed .i32) ∧ ¬inside ((at1 0xF000001FFFFE).strand.apAddr 1 0 (typed .i32) 4) 4 ∧
    ¬inside ((at1 0xEFFFFFFFFFFC).strand.apAddr 1 0 (typed .i32) 4) 4 ∧
    inside ((at1 0xF000001FFFFA).strand.apAddr 1 0 (typed .i32) 4) 4 ∧
    ((at1 0xF000001FFFFA).strand.apAddr 1 0 (typed .i32) 4).toNat % 4 ≠ 0 := by
  simp only [State.Chosen]; decide +kernel
/-- The strand with P1 and P3 at two addresses. -/
def pairAt (a b : Addr) : State := machine { strandNow with ptrs := [(1, ⟨0, a⟩), (3, ⟨0, b⟩)] }
theorem witness_OperandTraps_pairs :
    let inside (x : Addr) : Prop := 0xF00000000000 ≤ x.toNat ∧ x.toNat + 4 ≤ 0xF00000000000 + 2 ^ 21
    let a (s : State) := (s.strand.ptr 1).addr
    let b (s : State) := (s.strand.ptr 3).addr
    (pairAt 0xF000001FFFFD 0).Chosen (typed .i32) ∧ ¬inside (a (pairAt 0xF000001FFFFD 0)) ∧
    (let s := pairAt 0xF000001FFFFC 0xEFFFFFFFFFFF; inside (a s) ∧ ¬inside (b s)) ∧
    (let s := pairAt 0xF00000000002 0xF00000000001; inside (a s) ∧ inside (b s) ∧ (a s).toNat % 4 ≠ 0) ∧
    (let s := pairAt 0xF00000000000 0xF000001FFFFA; inside (a s) ∧ inside (b s) ∧ (a s).toNat % 4 = 0 ∧ (b s).toNat % 4 ≠ 0) := by
  simp only [State.Chosen]; decide +kernel
theorem witness_TrapsAndReturns : let s := demo
    s.taskOf s.me = some (1, taskNow) ∧ taskNow.trapEntry = true ∧ s.strand.inh = false ∧ (trapOf kMatrix 1 0).kind ≠ kXlate ∧
    s.Chosen page ∧ s.poison = [] ∧ s.strand.pc.getLsbD 0 = false ∧
    (s.core s.me).vecPending (taskNow.trb + 1024 * (s.me % 8) + 64 * s.myCtx) 64 = false := by
  simp only [State.Chosen]; decide +kernel
/-- A strand in its trap handler; with `odd`, the PC in its record is odd. -/
def inTrap (odd : Bool) : State := { machine { strandNow with inh := true } with
  mem := if odd then [(scratchKey 0 0x100000, 1)] else [(scratchKey 0 0x100000, 2)] }
theorem witness_TrapsAndReturns_return : ∀ b : Bool, let s := inTrap b
    s.Chosen page ∧ s.taskOf s.me = some (1, taskNow) ∧ s.strand.inh = true ∧ (s.core s.me).vecPending 0x100000 64 = false ∧
    s.poisonIn (scratchKey s.myTile 0x100000) 64 = none ∧
    (BitVec.ofNat 512 (s.rdNat (scratchKey s.myTile 0x100000) 64)).getLsbD 0 = b := by
  simp only [State.Chosen]; decide +kernel
theorem witness_TrapsAndReturns_reserved : ∀ e ∈ [(47, false), (48, true), (63, true), (64, false), (100, false), (101, true), (111, true),
      (112, false), (119, false), (120, true), (127, true), (128, false), (175, false), (176, true), (191, true), (192, false),
      (319, false), (320, true), (511, true)],
    let s := (inTrap false).wrNat (scratchKey 0 0x100000) 64 (2 + 2 ^ e.1)
    let r : BitVec 512 := BitVec.ofNat 512 (s.rdNat (scratchKey s.myTile 0x100000) 64)
    (r.extractLsb' 48 16 ≠ 0 ∨ r.extractLsb' 101 11 ≠ 0 ∨ r.extractLsb' 120 8 ≠ 0 ∨ r.extractLsb' 176 16 ≠ 0 ∨
      r.extractLsb' 320 192 ≠ 0) ↔ e.2 = true := by decide +kernel
theorem witness_TrapsAndReturns_ok : demo.Ok := ok_of_formOk _ (by decide +kernel)
theorem witness_TrapsAndReturns_held : let s := inTrap false
    s.Ok ∧ s.strand.inh = true ∧ (s.part (s.pidOf s.me)).heldSlot = some 1 ∧
    (s.part (s.pidOf s.me)).isSaved (s.tcbOf s.me) = false ∧ (trapOf kXlate 1 0).kind = kXlate ∧
    (∀ e, (machine { strandNow with pc := 0 }).taskOf 8 = some e → e.2.trapEntry = false) :=
  ⟨ok_of_formOk _ (by decide +kernel), by decide +kernel, by decide +kernel, by decide +kernel, by decide, by decide +kernel⟩
/-- Core 0 with `f` applied. -/
def onCore (f : Core → Core) (s : State := demo) : State := s.modCore 0 f
/-- The board of the machine replaced in part. -/
def onBoard (f : Board → Board) (s : State := demo) : State := s.modBoard f
/-- The machine in a device step with unit numbers. -/
def inStep (a : Nat) (b : Nat := 0) (c : Nat := 0) (d : Nat := 0) (s : State := demo) : State := { s with arg := .num a b c d }
def entryOf (i : Instr) : VEntry := ⟨i, 0, 0, 0, 0, 7, false, 0, 0⟩
/-- Context 1 of core 0 as well, in a mode. -/
def second (m : Mode) (s : State := demo) : State := s.setCtx 0 1 { Ctx.idle with live := true, mode := m, pc := 0x3000 }

theorem witness_VectorIssue : let s := onCore fun c => { c with vq := List.replicate 31 (entryOf (.vabs 0 0 plain)) }
    (s.core s.me).vq.length < 32 := by decide +kernel
theorem witness_VectorIssue_memory : (demo.core demo.me).vq.length < 32 ∧ (Instr.vld 15 1 true plain).WellFormed ∧
    (∀ i < 64, InsideOwn (laneAddr .i32 ((at1 0xF000001FFF00).strand.ptr 1).addr 1 i) 4) ∧
    ((at1 0xF000001FFF00).strand.ptr 1).addr.toNat % 4 = 0 ∧
    ¬InsideOwn (laneAddr .i32 ((at1 0xF000001FFF04).strand.ptr 1).addr 1 63) 4 ∧
    (∀ i < 64, InsideOwn (laneAddr .i4 ((at1 0xF000001FFFE0).strand.ptr 1).addr 1 i) 1) ∧
    (∀ i < 64, InsideOwn (laneAddr .i32 ((at1 0xF00000000002).strand.ptr 1).addr 1 i) 4) ∧
    ((at1 0xF00000000002).strand.ptr 1).addr.toNat % 4 ≠ 0 ∧
    (Instr.vldt 0 1 false plain).WellFormed ∧ ¬InsideOwn (laneAddr .i32 ((at1 0xF00000000000 0xFFFF).strand.ptr 1).addr (-1) 1) 4 := by
  simp only [Instr.WellFormed, InsideOwn]; decide +kernel
theorem witness_VectorLanes : let p : Prefixes := { plain with rgx := some ⟨3, true, false, 31⟩ }
    (Instr.vshr 2 1 p).WellFormed ∧ (laneForm (.vshr 2 1 p)).isSome = true ∧ (Instr.vbcast 15 { plain with rgx := some ⟨3, true, false, 0⟩ }).WellFormed ∧
    (Instr.vperm 0 15 p).WellFormed ∧ (Instr.vred 0 15 { plain with rgx := some ⟨0, false, false, 5⟩ }).WellFormed ∧
    (Instr.vscan 0 15 plain).WellFormed ∧ redFns[5]? = some .xor ∧ redFns[plain.vt.toNat]? = some .add := by
  simp only [Instr.WellFormed]; decide +kernel
theorem witness_VectorLanes_memory : let last : Addr := 0xF000001FFE00 + BitVec.ofInt 48 (1 * 256)
    let first : Addr := 0xF00000000000 + BitVec.ofInt 48 (0 * 4)
    (Instr.vld 0 1 true plain).WellFormed ∧ (Instr.vldt 0 1 true plain).WellFormed ∧ (Instr.vst 0 1 true (typed .i4)).WellFormed ∧
    (∀ n < 64, InsideOwn (laneAddr .i32 last 1 n) 4) ∧ (∀ n < 64, InsideOwn (laneAddr .i4 first 1 n) 1) ∧ demo.poison = [] ∧ demo.Ok := by
  refine ⟨?_, ?_, ?_, ?_, ?_, rfl, ok_of_formOk _ (by decide +kernel)⟩ <;>
    simp only [Instr.WellFormed, InsideOwn] <;> decide +kernel
/-- Core 0 has an instruction to bind, core 3 none. -/
def binding (defi : Nat) : State := inStep 0 (s := onCore fun c => { c with vq := [entryOf (.vabs 1 2 plain)], defi := defi })
theorem witness_VectorArbiter : ∀ n ∈ [0, 15], let s := binding n
    s.arg = .num 0 0 0 0 ∧ s.holdsBack = false ∧ Tab.get 0 (s.tile 0).groups 0 ≤ s.now ∧ (s.core 0).issuable s.now = true ∧
    (∀ k < 8, (s.core (8 * 0 + k)).issuable s.now = true → k = 0) ∧
    ((∀ k < 8, (s.core (8 * 0 + k)).issuable s.now = true → (s.core (8 * 0 + k)).defi = 0) ↔ n = 0) ∧
    (s.core 0).head = some (entryOf (.vabs 1 2 plain), 0, 0) := by decide +kernel
/-- The words at 0x1000 of tile 0: a REP of two passes over one body instruction, and that instruction. -/
def repeating : State := demo.modTile 0 fun x => { x with icache := [(0x800, some 0xE001), (0x801, some 0xBF00), (0x802, some 0xAB12)] }
theorem witness_RepetitionGroups : let s := repeating
    let pre : Prefixes := { plain with imx := [1] }
    (Instr.rep 0 0 pre).WellFormed ∧ (s.core s.me).vq.length + 0 + 2 ≤ 32 ∧
    bodyFrom (s.tile s.myTile) s.myCtx (pre.extNat 0 0 + 1) s.strand (s.strand.next pre) 0 1 =
      .ok [⟨.vabs 1 2 plain, 0, 0, 0, 0, 5, false, 0, 0⟩] s.strand 0x1006 := by
  simp only [Instr.WellFormed]; decide +kernel
theorem witness_RepetitionGroups_load : let s := inStep 0 (s := onCore fun c =>
      { c with vq := [entryOf (.rep 15 15 { plain with imx := [0xFFF] })] })
    s.arg = .num 0 0 0 0 ∧ (s.core 0).rep = none ∧ (s.core 0).vq = [entryOf (.rep 15 15 { plain with imx := [0xFFF] })] := by
  decide +kernel
theorem witness_CounterInstructions : let s := onCore fun c => { c with counters := [(15, 0x80000004)] }
    let pre : Prefixes := { plain with imx := [0] }
    s.Chosen plain ∧ (Instr.waitc 15 true 7 pre).WellFormed ∧ (Instr.addc 15 false 0 plain).WellFormed ∧
    ((0x80000004 : Word32) - 5).toNat < 2 ^ 31 ∧ ¬((0x80000004 : Word32) - 4).toNat < 2 ^ 31 ∧
    Tab.get (0 : Word32) (s.core s.me).counters 15 = 0x80000004 ∧ s.strand.a.setWidth 32 = (5 : Word32) := by
  simp only [State.Chosen, Instr.WellFormed]; decide +kernel
theorem witness_FencesAndBarriers : demo.Chosen plain ∧ (demo.core demo.me).vecMem demo.myCtx = false ∧
    demo.outstanding (fun i => decide (i.core = demo.me ∧ i.ctx = demo.myCtx)) false = false ∧
    demo.outstanding (fun i => decide (i.core = demo.me)) true = false ∧ demo.released = true ∧ demo.myCtx = 0 := by
  simp only [State.Chosen]; decide +kernel
theorem witness_FencesAndBarriers_waits : let s := onCore fun c => { c with vq := [{ entryOf (.vld 0 1 false plain) with mem := true }] }
    (s.core s.me).vecMem s.myCtx = true := by decide +kernel
/-- Context 1 has the core. -/
def helper : State := onCore (fun c => { c with running := some 1 }) (second .running)
theorem witness_HelperStrands : demo.Chosen plain ∧ demo.myCtx = 0 ∧ helper.myCtx ≠ 0 ∧ helper.Chosen plain ∧
    (match demo.taskOf demo.me with | some (_, t) => field t.tcb 170 4 | none => 0) = 3 ∧ 3 < (4 : BitVec 4).toNat ∧
    (demo.ctx demo.me (3 : BitVec 4).toNat).live = false ∧ (second .ready).myCtx = 0 ∧
    ((second .ready).ctx (second .ready).me 1).live = true ∧ demo.strand.a.getLsbD 0 = true ∧
    (with_ 0x2000 9).strand.a.getLsbD 0 = false ∧ (1 : BitVec 4).toNat = helper.myCtx := by
  simp only [State.Chosen]; decide +kernel
theorem witness_CoreSteps : let s := inStep 0 (s := onCore (fun c => { c with running := none }) (second .ready))
    let c := s.core 0
    s.arg = .num 0 0 0 0 ∧ c.running = none ∧ 1 = (c.from_ + 0) % 16 ∧ (c.ctx 1).live = true ∧ (c.ctx 1).mode = .ready ∧
    ∀ i < 0, ¬((c.ctx ((c.from_ + i) % 16)).live = true ∧ (c.ctx ((c.from_ + i) % 16)).mode = .ready) := by decide +kernel
/-- Context 0 waits for a value, or for a refusal. -/
def waiting (r : Reply) : State := inStep 0 (s := machine { strandNow with
  mode := .waitLoad, await := some ⟨0x1004, false, some (2, 0xF20000000048), none, none⟩, reply := some r })
theorem witness_CoreSteps_reply : ∀ r ∈ [{ Reply.plain with a := some (7 : Word64) }, Reply.trapped kNack 0x02 0xF20000000048],
    let s := waiting r
    s.arg = .num 0 0 0 0 ∧ (s.ctx 0 0).mode = .waitLoad ∧
    (s.ctx 0 0).await = some ⟨0x1004, false, some (2, 0xF20000000048), none, none⟩ ∧ (s.ctx 0 0).reply = some r := by
  decide +kernel
def anyPage : TlbEntry := ⟨1, 0, 2 ^ 30, 2 ^ 30, 0, false, true, true, true, 0xFF, false⟩
theorem witness_CoreSteps_fetch :
    let s : State := { demo.modTile 0 (fun x => { x with tlb := [anyPage] }) with arg := .fetch 0 0 0x1000 true false }
    s.arg = .fetch 0 0 0x1000 true false ∧ s.translate (0 / 8) (s.pidOf 0) (0x1000 : Addr).toNat true false = .page anyPage ∧
    anyPage.rem = false ∧ (s.physKey (anyPage.pbase + ((0x1000 : Addr).toNat - anyPage.vbase))).isSome = true := by decide +kernel
theorem witness_CoreSteps_counter : (inStep 0 15).arg = .num 0 15 0 0 ∧ (inStep 4095).arg = .num 4095 0 0 0 := by decide
theorem witness_WakesAndReleases : (second (.waitSync (.counter 3 7))).Ok ∧
    ((second (.waitSync (.counter 3 7))).ctx 0 1).live = true ∧
    ((second (.waitSync (.counter 3 7))).ctx 0 1).mode = .waitSync (.counter 3 7) ∧ (7 - 7 : Word32).toNat < 2 ^ 31 ∧
    ¬(6 - 7 : Word32).toNat < 2 ^ 31 := ⟨ok_of_formOk _ (by decide +kernel), by decide +kernel⟩
theorem witness_WakesAndReleases_exit : let s := second (.waitSync (.helper 0))
    s.Ok ∧ s.Chosen plain ∧ (s.core s.me).refusals = [] ∧ (s.core s.me).running = some s.myCtx ∧
    1 ≠ s.myCtx ∧ (s.ctx s.me 1).live = true ∧ (s.ctx s.me 1).mode = .waitSync (.helper s.myCtx) :=
  ⟨ok_of_formOk _ (by decide +kernel), by simp only [State.Chosen]; decide +kernel⟩
/-- An arrival of context 0 of core 0 at barrier 0 of tile scope. -/
def arrival : RedArr := ⟨demo.issuer, .add, none, .tile, 0, 0, 0, 0⟩
def meeting : Meeting := ⟨0, 1, 0x1000, .tile, 0, 0, 0, [arrival]⟩
theorem witness_WakesAndReleases_barrier :
    let s : State := { machine { strandNow with mode := .waitSync (.barrier .tile 0) } with arg := .arr arrival, meetings := [meeting] }
    s.Ok ∧ s.arg = .arr arrival ∧ meeting ∈ s.meetings ∧ meeting.fits 0 arrival = true ∧ arrival ∈ meeting.arrived ∧
    s.pidOf arrival.by_.core = arrival.by_.pid ∧ s.tcbOf arrival.by_.core = arrival.by_.tcb ∧ (s.ctx arrival.by_.core 0).live = true ∧
    (s.ctx arrival.by_.core 0).mode = .waitSync (.barrier arrival.scope arrival.tag) :=
  ⟨ok_of_formOk _ (by decide +kernel), by decide +kernel⟩
theorem witness_WakesAndReleases_stopping : ∀ b : Bool,
    let s : State := { demo.modTask 1 1 (fun t => { t with stopping := b }) with arg := .arr arrival, meetings := [meeting] }
    s.arg = .arr arrival ∧ (s.part arrival.by_.pid).taskSlot arrival.by_.tcb = some 1 ∧ (s.task arrival.by_.pid 1).stopping = b := by
  decide +kernel
theorem witness_WakesAndReleases_checked :
    let s : State := { demo with meetings := [meeting] }
    let stopped (f : Task → Task) : State := s.modTask 1 1 f
    s.allHere meeting = true ∧ (s.modCore 1 fun c => { c with ctxs := [(0, strandNow)] }).allHere meeting = false ∧
    (s.part 1).taskSlot 0x1000 = some 1 ∧ (s.task 1 1).stopping = false ∧ (s.task 1 1).saved = false ∧
    ((stopped fun t => { t with stopping := true }).task 1 1).stopping = true ∧
    ((stopped fun t => { t with saved := true }).task 1 1).saved = true ∧ meeting.scope ≠ .pod ∧ meeting.scope ≠ .core := by decide +kernel
theorem witness_GlobalLoads : demo.Chosen page ∧ (Instr.ldg 2 .none page).WellFormed ∧ (Instr.ldgAcq 2 .none .pod page).WellFormed ∧
    demo.checked .ldg (demo.strand.ptr 2).addr 8 true false = .ok (.mem [dieKey 0 0x40]) ∧ demo.poisonIn (dieKey 0 0x40) 8 = none := by
  simp only [State.Chosen, Instr.WellFormed]; decide +kernel
/-- The page that holds every address below 1 GiB is in the TLB of tile 0. -/
def mapped (s : State) : State := s.modTile 0 fun x => { x with tlb := [anyPage] }
/-- Stack 4 is being handed over, at a step. -/
def handing (n : Nat) (s : State) : State := { s with board := { s.board with
  handovers := [⟨4, false, n, demo.issuer, 0, 0, false, false, []⟩] } }
theorem witness_GlobalLoads_handing : ∀ n ∈ [3, 7], let s := handing n (mapped (at1 0x4000))
    s.Chosen page ∧ (Instr.ldg 1 .none page).WellFormed ∧ (Instr.stg 1 .none page).WellFormed ∧ (Instr.stgRel 1 .none .pod page).WellFormed ∧
    (match s.checked .ldg (s.strand.ptr 1).addr 8 true false with | .ok (.mem [k]) => k == hbmKey 4 0x8000000 | _ => false) = true ∧
    (match s.checked .ldg (s.strand.ptr 1).addr 8 false true with | .ok (.mem [k]) => k == hbmKey 4 0x8000000 | _ => false) = true ∧
    s.heldBy (dieOf s.myTile) (keyStacks [hbmKey 4 0x8000000]) = some 4 ∧ (s.core s.me).posted < 32 ∧ s.released = true := by
  simp only [State.Chosen, Instr.WellFormed]; decide +kernel
theorem witness_GlobalLoads_served : let m : WinReq := ⟨demo.issuer, 0, 0, 0, 0, 0, false, 4, [], some .i32, false, false, []⟩
    let s : State := { demo with arg := .load m [hbmKey 7 0] }
    s.arg = .load m [hbmKey 7 0] ∧ s.poisonIn (hbmKey 7 0) m.size = none := by decide +kernel
/-- A posted write of the context is under way. -/
def posted (n : Nat) (s : State := demo) : State := { onCore (fun c => { c with posted := n }) s with
  agenda := [⟨.putDelivery, .put ⟨demo.issuer, 0, .mem [dieKey 0 0], [1], 0, [], false, none, false⟩⟩] }
theorem witness_GlobalStores : ∀ s ∈ [demo, posted 31], s.Chosen page ∧ (Instr.stg 2 .plusStride page).WellFormed ∧
    (Instr.stgRel 2 .plusStride .package page).WellFormed ∧
    s.checked .ldg (s.strand.ptr 2).addr 8 false true = .ok (.mem [dieKey 0 0x40]) ∧ (s.core s.me).posted < 32 := by
  simp only [State.Chosen, Instr.WellFormed]; decide +kernel
theorem witness_GlobalStores_release : demo.released = true ∧ (posted 31).released = false := by decide +kernel
/-- P1 points through window register 2 of core 3 of tile 1, at offset 8. -/
def windowed : State := at1 0xF10001680008
theorem witness_WindowAccesses : windowed.Chosen page ∧ (Instr.ldw 1 .plusElem page).WellFormed ∧ (Instr.stw 1 .plusElem page).WellFormed ∧
    (Instr.ldwAcq 1 .none .tile page).WellFormed ∧ (Instr.stwRel 1 .none .tile page).WellFormed ∧
    windowed.checked .ldw (windowed.strand.ptr 1).addr 8 true false = .ok (.window 1 3 2 8) ∧
    windowed.checked .ldw (windowed.strand.ptr 1).addr 8 false true = .ok (.window 1 3 2 8) := by
  simp only [State.Chosen, Instr.WellFormed]; decide +kernel
/-- A descriptor of 16 bytes at 0x100 in a state of service, with its two rights; a request for its bytes from `off`. -/
def served1 (st rights off : Nat) : State :=
  { demo.modCore 11 (fun c => { c with wins := [(2, BitVec.ofNat 64 (mkRecord [(0, 18, 0x100), (20, 19, 16), (59, 2, rights), (62, 2, st)]))] })
    with arg := .win ⟨demo.issuer, 0xF10001680008, 1, 3, 2, off, true, 8, natToBytes 8 1, none, false, false, []⟩ }
theorem witness_WindowAccesses_check : let d (s : State) : Word64 := Tab.get 0 (s.core 11).wins 2
    ((d (served1 0 3 8)).extractLsb' 62 2 = 0) ∧ ((d (served1 2 3 8)).extractLsb' 62 2 = 2) ∧
    ((d (served1 1 1 8)).extractLsb' 62 2 ≠ 0 ∧ (d (served1 1 1 8)).extractLsb' 62 2 ≠ 2 ∧ (d (served1 1 1 8)).getLsbD 60 = false) ∧
    ((d (served1 1 3 9)).getLsbD 60 = true ∧ ((d (served1 1 3 9)).extractLsb' 20 19).toNat < 9 + 8) ∧
    (8 + 8 ≤ ((d (served1 1 3 8)).extractLsb' 20 19).toNat) := by decide +kernel
/-- Tile 1 is lent to partition 1 and held back by its owner. -/
def takenBack : State := let s := served1 1 3 8
  { s.modTile 1 (fun x => { x with held := true }) with
    board := { s.board with layout := { s.board.layout with tiles := [(0, 1), (1, 0x100010002)] } } }
theorem witness_WindowAccesses_back : let m := (match takenBack.arg with | .win m => m | _ => ⟨demo.issuer, 0, 0, 0, 0, 0, false, 0, [], none, false, false, []⟩)
    takenBack.arg = .win m ∧ m.rel = false ∧ takenBack.heldBack m.tile = true ∧
    ((takenBack.tileEntry m.tile).extractLsb' 32 16).toNat = m.by_.pid := by decide +kernel
theorem witness_WindowAccesses_load : let m : WinReq := ⟨demo.issuer, 0xF10001680008, 1, 3, 2, 8, false, 8, [], none, false, false, []⟩
    let s : State := { served1 1 3 8 with arg := .win m }
    s.arg = .win m ∧ m.rel = false ∧ s.heldBack m.tile = false ∧ m.write = false ∧
    s.poisonIn (scratchKey m.tile (0x40000 * m.core + 0x100 + m.off)) m.size = none := by decide +kernel
theorem witness_WindowAccesses_waits : let m : WinReq := ⟨{ demo.issuer with cycle := 9 }, 0, 1, 3, 2, 8, true, 8, natToBytes 8 1, none, false, true, []⟩
    let s : State := { posted 1 with arg := .win m }
    s.arg = .win m ∧ m.rel = true ∧ s.releasedFor m.by_ = false := by decide +kernel
theorem witness_WindowAccesses_poisoned : let m : WinReq := ⟨demo.issuer, 0xF10001680008, 1, 3, 2, 8, true, 8, natToBytes 8 1, none, false, false, [4]⟩
    let s : State := { served1 1 3 8 with arg := .win m }
    s.arg = .win m ∧ m.rel = false ∧ s.heldBack m.tile = false ∧ m.write = true ∧ m.bad = [4] := by decide +kernel
/-- P1 points to `a`, with A and X given. -/
def putting (p : Addr) (a x : Word64) : State := machine { strandNow with ptrs := [(1, ⟨0, p⟩)], a := a, x := x }
theorem witness_PostedInstructions : let s := putting 0xF20000000040 5 (0x80000000 + 0x10 + 15)
    s.Chosen page ∧ (s.core s.me).posted < 32 ∧ (Instr.put 1 .none page).WellFormed ∧
    s.checked .put (s.strand.ptr 1).addr 8 false true = .ok (.mem [dieKey 0 0x40]) ∧
    s.targetOk (.mem [dieKey 0 0x40]) (s.strand.ptr 1).addr s.strand.x = .ok () ∧ s.vecOverlaps (.mem [dieKey 0 0x40]) 8 = false := by
  simp only [State.Chosen, Instr.WellFormed]; decide +kernel
theorem witness_PostedInstructions_line : let s := putting 0xF000001FFFC0 0xF20001FFFFC0 0
    (Instr.putc 1 .plusElem page).WellFormed ∧ s.strand.a.extractLsb' 48 16 = 0 ∧
    Family.put.accepts 0 (apertureOf (s.strand.a.setWidth 48)) = true ∧ (s.strand.ptr 1).addr.toNat = 0xF00000000000 + 0x1FFFC0 ∧
    0x1FFFC0 + 64 ≤ 2 ^ 21 ∧ s.poison = [] ∧
    s.lineParts (s.strand.a.setWidth 48) = .ok [(.mem [dieKey 0 0x1FFFFC0], 16)] ∧
    s.targetOk (.mem [dieKey 0 0x1FFFFC0]) (s.strand.a.setWidth 48) s.strand.x = .ok () ∧
    (s.core s.me).vecPending 0x1FFFC0 64 = false ∧ s.accessPending (.mem [dieKey 0 0x1FFFFC0]) 64 = false ∧
    s.vecOverlaps (.mem [dieKey 0 0x1FFFFC0]) 64 = false := by
  simp only [Instr.WellFormed]; decide +kernel
theorem witness_PostedInstructions_dies : let s := putting 0xF20001FFFFF8 5 1
    (Instr.mcst 1 .none page).WellFormed ∧ apertureOf (s.strand.ptr 1).addr = .dieStore 0 0x1FFFFF8 ∧
    (s.strand.ptr 1).addr.toNat % 8 = 0 ∧ s.strand.x.extractLsb' 4 60 = 0 ∧
    ((List.range 4).filter fun d => s.strand.x.getLsbD d) = [0] ∧ 0x1FFFFF8 + 8 ≤ (s.part (s.pidOf s.me)).dssSize 0 ∧
    (Instr.winset 7 page).WellFormed ∧ windowOk 0 = true := by
  simp only [Instr.WellFormed]; decide +kernel
/-- Pages 4 and 5 of 4 KiB, the second one of package 9. -/
def twoPages (s : State) : State := s.modTile 0 fun x => { x with tlb :=
  [⟨1, 0x4000, 0x1000, 2 ^ 30, 0, false, true, true, true, 0xFF, false⟩, ⟨1, 0x5000, 0x1000, 0x9000, 9, true, true, true, true, 0xFF, false⟩] }
theorem witness_PostedInstructions_split : let s := twoPages (putting 0xF00000000000 0x4FE0 0)
    s.strand.a.extractLsb' 48 16 = 0 ∧ Family.put.accepts 0 (apertureOf (s.strand.a.setWidth 48)) = true ∧
    (match s.lineParts (s.strand.a.setWidth 48) with
      | .ok [(d, m), (d', m')] => decide (m = 8) && decide (m' = 8) && decide (d' = .remote 9 0x9000) &&
          decide (s.accessPending d (pieceSize (d, m)) = false) && !s.accessPending d' (pieceSize (d', m')) && !s.vecOverlaps d 64 &&
          !s.vecOverlaps d' 64 && (match s.targetOk d (s.strand.a.setWidth 48) s.strand.x with | .ok _ => true | .error _ => false)
      | _ => false) = true ∧ targetV s.strand.x = false := by decide +kernel
theorem witness_PostedInstructions_none : let s := putting 0xF20000000000 5 0
    ((List.range 4).filter fun d => s.strand.x.getLsbD d) = [] ∧ apertureOf (s.strand.ptr 1).addr = .dieStore 0 0 ∧
    s.accessPending (.mem [dieKey 0 0]) 8 = false := by decide +kernel
theorem witness_PostedDeliveries : ∀ b : Bool,
    let m : PutMsg := ⟨demo.issuer, 0xF20000000040, .mem [hbmKey 4 0x40], [1, 2], 0x8000000F, [], false, none, false⟩
    let s : State := { if b then handing 3 demo else demo with arg := .put m }
    s.arg = .put m ∧ m.rel = false ∧ m.dest = .mem [hbmKey 4 0x40] ∧ m.bad = [] ∧
    s.heldBy (dieOf (m.by_.core / 8)) (keyStacks [hbmKey 4 0x40]) = if b then some 4 else none := by decide +kernel
/-- A put of 8 bytes to window 2 of core 3 of tile 1 at an offset. -/
def putWindow (off : Nat) (s : State) : State := { s with
  arg := .put ⟨demo.issuer, 0xF10001680008, .window 1 3 2 off, natToBytes 8 1, 0, [], false, none, false⟩ }
theorem witness_PostedDeliveries_window : let d (s : State) : Word64 := Tab.get 0 (s.core (8 * 1 + 3)).wins 2
    let put (st rights : Nat) : State := putWindow 8 ((served1 st 0 8).modCore 11 fun c => { c with wins :=
      [(2, BitVec.ofNat 64 (mkRecord [(0, 18, 0x100), (20, 19, 16), (61, 1, rights), (62, 2, st)]))] })
    (d (put 0 1)).extractLsb' 62 2 = 0 ∧ (d (put 2 1)).extractLsb' 62 2 = 2 ∧
    (∀ r ∈ [0, 1], let s := put 1 r
      (d s).extractLsb' 62 2 = 1 ∧ (d s).getLsbD 61 = decide (r = 1) ∧ 8 + 8 ≤ ((d s).extractLsb' 20 19).toNat ∧
      ((d s).extractLsb' 20 19).toNat < 9 + 8 ∧ s.heldBack 1 = false) ∧
    (let x := demo.core 0
     (x.ctx 0).live = true ∧ demo.tcbOf 0 = demo.issuer.tcb ∧ x.refusals.length < 16) ∧
    ((demo.core 8).ctx 0).live = false ∧
    (let s := putWindow 8 takenBack
     s.heldBack 1 = true ∧ ((s.tileEntry 1).extractLsb' 32 16).toNat = demo.issuer.pid) := by decide +kernel
theorem witness_PostedDeliveries_waits : let m : PutMsg := ⟨{ demo.issuer with cycle := 9 }, 0, .mem [0], [1], 0, [], true, none, false⟩
    let s : State := { posted 1 with arg := .put m }
    s.arg = .put m ∧ m.rel = true ∧ s.releasedFor m.by_ = false := by decide +kernel
theorem witness_PostedDeliveries_refused : let s := inStep 0 (s := onCore fun c => { c with refusals := [⟨0, 0xC960, 0x40, 2⟩] })
    s.arg = .num 0 0 0 0 ∧ (s.core 0).refusals = ⟨0, 0xC960, 0x40, 2⟩ :: [] := by decide +kernel
theorem witness_PostedDeliveries_replica : ∀ last : Bool, let s : State := { demo with arg := .replica demo.issuer (dieKey 0 0) [1, 2, 3, 4] [0] last }
    s.arg = .replica demo.issuer (dieKey 0 0) [1, 2, 3, 4] [0] last := by decide +kernel
theorem witness_Atomics : demo.Chosen page ∧ demo.checked .atom (demo.strand.ptr 2).addr 8 true true = .ok (.mem [dieKey 0 0x40]) ∧
    (demo.core demo.me).posted < 32 := by simp only [State.Chosen]; decide +kernel
def swapping (cmp : Word64) (r : Bool) : AtomMsg := ⟨demo.issuer, 0xF20000000040, .mem [dieKey 0 0x40], .cas, none, r, 7, cmp, false, false⟩
theorem witness_Atomics_perform : ∀ b c : Bool, let m := swapping (if c then 0 else 1) b
    let s : State := { demo with arg := .atom m }
    s.arg = .atom m ∧ m.rel = false ∧ m.bad = false ∧ m.dest = .mem [dieKey 0 0x40] ∧ m.ty = none ∧ m.returning = b ∧
    s.poisonIn (dieKey 0 0x40) (sizeOf' m.ty) = none ∧ (BitVec.ofNat (8 * 8) (s.rdNat (dieKey 0 0x40) 8) = m.cmp ↔ c = true) := by
  decide +kernel
theorem witness_Atomics_spoiled : ∀ r : Bool, let m := swapping 0 r
    let s : State := { demo.poisonAt (dieKey 0 0x44) 4 with arg := .atom m }
    s.arg = .atom m ∧ s.poisonIn (dieKey 0 0x40) (sizeOf' m.ty) = some 4 ∧ m.returning = r := by decide +kernel
theorem witness_Atomics_handing : let m : AtomMsg := { swapping 0 true with dest := .mem [hbmKey 4 0x40] }
    let s : State := { handing 7 demo with arg := .atom m }
    s.arg = .atom m ∧ s.heldBy (dieOf (m.by_.core / 8)) (keyStacks [hbmKey 4 0x40]) = some 4 := by decide +kernel
theorem witness_Atomics_waits : let m : AtomMsg := { swapping 0 true with by_ := { demo.issuer with cycle := 9 }, rel := true }
    let s : State := { posted 1 with arg := .atom m }
    s.arg = .atom m ∧ m.rel = true ∧ s.releasedFor m.by_ = false := by decide +kernel
theorem witness_Atomics_carried : ∀ r : Bool, let m : AtomMsg := { swapping 0 r with bad := true }
    let s : State := { demo with arg := .atom m }
    s.arg = .atom m ∧ (if m.bad then some 0 else s.poisonIn (dieKey 0 0x40) (sizeOf' m.ty)) = some 0 ∧ m.returning = r := by decide +kernel
theorem witness_PageTwoTraps : demo.Chosen page ∧ apertureOf ((at1 0xF30000000000).strand.ptr 1).addr = .reserved ∧
    apertureOf ((at1 0xF00000200000).strand.ptr 1).addr = .reserved ∧
    (apertureOf ((at1 0xF00000000000).strand.ptr 1).addr ≠ .reserved ∧
      ¬Family.ldg.accepts (dieOf demo.myTile) (apertureOf ((at1 0xF00000000000).strand.ptr 1).addr) = true) ∧
    (Family.atom.accepts (dieOf demo.myTile) (apertureOf ((at1 0xF20000000041).strand.ptr 1).addr) = true ∧
      ((at1 0xF20000000041).strand.ptr 1).addr.toNat % 8 ≠ 0) ∧
    (apertureOf ((at1 0xF20002000000).strand.ptr 1).addr = .dieStore 0 0x2000000 ∧
      ((at1 0xF20002000000).strand.ptr 1).addr.toNat % 8 = 0 ∧
      ((at1 0xF20002000000).part ((at1 0xF20002000000).pidOf 0)).dssSize 0 < 0x2000000 + 8) := by
  simp only [State.Chosen]; decide +kernel

theorem witness_PageTwoTraps_windows :
    (apertureOf ((at1 0xF10002000000).strand.ptr 1).addr = .window 2 0 0 0 ∧ demo.reachTile 1 2 = none) ∧
    (apertureOf ((at1 0xF10000000000).strand.ptr 1).addr = .window 0 0 0 0 ∧ demo.reachTile 1 0 = some demo.myTile) ∧
    (apertureOf ((at1 0xF10001000000).strand.ptr 1).addr = .window 1 0 0 0 ∧ demo.reachTile 1 1 = some 1 ∧
      clusterOf 1 = clusterOf demo.myTile ∧ demo.permitted 1 0 1 = true ∧ (demo.modPart 1 fun p => { p with perm := [] }).permitted 1 0 1 = false) := by
  decide +kernel
/-- The page of the strand's tile, with what `f` changes. -/
def pageWith (f : TlbEntry → TlbEntry) : State := (at1 0x4000).modTile 0 fun x => { x with tlb := [f anyPage] }
/-- Which clause of the translation a state falls under: a miss 0, a fault 1, another package 2, no memory 3, a stack of another
die 4, the CXL tier 5, none 6. -/
def pageClause (s : State) : Nat :=
  match s.translate 0 1 0x4000 true true with
  | .miss => 0
  | .fault _ => 1
  | .page y =>
    let pa := y.phys 0x4000
    if y.rem then 2 else if s.physKey pa = none then 3
    else match s.stackOf pa with
      | some h => if s.ownerFor (dieOf 0) h ≠ dieOf 0 ∧ y.ra = false then 4 else 6
      | none => 5
theorem witness_PageTwoTraps_pages : apertureOf ((at1 0x4000).strand.ptr 1).addr = .global ∧
    Family.atom.accepts 0 .global = true ∧ (at1 0x4000).misses 0 = [] ∧
    pageClause (at1 0x4000) = 0 ∧ pageClause (pageWith fun e => { e with wr := false }) = 1 ∧
    pageClause (pageWith fun e => { e with rem := true }) = 2 ∧ pageClause (pageWith fun e => { e with pbase := 2 ^ 39 }) = 3 ∧
    pageClause (pageWith fun e => { e with ra := false }) = 4 ∧ pageClause (pageWith fun e => { e with pbase := cxlBase }) = 5 := by
  decide +kernel
theorem witness_PageTwoTraps_targets : let at_ (x : Word64) := machine { strandNow with x := x, ptrs := [(1, ⟨0, 0xF20000000040⟩)] }
    let d := Dest.mem [dieKey 0 0x40]
    (match (at_ 0).checked .put 0xF20000000040 8 false true with | .ok e => decide (e = d) | .error _ => false) = true ∧
    (at_ 1).targetBad 1 ((at_ 1).destPkg d) 1 = true ∧
    (let x : Word64 := 0x80000080
     let s := (at_ x).modPart 1 fun p => { p with perm := [] }
     (at_ x).targetBad 1 (s.destPkg d) x = false ∧ s.targetBad 1 (s.destPkg d) x = false ∧ s.targetBarred 0 1 (s.destPkg d) x = true) := by
  decide +kernel
theorem witness_PageTwoTraps_putc : (putting 0xF00000000000 (2 ^ 48) 0).strand.a.extractLsb' 48 16 ≠ 0 ∧
    apertureOf ((0xF20000000000 : Word64).setWidth 48) ≠ .reserved ∧ Family.put.accepts 0 (apertureOf 0xF20000000000) = true ∧
    Family.put.accepts 0 (apertureOf 0xF00000000000) = false ∧ apertureOf 0xF001FFFFFFFF = .reserved ∧
    apertureOf 0xF000001FFFC4 = .localMem 0x1FFFC4 ∧ 2 ^ 21 < 0x1FFFC4 + 64 ∧ (∀ off < 2, 0x1FFFC0 + off + 64 ≤ 2 ^ 21 ↔ off = 0) ∧
    (twoPages (putting 0xF00000000000 0x4FE0 1)).targetBad 1 9 1 = true := by decide +kernel
theorem witness_PageTwoTraps_mcst : apertureOf 0xF20001FFFFF8 = .dieStore 0 0x1FFFFF8 ∧ apertureOf 0xF20010000000 = .dieStore 1 0 ∧
    (0xF20001FFFFF8 : Addr).toNat % 8 = 0 ∧ (0xF20001FFFFFC : Addr).toNat % 8 ≠ 0 ∧
    (demo.part 1).dssSize 0 = 0x2000000 ∧ (demo.part 1).dssSize 1 < 8 ∧ (0x13 : Word64).extractLsb' 4 60 ≠ 0 ∧ windowOk 0 = true ∧
    windowOk (BitVec.ofNat 64 (2 ^ 62 * 3)) = false := by decide +kernel
/-- A copy of `len` bytes from 0x2000 of the scratchpad to the die store, with `hops` hops. -/
def descriptor (len hops : Nat) : Nat :=
  mkRecord [(0, 48, 0xF20000000000), (64, 48, 0xF00000002000), (128, 28, len), (166, 4, hops)]
/-- P1 points to a descriptor at `off` of the scratchpad, and hop entries of zero. -/
def copying (off len hops : Nat) : State :=
  (at1 (0xF00000000000 + BitVec.ofNat 48 off)).wrNat (scratchKey 0 off) 32 (descriptor len hops)
theorem witness_CopyIssue : let s := copying 0x1FFFE0 4 0
    s.Chosen plain ∧ (s.strand.ptr 1).addr.toNat = 0xF00000000000 + 0x1FFFE0 ∧ 0x1FFFE0 + 32 ≤ 2 ^ 21 ∧
    (s.strand.ptr 1).addr.toNat % 8 = 0 ∧ s.poison = [] ∧ (s.core s.me).vecPending 0x1FFFE0 (32 + 16 * 0) = false ∧
    hopsBad (s.logCore s.me / 8) [] = false ∧ (s.core s.me).copies < 512 ∧
    s.rdNat (scratchKey s.myTile 0x1FFFE0) 32 = descriptor 4 0 ∧
    s.copyCheck (s.strand.ptr 1).addr (BitVec.ofNat 256 (descriptor 4 0)) [] false = .ok () := by
  simp only [State.Chosen]; decide +kernel
theorem witness_CopyIssue_malformed : ¬CopyMalformed false (BitVec.ofNat 256 (descriptor 4 0)) ∧
    CopyMalformed false (BitVec.ofNat 256 (descriptor 0 0)) ∧ CopyMalformed false (BitVec.ofNat 256 (descriptor 4 1)) ∧
    CopyMalformed true (BitVec.ofNat 256 (descriptor 4 0)) ∧ CopyMalformed true (BitVec.ofNat 256 (descriptor 4 9)) ∧
    ¬CopyMalformed true (BitVec.ofNat 256 (descriptor 4 8)) := by
  refine ⟨?_, ?_, ?_, ?_, ?_, ?_⟩ <;> simp only [CopyMalformed, Bool.false_eq_true, if_true, if_false] <;> decide +kernel
theorem witness_CopyIssue_held : ∀ n ∈ [511, 512], let s := onCore (s := copying 0 4 0) fun c =>
      { c with ctxs := c.ctxs.map fun e => (e.1, { e.2 with copyHeld := some ⟨demo.issuer, 0, 0, [], false, 0, false⟩ }), copies := n }
    s.strand.copyHeld.isSome = true ∧ (512 ≤ (s.core s.me).copies ↔ n = 512) := by decide +kernel
theorem witness_CopyIssue_chain : let hops (s : State) (o : Nat) : List (BitVec 128) :=
      [BitVec.ofNat 128 (s.rdNat (scratchKey s.myTile (o + 32)) 16)]
    let desc := BitVec.ofNat 256 (descriptor 4 1)
    ¬CopyMalformed true desc ∧ 2 ^ 21 < 0x1FFFE0 + 32 + 16 * 1 ∧
    (let s := copying 0x1FFFD0 4 1
     0x1FFFD0 + 32 + 16 * 1 ≤ 2 ^ 21 ∧ s.strand.copyHeld = none ∧ hopsBad (s.logCore s.me / 8) (hops s 0x1FFFD0) = true) ∧
    (let s := (copying 0x1FFFD0 4 1).wrNat (scratchKey 0 0x1FFFF0) 16 0xF10001000000
     hopsBad (s.logCore s.me / 8) (hops s 0x1FFFD0) = false ∧
     (match s.copyCheck (s.strand.ptr 1).addr desc (hops s 0x1FFFD0) true with | .ok _ => true | .error _ => false) = true) ∧
    (let s := (copying 0x1FFFD0 4 1).wrNat (scratchKey 0 0x1FFFF0) 16 0xF10004000000
     hopsBad (s.logCore s.me / 8) (hops s 0x1FFFD0) = false ∧
     (match s.copyCheck (s.strand.ptr 1).addr desc (hops s 0x1FFFD0) true with | .error (.trap _) => true | _ => false) = true) := by
  refine ⟨by simp only [CopyMalformed, if_true]; decide +kernel, by decide, ?_, ?_, ?_⟩ <;> decide +kernel
/-- The pointers of CPY, CPYC, QPOST, SPAWN, CSAVE, CLOAD and FLTRD at the ends of the scratchpad. -/
theorem witness_CopyIssue_pointers : ∀ n ∈ [32, 64, 128], let last : Addr := 0xF00000200000 - BitVec.ofNat 48 n
    firstTrap (pointerTraps last n 8) = none ∧ firstTrap (pointerTraps 0xF00000000000 n 8) = none ∧
    (firstTrap (pointerTraps (last + 8) n 8)).isSome = true ∧ (firstTrap (pointerTraps (last - 4) n 8)).isSome = true ∧
    (firstTrap (pointerTraps 0xEFFFFFFFFFF8 n 8)).isSome = true := by decide +kernel
theorem witness_CopyIssue_spans : let t (a : Addr) (n : Nat) (dst : Bool) (s : State := demo) : Option (BitVec 8 × BitVec 8) :=
      (firstTrap (s.copySpan a n dst)).map fun x => (x.kind, x.detail)
    t 0xF30000000000 4 false = some (kAccess, 0x03) ∧ t 0xF00000000002 4 false = some (kAlign, 0x01) ∧ t 0xF000001FFFFC 4 true = none ∧
    t 0xF000001FFFFC 8 true = some (kAccess, 0x01) ∧ t 0xF10002000000 4 false = some (kAccess, 0x03) ∧ t 0xF1000103FFFC 4 true = none ∧
    t 0xF1000103FFFC 8 true = some (kAccess, 0x03) ∧
    (∀ dst : Bool, t 0xF10001000000 4 dst (demo.modPart 1 fun p => { p with perm := [] }) = if dst then some (kAccess, 0x08) else none) ∧
    t 0xF20001FFFFFC 4 false = none ∧ t 0xF20001FFFFFC 8 false = some (kAccess, 0x03) ∧ t 0xEFFFFFFFFFFC 4 true = none ∧
    t 0xEFFFFFFFFFFC 8 true = some (kAccess, 0x03) := by decide +kernel
theorem witness_CopyIssue_targets : (∀ e ∈ [(3, true), (4, false)], let src : Addr := 0x2000
      let dst : Addr := src + BitVec.ofNat 48 e.1
      (src.toNat < dst.toNat + 4 ∧ dst.toNat < src.toNat + 4) ↔ e.2 = true) ∧
    demo.targetBad 1 demo.pod.pkgn.toNat 1 = true ∧ demo.targetBad 1 demo.pod.pkgn.toNat 0 = false ∧
    (let s := demo.modPart 1 fun p => { p with perm := [] }
     s.targetBad 1 s.pod.pkgn.toNat 0x80000080 = false ∧ s.targetBarred 0 1 s.pod.pkgn.toNat 0x80000080 = true) ∧
    (demo.part 1).taskSlot 0x1000 = some 1 ∧ (demo.part 1).taskSlot 0x5000 = none := by decide +kernel
/-- What the translation of global address 0x4000 comes to for a copy: a miss 0, a fault 1, another package 2, no memory 3, a page 4. -/
def copyPage (s : State) (wr : Bool) : Nat :=
  match s.translate s.myTile 1 0x4000 (!wr) wr with
  | .miss => 0
  | .fault _ => 1
  | .page e => if e.rem then (if e.pkg = s.pod.pkgn.toNat then 4 else 2) else if s.physKey (e.phys 0x4000) = none then 3 else 4
theorem witness_CopyIssue_translated : ∀ wr : Bool, copyPage demo wr = 0 ∧ copyPage (pageWith fun e => { e with wr := !wr, rd := wr }) wr = 1 ∧
    copyPage (pageWith fun e => { e with rem := true, pkg := 9 }) wr = 2 ∧ copyPage (pageWith fun e => { e with pbase := 2 ^ 39 }) wr = 3 ∧
    copyPage (mapped demo) wr = 4 ∧ apertureOf 0x4000 = .global := by decide +kernel
/-- `n` misses of tile 0 are outstanding, to pages 1 to n. -/
def missing (n : Nat) (s : State) : State :=
  { s with later := (List.range n).map fun i => (9, ⟨.pageWalk, .fetch 0 0 (BitVec.ofNat 48 (2 ^ 16 * (i + 1))) true false⟩) }
theorem witness_CopyIssue_walks : let s := (copying 0x1FFFE0 4 0).wrNat (scratchKey 0 0x1FFFE0) 6 0x4000
    let desc := BitVec.ofNat 256 (s.rdNat (scratchKey s.myTile 0x1FFFE0) 32)
    (match s.copyCheck (s.strand.ptr 1).addr desc [] false with | .error (.walk a rd wr) => a == 0x4000 && rd && !wr | _ => false) = true ∧
    ((missing 15 s).misses 0).length < 16 ∧ ¬((missing 16 s).misses 0).length < 16 ∧ (0x4000 : Addr).toNat / 2 ^ 16 ∉ (missing 16 s).misses 0 ∧
    (0x10000 : Addr).toNat / 2 ^ 16 ∈ (missing 16 s).misses 0 := by decide +kernel
/-- A copy within the scratchpad of tile 0, of which `done` bytes have been written. -/
def moving (len done : Nat) : CopyMsg := ⟨demo.issuer, 0xF00000000000,
  BitVec.ofNat 256 (mkRecord [(0, 48, 0xF00000000000), (64, 48, 0xF00000002000), (128, 28, len)]), [], false, done, false⟩
/-- A copy of 4 bytes between two addresses. -/
def copyOf (src dst : Addr) : CopyMsg := ⟨demo.issuer, 0xF00000000000,
  BitVec.ofNat 256 (mkRecord [(0, 48, src.toNat), (64, 48, dst.toNat), (128, 28, 4)]), [], false, 0, false⟩
/-- What reaching an address comes to: 0 a refusal, 1 a fault, 2 another package, 3 the bytes. -/
def reached_ (s : State) (a : Addr) (u : WinUse) (span : Option Nat := none) : Nat :=
  match s.reach demo.issuer a 4 u span with
  | .refused _ => 0
  | .xlate _ => 1
  | .remote _ _ => 2
  | .at_ _ _ => 3
theorem witness_CopySteps_reach : apertureOf 0xF000001FFFFC = .localMem 0x1FFFFC ∧ apertureOf 0xF20001FFFFFC = .dieStore 0 0x1FFFFFC ∧
    apertureOf 0xF10001000000 = .window 1 0 0 0 ∧ demo.reachTile 1 1 = some 1 ∧ demo.reachTile 1 2 = none ∧
    (match demo.windowCheck 1 0 0 0 4 .put with | .error _ => true | .ok _ => false) = true ∧
    apertureOf 0x4000 = .global ∧
    (match demo.translateFor 0 1 0x4000 true false with | .error _ => true | .ok _ => false) = true ∧
    (match (mapped demo).translateFor 0 1 0x4000 true false with | .ok e => !e.rem && (demo.physKey (e.phys 0x4000)).isSome | .error _ => false) = true ∧
    (match (twoPages demo).translateFor 0 1 0x5000 true false with | .ok e => e.rem | .error _ => false) = true := by decide +kernel
theorem witness_CopySteps : let at_ (s : State) (a b : Addr) : State := { s with arg := .copy (copyOf a b) 0 }
    let t (s : State) (a b : Addr) : State := (s.fillAt demo.issuer a false).fillAt demo.issuer b true
    let l : Addr := 0xF00000000000
    (at_ (mapped demo) 0x4000 l).arg = .copy (copyOf 0x4000 l) 0 ∧ demo.releasedFor demo.issuer = true ∧
    demo.issuer.pid ∉ demo.board.draining ∧ reached_ (t demo 0x4000 l) 0x4000 .load = 1 ∧
    reached_ (t demo 0xF10002000000 l) 0xF10002000000 .load = 0 ∧ reached_ (t (mapped demo) 0x4000 l) 0x4000 .load = 3 ∧
    (∀ b ∈ [((0x4000 : Addr), 1), (0xF10001000000, 0), (0xF20000000000, 3)], reached_ (t demo l b.1) l .load = 3 ∧
      reached_ (t demo l b.1) b.1 .put = b.2) ∧ reached_ (t (twoPages demo) l 0x5000) 0x5000 .put = 2 := by decide +kernel
theorem witness_CopySteps_held : let m := moving 4 0
    ((posted 1).releasedFor { m.by_ with cycle := 9 } = false ∧ m.done = 0) ∧
    m.by_.pid ∈ ({ demo with board := { demo.board with draining := [1] } } : State).board.draining := by decide +kernel
theorem witness_CopySteps_signal : let d (ck t : Nat) : BitVec 256 := BitVec.ofNat 256 (mkRecord [(164, 2, ck), (192, 64, t)])
    let tgt (x : BitVec 256) : Word64 := x.extractLsb' 192 64
    (d 0 0).extractLsb' 164 2 = 0 ∧ (d 1 0x80000000).extractLsb' 164 2 = 1 ∧ targetPkg (tgt (d 1 0x80000000)) = demo.pod.pkgn.toNat ∧
    (tgt (d 1 (2 ^ 52 + 2 ^ 31))).getLsbD 31 = true ∧ targetPkg (tgt (d 1 (2 ^ 52 + 2 ^ 31))) ≠ demo.pod.pkgn.toNat ∧
    (d 2 0x1000).extractLsb' 164 2 = 2 ∧ (demo.part 1).taskSlot ((tgt (d 2 0x1000)).setWidth 32) = some 1 ∧
    (demo.part 1).taskSlot ((tgt (d 2 0x5000)).setWidth 32) = none := by decide +kernel
/-- A chain copy of 4 bytes with hops to tile 1 and then to tile 0. -/
def chained : CopyMsg := ⟨demo.issuer, 0xF00000000000, BitVec.ofNat 256 (mkRecord [(0, 48, 0xF00000002000), (128, 28, 4), (166, 4, 2)]),
  [BitVec.ofNat 128 0xF10001000000, BitVec.ofNat 128 0xF10000000000], true, 0, false⟩
/-- Window 0 of core 0 of both tiles is open for 16 bytes at offset 0. -/
def opened : State :=
  let d : Word64 := BitVec.ofNat 64 (mkRecord [(20, 19, 16), (59, 5, 0xF)])
  (demo.modCore 0 fun c => { c with wins := [(0, d)] }).modCore 8 fun c => { c with wins := [(0, d)] }
theorem witness_CopySteps_chain : let s : State := { opened with arg := .copy chained 1 }
    s.arg = .copy chained (0 + 1) ∧ s.poison = [] ∧ chained.hops[0]? = some (BitVec.ofNat 128 0xF10001000000) ∧
    chained.hops[0 + 1]? = some (BitVec.ofNat 128 0xF10000000000) ∧
    s.reach chained.by_ 0xF10001000000 4 .put (some 4) = .at_ (scratchKey 1 0) 4 ∧
    s.reach chained.by_ 0xF10000000000 4 .put (some 4) = .at_ (scratchKey 0 0) 4 := by decide +kernel
theorem witness_CopySteps_lastHop : let s : State := { opened with arg := .copy chained 2 }
    s.arg = .copy chained (1 + 1) ∧ chained.hops[1]? = some (BitVec.ofNat 128 0xF10000000000) ∧ chained.hops[1 + 1]? = none ∧
    (let s : State := { opened.modCore 0 (fun c => { c with wins := [] }) with arg := .copy chained 1 }
     reached_ s 0xF10001000000 .put (some 4) = 3 ∧ reached_ s 0xF10000000000 .put (some 4) = 0) := by decide +kernel
theorem witness_MatrixIssue : demo.Chosen page ∧ (Instr.mma 1 .none page).pre = page := by
  simp only [State.Chosen]; decide
/-- Core 0 asks the port for an instruction; `granted` says that its read phase has begun. -/
def asking (i : Instr) (granted : Bool) : State := inStep 0 (s := onCore fun c =>
  { c with stalled := true, mreq := some ⟨i, 0, granted, 0x1004, none, none, none, 0, none, false, none, false⟩ })
theorem witness_MatrixPort : ∀ i ∈ [Instr.mzero page, .mrow 1 .none page], let s := asking i false
    s.arg = .num 0 0 0 0 ∧ s.holdsBack = false ∧ (s.tile 0).readPhase = none ∧ (s.tile 0).buffers < 2 ∧
    0 = ((s.tile 0).portPtr + 0) % 8 ∧ s.eligible 0 0 = true ∧ (s.core 0).mreq.isSome = true := by decide +kernel
theorem witness_MatrixPort_both : let s := asking (.mzero page) false
    (match grantOf s 0 0 (.mzero page) with | .ok _ => true | .error _ => false) = true ∧
    (match grantOf s 0 0 (.mrow 1 .none page) with | .error (.trap _) => true | _ => false) = true := by decide +kernel
theorem witness_MatrixPort_retire : let s := asking (.mzero page) true
    s.arg = .num 0 0 0 0 ∧ (s.core 0).mreq.isSome = true ∧ (s.core 0).running = some 0 := by decide +kernel
def clearing (ready : Bool) : ArrayJob := ⟨demo.issuer, .zero, 0, 0, [], 1, ready⟩
theorem witness_MatrixPort_array : ∀ b : Bool, let s := inStep 0 (s := demo.modTile 0 fun x => { x with arrays := [clearing true], arrayOn := b })
    s.arg = .num 0 0 0 0 ∧ (s.tile 0).arrays = clearing true :: [] ∧ (clearing true).ready = true ∧ (s.tile 0).arrayOn = b := by
  decide +kernel
/-- A format context of 8-bit codes of classes `a` and `b` in a mode, and its outlier base. -/
def format (mode a b wb : Nat) : BitVec 256 := BitVec.ofNat 256 (mkRecord [(0, 3, a), (4, 3, b), (8, 2, mode), (149, 15, wb)])
theorem witness_MatrixContext : (0xF000001FFFE0 : Addr).toNat = 0xF00000000000 + 0x1FFFE0 ∧ 0x1FFFE0 + 32 ≤ 2 ^ 21 ∧
    (0xF000001FFFE0 : Addr).toNat % 8 = 0 ∧ demo.poisonIn (scratchKey (0 / 8) 0x1FFFE0) 32 = none ∧
    (format 1 1 1 0).extractLsb' 8 2 ≠ 0 ∧ (clearing true).kind = .zero := by decide +kernel
theorem witness_MatrixContext_details : formatDetail (format 0 1 1 0) = none ∧ formatDetail (format 3 1 1 0) = some 0x01 ∧
    formatDetail (format 0 1 1 1) = some 0x01 ∧ formatDetail (format 0 1 2 0) = some 0x02 ∧
    formatDetail (format 0 1 1 0 ||| 1#256 <<< 13) = some 0x03 ∧
    formatDetail (format 0 1 1 0 ||| 1#256 <<< 64 ||| 0x1000#256 <<< 76) = some 0x04 ∧
    formatDetail (format 0 1 1 0 ||| 0x1000#256 <<< 76) = none := by
  decide +kernel
def grants (r : Except Stop Grant) : Bool := match r with | .ok _ => true | .error _ => false
def stops (r : Except Stop Grant) : Bool := match r with | .error (.trap _) => true | _ => false
/-- Core 0 with a format context, and a record of 32 bytes at 0x100. -/
def fed (c : BitVec 256) (r : List (Nat × Nat × Nat)) : State :=
  (demo.modCore 0 fun x => { x with fctx := c }).wrNat (scratchKey 0 0x100) 32 (mkRecord r)
/-- A record of QNT, QNTG and DEQ: `n` values at 0x1000, the results at 0x2000, the group words at 0x3000, one column. -/
def quantities (n : Nat) : List (Nat × Nat × Nat) :=
  [(0, 21, 0x1000), (32, 21, 0x2000), (64, 16, n), (128, 32, 0x3F800000), (176, 8, 1), (208, 21, 0x3000)]
theorem witness_MatrixContext_weights : let w (wa : Nat) := fed 0 [(0, 21, 0x1000), (48, 3, 1), (32, 15, wa)]
    grants (grantOf (w 0x7E80) 0 0xF00000000100 (.wpl 1 .none page)) = true ∧
    stops (grantOf (w 0x7E84) 0 0xF00000000100 (.wpl 1 .none page)) = true ∧
    grants (grantOf (fed 0 [(55, 1, 1), (32, 15, 0x7FFC)]) 0 0xF00000000100 (.wpl 1 .none page)) = true := by decide +kernel
theorem witness_MatrixContext_reads : let s := fed (format 0 1 1 0x7E80) []
    let u := fed (format 1 1 1 0) []
    grants (grantOf s 0 0xF00000001000 (.mma 1 .none page)) = true ∧ 0x7E80 + 128 ≤ 0x8000 ∧
    stops (grantOf s 0 0xF000001FF004 (.mma 1 .none page)) = true ∧
    grants (grantOf s 0 0xF000001FFF80 (.mrow 1 .none page)) = true ∧ stops (grantOf s 0 0xF000001FFF84 (.mrow 1 .none page)) = true ∧
    grants (grantOf s 0 0xF000001FFE00 (.mcol 1 .none page)) = true ∧ stops (grantOf u 0 0xF000001FFE00 (.mcol 1 .none page)) = true := by
  decide +kernel
theorem witness_MatrixContext_drains : let s := fed (format 0 1 1 0) []
    let u := fed (format 1 1 1 0) []
    let i8 : Prefixes := { page with wdx := some ⟨false, .dflt, .i8⟩ }
    grants (grantOf s 0 0xF000001FF000 (.mdrain 1 .none i8)) = true ∧ stops (grantOf u 0 0xF000001FF000 (.mdrain 1 .none i8)) = true ∧
    grants (grantOf u 0 0xF000001FC000 (.mdrainf 1 .none page)) = true ∧ stops (grantOf u 0 0xF000001FC004 (.mdrainf 1 .none page)) = true := by
  decide +kernel
theorem witness_MatrixContext_lists : let at_ : Addr := 0xF00000000100
    grants (grantOf (fed 0 (quantities 1)) 0 at_ (.qnt 1 .none page)) = true ∧ stops (grantOf (fed 0 (quantities 0)) 0 at_ (.qnt 1 .none page)) = true ∧
    grants (grantOf (fed 0 (quantities 32)) 0 at_ (.qntg 1 .none page)) = true ∧ stops (grantOf (fed 0 (quantities 31)) 0 at_ (.qntg 1 .none page)) = true ∧
    grants (grantOf (fed 0 (quantities 1)) 0 at_ (.deq 1 .none page)) = true ∧ stops (grantOf (fed 0 (quantities 0)) 0 at_ (.deq 1 .none page)) = true ∧
    grants (grantOf (fed 0 [(0, 21, 0x1000), (44, 13, 4096), (64, 13, 1)]) 0 at_ (.blset 1 .none page)) = true ∧
    stops (grantOf (fed 0 [(32, 12, 1), (44, 13, 4096)]) 0 at_ (.blset 1 .none page)) = true ∧ grants (grantOf demo 0 0 (.blcnt page)) = true := by
  decide +kernel
theorem witness_MatrixMultiply : let j : ArrayJob := ⟨demo.issuer, .mma, format 0 1 1 0x7F80, 0, List.replicate 4096 3, 1, true⟩
    j.kind = .mma ∧ demo.poison = [] ∧ j.data.length = 4096 ∧ j.fctx.extractLsb' 8 2 = 0 ∧ j.fctx.extractLsb' 0 3 = 1 ∧
    j.fctx.extractLsb' 4 3 = 1 ∧ j.fctx.getLsbD 13 = false ∧ j.fctx.getLsbD 14 = false ∧
    (j.fctx.extractLsb' 149 15).toNat + 128 ≤ 0x8000 := by decide +kernel

theorem witness_MatrixMultiply_modes : ∀ e ∈ [(1, 1, 0x7F00), (2, 2, 0x7E00)],
    let c : BitVec 256 := format e.1 e.2.1 e.2.1 e.2.2 ||| 3#256 <<< 16
    let j : ArrayJob := ⟨demo.issuer, .mma, c, 0, List.replicate (if e.1 = 1 then 4608 else 8192) 0, 1, true⟩
    let n (lo w : Nat) : Nat := (c.extractLsb' lo w).toNat
    let ng := 128 / (32 * 2 ^ n 10 2)
    let grouped (b : Nat) : Bool := decide (n 8 2 = 1) && c.getLsbD b
    n 8 2 = e.1 ∧ n 10 2 ≠ 3 ∧ j.data.length = 512 * (FCtx.tyA c).bits + (if grouped 16 then 128 * ng else 0) ∧
    n 149 15 + 16 * (FCtx.tyB c).bits + (if grouped 17 then 4 * ng else 0) ≤ 0x8000 ∧ c.getLsbD 13 = false ∧ c.getLsbD 14 = false := by
  decide +kernel
theorem witness_MatrixMultiply_jobs : let j (k : ArrayKind) (base n : Nat) : ArrayJob := ⟨demo.issuer, k, 0, base, List.replicate n 1, 1, true⟩
    (j .mrow 0 128).data.length = 128 ∧ (j .mcol 0 512).data.length = 512 ∧
    (j .weights 0x7E80 (128 * 128)).data.length = 128 * 128 ∧ 0x7E80 + 128 ≤ 0x7F00 ∧
    (j .entries 8191 4).data.length = 4 * 1 ∧ (j .entries 8191 4).base = 4096 * 1 + 4095 ∧ 4095 + 1 ≤ 4096 ∧ demo.mem.wf = true := by
  simp only [List.length_replicate]; decide +kernel
/-- Instance 1 of partition 1, two wires wide, a counting instance or one of a sequence; its exits hold `w`. -/
def counting (seq : Bool) (s : State) (w : BitVec 256 := 0) : State :=
  s.modPart 1 fun p => { p with insts := [(1, ⟨BitVec.ofNat 256 (mkRecord [(0, 3, 1), (21, 2, 1), (23, 1, seq.toNat)]), [], if w = 0 then [] else [(0, w)]⟩)] }
theorem witness_CountingIssue : ∀ b : Bool, let s := counting b (with_ 0x1000 0)
    s.Chosen page ∧ s.strand.a.extractLsb' 32 32 = 0 ∧ (s.part (s.pidOf s.me)).instSlot (s.strand.a.setWidth 32) = some 1 ∧
    ((s.part (s.pidOf s.me)).inst 1).isSeq = b ∧ s.strand.x.extractLsb' 46 18 = 0 ∧ s.strand.x.extractLsb' 9 55 = 0 ∧
    (s.strand.x.extractLsb' 6 3).toNat ≤ 4 := by simp only [State.Chosen]; decide +kernel
theorem witness_CountingIssue_refused : (with_ (2 ^ 32) 0).strand.a.extractLsb' 32 32 ≠ 0 ∧
    (with_ 0 (2 ^ 46)).strand.x.extractLsb' 46 18 ≠ 0 ∧
    ((with_ 0x2000 0).part 1).instSlot ((with_ 0x2000 0).strand.a.setWidth 32) = none := by decide +kernel
theorem witness_CountingIssue_later : let s := counting false (with_ 0xF00001000 0xF000001FFFF8)
    s.strand.a.extractLsb' 36 28 = 0 ∧ s.strand.x.toNat = 0xF00000000000 + 0x1FFFF8 ∧ 0x1FFFF8 + 8 ≤ 2 ^ 21 ∧ 0x1FFFF8 % 8 = 0 ∧
    (s.part (s.pidOf s.me)).instSlot (s.strand.a.setWidth 32) = some 1 ∧ ((s.part (s.pidOf s.me)).inst 1).isSeq = false ∧
    (s.core s.me).posted < 32 := by decide +kernel
def token (k : TokKind) (layer : Nat) : TokReq := ⟨demo.issuer, 0x1000, k, 1, layer, 3, 0xF000001FFFF8, 15⟩
theorem witness_CountingNetwork : let s : State := { counting false demo with arg := .tok (token .tok 0) 0 }
    s.arg = .tok (token .tok 0) 0 ∧ (token .tok 0).kind ≠ .tokn ∧ (s.part 1).instSlot (token .tok 0).inst = some 1 ∧
    (netLayers ((s.part 1).inst 1).lw)[(token .tok 0).layer]?.isSome = true := by decide +kernel
theorem witness_CountingNetwork_exits : (⟨-1, 0, []⟩ : Exit).cnt < 0 ∧ 0 ≤ (⟨0, 0, [0]⟩ : Exit).cnt ∧
    (⟨2 ^ 39 - 1, 0, []⟩ : Exit).cnt = 2 ^ 39 - 1 ∧ 0 < (⟨0, 1, []⟩ : Exit).vac ∧ ((1 : Nat) : Int) < (⟨3, 0, [0]⟩ : Exit).cnt - 1 ∧
    1 ∉ (⟨3, 0, [0]⟩ : Exit).ph ∧ (⟨9, 0, [0, 1, 2, 3]⟩ : Exit).ph.length = 4 ∧ ((2 : Nat) : Int) = (⟨3, 0, [0, 1]⟩ : Exit).cnt - 1 ∧
    2 ∉ (⟨3, 0, [0, 1]⟩ : Exit).ph := by decide
theorem witness_CountingNetwork_tokn : let s : State := { counting false demo with arg := .tok (token .tokn 0) 0 }
    s.arg = .tok (token .tokn 0) 0 ∧ (s.part 1).instSlot (token .tokn 0).inst = some 1 ∧
    (netLayers ((s.part 1).inst 1).lw)[(token .tokn 0).layer]?.isSome = true ∧
    (demo.part 1).instSlot (token .tok 0).inst = none ∧ (token .tokn 1).kind = .tokn ∧ (token .tokn 1).layer ≠ 0 := by decide +kernel
theorem witness_CountingNetwork_antitoken : let x : Exit := ⟨3, 0, [0, 1]⟩
    x.vac = 0 ∧ 0 < x.cnt ∧ x.ph.Pairwise (· < ·) ∧ (∀ k ∈ x.ph, (k : Int) < x.cnt) ∧ (x.cnt - 1).toNat ∉ x.ph ∧
    (⟨0, 0, []⟩ : Exit).vac = 0 ∧ (⟨0, 0, []⟩ : Exit).cnt ≤ 0 ∧ (⟨2 ^ 39 - 1, 0, []⟩ : Exit).ph = [] := by decide
theorem witness_AntitokenUndoesToken : Tab.wf false [(3, true)] = true ∧ 1 < 2 ^ 1 := by decide
theorem witness_CountingServes : let s : State := { counting false demo with arg := .tok (token .tok 2) 0 }
    s.arg = .tok (token .tok 2) 0 ∧ (s.part (token .tok 2).by_.pid).instSlot (token .tok 2).inst = some 1 ∧ (token .tok 2).kind = .tok ∧
    (token .tok 2).result.toNat = 0xF00000000000 + 0x1FFFF8 ∧ 0x1FFFF8 < 2 ^ 21 := by decide +kernel
theorem witness_CountingServes_tokn : let r := token .tokn 2
    let s : State := { counting false demo with arg := .tok r 0 }
    (s.part r.by_.pid).instSlot r.inst = some 1 ∧ r.kind = .tokn := by decide +kernel
/-- A reduction of `p` participants in a task on both tiles. -/
def reducing (p : Word64) : State := (with_ 5 p).modTask 1 1 fun t => { t with tiles := [0, 1] }
theorem witness_Reductions : (reducing 2).Chosen page ∧ page.ty = none ∧ (reducing 2).strand.x.extractLsb' 32 32 = 0 ∧
    ((reducing 0).strand.x.extractLsb' 0 16).toNat = 0 ∧ ((reducing 1).strand.x.extractLsb' 0 16).toNat = 1 ∧
    (reducing 2).liveTiles .die = 2 ∧ (reducing 2).liveTiles .tile < 2 ∧
    (reducing (2 ^ 32)).strand.x.extractLsb' 32 32 ≠ 0 := by simp only [State.Chosen]; decide +kernel
def joining (core : Nat) (p : Nat := 2) (ty : Option Ty := none) : RedArr :=
  ⟨{ demo.issuer with core := core }, .add, ty, .die, 0, p, 0, 4⟩
theorem witness_Reductions_join : ∀ e ∈ [(1 : Nat), 2], let m : Meeting := ⟨BitVec.ofNat 2 e, 1, 0x1000, .die, 0, 0, 2, [joining 8]⟩
    let s : State := { demo with arg := .arr (joining 0), meetings := [m] }
    s.arg = .arr (joining 0) ∧ (joining 0).scope ≠ .pod ∧ 2 ≤ (joining 0).p ∧ s.meetings = [] ++ m :: [] ∧ m.arrived = [joining 8] ∧
    m.fits (BitVec.ofNat 2 e) (joining 0) = true ∧ m.need = 2 ∧ (joining 0).p = 2 ∧ (joining 8).fn = (joining 0).fn ∧
    (joining 8).ty = none ∧ (joining 0).ty = none ∧ (joining 8).by_.core / 8 ≠ (joining 0).by_.core / 8 := by decide +kernel
theorem witness_Reductions_opens : ∀ e ∈ [(1 : BitVec 2), 2], ∀ ty ∈ [none, some Ty.i32, some Ty.f32],
    let s : State := { demo with arg := .arr (joining 0 2 ty) }
    s.arg = .arr (joining 0 2 ty) ∧ (joining 0 2 ty).scope ≠ .pod ∧ 2 ≤ (joining 0 2 ty).p ∧ ∀ m ∈ s.meetings, m.fits e (joining 0 2 ty) = false := by
  decide +kernel
theorem witness_Reductions_waits : ∀ e ∈ [(1 : Nat), 2], ∀ p ∈ [3, 4, 5], let r := joining 0 4 (some .f32)
    let m : Meeting := ⟨BitVec.ofNat 2 e, 1, 0x1000, .die, 0, 0, p, (List.range 3).map fun t => joining (8 * t + 8) p (some .f32)⟩
    let l : Meeting := { m with arrived := m.arrived.take 2 }
    m.fits (BitVec.ofNat 2 e) r = true ∧ (m.need ≠ r.p ↔ p ≠ 4) ∧ (∀ x ∈ m.arrived, x.fn = r.fn ∧ x.ty = r.ty ∧ x.by_.core / 8 ≠ r.by_.core / 8) ∧
    m.arrived.length + 1 = r.p ∧ l.fits (BitVec.ofNat 2 e) r = true ∧ l.arrived.length + 1 < r.p := by decide +kernel
theorem witness_Reductions_operands : page.ty = none ∧ (typed .i32).ty = some .i32 ∧ (typed .f32).ty = some .f32 ∧
    (machine strandNow).taskOf 0 = some (1, taskNow) ∧ taskNow.pgang = 0 := by decide +kernel
/-- Page tables of partition 1 at physical address 0x10000 that map the first GiB to the first GiB of HBM, for reads,
writes and every die: an entry 0x11001 in stack 0, and a leaf 0x1F in stack 1 (R173). `l` are the bytes below them. -/
def pagedWith (l : Memory) (s : State) : State :=
  { s.modPart 1 fun p => { p with record := 0x10000000000000000000000000000000000000000000000000000000000000000000000000008000000000000000000040001 } with
    mem := l ++ [(0x2000, 0x01), (0x2001, 0x10), (0x2002, 0x01), (2 ^ 36 + 0x2000, 0x1F)] }
def paged : State := pagedWith [] demo
/-- Tasks 2 and 3 of graph 1 in the states `a` and `b`, with `d` and `e` dependences. -/
def pairOf (a d b e : Nat) (s : State := demo) : State := s.modPart 1 fun p => { p with tasks := p.tasks ++
  [(2, { Task.absent with tcb := BitVec.ofNat 1024 (mkRecord [(160, 10, 1), (224, 16, d), (244, 4, a), (384, 32, 0x1000), (416, 32, 0x2000)]) }),
   (3, { Task.absent with tcb := BitVec.ofNat 1024 (mkRecord [(160, 10, 1), (224, 16, e), (244, 4, b), (384, 32, 0x1000), (416, 32, 0x3000)]) })] }
theorem witness_TaskInstructions : let t (s : State) (n : Nat) : Task := s.task 1 n
    let refuses (s : State) (n : Nat) : Prop := s.taskDead 1 n = true ∨ gAccepts (s.graphOf 1 (t s n).graph) = false
    (∀ d ∈ [0, 1], let s := pairOf 1 d 1 0xFFFF
      ¬refuses s 2 ∧ (t s 2).state = 1 ∧ (t s 2).dep = d ∧ (t s 2).state ≠ 7 ∧ s.taskDead 1 2 = false) ∧
    (¬refuses (pairOf 3 0 1 0) 2 ∧ (t (pairOf 3 0 1 0) 2).state ≠ 1) ∧ (t (pairOf 7 0 1 0) 2).state = 7 ∧ refuses (pairOf 8 0 1 0) 2 ∧
    (∀ e ∈ [0, 0xFFFE, 0xFFFF], let s := pairOf 2 1 1 e
      ¬(s.taskDead 1 3 = true ∨ s.taskDead 1 2 = true ∨ gAccepts (s.graphOf 1 (t s 3).graph) = false) ∧ (t s 3).state = 1 ∧
      (t s 2).state ≠ 7 ∧ (t s 3).dep = e ∧ (t s 2).nsucc < 8) := by decide +kernel
theorem witness_TaskInstructions_links :
    let refuses (s : State) : Bool := s.taskDead 1 3 || s.taskDead 1 2 || !gAccepts (s.graphOf 1 (s.task 1 3).graph)
    refuses (pairOf 8 0 1 0) ∧ (¬refuses (pairOf 3 0 2 0) ∧ ((pairOf 3 0 2 0).task 1 3).state ≠ 1) ∧
    (¬refuses (pairOf 7 0 1 0) ∧ ((pairOf 7 0 1 0).task 1 3).state = 1 ∧ ((pairOf 7 0 1 0).task 1 2).state = 7) := by decide +kernel
/-- The machine with an access of the strand in flight that a release waits for. -/
def owing (s : State := demo) : State :=
  { s with now := 5, later := [(9, ⟨.putDelivery, .put ⟨{ s.issuer with cycle := 0 }, 0xF40000000000, .mem [dieKey 0 0x40], [1], 0, [], false, none, false⟩⟩)] }
theorem witness_TaskInstructions_release :
    (let s := with_ 0x1000 0
     (s.await ⟨s.strand.next page, false, none, none, none⟩).releasedFor s.issuer = true) ∧
    (let s := owing (with_ 0x1000 0)
     (s.await ⟨s.strand.next page, false, none, none, none⟩).releasedFor s.issuer = false) := by decide +kernel
theorem witness_TaskInstructions_words : let s := pairOf 1 0 1 0 (with_ 0x2000 0x3000)
    s.Chosen page ∧ s.strand.a.extractLsb' 32 32 = 0 ∧ (s.part (s.pidOf s.me)).taskSlot (s.strand.a.setWidth 32) = some 2 ∧
    s.strand.x.extractLsb' 32 32 = 0 ∧ (s.part (s.pidOf s.me)).taskSlot (s.strand.x.setWidth 32) = some 3 ∧
    (demo.part 1).taskSlot ((with_ 0x2000 0).strand.a.setWidth 32) = none ∧ (with_ (2 ^ 32) 0).strand.a.extractLsb' 32 32 ≠ 0 ∧
    (with_ 0 (2 ^ 32)).strand.x.extractLsb' 32 32 ≠ 0 := by simp only [State.Chosen]; decide +kernel
/-- Graph 2 below graph 1 in a state, created by `c`. -/
def childGraph (st : Nat) (c : Nat) (s : State) : State := s.modPart 1 fun p => { p with graphs := p.graphs ++
  [(2, BitVec.ofNat 512 (mkRecord [(0, 32, 0x1000), (32, 32, 0x2000), (128, 32, c), (224, 3, st), (227, 1, 1)]))] }
theorem witness_TaskInstructions_graphs :
    (let s := with_ 0 0
     s.strand.x.extractLsb' 48 16 = 0 ∧ s.strand.x.extractLsb' 0 3 = 0 ∧
     (s.part (s.pidOf s.me)).graphSlot (if s.strand.a = 0 then s.myGraph else s.strand.a.setWidth 32) = some 1 ∧
     gAccepts (s.graph 1 1) = true) ∧
    (let s := childGraph 4 0x9000 (with_ 0x2000 0)
     (s.part (s.pidOf s.me)).graphSlot (if s.strand.a = 0 then s.myGraph else s.strand.a.setWidth 32) = some 2 ∧
     gAccepts (s.graph 1 2) = false ∧ s.strand.a ≠ 0 ∧ s.inGraph 1 2 = false ∧ gFinal (s.graph 1 2) = false ∧
     gCreator (s.graph 1 2) ≠ s.tcbOf s.me) ∧
    (let s := with_ 0x1000 0
     (s.part (s.pidOf s.me)).graphSlot (s.strand.a.setWidth 32) = some 1 ∧ s.strand.a ≠ 0 ∧ s.inGraph 1 1 = true) := by decide +kernel
theorem witness_TaskInstructions_final : ∀ st ∈ [1, 3, 5], ∀ c ∈ [0x1000, 0x9000], let s := childGraph st c (with_ 0x2000 0)
    (s.part (s.pidOf s.me)).graphSlot (s.strand.a.setWidth 32) = some 2 ∧ s.inGraph 1 2 = false ∧
    (gState (s.graph 1 2) = 3 ∨ gState (s.graph 1 2) = 5 ↔ st ≠ 1) ∧ (gCreator (s.graph 1 2) = s.tcbOf s.me ↔ c = 0x1000) := by decide +kernel
theorem witness_TaskInstructions_wakes : (childGraph 3 0 demo).Ok := ok_of_formOk _ (by decide +kernel)
theorem witness_TaskInstructions_unsaved : ∀ e ∈ ((childGraph 3 0 demo).part 1).tasks, e.2.saved = false := by decide +kernel
/-- Queue 7 of partition 1 with 16 records at `base`, enabled, with TAIL, HEAD and NOTE. -/
def queued (loc base tail head note : Nat) (s : State) : State := s.modQueue 7 fun _ => BitVec.ofNat 192
  (mkRecord [(0, 48, base), (48, 4, 4), (62, 1, loc), (63, 1, 1), (64, 32, note), (112, 16, 1), (128, 32, tail), (160, 32, head)])
theorem witness_TaskInstructions_queues : ∀ b : Bool, let s := queued 0 0x4000 (if b then 16 else 15) 0 0 (with_ 7 0)
    s.strand.a.extractLsb' 15 49 = 0 ∧ s.jobQueue 1 s.strand.a.toNat = some (s.queue 7) ∧
    ((qTail (s.queue 7) + 2 ^ 32 - qHead (s.queue 7)) % 2 ^ 32 = qSize (s.queue 7) ↔ b = true) := by decide +kernel
theorem witness_TaskInstructions_post : let s := queued 0 0x4000 16 0 0 (machine { strandNow with a := 15, x := 7, ptrs := [(1, ⟨0, 0xF000001FFFC0⟩)] })
    s.Chosen page ∧ (s.strand.ptr 1).addr.toNat = 0xF00000000000 + 0x1FFFC0 ∧ 0x1FFFC0 + 64 ≤ 2 ^ 21 ∧ (s.strand.ptr 1).addr.toNat % 8 = 0 ∧
    (s.core s.me).vecPending 0x1FFFC0 64 = false ∧ s.poisonIn (scratchKey s.myTile 0x1FFFC0) 64 = none ∧
    s.strand.x.extractLsb' 15 49 = 0 ∧ s.jobQueue 1 s.strand.x.toNat = some (s.queue 7) ∧ (s.core s.me).posted < 32 ∧
    ((s.strand.a.extractLsb' 0 32).toNat + 2 ^ 32 - qHead (s.queue 7)) % 2 ^ 32 <
      (qTail (s.queue 7) + 2 ^ 32 - qHead (s.queue 7)) % 2 ^ 32 ∧ s.host.assisted = [] := by
  simp only [State.Chosen]; decide +kernel
/-- The strand's ARM or DEPDEC of task 2 waits in WAIT-LOAD for what it releases. -/
def arming (op : ReqOp) (wait : Bool) : State :=
  let s := pairOf 1 0 1 0 (machine { strandNow with mode := .waitLoad, a := 0x2000, await := some ⟨0x1004, false, none, none, none⟩ })
  let s := if wait then owing s else s
  { s with arg := .req ⟨s.issuer, op, 0x2000, 0⟩ }
theorem witness_TaskInstructions_again : ∀ op ∈ [ReqOp.arm, .depdec], ∀ w : Bool, let s := arming op w
    let q : Req := ⟨s.issuer, op, 0x2000, 0⟩
    s.arg = .req q ∧ s.awaits q.by_ = true ∧ q ∉ s.queueAt q.by_.pid (handleSlot (q.a.setWidth 32)) ∧ q.a.extractLsb' 32 32 = 0 ∧
    s.releasedFor q.by_ = !w ∧ (s.part q.by_.pid).taskSlot (q.a.setWidth 32) = some 2 := by decide +kernel
theorem witness_TaskInstructions_spawn : ∀ b : Bool, let rec_ := mkRecord [(118, 1, b.toNat)]
    let s := (machine { strandNow with ptrs := [(1, ⟨0, 0xF000001FFFC0⟩)] }).wrNat (scratchKey 0 0x1FFFC0) 64 rec_
    let s := owing s
    let waiting := (s.touched 0x1FFFC0 64).await ⟨s.strand.next page, false, some (1, (s.strand.ptr 1).post .none 64), none, none⟩
    (s.rdNat (scratchKey s.myTile 0x1FFFC0) 64).testBit 118 = b ∧ waiting.releasedFor s.issuer = false ∧ s.host.assisted = [] ∧
    s.Chosen page := by simp only [State.Chosen]; decide +kernel
theorem witness_TaskInstructions_descriptors :
    let v (l : List (Nat × Nat × Nat)) : Nat := mkRecord l
    (∀ l ∈ [[(240, 16, 1)], [(181, 11, 1)], [(122, 6, 1)], [(112, 2, 1)], [(48, 16, 1)], [(192, 3, 1)], [(0, 6, 1)], [(120, 1, 1), (160, 21, 32)],
        [(120, 1, 1), (160, 21, 0x1FE040)], [(120, 1, 1), (128, 1, 1)], [(160, 21, 64)], [(128, 32, 2)]], spawnBad (v l) = true ∧ v l < 2 ^ 512) ∧
    (∀ l ∈ [[], [(120, 1, 1), (128, 32, 2 ^ 32 - 2), (160, 21, 0x1FE000)], [(0, 48, 2 ^ 48 - 64)]], spawnBad (v l) = false) ∧
    (demo.part 1).graphSlot 0x1000 = some 1 ∧ (demo.part 1).graphSlot 0x5000 = none := by decide +kernel
theorem witness_TaskInstructions_images :
    let v (l : List (Nat × Nat × Nat)) : Nat := mkRecord l
    (∀ n ∈ [1, 512], launchBad (v [(64, 10, n), (160, 32, 0x200000)]) = false) ∧
    (∀ l ∈ [[], [(64, 10, 513)], [(64, 10, 1), (213, 11, 1)], [(64, 10, 1), (81, 15, 1)], [(64, 10, 1), (48, 16, 1)], [(64, 10, 1), (0, 1, 1)],
        [(64, 10, 1), (128, 1, 1)], [(64, 10, 1), (192, 21, 2)], [(64, 10, 1), (160, 32, 0x1FFFFD), (192, 21, 4)]], launchBad (v l) = true) ∧
    (∀ l ∈ [[(0, 8, 1), (8, 8, 6)], [(0, 8, 1), (8, 8, 16), (16, 8, 1)], [(0, 8, 2), (8, 8, 1)], [(0, 8, 2), (8, 8, 6), (34, 19, 5)]],
      requestBad (v l) = false) ∧
    ∀ l ∈ [[(0, 8, 1), (8, 8, 5)], [(0, 8, 1), (8, 8, 17)], [(0, 8, 1), (8, 8, 6), (16, 8, 2)], [(0, 8, 2), (8, 8, 7)],
      [(0, 8, 2), (8, 8, 1), (16, 8, 1)], [(0, 8, 3), (8, 8, 6)], [(0, 8, 2), (8, 8, 1), (53, 1, 1)], [(0, 8, 2), (8, 8, 1), (24, 1, 1)],
      [(0, 8, 2), (8, 8, 1), (32, 1, 1)]], requestBad (v l) = true := by decide +kernel
/-- Partition 1 has room for `n` tasks and graphs, and the image header `l` at address 0x8000 with the requests `rs` behind it. -/
def imaged (n l : Nat) (rs : List Nat) : State :=
  let s := paged.modPart 1 fun p => { p with record := setField (setField p.record 128 16 n) 144 16 n }
  let s := (s.vWrite 1 0x8000 8 l).getD s
  (rs.zipIdx).foldl (fun s r => (s.vWrite 1 (0x8040 + 16 * r.2) 2 r.1).getD s) s
/-- What a spawn of an image at 0x8000 with the further fields `d` comes to: 0 a task, 1 to 6 the status, 7 a fault, 8 a question. -/
def spawned (s : State) (d : List (Nat × Nat × Nat) := []) : Nat :=
  match s.spawnIn none 1 1 (mkRecord ((0, 48, 0x8000) :: d)) [] with
  | .made _ _ => 0
  | .status st => st
  | .xlate _ _ => 7
  | .ask _ _ => 8
  | _ => 9
theorem witness_TaskInstructions_spawns : let l (m : List (Nat × Nat × Nat)) : Nat := mkRecord ((64, 10, 1) :: m)
    let counting := mkRecord [(0, 8, 2), (8, 8, 1)]
    gAccepts ((imaged 2 (l []) []).graph 1 1) = true ∧ spawned (imaged 2 (l []) []) = 0 ∧ spawned (imaged 2 (l []) []) [(118, 1, 1)] = 0 ∧
    spawned (imaged 1 (l []) []) = 3 ∧ spawned (imaged 2 0 []) = 6 ∧ spawned (imaged 2 (l [(232, 8, 1)]) [1]) = 6 ∧
    spawned (imaged 2 (l [(224, 8, 1)]) [counting]) = 6 ∧ spawned (imaged 2 (mkRecord [(64, 10, 3)]) []) = 6 ∧
    spawned (imaged 2 (l []) []) [(120, 1, 1)] = 6 ∧ spawned (imaged 2 (l [(240, 16, 1)]) []) = 6 ∧
    spawned (imaged 2 (l [(232, 8, 1)]) [counting]) = 3 ∧
    spawned (((imaged 2 (l [(232, 8, 1)]) [counting]).modPart 1 fun p => { p with record := setField p.record 176 16 4 }).modHost fun h =>
      { h with mpmode := 4 }) = 8 ∧
    spawned { imaged 2 (l []) [] with mem := [] } = 7 := by decide +kernel
theorem witness_TaskInstructions_new : let s := imaged 2 0 []
    ((s.part 1).record.extractLsb' 144 16).toNat = 2 ∧ gState (s.graph 1 1) ≠ 0 ∧ gState (s.graph 1 2) = 0 ∧
    ((imaged 1 0 []).part 1).record.extractLsb' 144 16 = 1 ∧ some 1 ≠ some 2 := by decide +kernel
theorem witness_TaskInstructions_newOk : (imaged 2 0 []).Ok := ok_of_formOk _ (by decide +kernel)
theorem witness_HostCommands : ∀ b : Bool, let s := inStep 7 8 (s := queued 1 0 1 0 (if b then 1 else 0) demo)
    s.arg = .num 7 8 0 0 ∧ (((s.queue 7).getLsbD 63 = false ∨ ((s.queue 7).extractLsb' 160 32).toNat = ((s.queue 7).extractLsb' 64 32).toNat) ↔ b = false) ∧
    s.fetchRecord (s.queue 7) = some 0 ∧ ((s.queue 7).extractLsb' 160 32).toNat / 2 ^ ((s.queue 7).extractLsb' 48 4).toNat % 256 = 0 := by
  decide +kernel
theorem witness_HostCommands_stale : let s := queued 1 0 32 16 32 demo
    s.fetchRecord (s.queue 7) = some 0 ∧ 0 / 2 ^ 8 % 2 ^ 8 ≠ ((s.queue 7).extractLsb' 160 32).toNat / 2 ^ ((s.queue 7).extractLsb' 48 4).toNat % 256 := by
  decide +kernel
theorem witness_HostCommands_paused : let s := onBoard (fun b => { b with draining := [1] }) (queued 1 0 32 16 32 demo)
    ((s.queue 7).extractLsb' 112 16).toNat ∈ s.board.draining ∧ (s.queue 7).getLsbD 63 = true ∧
    (demo.agenda.all fun d => !ofQueue 7 d) = true ∧ demo.host.assisted = [] := by decide +kernel
/-- A command about task 2, task 3, graph 1 or global address 0x8000. -/
def command (v w : Nat) : BitVec 512 := BitVec.ofNat 512 (mkRecord [(64, 48, 0x4000), (128, 32, v), (160, 32, w)])
theorem witness_HostCommands_run : let s : State := { queued 1 0 32 16 32 (pairOf 1 0 1 0) with arg := .cmd 7 (command 0x2000 0x3000) }
    s.arg = .cmd 7 (command 0x2000 0x3000) ∧ (s.part 1).taskSlot ((command 0x2000 0x3000).extractLsb' 128 32) = some 2 ∧
    (s.part 1).taskSlot ((command 0x2000 0x3000).extractLsb' 160 32) = some 3 ∧
    (s.part 1).graphSlot ((command 0x2000 0x3000).extractLsb' 128 32) = none ∧
    (s.part 1).graphSlot ((command 0x1000 0).extractLsb' 128 32) = some 1 ∧
    (s.part 1).taskSlot ((command 0x5000 0).extractLsb' 128 32) = none := by decide +kernel
theorem witness_HostCommands_launch : let s : State := { queued 1 0 32 16 32 (pagedWith [(0x1008, 1)] demo) with arg := .cmd 7 (command 0x8000 0) }
    s.host.assisted = [] ∧ (match s.vKeys 1 ((command 0x8000 0).extractLsb' 128 48).toNat 1 true false 64 with
      | .ok ks => decide (bytesToNat (ks.map fun k => s.byte k) / 2 ^ 64 % 2 ^ 32 ≠ 0) | .error _ => false) = true ∧
    (command 0x8000 0).getLsbD 32 = false ∧ ((command 0x8000 0).extractLsb' 64 48).toNat = 0x4000 ∧
    (match s.vKey (qPart (s.queue 7)) 0x4000 false true with | .ok _ => true | .error _ => false) = true ∧
    ((0 : BitVec 512).extractLsb' 64 48).toNat = 0 := by decide +kernel
theorem witness_HostCommands_ends : (255 : Nat) < 256 ∧ 2 ^ 32 - 1 < 2 ^ 32 ∧ (command 0 0).getLsbD 32 = false ∧
    ((command 0 0).extractLsb' 64 48).toNat = 0x4000 ∧ 0x4000 % 8 = 0 ∧
    (match paged.vKey (qPart ((queued 1 0 32 16 32 paged).queue 7)) 0x4000 false true with | .ok _ => true | .error _ => false) = true := by
  decide +kernel
theorem witness_HostCommands_records : spawnBad 0 = false ∧ spawnBad 1 = true ∧ 0 / 2 ^ 64 % 2 ^ 32 = 0 := by decide +kernel
theorem witness_HostCommands_post : let x : BitVec 192 := (queued 0 0x4000 16 0 0 demo).queue 7
    let a := (x.extractLsb' 0 48).toNat + 64 * (15 % 2 ^ (x.extractLsb' 48 4).toNat)
    (match demo.vKeys 1 a 8 false true 8 with | .error _ => true | .ok _ => false) = true ∧
    (match paged.vKeys 1 a 8 false true 8 with | .ok _ => true | .error _ => false) = true ∧
    (paged.vWrite 1 a 8 5).isSome = true := by decide +kernel
theorem witness_HostCommands_passing : let x : BitVec 192 := (queued 0 0x4000 16 0 0 demo).queue 7
    let a := (x.extractLsb' 0 48).toNat + 64 * (15 % 2 ^ (x.extractLsb' 48 4).toNat)
    ∀ n ∈ [3, 7], (match paged.vKeys 1 a 8 false true 8 with
      | .ok ks => (keyStacks ks).all fun k => { paged with board := { paged.board with
          handovers := [⟨k, false, n, demo.issuer, 0, 0, false, false, []⟩] } }.heldBy (dieOf (demo.issuer.core / 8)) (keyStacks ks) == some k
      | .error _ => false) = true := by decide +kernel
/-- Task 1 with no strand and `n` operations left, in a state. -/
def ending (st n : Nat) : State := inStep 1 1 (s := demo.modTask 1 1 fun t => ((t.set 288 17 0).set 256 32 n).set 244 4 st)
theorem witness_SchedulerSteps : ∀ n ∈ [0, 2 ^ 32 - 1], let s := ending 5 n
    let t := s.task 1 1
    s.arg = .num 1 1 0 0 ∧ t.nofit = false ∧ gState (s.graphOf 1 t.graph) ≠ 4 ∧ t.live = 0 ∧ t.state = 5 ∧ t.aops = n ∧
    1 ≤ t.state ∧ t.state ≤ 6 := by decide +kernel
theorem witness_SchedulerSteps_aging : ∀ p ∈ [0, 1, 7], let s := (ending 3 0).modTask 1 1 fun t => t.set 177 3 p
    (s.task 1 1).state = 3 ∧ (s.task 1 1).prio0 = p ∧ s.arg = .num 1 1 0 0 := by decide +kernel
theorem witness_SchedulerSteps_drained : ((ending 6 0).task 1 1).state = 6 ∧ ((ending 3 0).task 1 1).state = 3 := by decide +kernel
theorem witness_SchedulerSteps_nofit : let s := ending 5 0
    let t := s.task 1 1
    let s2 := (((s.modTask 1 1 fun t => { t with nofit := true }).fault ⟨0, 0, 1, t.self, 0, s.now⟩ ⟨5, 5, 0, 0, 0, 0, 0⟩).haltTask 1 1).dropMeetings 1 t.self
    s2.traversing 1 t.self = false ∧ (s2.part 1).seqs = [] := by decide +kernel
theorem witness_SchedulerSteps_traversing : let s : State := { ending 5 0 with
      later := [(9, ⟨.balancerTraversal, .tok (token .tok 0) 0⟩)] }
    let t := s.task 1 1
    let s2 := (((s.modTask 1 1 fun t => { t with nofit := true }).fault ⟨0, 0, 1, t.self, 0, s.now⟩ ⟨5, 5, 0, 0, 0, 0, 0⟩).haltTask 1 1).dropMeetings 1 t.self
    s2.traversing 1 t.self = true := by decide +kernel
/-- Task 2 is READY and needs `n` tiles; tile 1 is free. -/
def placing (n : Nat) : State := inStep 1 (s := demo.modPart 1 fun p => { p with tasks := p.tasks ++ [(2, { Task.absent with
  tcb := BitVec.ofNat 1024 (mkRecord [(160, 10, n), (244, 4, 3), (384, 32, 0x1000), (416, 32, 0x2000)]) })] })
theorem witness_SchedulerSteps_placement : ∀ n ∈ [1, 2], let s := placing n
    s.arg = .num 1 0 0 0 ∧ s.frozen 1 = false ∧ s.isAssisted 1 = false ∧ s.host.assisted = [] ∧
    (∀ e ∈ (s.part 1).tasks, e.2.nTiles ≤ s.capacity 1) ∧ s.restorable 1 = [] ∧ s.readyTasks 1 = 2 :: [] ∧
    (s.freeTilesOf 1).length = 1 ∧ (s.task 1 2).nTiles = n ∧ s.earlyTasks 1 = [] ∧
    s.toReclaim 1 (s.freeTilesOf 1).length 2 = [] := by decide +kernel
/-- The conditions under which a pass of partition 1 places or reclaims. -/
def passes (s : State) : Bool :=
  decide (s.arg = .num 1 0 0 0) && !s.frozen 1 && decide (s.restorable 1 = []) && decide (s.host.assisted = []) &&
  (s.part 1).tasks.all fun e => !(decide (s.capacity 1 < e.2.nTiles) && !e.2.nofit && (decide (e.2.state = 3) || e.2.saved))
/-- A task of partition 1 that is saved, on its logical tile `l`; or may be placed early. -/
def kept (l : Nat) : State := inStep 1 (s := demo.modPart 1 fun p => { p with tasks := p.tasks ++ [(2, { Task.absent with tiles := [l], saved := true })] })
def early : State := inStep 1 (s := demo.modPart 1 fun p => { p with tasks := p.tasks ++ [(2, { Task.absent with
  tcb := BitVec.ofNat 1024 (mkRecord [(160, 10, 1), (180, 1, 1), (244, 4, 2), (384, 32, 0x1000), (416, 32, 0x2000)]) })] })
/-- Tile 1 of partition 1 is lent to partition 2. -/
def lent (s : State) : State := s.modBoard fun b => { b with layout := { b.layout with tiles := [(0, 1), (1, 0x200010001)] } }
theorem witness_SchedulerSteps_passes : passes (placing 1) = true ∧ passes (lent (placing 1)) = true ∧ passes (inStep 1) = true ∧
    (lent (placing 1)).readyTasks 1 = 2 :: [] ∧ ((lent (placing 1)).freeTilesOf 1).length < ((lent (placing 1)).task 1 2).nTiles ∧
    (lent (placing 1)).toReclaim 1 0 1 = [1] ∧ (inStep 1).readyTasks 1 = [] := by decide +kernel
theorem witness_SchedulerSteps_others : (onBoard fun b => { b with moved := [1] }).frozen 1 = true ∧ (placing 3).frozen 1 = false ∧
    (placing 3).capacity 1 < ((placing 3).task 1 2).nTiles ∧ ((placing 3).task 1 2).state = 3 ∧ (kept 1).restorable 1 = [2] ∧
    passes early = true ∧ early.earlyTasks 1 = [2] ∧ Tab.wf Task.absent (early.part 1).tasks = true ∧
    (let s := (placing 1).modHost fun h => { h with mpmode := 2 }
     passes s = true ∧ s.isAssisted 1 = true ∧ s.readyTasks 1 ≠ [] ∧ s.earlyTasks 1 = [] ∧
     (s.tilesOf 1).all (fun t => decide ((s.tile t).tcb ≠ 0) || s.tileQuiet t) = true) := by decide +kernel
theorem witness_SchedulerSteps_start : demo.Ok ∧ Tab.wf Tile.idle demo.tiles = true ∧ (demo.task 1 1).handles = [] ∧
    (demo.task 1 1).dataOff + (List.replicate 64 (7 : Byte)).length ≤ 2 ^ 21 := ⟨ok_of_formOk _ (by decide +kernel), by decide +kernel⟩
/-- A cancelled graph without tasks and children, held by the host. -/
def settling : State := { State.reset with arg := .num 1 1 0 0, parts := [(1, { Part.absent with
  graphs := [(1, BitVec.ofNat 512 (mkRecord [(32, 32, 0x1000), (224, 3, 4), (227, 1, 1)]))], cancels := [(1, false, 7)] })] }
theorem witness_SchedulerSteps_bath : let s := settling
    let g := (s.part 1).graph 1
    s.arg = .num 1 1 0 0 ∧ Tab.wf Part.absent s.parts = true ∧ s.cores = [] ∧ (s.part 1).graphs = [(1, g)] ∧ gState g = 4 ∧ gNtask g = 0 ∧
    gNchild g = 0 ∧ gHold g = true ∧ gParent g = 0 ∧ (s.part 1).tasks = [] ∧ (s.part 1).seqs = [] ∧
    (s.part 1).cancels = [(1, false, 7)] ∧ (s.part 1).slb = 0 := by decide +kernel

theorem witness_SchedulerSteps_bathOk : settling.Ok := ok_of_formOk _ (by decide +kernel)
/-- A cancelled graph 2 below graph 1, which is ACTIVE or also cancelled. -/
def nested : State := { State.reset with arg := .num 1 2 0 0, parts := [(1, { Part.absent with
  graphs := [(1, BitVec.ofNat 512 (mkRecord [(32, 32, 0x1000), (192, 16, 1), (224, 3, 2), (227, 1, 1)])),
    (2, BitVec.ofNat 512 (mkRecord [(0, 32, 0x1000), (32, 32, 0x2000), (224, 3, 4), (227, 1, 1)]))],
  cancels := [(2, false, 7)] })] }
theorem witness_SchedulerSteps_nested : let s := nested
    let p := s.part 1
    let h := p.graph 1
    let g := p.graph 2
    s.arg = .num 1 2 0 0 ∧ gState g = 4 ∧ gNtask g = 0 ∧ gNchild g = 0 ∧ gHold g = true ∧ p.graphSlot (gParent g) = some 1 ∧
    gParent h = 0 ∧ gState h = 2 ∧ gHold h = true ∧ gSelf h = gParent g ∧ gSelf g ≠ gSelf h ∧ gSelf g ≠ 0 ∧
    p.graphs = [(1, h), (2, g)] ∧ p.tasks = [] ∧ p.seqs = [] ∧ p.cancels = [(2, false, 7)] ∧ 0 < gNchild h := by decide +kernel
theorem witness_SchedulerSteps_nestedOk : nested.Ok := ok_of_formOk _ (by decide +kernel)
/-- A cancelled graph with one task, all of whose strands have ended. -/
def bathed (st : Nat) : State := { settling with parts := [(1, { Part.absent with
  graphs := [(1, BitVec.ofNat 512 (mkRecord [(32, 32, 0x1000), (160, 16, 1), (224, 3, 4), (227, 1, 1)]))], cancels := [(1, false, 7)],
  tasks := [(1, { Task.absent with tcb := BitVec.ofNat 1024 (mkRecord [(160, 10, 1), (244, 4, st), (384, 32, 0x1000), (416, 32, 0x1000)]) })] })] }
theorem witness_SchedulerSteps_task : ∀ st ∈ [5, 6], let s := bathed st
    let p := s.part 1
    let g := p.graph 1
    let t := s.task 1 1
    s.arg = .num 1 1 0 0 ∧ gState g = 4 ∧ gNtask g = 1 ∧ gNchild g = 0 ∧ gHold g = true ∧ gParent g = 0 ∧ gCreator g = 0 ∧
    t.state = st ∧ t.graph = gSelf g ∧ p.graphSlot t.graph = some 1 ∧ t.live = 0 ∧ t.aops = 0 ∧ t.saved = false ∧ t.tiles = [] ∧
    t.nsucc = 0 ∧ t.novf = 0 ∧ t.self ≠ 0 ∧ t.pgang = 0 ∧ p.graphs = [(1, g)] ∧ p.tasks = [(1, t)] ∧ p.seqs = [] ∧ p.held = [] ∧
    p.heldWait = [] ∧ p.cancels = [(1, false, 7)] ∧ s.agenda = [] ∧ s.later = [] ∧ s.pod.outbox = [] ∧
    (p.cancels.any fun c => decide (c.1 = 1)) = true := by decide +kernel
theorem witness_SchedulerSteps_taskOk : ∀ st ∈ [5, 6], (bathed st).Ok := by
  intro st h
  simp only [List.mem_cons, List.not_mem_nil, or_false] at h
  rcases h with h | h <;> subst h <;> exact ok_of_formOk _ (by decide +kernel)
theorem witness_SchedulerSteps_waits : let s : State := { bathed 5 with later := [(9, ⟨.balancerTraversal, .tok (token .tok 0) 0⟩)] }
    let s1 := ((s.bathStep 1 1 3).haltTask 1 1).dropMeetings 1 (s.task 1 1).self
    s1.traversing 1 (s1.task 1 1).self = true := by decide +kernel
/-- The cancelled graph owns a sequence at which a token of an SQRES is on its way. -/
def owning : State := { (settling.modPart 1 fun p => { p with
  seqs := [(1, BitVec.ofNat 512 (mkRecord [(118, 2, 1), (128, 32, 0x1000), (160, 32, 0x1000), (288, 32, 2)]))] }) with
  later := [(9, ⟨.balancerTraversal, .tok { token .res 0 with arg := 0x1000 } 0⟩)] }
theorem witness_SchedulerSteps_busy : let s4 := ((owning.bathStep 1 1 3).bathStep 1 1 4).dropOwned 1 0x1000
    gState (s4.graph 1 1) = 4 ∧ s4.ownsSeqs 1 (gSelf (s4.graph 1 1)) = true := by decide +kernel
theorem witness_SchedulerSteps_unquiet :
    let s : State := { (bathed 5).modTask 1 1 (fun t => { t with tiles := [0] }) with
      tiles := [(0, { Tile.idle with pid := 1, tcb := 0x1000, arrays := [clearing true], arrayOn := true })] }
    let s1 := ((s.bathStep 1 1 3).haltTask 1 1).dropMeetings 1 (s.task 1 1).self
    let s5 := (((s1.bathStep 1 1 4).dropOwned 1 0x1000).bathStep 1 1 5).discardOps 1 1
    s5.taskQuiet 1 1 = false ∧ gState (((s5.bathStep 1 1 6).endCancel 1 1).graph 1 1) = 4 := by decide +kernel
/-- Sequence 1 of two slots of 64 KiB in a state, its first slot in chunk 1 in the state `x`. -/
def sequence (st : Nat) (x : BitVec 2) (s : State) : State :=
  let s := (counting true s).modPart 1 fun p => { p with
    record := setField (setField (setField p.record 256 48 0x1000000) 160 16 4) 208 24 8,
    seqs := [(1, BitVec.ofNat 512 (mkRecord [(109, 5, 16), (114, 3, 1), (118, 2, st), (128, 32, 0x1000), (160, 32, 0x1000), (288, 32, 2)]))],
    chunks := [(chunkKey 0 1, ⟨1, if x = 0 then [] else [(0, x)], []⟩)] }
  s.wrNat ((s.physKey 0x1000000).getD 0) 4 (2 ^ 31 + 1)
theorem witness_SequenceInstructions : ∀ x : BitVec 2, let s := sequence 1 x (with_ 0x1000 0)
    s.Chosen page ∧ s.host.assisted = [] ∧ s.released = true ∧ s.strand.a.extractLsb' 32 32 = 0 ∧
    s.strand.x.extractLsb' 2 62 = 0 ∧ (s.part (s.pidOf s.me)).seqSlot (s.strand.a.setWidth 32) = some 1 ∧ seqState (s.seq 1 1) = 1 ∧
    s.strand.x.extractLsb' 48 16 = 0 ∧ (s.strand.x.extractLsb' 0 48).toNat < seqCap (s.seq 1 1) ∧
    s.slotState 1 (s.seq 1 1) 0 = x ∧ s.queueAt 1 1 = [] ∧ s.reserving 1 0x1000 = false := by
  simp only [State.Chosen]; decide +kernel
/-- The state in which an instruction's context waits for its reply. -/
def inWait (s : State) : State := s.await ⟨s.strand.next page, false, none, none, none⟩
theorem witness_SequenceInstructions_waits : let s := sequence 1 0 (with_ 0x1000 0)
    (inWait s).releasedFor s.issuer = true ∧ (inWait s).queueAt 1 1 = [] ∧ ((inWait s).part 1).seqSlot 0x1000 = some 1 ∧
    (inWait (owing s)).releasedFor (owing s).issuer = false ∧ ((inWait (with_ 0x2000 0)).part 1).seqSlot 0x2000 = none ∧
    (let u := s.setQueueAt 1 1 [⟨demo.issuer, .len, 0x1000, 0⟩]
     (inWait u).queueAt 1 1 ≠ [] ∧ (inWait u).releasedFor u.issuer = true) := by decide +kernel
theorem witness_SequenceInstructions_reserved : (2 ^ 48 : Nat) / 2 ^ 48 ≠ 0 ∧ (0xFFFFFFFFFFFF : Word64).toNat / 2 ^ 48 = 0 ∧
    (0x8000FFFFFFFFFFFF : Word64).toNat / 2 ^ 48 % 2 ^ 15 = 0 ∧ (0x8001000000000000 : Word64).toNat / 2 ^ 48 % 2 ^ 15 ≠ 0 ∧
    (3 : Word64).toNat / 4 = 0 ∧ (4 : Word64).toNat / 4 ≠ 0 := by decide
/-- Slot `i` is FREE and its index is a pinhole; the pool is empty where the page of the slot is not mapped. -/
def holed (i : Nat) : State :=
  let s := sequence 1 0 (with_ 0x1000 (BitVec.ofNat 64 (2 ^ 63 + i)))
  (if i = 0 then s else s.modPart 1 fun p => { p with record := setField p.record 208 24 0 }).modInst 1 1 fun x => x.setExit (i % 2) ⟨1, 0, [0]⟩
theorem witness_SequenceInstructions_holes : ∀ i ∈ [0, 1], let s := holed i
    let r := s.seq 1 1
    let x := (s.part 1).inst 1
    (s.strand.x.extractLsb' 0 48).toNat = i ∧ i < seqCap r ∧ s.slotState 1 r i = 0 ∧ (s.part 1).seqSlot 0x1000 = some 1 ∧
    seqBase r ≤ i ∧ i / x.width ∈ (x.exit (i % x.width)).ph ∧ (s.mapSlot 1 r i).isSome = decide (i = 0) ∧
    ((s.modSeq 1 1 fun r => setField r 118 2 2).closeHoles 1 1).2 = decide (i = 0) ∧
    ((s.dirAt 1 r (i / seqPer r)).testBit 31 = decide (i = 0)) ∧ ((s.part 1).poolFree (seqTier r) = 0 ↔ i = 1) := by decide +kernel
theorem witness_SequenceInstructions_cancels : let y (k : List Nat) : Exit := ⟨9, 0, k⟩
    ((y [1, 2, 3, 4]).cancel 0).status = 6 ∧ ((y []).cancel 0).status ≠ 6 := by decide
/-- A token of an SQRES at the sequence is on its way, and reaches its exit. -/
def flying : State := let s := sequence 1 0 (with_ 0x1000 0)
    { s with later := [(9, ⟨.balancerTraversal, .tok { token .res 0 with arg := 0x1000 } 0⟩)],
             arg := .tok { token .res 2 with arg := 0x1000 } 0 }
theorem witness_SequenceInstructions_flying : let r : TokReq := { token .res 2 with arg := 0x1000 }
    flying.reserving 1 0x1000 = true ∧ flying.arg = .tok r 0 ∧ r.kind = .res ∧ (flying.part 1).seqSlot 0x1000 = some 1 ∧
    flying.queueAt 1 1 = [] ∧ (match flying.serveExit r r.wire (fun w x => x.token w r.wire) with | (_, some _) => true | (_, none) => false) = true := by
  decide +kernel
/-- The partition has room for `n` instances. -/
def roomy (n : Nat) (s : State := sequence 1 0 (with_ 0x1000 0)) : State :=
  s.modPart 1 fun p => { p with record := setField p.record 176 16 n }
theorem witness_SequenceInstructions_made : let made (s : State) : Nat := match s.newSeq 1 0x1000 16 0 1 false [] with
      | .made .. => 0 | .full => 1 | .ask .. => 2
    made (roomy 4) = 0 ∧ made (roomy 0) = 1 ∧ made ((roomy 4).modHost fun h => { h with mpmode := 4 }) = 2 ∧ ((roomy 4).part 1).nseq < 2 ^ 20 := by
  decide +kernel
theorem witness_SequenceInstructions_madeOk : (roomy 4).Ok := ok_of_formOk _ (by decide +kernel)
theorem witness_SequenceInstructions_ends : let s := sequence 2 1 (with_ 0x1000 2)
    seqState (s.seq 1 1) = 2 ∧ seqCap (s.seq 1 1) ≤ (s.strand.x.extractLsb' 0 48).toNat ∧ (with_ (2 ^ 32) 0).strand.a.extractLsb' 32 32 ≠ 0 ∧
    (demo.part 1).seqSlot 0x1000 = none ∧ (s.strand.x.extractLsb' 0 48).toNat ≤ seqCap (s.seq 1 1) ∧
    seqClen (s.seq 1 1) < (s.strand.x.extractLsb' 0 48).toNat ∧ seqCap (s.seq 1 1) < ((with_ 0 3).strand.x.extractLsb' 0 48).toNat := by
  decide +kernel
theorem witness_SequenceInstructions_close : let s := sequence 1 1 (with_ 0x1000 0)
    ((s.modSeq 1 1 fun r => setField r 118 2 2).closeHoles 1 1).2 = true := by decide +kernel
theorem witness_SequenceInstructions_fork : ∀ b : Bool, let s := childGraph 4 0 (sequence 1 1 (with_ 0x1000 0))
    let s := if b then s else s.modTask 1 1 fun t => t.set 384 32 0x2000
    (b = true ↔ ∃ g ∈ [1, 2], (s.part 1).graphSlot s.myGraph = some g ∧ gAccepts ((s.part 1).graph g) = true) := by decide +kernel
theorem witness_SequenceInstructions_new : ∀ n ∈ [5, 6, 16, 17],
    let s := (at1 0xF000001FFFF0).wrNat (scratchKey 0 0x1FFFF0) 16 (mkRecord [(0, 5, n), (12, 3, 6), (32, 32, 0x1000)])
    let d : BitVec 128 := BitVec.ofNat 128 (s.rdNat (scratchKey s.myTile 0x1FFFF0) 16)
    let f (lo w : Nat) : Nat := (d.extractLsb' lo w).toNat
    let malformed := f 64 64 ≠ 0 ∨ f 15 17 ≠ 0 ∨ f 9 3 ≠ 0 ∨ f 5 3 ≠ 0 ∨ f 12 3 = 0 ∨ f 12 3 = 7 ∨ f 0 5 < 6 ∨ 16 < f 0 5
    s.Chosen page ∧ (s.strand.ptr 1).addr.toNat = 0xF00000000000 + 0x1FFFF0 ∧ (s.strand.ptr 1).addr.toNat % 8 = 0 ∧
    (s.core s.me).vecPending 0x1FFFF0 16 = false ∧ s.poisonIn (scratchKey s.myTile 0x1FFFF0) 16 = none ∧
    (malformed ↔ n = 5 ∨ n = 17) ∧ (s.part 1).graphSlot (d.extractLsb' 32 32) = some 1 := by
  simp only [State.Chosen]; decide +kernel

/-- The strand with P1 at the last place of the scratchpad for `n` bytes and X given; context 1 in a mode, or not live. -/
def saving (n : Nat) (x : Word64) (m : Option Mode) : State :=
  let s := machine { strandNow with x := x, ptrs := [(1, ⟨0, 0xF00000200000 - BitVec.ofNat 48 n⟩)] }
  match m with
  | some m => second m s
  | none => s
theorem witness_ContextEntries : ∀ m ∈ [none, some Mode.ready, some (.suspended 0x1000), some .waitLoad], let s := saving 128 1 m
    s.Chosen page ∧ (s.strand.ptr 1).addr.toNat = 0xF00000000000 + 0x1FFF80 ∧ 0x1FFF80 + 128 ≤ 2 ^ 21 ∧
    (s.strand.ptr 1).addr.toNat % 8 = 0 ∧ (s.core s.me).vecPending 0x1FFF80 128 = false ∧ s.myCtx = 0 ∧
    (s.strand.x.extractLsb' 0 4).toNat ≠ 0 ∧ s.strand.x.extractLsb' 5 59 = 0 ∧ s.strand.x.getLsbD 4 = false ∧
    (s.ctx s.me (s.strand.x.extractLsb' 0 4).toNat).live = m.isSome ∧ s.poisonIn (scratchKey s.myTile 0x1FFF80) 128 = none ∧
    s.taskOf s.me = some (1, taskNow) := by simp only [State.Chosen]; decide +kernel
theorem witness_ContextEntries_bad : helper.myCtx ≠ 0 ∧ ((saving 128 0 none).strand.x.extractLsb' 0 4).toNat = 0 ∧
    (saving 128 0x21 none).strand.x.extractLsb' 5 59 ≠ 0 ∧ (saving 128 0x11 none).strand.x.getLsbD 4 = true ∧
    taskNow.helpers < ((saving 128 4 none).strand.x.extractLsb' 0 4).toNat ∧
    ((saving 128 3 none).strand.x.extractLsb' 0 4).toNat ≤ taskNow.helpers := by decide +kernel
theorem witness_ContextEntries_entry : ∀ c ∈ [0, 3, 4], let e : BitVec 1024 := BitVec.ofNat 1024 (mkRecord [(865, 1, 1), (867, 3, c)])
    (e.extractLsb' 944 80 ≠ 0 ∨ e.extractLsb' 874 6 ≠ 0 ∨ e.extractLsb' 720 16 ≠ 0 ∨ e.extractLsb' 688 16 ≠ 0 ∨
      e.getLsbD 865 = false ∨ 4 ≤ (e.extractLsb' 867 3).toNat ∨ e.getLsbD 640 = true ∨
      (e.getLsbD 864 = false ∧ e.extractLsb' 736 128 ≠ 0) ↔ c = 4) := by decide +kernel
theorem witness_TranslationInstructions : let s := with_ 0xEFFFFFFFFFFF 7
    s.Chosen page ∧ ¬0xF00000000000 ≤ s.strand.a.toNat ∧ 0xF00000000000 ≤ (with_ 0xF00000000000 0).strand.a.toNat ∧
    s.strand.x.extractLsb' 3 61 = 0 ∧ (with_ 0 8).strand.x.extractLsb' 3 61 ≠ 0 ∧ (inWait s).releasedFor s.issuer = true ∧
    (inWait s).accesses = [] ∧ (inWait (owing s)).releasedFor (owing s).issuer = false ∧ Tab.wf Tile.idle s.tiles = true := by
  simp only [State.Chosen]; decide +kernel
/-- A fault queue of four records at address 0x8000 of partition 1, with HEAD `h` and TAIL 1. -/
def faulted (h : Nat) (a x : Word64) : State :=
  pagedWith ((if h = 0 then [] else [(0x1000, 1)]) ++ [(0x1004, 1), (0x1018, 2)])
    (machine { strandNow with a := a, x := x, ptrs := [(1, ⟨0, 0xF000001FFF80⟩)] })
theorem witness_TranslationInstructions_records : ∀ h ∈ [0, 1], let s := faulted h 0x8000 0
    s.Chosen page ∧ (s.strand.ptr 1).addr.toNat = 0xF00000000000 + 0x1FFF80 ∧ 0x1FFF80 + 128 ≤ 2 ^ 21 ∧ (s.strand.ptr 1).addr.toNat % 8 = 0 ∧
    s.strand.x.extractLsb' 0 2 ≠ 3 ∧ s.strand.a.toNat < 0xF00000000000 ∧ s.strand.a.toNat % 8 = 0 ∧
    (s.core s.me).vecPending 0x1FFF80 128 = false ∧
    (match s.tKeys 0 1 0x8000 8 true true 8, s.tKeys 0 1 0x8000 8 true false 8 with
      | .ok ks, .ok ls => decide (ks = ls) && (let w : BitVec 512 := BitVec.ofNat 512 (bytesToNat (ks.flatMap fun a => s.rdN a 8))
          decide ((w.extractLsb' 0 32 = w.extractLsb' 32 32) ↔ h = 1))
      | _, _ => false) = true ∧
    (match s.tKeys 0 1 (0x8000 + 64) 8 true false 16 with | .ok _ => true | .error _ => false) = true ∧
    (s.vWrite 1 0x8000 8 1).isSome = true := by simp only [State.Chosen]; decide +kernel
theorem witness_TranslationInstructions_bad : (faulted 0 0 3).strand.x.extractLsb' 0 2 = 3 ∧ (faulted 0 4 0).strand.a.toNat % 8 ≠ 0 ∧
    0xF00000000000 ≤ (faulted 0 0xF00000000000 0).strand.a.toNat ∧ (faulted 0 (2 ^ 32) 0).strand.a.extractLsb' 32 32 ≠ 0 := by decide +kernel
/-- Tag 0x1000 of partition 1 holds context 1 of core 0, of task `t`; or a copy. -/
def holding (t : BitVec 32) (op : Bool) : State := (second (.suspended 0x1000) (with_ 0x1000 0)).modPart 1 fun p =>
  { p with held := [(1, some (if op then .op ⟨.copyServe, .copy (moving 4 0) 0⟩ t else .strand 0 1 t))] }
theorem witness_TranslationInstructions_resume : (demo.part 1).heldAt 0x1000 = none ∧
    ((holding 0x1000 false).part 1).heldAt 0x1000 = some (1, .strand 0 1 0x1000) ∧
    ((holding 0x1000 true).part 1).heldAt 0x1000 = some (1, .op ⟨.copyServe, .copy (moving 4 0) 0⟩ 0x1000) ∧
    ((holding 0x1000 false).part 1).taskSlot 0x1000 = some 1 ∧ (holding 0x1000 false).taskDead 1 1 = false ∧
    (((holding 0x1000 false).unhold 1 1).part 1).isSaved 0x1000 = false ∧
    ((holding 0x1000 false).resume 1 ((holding 0x1000 false).strand.a.setWidth 32)).isSome = true ∧
    demo.resume 1 0x1000 = none ∧
    ((pairOf 8 0 8 0 (holding 0x2000 false)).part 1).taskSlot 0x2000 = some 2 ∧ (pairOf 8 0 8 0 (holding 0x2000 false)).taskDead 1 2 = true := by
  decide +kernel
/-- An access of core 1 to address 0x4000 is under way, translated in cycle `c`, and tile 0 holds the page that translated it. -/
def accessing (c : Nat) : State := { mapped (with_ 0x4000 0) with now := 5, later := [(9, ⟨.putDelivery, .put
  ⟨{ demo.issuer with core := 1, cycle := c }, 0x4000, .mem [hbmKey 4 0], [1, 2, 3, 4], 0, [], false, some ⟨.remote 9 0x9000, 0x8000, [5, 6], []⟩, false⟩⟩)] }
theorem witness_TranslationInstructions_busy : ∀ c ∈ [5, 6], let s := accessing c
    let w := s.await ⟨s.strand.next page, false, none, none, none⟩
    let gone (e : TlbEntry) : Bool := decide (e.pid = 1)
    s.Chosen page ∧ w.releasedFor s.issuer = true ∧
    ((∃ x ∈ (w.dropTlb gone).accesses, x.by_.pid = 1 ∧ x.cycle ≤ w.now ∧
      ∃ q ∈ w.pagesOf gone, x.addr.toNat < q.1 + q.2 ∧ q.1 < x.addr.toNat + x.size) ↔ c = 5) := by
  simp only [State.Chosen]; decide +kernel
theorem witness_TranslationInstructions_performed : ∀ e ∈ [((0x4003 : Nat), 1, true), (0x4004, 1, false), (0, 0x4000, false), (0x8001, 4, true), (0x8002, 4, false)],
    let q : Req := ⟨demo.issuer, .performed 5 [(e.1, e.2.1)], 0x4000, 0⟩
    let s : State := { (accessing 5).setCtx 0 0 { strandNow with mode := .waitLoad, await := some ⟨0x1004, false, none, none, none⟩ } with arg := .req q }
    s.arg = .req q ∧ s.awaits q.by_ = true ∧ q ∉ s.queueAt q.by_.pid (handleSlot (q.a.setWidth 32)) ∧
    ((∃ x ∈ s.accesses, x.by_.pid = 1 ∧ x.cycle ≤ 5 ∧ x.addr.toNat < e.1 + e.2.1 ∧ e.1 < x.addr.toNat + x.size) ↔ e.2.2 = true) := by decide +kernel
theorem witness_TranslationInstructions_accesses :
    let m : PutMsg := ⟨demo.issuer, 0x4000, .mem [hbmKey 4 0], [1, 2, 3, 4], 0, [], false, some ⟨.remote 9 0x9000, 0x8000, [5, 6], []⟩, false⟩
    let s : State := { demo with agenda := [⟨.putDelivery, .put m⟩] }
    ⟨.putDelivery, .put m⟩ ∈ s.agenda ∧ m.rest.isSome = true ∧ anyPage ∈ ((mapped demo).tile 0).tlb := by decide +kernel
/-- The header `h` of a fault queue at 0x8000 of partition 1. -/
def queueHead (h : List (Nat × Nat × Nat)) : State :=
  let s := faulted 0 0x8000 0
  (s.vWrite 1 0x8000 8 (mkRecord h)).getD s
theorem witness_TranslationInstructions_headers : ∀ e ∈ [([(32, 32, 1), (192, 4, 2)], false), ([(32, 32, 1), (192, 4, 12)], false),
      ([(32, 32, 1), (192, 4, 1)], true), ([(32, 32, 1), (192, 4, 13)], true), ([(32, 32, 1), (192, 4, 2), (196, 28, 1)], true),
      ([(32, 32, 1), (192, 4, 2), (64, 64, 1)], true), ([(32, 32, 1), (192, 4, 2), (511, 1, 1)], true), ([(192, 4, 2)], true)],
    let s := queueHead e.1
    (match s.tKeys 0 1 0x8000 8 true true 8, s.tKeys 0 1 0x8000 8 true false 8 with
      | .ok ks, .ok ls => decide (ks = ls) && (let h : BitVec 512 := BitVec.ofNat 512 (bytesToNat (ks.flatMap fun a => s.rdN a 8))
          let n := (h.extractLsb' 192 4).toNat
          decide ((h.extractLsb' 256 256 ≠ 0 ∨ h.extractLsb' 196 28 ≠ 0 ∨ h.extractLsb' 64 64 ≠ 0 ∨ n < 2 ∨ 12 < n ∨
            h.extractLsb' 0 32 = h.extractLsb' 32 32) ↔ e.2 = true))
      | _, _ => false) = true := by decide +kernel
theorem witness_TranslationInstructions_missing : let s : State := { faulted 0 0x8000 0 with mem := [] }
    (match s.tKeys 0 1 0x8000 8 true true 8, s.tKeys 0 1 0x8000 8 true false 8 with | .error _, .error _ => true | _, _ => false) = true := by decide +kernel
/-- A hand-over of stack 3 at a step, issued by core 0. -/
def passing (step : Nat) (s : State := demo) : State :=
  { s with board := { s.board with handovers := [⟨3, true, step, demo.issuer, 15, 0, false, false, []⟩] }, arg := .num 3 0 0 0 }
/-- The machine without the system right. -/
def unright : State := demo.modPart 1 fun p => { p with record := setField p.record 18 1 0 }
theorem witness_PlacementInstructions : demo.Chosen page ∧ (demo.part (demo.pidOf demo.me)).record.getLsbD 18 = true ∧
    (unright.part (unright.pidOf unright.me)).record.getLsbD 18 = false ∧ (∃ h ∈ (passing 2).board.handovers, h.stack = 3) ∧
    ¬(∃ h ∈ (passing 2).board.handovers, h.stack = 7) ∧ demo.ownerOf 7 = 7 / 2 ∧
    ¬((∀ j < 4, demo.isRetired (unitCluster (4 * 0 + j)) = true) ∨ demo.isRetired (unitLink (7 / 2)) = true ∨
      demo.isRetired (unitStack 7) = true) := by simp only [State.Chosen]; decide +kernel
theorem witness_PlacementInstructions_busy : let q (op : ReqOp) : Req := ⟨demo.issuer, op, 0x80, 0x80⟩
    (∀ op ∈ [ReqOp.rgnwr 3, .written 0], let s : State := { demo with later := [(9, ⟨.loadReply, .req (q op)⟩)] }
      (⟨.loadReply, .req (q op)⟩ : Due) ∈ s.steps ∧ (0x80 : Word64).getLsbD 7 = true) ∧
    (demo.modMgmt fun m => { m with down := true }).mgmt.down = true ∧ demo.mgmt.down = false := by decide +kernel
/-- The machine with one unit retired. -/
def without (u : Nat) (s : State := demo) : State := { s with mgmt := { s.mgmt with retired := [(u, true)] } }
theorem witness_PlacementInstructions_retired : (without (unitStack 7)).isRetired (unitStack 7) = true ∧
    (without (unitLink 3)).isRetired (unitLink 3) = true := by decide +kernel
theorem witness_PlacementInstructions_regions : let a : Word64 := BitVec.ofNat 64 (0xFF + 12 * 2 ^ 8 + 512 * 63 * 2 ^ 32)
    regionOk a = true ∧ regionOk (a + 2 ^ 32) = false ∧ regionOk (BitVec.ofNat 64 (0xFF + 22 * 2 ^ 8)) = false ∧
    regionOk 0 = true ∧ regionOk (2 ^ 8) = false ∧
    ¬(∃ r ∈ demo.board.regions, r.1 ≠ 63 ∧ regionsMeet a r.2 = true) ∧ (∃ r ∈ demo.board.regions, r.1 ≠ 62 ∧ regionsMeet a r.2 = true) ∧
    (∃ j < 8, (∃ h ∈ (passing 2).board.handovers, h.stack = j) ∧ a.getLsbD j = true) := by decide +kernel
theorem witness_PlacementInstructions_released : (inWait demo).releasedFor demo.issuer = true ∧ (inWait (owing demo)).releasedFor (owing demo).issuer = false ∧
    ((inWait demo).writeRegion 62 0).accesses = [] ∧
    (∃ i ∈ ((inWait (owing demo)).writeRegion 62 0).accesses, i.cycle ≤ (owing demo).now ∧ i.dest = .mem [dieKey 0 0x40]) := by decide +kernel
theorem witness_PlacementInstructions_left : ∀ d ∈ [(Dest.mem [hbmKey 4 0], true), (.remote 9 0x9000, false)],
    let s : State := { demo with later := [(9, ⟨.putDelivery, .put ⟨demo.issuer, 0x4000, d.1, [1, 2, 3, 4], 0, [], false, none, false⟩⟩)] }
    (∃ i ∈ s.accesses, i.cycle ≤ 0 ∧ i.dest = d.1) ∧ (match d.1 with | .mem _ => true | _ => false) = d.2 := by decide +kernel
/-- As `pagedWith`, with one region of memory and A = 0x8000. -/
def lay : State := let s := pagedWith [] (with_ 0x8000 0)
    { s with board := { s.board with regions := [(0, 0xCFF)] } }
/-- Every address of the page is translated. -/
theorem lay_vKey (va : Nat) (h : va < 2 ^ 30) : ∃ k, lay.vKey 1 va true false = .ok k := by
  have h0 : levelIndex va 0 = 0 := by simp only [levelIndex, bitsAt]; omega
  have h1 : levelIndex va 1 = 0 := by simp only [levelIndex, bitsAt]; omega
  have hr : lay.region va = 0xCFF := by
    simp only [State.region, Nat.div_eq_of_lt (show va < 2 ^ 33 by omega)]; decide +kernel
  have hp : ∃ k, lay.physKey va = some k := by
    unfold State.physKey
    rw [if_pos (by omega), hr]
    exact ⟨_, if_neg (by decide +kernel)⟩
  obtain ⟨k, hk⟩ := hp
  have e0 : lay.walkFrom 1 va true false 4 0 (lay.part 1).ptroot = lay.walkFrom 1 va true false 3 1 0x11000 := by
    rw [State.walkFrom, h0, show lay.physKey ((lay.part 1).ptroot + 8 * 0) = some 0x2000 by decide +kernel]
    simp only [show lay.rdNat 0x2000 8 = 0x11001 by decide +kernel]
    rw [if_neg (by decide +kernel), if_neg (by decide +kernel), if_pos (by decide +kernel)]
    rfl
  have e1 : lay.walkFrom 1 va true false 3 1 0x11000 = lay.leaf 1 va 1 0x1F true false := by
    rw [State.walkFrom, h1, show lay.physKey (0x11000 + 8 * 0) = some (2 ^ 36 + 0x2000) by decide +kernel]
    simp only [show lay.rdNat (2 ^ 36 + 0x2000) 8 = 0x1F by decide +kernel]
    rw [if_neg (by decide +kernel), if_neg (by decide +kernel), if_neg (by decide +kernel)]
  have e2 : ∃ p : TlbEntry, lay.leaf 1 va 1 0x1F true false = .ok p ∧ p.rem = false ∧ p.phys va = va := by
    unfold State.leaf
    rw [if_neg (by decide +kernel), if_neg (by decide +kernel), if_neg (by decide +kernel), if_neg (by decide +kernel)]
    refine ⟨_, rfl, (show Nat.testBit 31 6 = false by decide), ?_⟩
    simp only [TlbEntry.phys, levelSpan, bitsAt]
    omega
  obtain ⟨p, ep, er, eq⟩ := e2
  refine ⟨k, ?_⟩
  unfold State.vKey State.walk
  rw [if_pos (by omega), e0, e1, ep]
  simp only [er, eq, hk, Bool.false_eq_true, if_false]
theorem lay_vKeys (n va : Nat) (h : va + 8 * n ≤ 2 ^ 30) : ∃ ks, lay.vKeys 1 va 8 true false n = .ok ks := by
  induction n generalizing va with
  | zero => exact ⟨[], rfl⟩
  | succ n ih =>
    obtain ⟨k, hk⟩ := lay_vKey va (by omega)
    obtain ⟨ks, hks⟩ := ih (va + 8) (by omega)
    exact ⟨k :: ks, by rw [State.vKeys, hk]; simp only [hks]⟩
theorem witness_PlacementInstructions_layout : let s := lay
    let get (off n : Nat) : Nat := (s.vRead (s.pidOf s.me) (s.strand.a.toNat + off) (n / 8)).getD 0
    s.Chosen page ∧ s.strand.a.toNat < 0xF00000000000 ∧ s.strand.a.toNat % 64 = 0 ∧ s.board.prepared = none ∧ s.board.switching = 0 ∧
    s.host.mpmode.getLsbD 4 = false ∧ imageSize get = 4160 := by
  simp only [State.Chosen]; decide +kernel
theorem witness_PlacementInstructions_keys : ∃ ks, lay.vKeys (lay.pidOf lay.me) lay.strand.a.toNat 8 true false (4160 / 8) = .ok ks := by
  rw [show lay.pidOf lay.me = 1 by decide +kernel]
  exact lay_vKeys _ _ (by decide +kernel)
theorem witness_PlacementInstructions_targets : (with_ 0x8020 0).strand.a.toNat % 64 ≠ 0 ∧
    demo.targetBad 1 demo.pod.pkgn.toNat 0 = false ∧ demo.targetBad 1 demo.pod.pkgn.toNat 1 = true := by decide +kernel

/-- A layout is prepared, in hardware mode or with the host deciding, and core 8 of the partition is no target for tile 0. -/
def preparing (assisted : Bool) : State := (onBoard (fun b => { b with prepared := some Layout.empty })).modHost fun h =>
  { h with mpmode := if assisted then 16 else 0 }
theorem witness_PlacementInstructions_commit : ∀ b : Bool, let s := preparing b
    s.board.prepared = some Layout.empty ∧ s.host.mpmode.getLsbD 4 = b ∧ (inWait s).answers 4 ⟨.loadReply, .req ⟨s.issuer, .layout 1, 0, 0⟩⟩ = [] ∧
    s.targetBad 1 0 0x80000080 = false ∧ s.targetBarred 0 1 0 0x80000080 = false ∧
    (s.modPart 1 fun p => { p with perm := [] }).targetBarred 0 1 0 0x80000080 = true := by decide +kernel
/-- The strand's PLCMT waits, and the host has answered it. -/
def layoutAnswered (what st : Nat) : State :=
  let s := machine { strandNow with mode := .waitLoad, a := 0x8000, await := some ⟨0x1004, false, none, none, none⟩ }
  let q : Req := ⟨s.issuer, .layout what, 0x8000, 0⟩
  { s with arg := .req q, host := { s.host with mpmode := 16, assisted := [⟨3, 4, ⟨.loadReply, .req q⟩, some (BitVec.ofNat 64 (st + 2 ^ 32 * 9))⟩] },
           board := { s.board with prepared := if what = 0 then none else some Layout.empty } }
theorem witness_PlacementInstructions_answered : ∀ what ∈ [0, 1, 2], ∀ st ∈ [0, 2, 4, 5, 6, 255], let s := layoutAnswered what st
    let q : Req := ⟨s.issuer, .layout what, 0x8000, 0⟩
    s.arg = .req q ∧ s.awaits q.by_ = true ∧ q ∉ s.queueAt q.by_.pid (handleSlot (q.a.setWidth 32)) ∧ what < 3 ∧
    s.host.mpmode.getLsbD 4 = true ∧ s.answers 4 ⟨.loadReply, .req q⟩ = BitVec.ofNat 64 (st + 2 ^ 32 * 9) :: [] ∧
    (what = 0 → s.board.prepared = none ∧ s.board.switching = 0 ∧ s.mgmt.down = false) ∧
    (what ≠ 0 → s.board.prepared ≠ none ∧ s.mgmt.down = false) ∧
    (BitVec.ofNat 64 (st + 2 ^ 32 * 9)).toNat % 256 = st := by decide +kernel
theorem witness_PlacementInstructions_images : ({ State.reset with now := 1 } : State).parts = [] ∧ State.reset.board.prepared = none ∧
    State.reset.board.switching = 0 ∧ State.reset.mgmt.down = false := by decide +kernel
theorem witness_SystemSteps_walk : (match lay.walk (lay.pidOf 0) 0x8000 true false with | .ok _ => true | .error _ => false) = true ∧
    (let s := pagedWith [] (machine { strandNow with mode := .waitLoad })
     (match s.walk (s.pidOf 0) (2 ^ 30) true false with | .ok _ => false | .error d => decide (d = 0x01)) = true ∧
     (s.ctx 0 0).mode = .waitLoad ∧ s.fetching 0 0 (2 ^ 30) = false) := by decide +kernel
theorem witness_SystemSteps_queue : let walk : Due := ⟨.pageWalk, .fetch 0 0 0x8000 true false⟩
    ({ demo with agenda := List.replicate 1087 walk } : State).walking (dieOf (0 / 8)) < 1088 ∧
    1088 ≤ ({ demo with agenda := List.replicate 1088 walk } : State).walking (dieOf (0 / 8)) ∧
    ({ demo with arg := .num 0 0 0x8000 1 } : State).arg = .num 0 0 (0x8000 : Addr).toNat (true.toNat + 2 * false.toNat) := by
  decide +kernel
theorem witness_SystemSteps_found : let s := (mapped (machine { strandNow with mode := .waitLoad }))
    ((s.tile 0).lookup 1 0x8000 = some anyPage ∧ anyPage.wr = true ∧ anyPage.rd = true ∧ (s.ctx 0 0).mode = .waitLoad) ∧
    anyPage ∈ (s.tile 0).tlb ∧ anyPage ∉ (demo.tile 0).tlb ∧ (demo.tile 0).tlb.length < 256 ∧ (demo.tile 0).lookup 1 0x8000 = none ∧
    (∀ b : Bool, let p := { anyPage with wr := b, rd := !b }
      ((demo.modTile 0 fun x => { x with tlb := [p] }).tile 0).lookup 1 0x8000 = some p) := by decide +kernel
theorem witness_SystemSteps_sequence : let s := sequence 1 1 demo
    let d (s : State) (va : Nat) : Nat := s.dirEntry (s.part 1) (s.seq 1 1) (va % 2 ^ 30 / 2 ^ 16)
    (demo.part 1).seqAt 0x8000 = none ∧ (s.part 1).seqAt 0x8000 = some (s.seq 1 1) ∧ (d s 0x8000).testBit 31 = true ∧
    (d s 0x8000).testBit 30 = false ∧ (d s 0x10000).testBit 31 = false ∧
    (d (s.wrNat ((s.physKey 0x1000000).getD 0) 4 (2 ^ 31 + 2 ^ 30 + 1)) 0x8000).testBit 30 = true := by decide +kernel
/-- A machine with one region, whose table at 0 begins with the entry `e`. -/
def entryAt (e : Nat) : State := ({ lay with mem := [] } : State).wrNat 0 8 e
/-- The clause of the walk that an entry falls under at a level, for a write (`wr`) or a read. -/
def walkClause (e : Nat) (lvl : Nat) (wr : Bool) : Nat :=
  let s := entryAt e
  let e : Word64 := BitVec.ofNat 64 (s.rdNat 0 8)
  if s.physKey (0 + 8 * levelIndex 0 lvl) ≠ some 0 then 9
  else if e.getLsbD 0 = false then 1
  else if entryMalformed s.pod.pkgn.toNat lvl e.toNat = true then 4
  else if e.getLsbD 1 = false then 0
  else if wr = true ∧ e.getLsbD 3 = false then 2
  else if wr = false ∧ e.getLsbD 2 = false then 3
  else if e.getLsbD 5 = false ∧ (e.getLsbD 6 = true ∨ s.physKey ((e.extractLsb' 8 40).toNat * 256) ≠ none) then 5 else 8
theorem witness_SystemSteps_entries : walkClause 0 0 false = 1 ∧ walkClause 0x81 1 false = 4 ∧ walkClause 3 0 false = 4 ∧
    walkClause 0x1001 0 false = 0 ∧ walkClause 7 1 true = 2 ∧ walkClause 0xB 3 false = 3 ∧ walkClause 0xF 1 true = 5 ∧
    walkClause (0x4F + 2 ^ 48) 2 false = 5 := by decide +kernel
/-- Task 1 is being stopped; its strand waits at a barrier, or runs. -/
def stoppingTask (stop waits : Bool) : State :=
  inStep 1 1 (s := (machine { strandNow with mode := if waits then .waitSync (.barrier .tile 0) else .running }).modTask 1 1
    fun t => { t with stopping := stop })
theorem witness_SystemSteps_save : (stoppingTask false true).arg = .num 1 1 0 0 ∧ ((stoppingTask false true).task 1 1).stopping = false ∧
    ((stoppingTask true true).task 1 1).stopping = true ∧ (stoppingTask true true).boundary 1 1 = true ∧
    (stoppingTask true false).boundary 1 1 = false := by decide +kernel
theorem witness_SystemSteps_saveOk : (stoppingTask true true).Ok := ok_of_formOk _ (by decide +kernel)
/-- Task 2 is saved, on its logical tile `l`. -/
def savedTask (l : Nat) : State := inStep 1 2 (s := demo.modPart 1 fun p => { p with tasks := p.tasks ++
  [(2, { Task.absent with tiles := [l], saved := true })] })
theorem witness_SystemSteps_restore : (savedTask 1).arg = .num 1 2 0 0 ∧ 2 ∈ (savedTask 1).restorable 1 ∧
    2 ∉ (savedTask 0).restorable 1 := by decide +kernel
/-- Tile 1 of partition 1 is lent to partition 2, whose task 1 runs on it if `busy`; its owner may want it back, for the
READY task 2 if `ready`. -/
def lentTile (want ready busy : Bool) : State :=
  let s := if ready then placing 1 else demo
  let s := s.modTile 1 fun x => { x with pid := 2, wanted := want, tcb := if busy then 0x1000 else 0 }
  inStep 1 1 (s := { s with board := { s.board with layout := ⟨0, 1, 0, [], [(0, 1), (1, 0x200010001)], []⟩ },
                            parts := Tab.set Part.absent s.parts 2 partNow })
theorem witness_SystemSteps_reclaim :
    let wanted (s : State) : Prop := ((s.tileEntry 1).extractLsb' 0 16).toNat = 1 ∧ (s.tileEntry 1).extractLsb' 32 16 ≠ 0 ∧
      (s.tile 1).wanted = true ∧ s.tileRetired 1 = false
    ¬wanted (lentTile false true true) ∧
    (wanted (lentTile true false false) ∧ (lentTile true false false).readyTasks 1 = [] ∧
      ((lentTile true false false).part ((lentTile true false false).tile 1).pid).taskSlot ((lentTile true false false).tile 1).tcb = none) ∧
    (wanted (lentTile true true false) ∧ (lentTile true true false).readyTasks 1 ≠ [] ∧ (lentTile true true false).tileFree 1 = true) ∧
    (wanted (lentTile true true true) ∧ (lentTile true true true).tileFree 1 = false ∧
      ((lentTile true true true).part ((lentTile true true true).tile 1).pid).taskSlot ((lentTile true true true).tile 1).tcb = some 1) := by
  decide +kernel
/-- A switch to an empty layout is under way at a step, and moves the partitions `l`. -/
def switching (k : Nat) (l : List Nat) (s : State := demo) : State :=
  inStep 0 (s := { s with board := { s.board with next := some ⟨0, 2, 0, [], [], []⟩, switching := k, moved := l } })
theorem witness_SystemSteps_switch :
    let busy (s : State) := s.board.moved.flatMap fun pid => (s.part pid).placed.map fun t => (pid, t)
    busy (switching 1 [1]) ≠ [] ∧ busy (switching 1 [2]) = [] ∧ (switching 2 []).board.switching = 2 ∧ (switching 4 []).board.switching = 4 ∧
    (inStep 1 (s := switching 2 [])).arg = .num (0 + 1) 0 0 0 ∧ (switching 3 []).arg = .num 0 0 0 0 ∧
    (∀ pid ∈ (switching 3 [1]).board.moved, (switching 3 [1]).hasTraffic pid = false) ∧
    (∃ pid ∈ (switching 3 [1] (posted 1)).board.moved, (switching 3 [1] (posted 1)).hasTraffic pid = true) := by decide +kernel
/-- The injection of the partitions `l` is held while a bank drains. -/
def drained (l : List Nat) (s : State := switching 3 [1]) : State := s.modBoard fun b => { b with draining := l }
theorem witness_SystemSteps_banks :
    (∀ routes ∈ [0, 1], ∀ held ∈ [0, 1], let s := inStep routes held (s := switching 3 [1])
      s.arg = .num routes held 0 0 ∧ s.board.next = some ⟨0, 2, 0, [], [], []⟩ ∧ s.board.switching = 3 ∧ s.mgmt.down = false ∧ s.board.draining = []) ∧
    (drained [1]).board.draining ≠ [] ∧ (∀ pid ∈ (drained [1]).board.draining, (drained [1]).hasTraffic pid = false) ∧
    (∃ pid ∈ (drained [1] (posted 1)).board.draining, (drained [1] (posted 1)).hasTraffic pid = true) ∧
    ((switching 3 []).modMgmt fun m => { m with down := true }).mgmt.down = true ∧ (switching 2 []).board.switching ≠ 3 := by decide +kernel
theorem witness_SystemSteps_restores : (∀ e ∈ (switching 5 []).partList, (switching 5 []).restorable e.1 = []) ∧
    (∃ e ∈ (switching 5 [] (kept 1)).partList, (switching 5 [] (kept 1)).restorable e.1 ≠ []) := by decide +kernel
theorem witness_SystemSteps_handover : ∀ k ∈ [0, 2, 3, 6, 8], let s := passing k
    let h : HandOver := ⟨3, true, k, demo.issuer, 15, 0, false, false, []⟩
    s.arg = .num h.stack 0 0 0 ∧ s.board.handovers.find? (fun x => decide (x.stack = h.stack)) = some h ∧ h.assisted = false ∧
    s.host.assisted = [] ∧ Tab.wf false s.board.owners = true ∧ s.acceptedFor h.stack h.since = false := by decide +kernel
theorem witness_SystemSteps_assisted : let h : HandOver := ⟨3, true, 5, demo.issuer, 15, 0, true, true, [⟨.eventPost, .none⟩]⟩
    let s := (passing 5).modBoard fun b => { b with handovers := [h] }
    let step : Due := .num .handoverStep h.stack
    let asked (a : Option Word64) : State := s.modHost fun b => { b with assisted := [⟨0, 3, step, a⟩] }
    s.board.handovers.find? (fun x => decide (x.stack = h.stack)) = some h ∧ h.assisted = true ∧ s.answers 3 step = [] ∧
    (∀ a ∈ s.host.assisted, a.due ≠ step) ∧ (∃ a ∈ (asked none).host.assisted, a.due = step) ∧ (asked none).answers 3 step = [] ∧
    (asked (some 0)).answers 3 step ≠ [] ∧ Tab.wf Tile.idle s.tiles = true := by decide +kernel
theorem witness_SystemSteps_accepted : ({ passing 3 with
    agenda := [⟨.putDelivery, .put ⟨demo.issuer, 0, .mem [hbmKey 3 0], [1], 0, [], false, none, false⟩⟩] } : State).acceptedFor 3 0 = true := by decide +kernel
theorem witness_SystemSteps_reset : let s := inStep 1
    let halted (s : State) := (((s.modPart 1 fun p => { p with discarding := true }).haltPart 1).dropTraffic 1)
    let quiet (s : State) : Prop := ∀ t ∈ s.tilesIn 1, (halted s).tileQuiet t = true
    s.arg = .num 1 0 0 0 ∧ ((inStep 2).part 2).record = 0 ∧ (s.part 1).record ≠ 0 ∧ quiet s ∧ Tab.wf Part.absent s.parts = true ∧
    (s.part 1).discarding = false ∧ ¬quiet (s.modTile 0 fun x => { x with arrays := [clearing false] }) := by decide +kernel
theorem witness_SystemSteps_resetOk : (inStep 1).Ok := ok_of_formOk _ (by decide +kernel)
theorem witness_SystemSteps_drain : let s (t : State) := t.modPart 1 fun p => { p with discarding := true }
    ((s demo).part 1).discarding = true ∧ (s demo).hasTraffic 1 = false ∧ (s (posted 1)).hasTraffic 1 = true := by decide +kernel
/-- A record of partition 1 waits in the buffer of die 0; its trace ring at 0x8000 has 16 records, HEAD 0 and TAIL `n`. -/
def tracing (n : Nat) : State :=
  let s := pagedWith [] demo
  let s := s.modPart 1 fun p => { p with record := setField p.record 704 48 0x8000 }
  let s := { s with board := { s.board with traces := [(0, [(1, 5)])] } }
  inStep 0 (s := (s.vWrite 1 0x8000 8 (n * 2 ^ 96 + 4 * 2 ^ 192)).getD s)
theorem witness_SystemSteps_trace : ∀ n ∈ [3, 15, 16], let s := tracing n
    let u := s.modBoard fun b => { b with traces := Tab.set [] b.traces 0 [] }
    s.arg = .num 0 0 0 0 ∧ Tab.get [] s.board.traces 0 = (1, 5) :: [] ∧
    s.arbitrate (Tab.get Arbiter.idle s.board.arbiters 0) ((Tab.get [] s.board.traces 0).map Prod.fst).eraseDups = some 1 ∧
    (Tab.get [] s.board.traces 0).find? (fun e => decide (e.1 = 1)) = some (1, 5) ∧
    ({ s with mem := [] } : State).traceHeader 1 = none ∧ (demo.part 1).slb = 0 ∧ (s.part 1).slb = 0x8000 ∧ (s.part 1).untraced = false ∧
    (match u.traceHeader 1 with
      | some h =>
        let tail := h / 2 ^ 96 % 2 ^ 32
        decide (tail = n ∧ h / 2 ^ 64 % 2 ^ 32 = 0 ∧ 2 ^ (h / 2 ^ 192 % 16) = 16) &&
        match u.vWrite 1 (0x8000 + 64 + 32 * (tail % 16)) 4 5 with
        | some v => (v.vWrite 1 0x8000 8 (putBits 96 32 (tail + 1) h)).isSome
        | none => false
      | none => false) = true := by decide +kernel

theorem witness_SystemSteps_directory : let s := sequence 1 1 demo
    let d (x : Nat) : Nat := (s.wrNat ((s.physKey 0x1000000).getD 0) 4 (2 ^ 31 + x)).dirEntry (s.part 1) (s.seq 1 1) (0x8000 % 2 ^ 30 / 2 ^ 16)
    (∀ x ∈ [2 ^ 24, 2 ^ 29], (d x).testBit 31 = true ∧ d x / 2 ^ 24 % 2 ^ 6 ≠ 0) ∧
    (∀ x ∈ [2 ^ 24 - 1, 2 ^ 30 + 1], (d x).testBit 31 = true ∧ d x / 2 ^ 24 % 2 ^ 6 = 0) := by decide +kernel
/-- The save record of logical tile 1 of `savedTask 1` at address 0x8000 less 0x640000, with the bytes of `v` at its header. -/
def recorded (v : Nat) : State :=
  let s := pagedWith [] (savedTask 1)
  let s := s.modPart 1 fun p => { p with record := setField p.record 512 48 (2 ^ 21) }
  s.savePut 1 1 0x640000 (natToBytes 8 v)
theorem witness_SystemSteps_records : (∀ n ∈ [10, 31], (recorded (2 ^ n)).saveBad 1 1 = true) ∧
    (savedTask 1).saveBad 1 1 = false ∧ (recorded 0).arg = .num 1 2 0 0 ∧ 2 ∈ (recorded 0).restorable 1 ∧
    ((recorded 0).task 1 2).tiles = [1] := by decide +kernel
/-- The link from die 3 to die 0 is retired, and partition 2 is to come with the next layout. -/
def rerouted : State := without (unitLink 3) ((switching 3 [1]).modBoard fun b => { b with
  next := some ⟨0, 2, 0, [BitVec.ofNat 1024 2], [], []⟩ })
theorem witness_SystemSteps_routes : Tab.wf 0 rerouted.board.banks = true ∧ (∃ e ∈ rerouted.partList, e.1 = 1) ∧ ¬(∃ e ∈ rerouted.partList, e.1 = 2) ∧
    (∃ i < (0 + 4 - 3) % 4, rerouted.isRetired (unitLink ((3 + i) % 4)) = true) ∧
    ¬(∃ i < (3 + 4 - 0) % 4, rerouted.isRetired (unitLink ((0 + i) % 4)) = true) ∧
    (let h := rerouted.holdInjection []
     (∃ x < 4, ∃ y < 4, Tab.get 0 h.board.banks (bankKey true 1 x y) ≠ Tab.get 0 h.board.banks (bankKey false 1 x y)) ∧
     h.board.draining = [1]) ∧ ((switching 3 []).holdInjection []).board.draining = [] := by decide +kernel
/-- An instance of width 2 on the router of tile 1, which the layout to come takes from partition 1; the host's answers `l`. -/
def leaving (assist : Bool) (l : List (Option Word64)) : State :=
  let s := (switching 3 [1]).modPart 1 fun p => { p with insts := [(0, ⟨instHeader 1 1 1 1 false 0x1000, [], []⟩)] }
  let s := s.modBoard fun b => { b with next := some ⟨0, 2, 0, [partNow.record], [(0, 1)], []⟩ }
  inStep 0 1 (s := s.modHost fun h => { h with
    mpmode := if assist then 4 else 0
    assisted := l.map fun a => ⟨0, 2, .num .bankSwap 0 1, a⟩ })
/-- The layout to which `leaving` switches. -/
def left : Layout := ⟨0, 2, 0, [partNow.record], [(0, 1)], []⟩
theorem witness_SystemSteps_places : let asked (s : State) := s.placesToAsk left (.num .bankSwap 0 1)
    (leaving true []).board.next = some left ∧ asked (leaving false []) = none ∧ asked (leaving true []) = some (0, 1, 1) ∧
    asked (leaving true [some (BitVec.ofNat 64 (2 ^ 12))]) = none ∧ asked (leaving true [some 8]) = some (1, 1, 1) ∧
    (∃ a ∈ (leaving true [none]).host.assisted, a.due = .num .bankSwap 0 1 ∧ a.answer = none) ∧ asked (leaving true [none]) = some (0, 1, 1) ∧
    (∀ pid ∈ (leaving true []).board.draining, (leaving true []).hasTraffic pid = false) := by decide +kernel
/-- Partition 1 has 32 tiles or, with `n` = 2, two; its large pool exists and has no routers, and the host has given the answers `l`. -/
def pooling (n : Nat) (assist : Bool) (l : List (Option Word64)) : State :=
  let s := (demo.makePool 1 0).modBoard fun b => { b with layout := { b.layout with tiles := (List.range n).map fun t => (t, 1 + t * 2 ^ 16) } }
  { s.modHost fun h => { h with mpmode := if assist then 4 else 0, assisted := l.map fun a => ⟨0, 2, poolDue 1 0, a⟩ } with arg := .record 1 0 }
theorem witness_SystemSteps_pools : Tab.wf Part.absent demo.parts = true ∧ ((demo.part 1).inst (2 ^ 20)).live = false ∧
    (let s := pooling 32 true [some (BitVec.ofNat 64 (2 ^ 12)), some 0]
     s.arg = .record 1 0 ∧ ((s.part 1).inst (2 ^ 20)).live = true ∧ ((s.part 1).inst (2 ^ 20)).rstep = 0 ∧
     s.answers 2 ⟨.layoutSwitch, .record 1 0⟩ = BitVec.ofNat 64 (2 ^ 12) :: [0] ∧ s.placeable 1 6 0 1 = true ∧ s.placeable 1 6 0 0 = false ∧
     s.findPlace 1 6 = some (0, 1)) ∧ (pooling 31 true []).findPlace 1 6 = none ∧ (pooling 32 true []).answers 2 (poolDue 1 0) = [] ∧
    (∃ a ∈ (pooling 32 true [none]).host.assisted, a.due = poolDue 1 0) ∧
    (((pooling 32 false []).setPlace 1 (2 ^ 20) (0, 1)).part 1 |>.inst (2 ^ 20)).rstep ≠ 0 := by decide +kernel
/-- Partitions 1, 2 and 3 of classes 1, 0 and 0 with a share of half; their credits in 1,024ths, and the one served last. -/
def sharing : State := { demo with parts := [(1, 1 + 2 ^ 16), (2, 2), (3, 3)].map fun e => (e.1, { Part.absent with
  record := BitVec.ofNat 1024 (e.2 + 512 * 2 ^ 80) }) }
theorem witness_SystemSteps_arbiters :
    (∀ e ∈ [([(1, 1024, 0), (2, 1023, 0), (3, 0, 0)], 1, some 1), ([(1, 1024, 0), (2, 1024, 0), (3, 1024, 0)], 1, some 2),
        ([(1, 1024, 0), (2, 1024, 0), (3, 1024, 0)], 2, some 3), ([(1, 1024, 0), (2, 1024, 0), (3, 1024, 0)], 3, some 2), ([], 1, some 2), ([], 3, some 1)],
      sharing.arbitrate ⟨e.1, e.2.1⟩ [3, 1, 2] = e.2.2) ∧ sharing.arbitrate Arbiter.idle [] = none ∧
    ({ sharing with now := 2 } : State).arbitrate ⟨[], 1⟩ [1] = some 1 ∧
    Arbiter.credit ⟨[(1, 1, 0)], 0⟩ 512 2 1 = 1025 ∧ Arbiter.credit ⟨[], 0⟩ 512 (2 ^ 20) 1 = 512 * 4096 := by decide +kernel

/-! ### Errors, the host block, the pod -/

theorem witness_FaultEvents_planes :
    (let s := inStep 3 1024 (s := onBoard fun b => { b with planes := 7 })
     s.arg = .num 3 1024 0 0 ∧ s.board.planes.getLsbD (3 - 1) = true) ∧
    (inStep 1 (2 ^ 16)).arg = .num 1 (2 ^ 16) 0 0 ∧ (inStep 1).board.planes.getLsbD (1 - 1) = true ∧ (inStep 3).board.planes.getLsbD (3 - 1) = false := by decide +kernel
/-- An error of tile 0; and `n` records wait in the buffer of die 0. -/
def tileError : ErrInfo := ⟨0, 0x01, 1, 0, 0, 1, 0x40⟩
def buffered (n : Nat) (s : State := demo) : State :=
  { s with mgmt := { s.mgmt with errors := [(0, List.replicate n 0)] } }
theorem witness_FaultEvents_records (n : Nat) : let s := buffered n
    (∀ r ∈ Tab.get [] s.mgmt.errors tileError.die, tileError.merges s.now r = false) ∧
    (Tab.get [] s.mgmt.errors tileError.die).length = n := by
  have h : Tab.get [] (buffered n).mgmt.errors tileError.die = List.replicate n 0 := rfl
  simp only [h]
  refine ⟨fun r hr => ?_, List.length_replicate⟩
  rw [List.eq_of_mem_replicate hr, ErrInfo.merges, show decide (field (0 : BitVec 256) 32 8 = 1) = false by decide +kernel]
  simp only [Bool.and_false, Bool.false_and]
theorem tileError_merges : tileError.merges 0 (tileError.record 0) = true := by
  rw [ErrInfo.merges, show field (tileError.record 0) 32 8 = 1 by decide +kernel, show field (tileError.record 0) 40 8 = 1 by decide +kernel,
    show field (tileError.record 0) 48 16 = 0 by decide +kernel, decide_eq_true (Nat.zero_le _)]
  decide
theorem witness_FaultEvents_merges : let r := tileError.record 0
    (∃ e ∈ Tab.get [] [(0, [r])] tileError.die, tileError.merges 0 e = true) ∧ demo.now = 0 ∧ demo.mgmt.posted = [] ∧
    ¬(∃ e ∈ Tab.get [] demo.mgmt.errors tileError.die, tileError.merges 0 e = true) ∧
    [(hostKey 0x20, r)].find? (fun e => tileError.merges 0 e.2) = some (hostKey 0x20, r) := by
  refine ⟨⟨_, List.mem_singleton.2 rfl, tileError_merges⟩, by decide +kernel, by decide +kernel, ?_, ?_⟩
  · rw [show Tab.get [] demo.mgmt.errors tileError.die = [] from rfl]; simp
  · rw [List.find?_cons_of_pos (by exact tileError_merges)]
theorem witness_FaultEvents_scrub : ∀ f ∈ [0, 1, 2], let s := inStep (scratchKey 0 0x1FFFFF) f
    s.arg = .num (scratchKey 0 0x1FFFFF) f 0 0 ∧ ¬(2 ^ 40 ≤ scratchKey 0 0x1FFFFF ∧ scratchKey 0 0x1FFFFF < 2 ^ 48) ∧
    s.poisonIn (scratchKey 0 0x1FFFFF) 1 = none ∧ Tab.wf false s.poison = true ∧
    (s.poisonAt (scratchKey 0 0x1FFFFF) 1).poisonIn (scratchKey 0 0x1FFFFF) 1 ≠ none := by decide +kernel
theorem witness_FaultEvents_others : (∀ f ∈ [1, 2], (inStep (2 ^ 40) f).arg = .num (2 ^ 40) f 0 0 ∧ (inStep 5 f 0 1).arg = .num 5 f 0 1) ∧
    2 ^ 40 ≤ 2 ^ 48 - 1 ∧ demo.cxlPort 0 = some 0 ∧ hbmKey 7 0 < 2 ^ 39 ∧ 2 ^ 48 ≤ scratchKey 0 0 ∧ scratchKey 511 0x1FFFFF < 2 ^ 50 := by decide +kernel
theorem witness_FaultEvents_links : (inStep 0 3).arg = .num 0 3 0 0 ∧ (inStep 1 7).isRetired (unitCxl 7) = false ∧
    (without (unitLink 3)).isRetired (unitLink 3) = true ∧ (inStep 2 15).isRetired (unitJorrin 15) = false ∧
    demo.host.mpmode.getLsbD 5 = false ∧ demo.host.assisted = [] ∧ Tab.wf 0 demo.mgmt.windows = true ∧
    ((Tab.get 0 demo.mgmt.windows 0).extractLsb' 32 16 - BitVec.ofNat 16 0).toNat ≤ 0 := by decide +kernel
/-- The window of channel 3, with S, R, F and K, and the host that decides. -/
def window (k : Nat) (stopped assist : Bool) : State :=
  let s := inStep 3 4 5 0x10001 (s := demo.modHost fun h => { h with mpmode := if assist then 32 else 0 })
  s.modMgmt fun m => { m with windows := [(3, BitVec.ofNat 64 (mkRecord [(0, 16, k), (16, 16, 4), (32, 16, 6), (48, 16, 5)]))],
                              stopped := if stopped then [(3, true)] else [] }
theorem witness_FaultEvents_windows : ∀ stopped assist : Bool, ∀ k ∈ [2, 7], let s := window k stopped assist
    let w := Tab.get 0 s.mgmt.windows 3
    s.arg = .num 3 4 5 0x10001 ∧ Tab.wf 0 s.mgmt.windows = true ∧ s.host.mpmode.getLsbD 5 = assist ∧
    s.answers 5 (.num .sendWindowAudit 3 4 5) = [] ∧ Tab.get false s.mgmt.stopped 3 = stopped ∧
    (let n := if stopped then 0 else min 1 ((w.extractLsb' 0 16).toNat + 1)
     BitVec.ofNat 16 ((w.extractLsb' 0 16).toNat + 1 - n) = (4 : BitVec 16) - (w.extractLsb' 32 16 + BitVec.ofNat 16 n - 5) ↔
      k = 2) := by decide +kernel
theorem witness_FaultEvents_stacks : (inStep 3 63).arg = .num 3 63 0 0 ∧ (without (unitStack 3)).isRetired (unitStack 3) = true ∧
    demo.isRetired (unitStack 3) = false ∧ ¬(∃ j < 33, demo.isRetired (unitChannel 3 j) = true) ∧
    (∃ j < 33, (without (unitChannel 3 32)).isRetired (unitChannel 3 j) = true) ∧ (∃ h ∈ (passing 2).board.handovers, h.stack = 3) ∧
    (∀ h ∈ demo.board.handovers, h.stack ≠ 3) ∧ Tab.wf 0 demo.board.regions = true ∧ Tab.wf false demo.mgmt.retired = true := by
  decide +kernel
theorem witness_FaultEvents_clusters : (inStep 0).arg = .num 0 0 0 0 ∧ (without (unitCluster 0)).isRetired (unitCluster 0) = true ∧
    demo.isRetired (unitCluster 0) = false ∧ Tab.wf false demo.mgmt.retired = true ∧ (switching 1 []).board.switching ≠ 0 ∧
    demo.board.switching = 0 := by decide +kernel
theorem witness_FaultEvents_watchdog : let late (n : Nat) : State := { demo with now := n }
    (late 9399999).now < (late 9399999).mgmt.watchdog + 9400000 ∧ (late 9400000).mgmt.watchdog + 9400000 ≤ (late 9400000).now := by
  decide +kernel
/-- The management processor is being reset; its journal ends with a record of the kind `k`, of a layout or of step 5 of a hand-over
of stack 3; a switch is at a step. -/
def restarting (k sw : Nat) : State :=
  let s := inStep 1 (s := passing 7)
  let s := s.modBoard fun b => { b with next := some Layout.empty, switching := sw, prepared := some Layout.empty }
  (s.journal k 0 (3 + 5 * 2 ^ 8)).modMgmt fun m => { m with down := true }
theorem witness_FaultEvents_restart : ∀ k ∈ [1, 2, 3, 4, 5, 16], ∀ sw ∈ [3, 4], let s := restarting k sw
    s.arg = .num 1 0 0 0 ∧ s.mgmt.down = true ∧ s.board.next.isSome = true ∧ s.board.switching = sw ∧
    (s.mgmt.journal.all crcHolds) = true ∧ (s.mgmt.lastRecord fun r => decide (recordKind r = k)).isSome = true := by decide +kernel
theorem witness_FaultEvents_images : (inStep 0xFF).arg = .num 0xFF 0 0 0 ∧ demo.mgmt.stored.length < 64 ∧
    (let h := (List.replicate 64 (0 : Byte)).take 64
     64 ≤ h.length ∧ bytesToNat h / 2 ^ 32 % 2 ^ 32 = 0 ∧ bytesToNat h / 2 ^ 96 % 2 ^ 416 = 0 ∧ demo.mgmt.fuse.toNat ≤ bytesToNat h % 2 ^ 32) := by
  decide +kernel
/-- Channels 32 · 130 and 32 · 3 hold a packet of flow 7 for router 3; a packet may follow. -/
def escaping (m k waited : Nat) : State := inStep (32 * 130) m k waited
  (s := onBoard fun b => { b with escapes := [(32 * 3, [(7, 3)]), (32 * 130, [(7, 3)])] })
theorem witness_FaultEvents_escapes : (escaping 0 7 63).arg = .num (32 * 130) 0 7 63 ∧
    (∃ e ∈ Tab.get [] (escaping 0 7 63).board.escapes (32 * 130), e.1 = 7 % 2 ^ 32) ∧
    ¬(64 ≤ 63 ∨ ∃ e ∈ Tab.get [] (escaping 0 8 63).board.escapes (32 * 130), e.1 = 8 % 2 ^ 32) ∧
    Tab.get [] (escaping 1 0 0).board.escapes (32 * 130) = (7, 3) :: [] ∧ dieOf 130 ≠ dieOf 3 ∧ clusterOf 34 ≠ clusterOf 3 ∧
    clusterOf 2 = clusterOf 3 ∧ Tab.get [] (escaping 1 0 0).board.escapes 0 = [] := by decide +kernel
theorem witness_FaultEvents_buffers : ∀ f ∈ [1, 2], let c := 1 + 2 ^ 32
    let s := inStep 5 f c 1 (s := posted 1)
    s.arg = .num 5 f c 1 ∧ c % 2 ^ 32 = s.agenda.length ∧ c / 2 ^ 32 = 1 ∧ ¬4 * 1 < 4 ∧ 4 * 1 < 5 := by decide +kernel
theorem witness_FaultEvents_channels : (without (unitChannel 3 63)).isRetired (unitChannel 3 63) = true ∧
    (without (unitChannel 3 63)).isRetired (unitChannel 3 62) = false ∧ (without (unitChannel 3 32)).isRetired (unitChannel 3 31) = false ∧
    (without (unitChannel 3 32)).isRetired (unitStack 3) = false := by decide +kernel
theorem witness_FaultEvents_audits : let s := inStep 3 (2 ^ 16) 0 (s := window 2 true false)
    let w := Tab.get 0 s.mgmt.windows 3
    s.arg = .num 3 (2 ^ 16) 0 0 ∧ Tab.wf 0 s.mgmt.windows = true ∧ s.host.mpmode.getLsbD 5 = false ∧ Tab.get false s.mgmt.stopped 3 = true ∧
    min 1 ((w.extractLsb' 0 16).toNat + 0) = 1 ∧
    ((s.modHost fun h => { h with assisted := [⟨0, 5, .num .sendWindowAudit 3 4 5, some 0⟩] }).answers 5 (.num .sendWindowAudit 3 4 5)) ≠ [] := by
  decide +kernel
theorem witness_FaultEvents_tasks : (inStep 0).Ok ∧ (inStep 0).tasksIn 0 = [(1, 1)] ∧ ((inStep 0).part 1).graphSlot ((inStep 0).task 1 1).graph = some 1 ∧
    (without (unitCluster 0) (inStep 0)).Ok ∧ (without (unitCluster 0) (inStep 0)).tasksIn 0 = [(1, 1)] :=
  ⟨ok_of_formOk _ (by decide +kernel), by decide +kernel, by decide +kernel, ok_of_formOk _ (by decide +kernel), by decide +kernel⟩
theorem witness_FaultEvents_restarts : let s := inStep 3 1 (s := { demo with mgmt := { demo.mgmt with recovery := true } })
    s.arg = .num 3 1 0 0 ∧ s.mgmt.recovery = true ∧ demo.mgmt.recovery = false := by decide +kernel
/-- Queue 7 of partition 1 and an event ring of 16 records, of which `n` are taken. -/
def ringed (n : Nat) (l : List (BitVec 2048)) (s : State := demo) : State :=
  (queued 0 0x8000 0 0 0 s).modHost fun h => { h with eqctl := 0x104, eqtail := BitVec.ofNat 64 n, events := l }
theorem witness_HostEvents_notify : let s := inStep 7 5 1 (s := ringed 0 [])
    s.arg = .num 7 5 1 0 ∧ ((s.queue 7).extractLsb' 112 16).toNat = 1 ∧ Tab.wf 0 s.host.queues = true ∧
    ((s.queue 7).extractLsb' 112 16).toNat ≠ 2 ∧ (inStep 32768).arg = .num 32768 0 0 0 := by decide +kernel
theorem witness_HostEvents_post :
    let size (s : State) := 2 ^ (s.host.eqctl.extractLsb' 0 4).toNat
    let open_ (s : State) : Prop := s.host.eqctl.getLsbD 8 = true ∧ 16 ≤ size s ∧ (s.host.eqtail - s.host.eqhead).toNat < size s
    ¬open_ demo ∧ ¬open_ (ringed 16 []) ∧ (open_ (ringed 15 [9]) ∧ (ringed 15 [9]).host.events = 9 :: []) ∧
    (let s := buffered 1 (ringed 15 [])
     open_ s ∧ s.host.events = [] ∧ 0 < 4 ∧ (∀ j < 0, Tab.get [] s.mgmt.errors j = []) ∧ (Tab.get [] s.mgmt.errors 0).length = 1) ∧
    (∀ d < 4, Tab.get [] (ringed 15 []).mgmt.errors d = []) := by decide +kernel
theorem witness_HostEvents_drops : let s : State := { ringed 15 [9] with mgmt := { demo.mgmt with
      drops := [(1, 3), (2, 4)], posted := [(0x20, 5), (hostKey (256 * 15) + 32, 5)] } }
    (s.mgmt.drops.map Prod.snd).sum = 7 ∧ s.host.events = 9 :: [] ∧
    (s.mgmt.posted.filter fun x => decide (s.now ≤ (x.2.extractLsb' 128 64).toNat + 2 ^ 20) && decide (x.1 ≠ hostKey (0 + 256 * (15 % 16)) + 32)) =
      [(0x20, 5)] := by decide +kernel
theorem witness_HostEvents_registers : ∀ off ∈ [0, 8, 0x10, 0x40 + 8 * 7, 0x80, 0x88], ∃ s : State, s.arg = .value off 1 := by
  intro off _; exact ⟨{ demo with arg := .value off 1 }, rfl⟩
theorem witness_HostEvents_answer : (255 : Nat) < 256 ∧ 2 ^ 32 - 1 < 2 ^ 32 := by decide
/-- The mailbox holds a command record, which has been submitted. -/
def boxed (r : Nat) (s : State := demo) : State :=
  { s.modHost (fun h => { h with mbox := BitVec.ofNat 512 r }) with arg := .cmd 32768 (BitVec.ofNat 512 r) }
theorem witness_HostEvents_recovery : ({ demo with mgmt := { demo.mgmt with recovery := true } } : State).mgmt.recovery = true ∧
    demo.mgmt.recovery = false := by decide +kernel
theorem witness_HostEvents_submitted : (boxed 1).arg = .cmd 32768 (boxed 1).host.mbox ∧ (boxed 1).mgmt.down = false ∧ (boxed 1).mgmt.recovery = false ∧
    ((boxed 1).modMgmt fun m => { m with down := true }).mgmt.down = true := by decide +kernel
theorem witness_HostEvents_kinds : ∀ k ∈ [0, 1, 2, 3, 4, 5, 6, 7, 8, 9, 10, 11, 255], ∀ op ∈ [0, 1, 2, 3],
    let s : State := { boxed (mkRecord [(0, 8, k), (64, 2, op)]) with arg := .value 0x80 1 }
    s.arg = .value 0x80 1 ∧ s.host.busy = false ∧ s.host.mbox.extractLsb' 8 56 = 0 ∧ s.host.mbox.extractLsb' 0 8 = BitVec.ofNat 8 k ∧
    s.host.mbox.extractLsb' 64 2 = BitVec.ofNat 2 op ∧ (boxed 0x100).host.mbox.extractLsb' 8 56 ≠ 0 := by decide +kernel
theorem witness_HostEvents_modes : (boxed 2).board.switching = 0 ∧ (boxed 2 (switching 1 [])).board.switching ≠ 0 ∧
    (boxed 2 (switching 1 [])).arg = .cmd 32768 2 := by decide +kernel
theorem witness_HostEvents_qcfg : ∀ bad open_ emptied : Bool,
    let s := boxed (mkRecord [(0, 8, 1), (64, 16, 7), (128 + 48, 4, if bad then 3 else 4), (128 + 63, 1, 1), (128 + 112, 16, 1)])
      (if open_ then demo else queued 0 0x8000 (if emptied then 0 else 1) 0 0 demo)
    let m := s.host.mbox
    let new := m.extractLsb' 128 128
    let old := s.queue (m.extractLsb' 64 15).toNat
    (new.extractLsb' 52 10 ≠ 0 ∨ new.extractLsb' 64 48 ≠ 0 ∨ new.extractLsb' 0 6 ≠ 0 ∨ (new.extractLsb' 48 4).toNat < 4 ∨
      (new.getLsbD 63 = true ∧ (s.part (new.extractLsb' 112 16).toNat).record = 0) ↔ bad = true) ∧
    ((new.getLsbD 63 = true ∧ old.getLsbD 63 = false) ↔ open_ = true) ∧
    (open_ = false → (old.extractLsb' 160 32 = (if old.getLsbD 62 then old.extractLsb' 64 32 else old.extractLsb' 128 32) ↔ emptied = true)) ∧
    s.queueFits (new.extractLsb' 112 16).toNat = true := by decide +kernel
/-- Partition 2 exists and has reserved every queue but its own 32767. -/
def reserved (n : Nat) (s : State := demo) : State := { s with parts := s.parts ++ [(2, { Part.absent with
  record := BitVec.ofNat 1024 (mkRecord [(0, 16, 2), (48, 16, n)]) })] }
theorem witness_HostEvents_nofit : demo.queueFits 1 = true ∧ (reserved 32768).queueFits 1 = false ∧ (reserved 32767).queueFits 1 = true := by
  decide +kernel
theorem witness_HostEvents_layout : (switching 1 []).board.switching ≠ 0 ∧ demo.board.switching = 0 ∧
    ((boxed (mkRecord [(128, 48, 0x8020)])).host.mbox.extractLsb' 128 48).toNat % 64 ≠ 0 ∧
    ((boxed (mkRecord [(128, 48, 0x8040)])).host.mbox.extractLsb' 128 48).toNat % 64 = 0 ∧ demo.board.prepared = none ∧
    (onBoard fun b => { b with prepared := some Layout.empty }).board.prepared = some Layout.empty := by decide +kernel
/-- The command names the unit with UCLS `c` and UNUM `n`. -/
def naming (c n : Nat) (s : State := demo) : State := boxed (mkRecord [(64, 16, n), (80, 8, c)]) s
theorem witness_HostEvents_units :
    let unit (s : State) := unitOf (s.host.mbox.extractLsb' 80 8).toNat (s.host.mbox.extractLsb' 64 16).toNat
    unit (naming 4 512) = none ∧ unit (naming 4 511) = some (unitStack 7) ∧ unit (naming 5 0x30) = some (unitLink 3) ∧
    unit (naming 5 1) = some (unitLink 3) ∧ unit (naming 5 2) = none ∧ unit (naming 7 511) = some (unitCluster 15) ∧
    unit (naming 0xB 7) = some (unitCxl 7) ∧ unit (naming 0xC 15) = some (unitJorrin 15) ∧ unit (naming 0xC 16) = none ∧
    demo.isRetired (unitStack 7) = false ∧ (without (unitStack 7)).isRetired (unitStack 7) = true ∧
    (without (unitChannel 7 63) (naming 4 511)).isRetired (unitChannel (511 / 64) (511 % 64)) = true ∧
    (∃ h ∈ (passing 2).board.handovers, h.stack = unitStack 3 - 16) ∧ Tab.wf false (without (unitStack 7)).mgmt.retired = true := by
  decide +kernel
/-- A request of function 0 waits for the host, and the command answers it. -/
def assisting (tag : Nat) : State := (boxed (mkRecord [(64, 32, tag)])).modHost fun h =>
  { h with assisted := [⟨3, 0, .num .placementPass 1, none⟩] }
theorem witness_HostEvents_requests : let tag (s : State) := (s.host.mbox.extractLsb' 64 32).toNat
    (assisting 3).host.assisted.find? (fun x => decide (x.tag = tag (assisting 3)) && x.answer.isNone) = some ⟨3, 0, .num .placementPass 1, none⟩ ∧
    (∀ a ∈ (assisting 4).host.assisted, a.tag = tag (assisting 4) → a.answer ≠ none) ∧
    (∃ a ∈ (assisting 3).host.assisted, a.fn < 6 ∧ (assisting 3).host.mbox.getLsbD (64 + 4 + a.fn) = false ∧ a.answer = none) := by decide +kernel
theorem witness_HostEvents_resume : let s := boxed (mkRecord [(64, 16, 1), (96, 32, 0x1000)]) (holding 0x1000 false)
    (s.resume (s.host.mbox.extractLsb' 64 16).toNat (s.host.mbox.extractLsb' 96 32)).isSome = true ∧
    demo.resume (demo.host.mbox.extractLsb' 64 16).toNat (demo.host.mbox.extractLsb' 96 32) = none := by decide +kernel
theorem witness_HostEvents_attest : demo.MemOk ∧ demo.mgmt.leaf.toNat < 2 ^ 20 ∧
    2 ^ 20 ≤ ({ demo with mgmt := { demo.mgmt with leaf := 0x100000 } } : State).mgmt.leaf.toNat := by
  simp only [State.MemOk]; decide +kernel
theorem witness_HostEvents_pod : let n (s : State) : Nat := (s.host.mbox.extractLsb' 80 12).toNat
    n (boxed (mkRecord [(80, 12, 5)])) ≠ demo.pod.pkgn.toNat ∧ n (boxed 10) = demo.pod.pkgn.toNat ∧ (∀ e ∈ demo.partList, e.2.pjob = 0) ∧
    (∃ e ∈ (demo.modPart 1 fun p => { p with record := setField p.record 752 16 9 }).partList, e.2.pjob ≠ 0) := by decide +kernel
theorem witness_HostEvents_image : let s := boxed (mkRecord [(0, 8, 9), (128, 32, 64)])
    let image := s.rdN (hostKey 0) 64
    let header : BitVec 512 := BitVec.ofNat 512 (bytesToNat (image.take 64))
    s.arg = .cmd 32768 s.host.mbox ∧ (s.host.mbox.extractLsb' 128 32).toNat = 64 ∧ 64 ≤ image.length ∧ header.extractLsb' 32 32 = 0 ∧
    header.extractLsb' 96 416 = 0 ∧ s.mgmt.fuse.toNat ≤ (header.extractLsb' 0 32).toNat ∧
    (s.rdN (hostKey 0) 63).length < 64 ∧ (header.extractLsb' 0 32).toNat < ({ s with mgmt := { s.mgmt with fuse := 1 } } : State).mgmt.fuse.toNat := by
  decide +kernel
/-- Partition 1 is a member of pod job 9 of 2 packages. -/
def podNow : State := paged.modPart 1 fun p => { p with record := setField (setField p.record 752 16 9) 768 16 2 }
/-- What package 0x123 asks of virtual address 0x8000 here. -/
def asked : PutMsg := ⟨demo.issuer, 0xF40000000000, .remote 0 0x8000, [1, 2, 3, 4], 0, [], false, none, true⟩
def askedAtom (r : Bool) : AtomMsg := ⟨demo.issuer, 0xF40000000000, .remote 0 0x8000, .add, none, r, 7, 0, false, false⟩
/-- The four requests that it makes. -/
def requests : List PodMsg := [.put 0x123 9 5 asked, .atom 0x123 9 5 (askedAtom true),
  .copyWords 0x123 9 5 (moving 4 0) 0x8000 [1, 2, 3, 4] [], .signal 0x123 9 5 (moving 4 0) 0]
/-- A message has come; `before` says that it has been applied already. -/
def received (m : PodMsg) (before : Bool := false) (s : State := podNow) : State := { s with
  arg := .pod m, pod := { s.pod with applied := if before then [(appliedKey 0x123 9 5, 0)] else [] } }
def keyOf (s : State) (rd : Bool) : Option Nat := (s.vKey 1 0x8000 rd true).toOption
theorem witness_PodEvents_none : demo.podPart 9 = none ∧ podNow.podPart 9 = some 1 ∧ podNow.podPart 8 = none ∧
    (podNow.part 1).discarding = false ∧ 1 ∉ podNow.board.draining := by decide +kernel
theorem witness_PodEvents_refused :
    ((podNow.modPart 1 fun p => { p with discarding := true }).part 1).discarding = true ∧
    (podNow.modPart 1 fun p => { p with discarding := true }).podPart 9 = some 1 ∧
    1 ∈ (onBoard (fun b => { b with draining := [1] }) podNow).board.draining := by decide +kernel
theorem witness_PodEvents_put : ∀ b : Bool, let s := received (.put 0x123 9 5 asked) b
    s.arg = .pod (.put 0x123 9 5 asked) ∧ asked.dest = .remote 0 0x8000 ∧ s.podPart 9 = some 1 ∧
    s.repeated (appliedKey 0x123 9 5) = b ∧ (match s.vKeys 1 0x8000 4 false true 1 with | .ok _ => true | .error _ => false) = true ∧
    (match ({ s with mem := [] } : State).vKeys 1 0x8000 4 false true 1 with | .ok _ => false | .error _ => true) = true := by decide +kernel
theorem witness_PodEvents_atomic : ∀ b : Bool, let a := askedAtom b
    let s := received (.atom 0x123 9 5 a)
    s.arg = .pod (.atom 0x123 9 5 a) ∧ a.dest = .remote 0 0x8000 ∧ s.repeated (appliedKey 0x123 9 5) = false ∧
    (match keyOf s true with
      | some k => decide (k < 2 ^ 39) && (s.poisonIn k (sizeOf' a.ty)).isNone && ((s.poisonAt k 1).poisonIn k (sizeOf' a.ty)).isSome
      | none => false) = true ∧ a.ty = none ∧ a.returning = b ∧ (keyOf { s with mem := [] } true).isNone = true := by decide +kernel
theorem witness_PodEvents_words : ∀ m ∈ requests, let s := received m
    s.arg = .pod m ∧ (keyOf s false).isSome = true ∧ (keyOf { s with mem := [] } false).isNone = true := by decide +kernel
/-- The outbox holds a request to package 0x123 that was sent in cycle 0, and a reply or a time has come. -/
def sent (m : PodMsg) (a : Arg := .none) (delivered : Bool := false) (now : Nat := 0) : State :=
  { podNow with now := now, arg := a, pod := { podNow.pod with outbox := [⟨0x123, 0, delivered, true, m⟩] } }
theorem witness_PodEvents_replies : ∀ m ∈ requests, ∀ r ∈ [PodMsg.performed 9 5 0, .performed 9 5 9, .faulted 9 5, .copied 9 5 4,
      .atomReply 9 5 (some 1) false, .atomReply 9 5 none true], let s := sent m (.pod r)
    s.arg = .pod r ∧ s.pod.outbox = [] ++ ⟨0x123, 0, false, true, m⟩ :: [] ∧ requestTag m = some (9, 5) ∧
    (∀ e ∈ demo.pod.outbox, ¬(e.own = true ∧ requestTag e.msg = some (9, 5))) := by decide +kernel
theorem witness_PodEvents_sends : demo.pod.pkgn.toNat ≠ 0x123 ∧ demo.route 0x123 = [] ∧
    ({ demo with arg := .packet 0x123 (.put 0x123 9 5 asked) } : State).arg = .packet 0x123 (.put 0x123 9 5 asked) := by decide +kernel
theorem witness_PodEvents_delivered : let s := sent (.put 0x123 9 5 asked) (.num 0x123 0 0 0)
    s.arg = .num 0x123 0 0 0 ∧ s.pod.outbox = [] ++ ⟨0x123, 0, false, true, .put 0x123 9 5 asked⟩ :: [] ∧
    (∀ e ∈ (sent (.put 0x123 9 5 asked) (.num 0x123 0 0 0) true).pod.outbox, e.dst = 0x123 → e.delivered = true) := by decide +kernel
theorem witness_PodEvents_replay : (received (.put 0x123 9 5 asked)).arg = .pod (.put 0x123 9 5 asked) ∧
    (received (.atom 0x123 9 5 (askedAtom true))).arg = .pod (.atom 0x123 9 5 (askedAtom true)) ∧ (inStep 15).arg = .num 15 0 0 0 ∧
    asked.dest = .remote 0 0x8000 ∧ (askedAtom true).dest = .remote 0 0x8000 := by decide +kernel
theorem witness_PodEvents_lost : ∀ d : Bool, ∀ n ∈ [0, 2 ^ 24 - 1, 2 ^ 24, 2 ^ 25 - 1, 2 ^ 25],
    let s := sent (.put 0x123 9 5 asked) (.packet 0x123 (.put 0x123 9 5 asked)) d n
    s.arg = .packet 0x123 (.put 0x123 9 5 asked) ∧ s.pod.outbox = [] ++ ⟨0x123, 0, d, true, .put 0x123 9 5 asked⟩ :: [] ∧
    s.now = n ∧ s.route 0x123 = [] ∧ (∀ e ∈ demo.pod.outbox, ¬(e.dst = 0x123 ∧ e.msg = .put 0x123 9 5 asked)) := by decide +kernel
theorem witness_PodEvents_routed :
    ({ podNow with pod := { podNow.pod with routes := [(0x123, 1)] } } : State).route 0x123 ≠ [] := by decide +kernel
/-- PROOT holds what came from the packages `qs`, and a message has come. -/
def rooted (held : List PodMsg) (m : PodMsg) (pmem : Nat := 2) : State :=
  let s := received m false (podNow.modPart 1 fun p => { p with record := setField p.record 768 16 pmem })
  { s with pod := { s.pod with arrivals := held } }
theorem witness_PodEvents_arrivals : ∀ n ∈ [2, 3, 4], let m : PodMsg := .barArrive 1 9 2 0
    let s := rooted ([3, 4].map fun q => .barArrive q 9 2 0) m n
    s.arg = .pod m ∧ s.podPart 9 = some 1 ∧ (s.part 1).pmem = n ∧ s.pod.arrivals = [3, 4].map (fun q => .barArrive q 9 2 0) ∧
    [3, 4].Nodup ∧ 1 ∉ [3, 4] := by decide +kernel
theorem witness_PodEvents_done : (rooted ([3, 4].map fun q => .memberDone q 9 2) (.memberDone 1 9 2) 3).pod.arrivals =
      [3, 4].map (fun q => PodMsg.memberDone q 9 2) ∧ ((rooted [] (.memberDone 1 9 2) 3).part 1).pmem = 3 ∧
    (rooted [] (.memberGone 9 0x123)).arg = .pod (.memberGone 9 0x123) := by decide +kernel
/-- A meeting of task 1 at pod scope. -/
def podMeeting (kind : Nat) (l : List RedArr) : Meeting := ⟨BitVec.ofNat 2 kind, 1, 0x1000, .pod, 0, 0, 3, l⟩
def podArrival : RedArr := { joining 8 3 with scope := .pod }
theorem witness_PodEvents_release : let s : State := { received (.barRelease 9 0 0) with meetings := [podMeeting 0 [podArrival]] }
    s.arg = .pod (.barRelease 9 0 0) ∧ s.meetings = [podMeeting 0 [podArrival]] ∧ s.gangOf 1 (podMeeting 0 []).tcb = 0 := by decide +kernel
theorem witness_PodEvents_sums : ∀ n ∈ [2, 3, 4], let r : RedArr := { podArrival with p := n }
    let here := [(3, r), (4, r)]
    let s := rooted (here.map fun e => .sumArrive e.1 9 0 e.2 1) (.sumArrive 1 9 0 r 1)
    s.arg = .pod (.sumArrive 1 9 0 r 1) ∧ s.pod.arrivals.filter (sameSum 9 0 1 r) = here.map (fun e => .sumArrive e.1 9 0 e.2 1) ∧
    (∀ e ∈ here, e.2.fn = r.fn ∧ e.2.ty = r.ty ∧ e.2.p = r.p ∧ ¬(e.1 = 1 ∧ e.2.by_.core / 8 = r.by_.core / 8)) ∧
    s.pod.arrivals = here.map (fun e => .sumArrive e.1 9 0 e.2 1) := by decide +kernel
theorem witness_PodEvents_differs : let r : RedArr := podArrival
    let here := [(3, { r with fn := .max })]
    let s := rooted (here.map fun e => .sumArrive e.1 9 0 e.2 1) (.sumArrive 1 9 0 r 1)
    s.pod.arrivals.filter (sameSum 9 0 1 r) = here.map (fun e => .sumArrive e.1 9 0 e.2 1) ∧ ∃ e ∈ here, e.2.fn ≠ r.fn := by decide +kernel
theorem witness_PodEvents_answered : let s : State := { received (.sumRelease 9 0 podArrival 0) with
      meetings := [podMeeting 1 [podArrival, { joining 0 3 with scope := .pod }]] }
    s.arg = .pod (.sumRelease 9 0 podArrival 0) ∧ (podMeeting 1 []).kind ≠ 0 ∧
    podArrival ∈ (podMeeting 1 [podArrival, { joining 0 3 with scope := .pod }]).arrived := by decide +kernel
/-- Partition 1 in a pod job with PROOT `r`, without tasks. -/
def member (r : Nat) (l : Tab Task) : State := podNow.modPart 1 fun p => { p with record := setField p.record 784 12 r, tasks := l }
theorem witness_PodEvents_member : ((member 3 []).part 1).proot = 3 ∧ ((member 0 []).part 1).proot = (member 0 []).pod.pkgn.toNat ∧
    ((member 3 []).part 1).tasks = [] := by decide +kernel
theorem witness_PodEvents_gang : let t : Task := { taskNow with pgang := 2 }
    let s := member 3 [(1, t)]
    (s.part 1).proot ≠ 0x123 ∧ (s.part 1).proot ≠ s.pod.pkgn.toNat ∧ t.pgang ≠ 0 ∧ t.state ≠ 0 ∧ t.state < tComplete ∧
    gAccepts (s.graphOf 1 t.graph) = true ∧
    ((s.fault ⟨0, 0, 1, t.self, 0, s.now⟩ ⟨5, 4, 0, 0, 0, 0, 0⟩).part 1).graphSlot t.graph = some 1 := by decide +kernel
theorem witness_PodEvents_package : (∀ e ∈ demo.partList, e.2.pjob = 0) ∧
    podNow.partList.filter (fun e => decide (e.2.pjob ≠ 0)) = [(1, podNow.part 1)] ∧
    (podNow.part 1).pjob = podJob (.put 0x123 9 5 asked) := by decide +kernel

theorem witness_PodEvents_passing : ∀ n ∈ [3, 7], let s (m : PodMsg) : State := { received m with board := { podNow.board with
      handovers := (List.range 8).map fun k => ⟨k, false, n, demo.issuer, 0, 0, false, false, []⟩ } }
    (match (s (.put 0x123 9 5 asked)).vKeys 1 0x8000 4 false true 1 with | .ok ks => ((s (.put 0x123 9 5 asked)).heldBy 4 (keyStacks ks)).isSome | .error _ => false) = true ∧
    (match (s (.atom 0x123 9 5 (askedAtom true))).vKey 1 0x8000 true true with
      | .ok k => ((s (.atom 0x123 9 5 (askedAtom true))).heldBy 4 (keyStacks [k])).isSome | .error _ => false) = true := by decide +kernel
theorem witness_PodEvents_carried : ∀ b : Bool, let a : AtomMsg := { askedAtom b with bad := true }
    let s := received (.atom 0x123 9 5 a)
    s.arg = .pod (.atom 0x123 9 5 a) ∧ a.dest = .remote 0 0x8000 ∧ s.repeated (appliedKey 0x123 9 5) = false ∧ a.bad = true ∧
    (match keyOf s true with | some k => decide (k < 2 ^ 39) | none => false) = true := by decide +kernel
theorem witness_PodEvents_cut : let s : State := { member 0x123 [] with meetings := [podMeeting 1 [podArrival]] }
    (s.part 1).proot = 0x123 ∧ s.meetings = [podMeeting 1 [podArrival]] ∧ (podMeeting 1 []).kind ≠ 0 ∧ (podMeeting 1 []).pid = 1 ∧
    (podMeeting 1 []).scope = .pod ∧ (member 0x123 []).meetings = [] := by decide +kernel

theorem witness_WakesAndReleases_pod : ∀ n ∈ [0, 1], let a : RedArr := { arrival with scope := .pod }
    let m : Meeting := { podMeeting 0 [a] with need := n }
    let s : State := { demo with meetings := [m] }
    m.scope = .pod ∧ m.arrived = a :: [] ∧ (s.meetings.filter fun x =>
      decide (x.kind = 0) && decide (x.pid = 1) && decide (x.tcb = 0x1000) && s.allHere x) = [m] := by decide +kernel

/-! ### Frames, decoding, stepping -/

/-- P1 and P3 as given; both in the scratchpad or the die store. -/
def framed (a b : Addr) : State := machine { strandNow with ptrs := [(1, ⟨0, a⟩), (3, ⟨0, b⟩), (7, ⟨0, 0xF00000000008⟩)] }
theorem witness_Frames_ok : (framed 0xF000001FFFFC 0xF00000000000).Ok := ok_of_formOk _ (by decide +kernel)
theorem witness_Frames : let s := framed 0xF000001FFFFC 0xF00000000000
    let pre := typed .i32
    s.Chosen pre ∧ s.strand.loop.lact = false ∧ s.Readable (s.strand.apAddr 1 0 pre 4) 4 0x1FFFFC ∧
    s.Readable (s.strand.ptr 1).addr 4 0x1FFFFC ∧ s.Readable (s.strand.ptr 3).addr 4 0 ∧
    s.Reaches (s.strand.apAddr 1 0 pre 4) 4 0x1FFFFC ∧ s.Reaches (s.strand.ptr 3).addr 4 0 ∧
    s.Reaches ((s.strand.ptr 7).addr - 8) 8 0 ∧ (s.core s.me).posted < 32 := by
  simp only [State.Chosen, State.Readable, State.Reaches]; decide +kernel
theorem witness_Frames_stg : demo.Chosen page ∧
    demo.checked .ldg (demo.strand.ptr 2).addr 8 false true = .ok (.mem [dieKey 0 0x40]) := by
  simp only [State.Chosen]; decide +kernel
theorem witness_Frames_forms :
    (∀ i ∈ [Instr.addImm 0 plain, .mulX plain, .rolImm 0 plain, .maxImm 0 plain, .popc plain, .cmpX plain, .tstImm 0 plain,
      .getp 1 plain, .movp 1 0 true plain, .addp 1 plain, .sets 1 0 plain, .nop plain, .brLe 1 plain, .loop 1 plain,
      .frcp plain, .fcvt .itof (typed .f32), .addMem 1 .none 0 (typed .i32), .rem 1 .none 0 (typed .i32), .shlMem 1 .none 0 (typed .i32),
      .sel 1 .none 0 (typed .i32), .cmpMem 1 .none 0 (typed .i32), .tstMem 1 .none 0 (typed .i32), .lda 1 .none 0 (typed .i32),
      .fmax 1 .none 0 (typed .f16), .fcmp 1 .none 0 (typed .f16), .mac 1 .none 3 .none (typed .i32), .sta 1 .none 0 (typed .i32),
      .movm 1 .none 3 .none (typed .i32), .call 0 plain, .stg 2 .none page], i.wellFormed = true) := by decide +kernel
theorem witness_DecodeAndEncode : (Instr.sets 7 31 { plain with imx := [0x3FF], rgx := some ⟨2, false, false, 0⟩ }).WellFormed ∧
    decode [0xF083, 0xA812] = .instr (.vfma 1 2 third) 2 := by
  simp only [Instr.WellFormed]; decide +kernel
/-- The words `l` are cached from the PC on. -/
def cached (l : List Half) (k : Ctx := strandNow) : State := (machine k).modTile 0 fun x =>
  { x with icache := l.zipIdx.map fun w => (0x800 + w.2, some w.1) }
/-- The conditions of a step that fetches words `l` for core 0. -/
def fetchable (s : State) (l : List Half) : Bool :=
  let u := s.tick
  let v : State := { u with turn := 0 }
  let k := v.strand
  decide (u.agenda = []) && decide (u.nextCore = some 0) && (v.core 0).refusals.all (fun r => decide (r.ctx ≠ v.myCtx)) &&
  (List.range l.length).all fun n =>
    decide (Tab.get none (v.tile 0).icache ((k.pc + BitVec.ofNat 48 (2 * n)).toNat / 2) = l[n]?) &&
    decide ((k.pc + BitVec.ofNat 48 (2 * n)).toNat < 0xF00000000000)
theorem witness_StepRunsDecoded : fetchable (cached [0xF083, 0xA812]) [0xF083, 0xA812] = true ∧
    decode [0xF083, 0xA812] = .instr (.vfma 1 2 third) [(0xF083 : Half), 0xA812].length ∧
    fetchable (cached [0xE001, 0xFFFF]) [0xE001, 0xFFFF] = true ∧ decode [0xE001, 0xFFFF] = .illegal 0x02 ∧ decode [0xE001] = .more := by
  decide +kernel
theorem witness_StepRunsDecoded_held : let s := onBoard (fun b => { b with draining := [1] }) (cached [0xF401, 0xC000])
    let t : State := { s with mgmt := { s.mgmt with recovery := true } }
    fetchable s [0xF401, 0xC000] = true ∧ (s.tick.pidOf 0) ∈ s.board.draining ∧ t.mgmt.recovery = true ∧
    inRecovery .registerWrite = true ∧ inRecovery .powerOn = true ∧ inRecovery .placementPass = false ∧ injects (.put 1 .none page) = true ∧
    injects (.addX plain) = false ∧ (onCore fun c => { c with stalled := true }).tick.nextCore = none := by decide +kernel
theorem witness_StepRunsDecoded_miss : fetchable (cached [0xE001]) [0xE001] = true ∧ (0xE001 : Half).extractLsb' 13 3 = 7 ∧
    Tab.get none ((cached [0xE001]).tile 0).icache 0x801 = none ∧ decode ((List.range 1).map fun _ => (0xE001 : Half)) = .more := by
  decide +kernel
theorem witness_StepRunsDecoded_refusal : let u := (onCore (fun c => { c with refusals := [⟨0, 0xC960, 0x40, 2⟩] })).tick
    let v : State := { u with turn := 0 }
    u.agenda = [] ∧ u.nextCore = some 0 ∧ v.strand.inh = false ∧ ∃ r ∈ (v.core 0).refusals, r.ctx = v.myCtx := by decide +kernel
theorem witness_StepRunsDecoded_due : ({ demo with later := [(1, ⟨.eventPost, .none⟩)] } : State).tick.agenda = ⟨.eventPost, .none⟩ :: [] ∧
    State.reset.tick.agenda = [] ∧ State.reset.tick.nextCore = none := by decide +kernel
theorem witness_StepKeepsForm_ok : (cached [0x1005]).Ok := ok_of_formOk _ (by decide +kernel)
/-- The state after a step or an instruction, if there is one. -/
def after (o : Host.Outcome State Fault Refusal) : Option State :=
  match o with
  | .next t => some t
  | _ => none
theorem witness_StepKeepsForm : (after (step (cached [0x1005]))).isSome = true := by decide +kernel

/-! ### Ill-formed instructions: one for each check -/

/-- A chain with a page, RGX or WDX of the given fields. -/
def rgx (p : BitVec 3) (ha hb : Bool) (vt : BitVec 5) : Prefixes := { plain with rgx := some ⟨p, ha, hb, vt⟩ }
def wdx (sat : Bool) (r : Rnd) (t : Ty) : Prefixes := { plain with wdx := some ⟨sat, r, t⟩ }
def imxs (l : List (BitVec 12)) : Prefixes := { plain with imx := l }
theorem test_illFormed_chain : [Instr.contextSelect, .addImm 1 { rgx 1 false false 0 with imx := [0, 0, 0, 0] }, .ldg 1 .none plain,
    .sta 1 .none 0 { imxs [0, 0, 0, 0] with wdx := some ⟨false, .dflt, .i8⟩ }, .setc 1 true 0 (imxs [0, 0, 0, 0]), .setc 1 false 0 (imxs [0]),
    .sets 1 0 (imxs [0, 0, 0]), .mac 1 .none 2 .none (imxs [0]), .addX (imxs [0])].all (fun i => !i.wellFormed) = true := by decide
theorem test_illFormed_present : [Instr.rep 1 4 plain, .rep 1 4 (imxs [1, 2]), .vfma 1 2 plain, .vcvt 1 2 plain, .brZ 1 (rgx 1 false false 0),
    .jmpA (rgx 0 false false 0), .addX (wdx false .dflt .i8), .nop (wdx false .dflt .i8)].all (fun i => !i.wellFormed) = true := by decide
theorem test_illFormed_fields : [Instr.nop (rgx 1 true false 0), .addX (rgx 1 false true 0), .lda 1 .none 0 (rgx 1 false false 1),
    .vred 1 2 (rgx 1 false false 6), .lda 1 .none 0 (wdx false .dflt .bf16), .vadd 1 2 (wdx false .dflt .i4),
    .lda 1 .none 0 (wdx false .up .i8), .addMem 1 .none 0 (wdx false .up .i8), .lda 1 .none 0 (wdx true .dflt .i8)].all
      (fun i => !i.wellFormed) = true := by decide
theorem test_illFormed_range : [Instr.sets 1 0 (imxs [0x400]), .sets 1 31 (imxs [0xBFF]), .setc 1 true 0 (imxs [0x020, 0, 0]),
    .setc 1 false 1 plain, .loop 0 plain, .loop 0x1FF plain, .hstart 0 plain, .hjoin 0 plain, .movp 1 2 true plain,
    .rep 1 4 { imxs [2] with rgx := some ⟨1, false, false, 0⟩ }, .atomnAdd 1 .acquire .package page,
    .atomnXor 1 .acqRel .package page].all (fun i => !i.wellFormed) = true := by decide
theorem test_wellFormed_limits : [Instr.addImm 1 { imxs [0, 0, 0] with rgx := some ⟨7, true, false, 0⟩ }, .sets 1 0 (imxs [0xC00]),
    .sets 1 31 (imxs [0x3FF]), .setc 1 true 7 (imxs [0x01F, 0xFFF, 0xFFF]), .loop 0xFF plain, .hstart 15 plain,
    .vred 1 2 (rgx 1 true true 5), .atomnXor 1 .release .pod page].all Instr.wellFormed = true := by decide
theorem test_wellFormed (i : Instr) (h : i.wellFormed = false) : ¬i.WellFormed := by
  intro ⟨h1, h2, h3, h4, h5⟩
  have : (decide (i.page = 0) || i.pre.pgx) = true := by
    rcases Nat.eq_zero_or_pos i.page with h | h
    · simp [h]
    · simp [h3 (by omega)]
  simp [Instr.wellFormed, h1, h2, this, h4, h5] at h

/-! ### Illegal words, and words that X tells apart -/

theorem test_illegal_chain : decode [0xE001, 0xE002, 0xE003, 0xE004, 0xE005] = .illegal 0x01 ∧ decode [0xFC00] = .illegal 0x02 ∧
    decode [0xF403, 0xF403] = .illegal 0x03 ∧ decode [0xF500] = .illegal 0x04 ∧ decode [0xF800] = .illegal 0x04 := by decide
theorem test_illegal_word : decode [0xF403, 0x0368] = .illegal 0x05 ∧ decode [0x0000] = .illegal 0x06 ∧
    decode [0xA812] = .illegal 0x07 ∧ decode [0xF001, 0x20A9] = .illegal 0x08 ∧ decode [0x9C00] = .illegal 0x08 := by decide
theorem test_refine_sqvoid : refine { strandNow with x := 0x8000000000000003 } (.sqvoidCancel page) = .sqvoidCommit page ∧
    refine { strandNow with x := 3 } (.sqvoidCancel page) = .sqvoidCancel page := by decide +kernel
theorem test_refine_fltrd : [0, 1, 2].map (fun n => refine { strandNow with x := BitVec.ofNat 64 n } (.fltrdTake 1 .none page)) =
    [.fltrdTake 1 .none page, .fltrdResume 1 .none page, .fltrdPeek 1 .none page] := by decide +kernel

/-- The value of FIPS 202 for the empty message. -/
theorem test_shake256_empty : (natToBytes 32 (shake256 [])).take 4 = [0x46, 0xB9, 0xDD, 0x2B] := by decide +kernel

/-! ### One instruction at a time: results from the examples and the tables of 05 and 09 -/

/-- The strand after an instruction on P1 = 0x100 of the scratchpad, with A, X and F given and bytes `l` at P1. -/
def ran (i : Instr) (a x : Word64) (l : List Byte := []) (f : BitVec 16 := 0) : Option Ctx :=
  (after (exec i ((with_ a x f).wrN (scratchKey 0 0x100) l))).map State.strand
def gives (i : Instr) (a x : Word64) (l : List Byte) (f : BitVec 16) (a' : Word64) (f' : BitVec 16) : Bool :=
  match ran i a x l f with
  | some k => decide (k.a = a') && decide (k.f = f')
  | none => false
/-- R107's example of add.i8.sat: 100 + 100 is clamped to 127, C and V stay 0. -/
theorem test_add_saturates : gives (.addMem 1 .none 0 { plain with wdx := some ⟨true, .dflt, .i8⟩ }) 100 0 [0x64] 0 0x7F 0x100 = true := by decide +kernel
theorem test_add_wraps : gives (.addImm 1 plain) (0xFFFFFFFFFFFFFFFF) 0 [] 0 0 5 = true := by decide +kernel
/-- R107's example of mul.i32.sat: 2^40 by 2^40. -/
theorem test_mul_saturates : gives (.mulMem 1 .none 0 { plain with wdx := some ⟨true, .dflt, .i32⟩ }) 0x7FFFFFFF 0 [0, 0, 0, 1] 0 0x7FFFFFFF 0x100 = true := by
  decide +kernel
theorem test_sbc_borrows : gives (.sbc 1 .none 0 (typed .ui8)) 5 0 [5] 0 0xFFFFFFFFFFFFFFFF 2 = true := by decide +kernel
theorem test_adc_carries : gives (.adc 1 .none 0 (typed .i8)) 5 0 [0xFF] 4 5 4 = true := by decide +kernel
theorem test_div_by_zero : gives (.div 1 .none 0 (typed .i32)) 7 0 [] 0 0xFFFFFFFFFFFFFFFF 10 = true := by decide +kernel
theorem test_rem_sign : gives (.rem 1 .none 0 (typed .i8)) (0xFFFFFFFFFFFFFFF9) 0 [2] 0 0xFFFFFFFFFFFFFFFF 2 = true := by decide +kernel
theorem test_mulh_signed : gives (.mulh 1 .none 0 (typed .i8)) (0xFFFFFFFFFFFFFFFF) 0 [2] 0 0xFFFFFFFFFFFFFFFF 2 = true := by decide +kernel
theorem test_mulh_unsigned : gives (.mulh 1 .none 0 (typed .ui8)) (0xFFFFFFFFFFFFFFFF) 0 [2] 0 1 0 = true := by decide +kernel
theorem test_shl_carry : gives (.shlImm 1 plain) (0x8000000000000000) 0 [] 8 0 13 = true := by decide +kernel
theorem test_sar_carry : gives (.sarImm 1 plain) (0x8000000000000001) 0 [] 0 0xC000000000000000 6 = true := by decide +kernel
theorem test_shr_zero : gives (.shrImm 0 plain) 1 0 [] 4 1 0 = true := by decide +kernel
theorem test_rol_carry : gives (.rolImm 4 plain) (0x9000000000000000) 0 [] 0 9 4 = true := by decide +kernel
theorem test_cmp_flags : gives (.cmpImm 6 plain) 5 0 [] 0 5 2 = true := by decide +kernel
theorem test_min_unsigned : gives (.minImm 0x1FF (typed .ui8)) 5 0 [] 0 5 0 = true := by decide +kernel
theorem test_min_signed : gives (.minImm 0x1FF plain) 5 0 [] 0 0xFFFFFFFFFFFFFFFF 2 = true := by decide +kernel
theorem test_sel_mask : gives (.sel 1 .none 0 (typed .ui8)) 0xF0 0x3C [0x5A] 0 0xD8 0 = true := by decide +kernel
theorem test_clz_zero : gives (.clz (typed .i16)) 0xFFFFFFFFFFFF0000 0 [] 0 16 0 = true := by decide +kernel
theorem test_lda_signed : gives (.lda 1 .none 0 (typed .i16)) 0 0 [0x01, 0x80] 15 0xFFFFFFFFFFFF8001 15 = true := by decide +kernel
theorem test_xcha : gives (.xcha plain) 5 7 [] 3 7 3 = true := by decide +kernel
/-- R123's third pass: -2 + 5 × -1 = -7. -/
theorem test_mac : gives (.mac 1 .none 3 .none (typed .i8)) 0xFFFFFFFFFFFFFFFE 0 ([5] ++ List.replicate 263 0 ++ [0xFF]) 0 0xFFFFFFFFFFFFFFF9 2 = true := by
  decide +kernel
/-- 1.5 + 2.25 in f32 and bf16; R116: an unordered compare. -/
theorem test_fadd : gives (.faddMem 1 .none 0 (typed .bf16)) 0x3FC00000 0 [0x10, 0x40] 0 0x40700000 0 = true := by decide +kernel
theorem test_frcp_zero : gives (.frcp plain) 0x80000000 0 [] 0 0xFF800000 0 = true := by decide +kernel
theorem test_fcmp_unordered : gives (.fcmp 1 .none 0 (typed .f32)) 0x7FC00000 0 [] 15 0x7FC00000 0x18 = true := by decide +kernel
theorem test_fcvt_itof : gives (.fcvt .itof (typed .f16)) 0xFFFFFFFFFFFFFFFF 0 [] 0 0xBC00 0 = true := by decide +kernel
theorem test_fcvt_widen : gives (.fcvt .widen (typed .e4m3)) 0xB8 0 [] 0 0xBF800000 0 = true := by decide +kernel
/-- R112: SETS with an IMX of payload 2 and imm5 of 0 sets the stride to 64; a negative stride moves the pointer down. -/
theorem test_sets : (ran (.sets 1 0 (imxs [2])) 0 0).map (fun k => (k.ptr 1).stride) = some 64 := by decide +kernel
theorem test_post_minus : (ran (.lda 1 .minusStride 0 (typed .i8)) 0 0).map (fun k => (k.ptr 1).addr) = some 0xF000000000FC := by decide +kernel
theorem test_movp_acc : (ran (.movp 0 0 true plain) 0xFFFE123456789ABC 0).map (fun k => k.ptr 0) = some ⟨0xFFFE, 0x123456789ABC⟩ := by decide +kernel
/-- R118: the target counts from the base word; R42: GE is N = V. -/
theorem test_branch_taken : (ran (.brGe 0x1FC { plain with imx := [0xFFF] }) 0 0 [] 10).map (fun k => k.pc) = some 0xFFC := by decide +kernel
theorem test_branch_not_taken : (ran (.brGt 5 plain) 0 0 [] 1).map (fun k => k.pc) = some 0x1002 := by decide +kernel
theorem test_call : (after (exec (.call 4 plain) demo)).map (fun s =>
    (s.strand.pc, (s.strand.ptr 7).addr, s.rdNat (scratchKey 0 0xFF8) 8)) = some (0x100A, 0xF00000000FF8, 0x1002) := by decide +kernel
theorem test_loop_zero : (ran (.loop 2 plain) 0 (2 ^ 32)).map (fun k => (k.pc, k.loop.lact)) = some (0x1006, false) := by decide +kernel
theorem test_loop_starts : (ran (.loop 2 plain) 0 4).map (fun k => (k.pc, k.loop)) = some (0x1002, ⟨true, 4, 0x1002, 0x1006⟩) := by decide +kernel
theorem test_sta_saturates : (after (exec (.sta 1 .none 0 { plain with wdx := some ⟨true, .dflt, .ui8⟩ }) (with_ (0xFFFFFFFFFFFFFFFF) 0))).map
    (fun s => (s.rdNat (scratchKey 0 0x100) 2, s.strand.f)) = some (0, 0x100) := by decide +kernel
/-- A misaligned operand traps precisely: ALIGN 0x01, with the PC of the instruction in the record, at the trap
entry, offset 0x40 of the code, which follows the 64 bytes of the image header. -/
theorem test_align_traps : (after (exec (.lda 1 .none 0 (typed .i16)) (at1 0xF00000000101))).map
    (fun s => (s.strand.pc, s.strand.inh, s.strand.a, s.rdNat (scratchKey 0 0x100000) 12)) =
    some (0x10080, true, 5, 0x0102 * 2 ^ 80 + 0x1000) := by decide +kernel
theorem test_access_traps : (after (exec (.sta 1 .none 0 (typed .i16)) (at1 0xF00000200000))).map
    (fun s => (s.strand.pc, s.rdNat (scratchKey 0 0x1FFFFE) 2)) = some (0x10080, 0) := by decide +kernel
/-- R200's table: 3 has reached 0xFFFFFFF0, and 5 has not reached 100. -/
theorem test_waitc_reached : (after (exec (.waitc 2 true 0 { plain with imx := [0x1F, 0xFFF, 0xFFE] })
    (demo.setCounter 0 2 3))).map (fun s => s.strand.pc) = some 0x1008 := by decide +kernel
theorem test_sleep_waits : (after (exec (.sleep 2 true 4 { plain with imx := [0xC] })
    (demo.setCounter 0 2 5))).map (fun s => s.strand.mode) = some (.waitSync (.counter 2 100)) := by decide +kernel
theorem test_addc_wraps : (after (exec (.addc 2 true 2 plain) (demo.setCounter 0 2 0xFFFFFFFF))).map (fun s => s.counter 0 2) = some 1 := by
  decide +kernel
/-- R202: the helper starts at A of its starter with A := X; R203: a strand that ends is no longer live. -/
theorem test_hstart : (after (exec (.hstart 3 plain) (with_ 0x2000 9))).map (fun s => ((s.ctx 0 3).pc, (s.ctx 0 3).a, (s.ctx 0 3).x)) =
    some (0x2000, 9, 0) := by decide +kernel
theorem test_hexit : (after (exec (.hexit plain) demo)).map (fun s => (s.ctx 0 0).live) = some false := by decide +kernel

end Sys2Proof.Tests
end

section
/-! SUPPORT. Fields of records: what a record holds at a field, as the obligations name it (`extractLsb'`), for the model's
`field`, `setField` and `mkRecord`. -/

namespace Sys2Proof

/-! ### One field -/

theorem field_eq_toNat {n : Nat} (r : BitVec n) (lo w : Nat) : field r lo w = (r.extractLsb' lo w).toNat := by
  simp [field, bitsAt, Nat.shiftRight_eq_div_pow]

theorem ofNat_field {n : Nat} (r : BitVec n) (lo w : Nat) : BitVec.ofNat w (field r lo w) = r.extractLsb' lo w := by
  rw [field_eq_toNat, BitVec.ofNat_toNat, BitVec.setWidth_eq]

theorem field_eq_zero_iff {n : Nat} (r : BitVec n) (lo w : Nat) : field r lo w = 0 ↔ r.extractLsb' lo w = 0 := by
  rw [field_eq_toNat, BitVec.toNat_eq]; rfl

theorem field_lt {n : Nat} (r : BitVec n) (lo w : Nat) : field r lo w < 2 ^ w := Nat.mod_lt _ (Nat.two_pow_pos w)

/-- A number keeps the field `w` bits wide from `lo` on when it is cut to `n` bits above it. -/
theorem field_ofNat {n lo w : Nat} (x : Nat) (h : lo + w ≤ n) : field (BitVec.ofNat n x) lo w = bitsAt lo w x := by
  refine Nat.eq_of_testBit_eq fun i => ?_
  simp only [field, bitsAt, BitVec.toNat_ofNat, Nat.testBit_mod_two_pow, Nat.testBit_div_two_pow]
  by_cases hi : i < w
  · simp [hi, show i + lo < n by omega]
  · simp [hi]

/-- A number as what stands above a field, the field, and what stands below it. -/
theorem eq_above_field_below (lo w x : Nat) : x = 2 ^ lo * (2 ^ w * (x / 2 ^ lo / 2 ^ w) + bitsAt lo w x) + x % 2 ^ lo := by
  rw [bitsAt, Nat.div_add_mod, Nat.div_add_mod]

/-- A number with a field that is zero, as what stands above the field and what stands below it. -/
theorem eq_of_bitsAt_eq_zero {lo w x : Nat} (h : bitsAt lo w x = 0) : x = x / 2 ^ (lo + w) * 2 ^ (lo + w) + x % 2 ^ lo := by
  have parts := eq_above_field_below lo w x
  rwa [h, Nat.add_zero, ← Nat.mul_assoc, ← pow_add, Nat.div_div_eq_div_mul, ← pow_add, Nat.mul_comm] at parts

theorem putBits_eq (lo w v x : Nat) :
    putBits lo w v x = 2 ^ lo * (2 ^ w * (x / 2 ^ lo / 2 ^ w) + v % 2 ^ w) + x % 2 ^ lo := by
  have h := eq_above_field_below lo w x
  rw [Nat.mul_add] at h
  rw [putBits, Nat.mul_add, Nat.mul_comm (bitsAt lo w x), Nat.mul_comm (v % 2 ^ w)]
  omega

theorem testBit_putBits (lo w v x i : Nat) : (putBits lo w v x).testBit i =
    if lo ≤ i ∧ i < lo + w then v.testBit (i - lo) else x.testBit i := by
  rw [putBits_eq, Nat.testBit_two_pow_mul_add _ (Nat.mod_lt _ (Nat.two_pow_pos lo)),
    Nat.testBit_two_pow_mul_add _ (Nat.mod_lt _ (Nat.two_pow_pos w))]
  by_cases below : i < lo
  · simp [below, show ¬lo ≤ i by omega, Nat.testBit_mod_two_pow]
  · by_cases inside : i - lo < w
    · simp [below, inside, show lo ≤ i ∧ i < lo + w by omega, Nat.testBit_mod_two_pow]
    · simp only [below, inside, if_false, Nat.testBit_div_two_pow, show ¬(lo ≤ i ∧ i < lo + w) by omega]
      congr 1; omega

theorem getLsbD_setField {n : Nat} (r : BitVec n) (lo w v i : Nat) : (setField r lo w v).getLsbD i =
    if lo ≤ i ∧ i < lo + w then decide (i < n) && v.testBit (i - lo) else r.getLsbD i := by
  rw [setField, BitVec.getLsbD_ofNat, testBit_putBits]
  split
  · rfl
  · rw [BitVec.testBit_toNat]
    by_cases h : i < n
    · simp [h]
    · simp [h, BitVec.getLsbD_of_ge r i (by omega)]

/-- The field that has been replaced. -/
theorem extractLsb'_setField_self {n lo w : Nat} (r : BitVec n) (v : Nat) (h : lo + w ≤ n) :
    (setField r lo w v).extractLsb' lo w = BitVec.ofNat w v := by
  refine BitVec.eq_of_getLsbD_eq fun i hi => ?_
  rw [BitVec.getLsbD_extractLsb', getLsbD_setField, BitVec.getLsbD_ofNat, if_pos (by omega),
    Nat.add_sub_cancel_left]
  simp [hi, show lo + i < n by omega]

/-- Every other field stays. -/
theorem extractLsb'_setField_of_disjoint {n lo w a b : Nat} (r : BitVec n) (v : Nat) (h : a + b ≤ lo ∨ lo + w ≤ a) :
    (setField r lo w v).extractLsb' a b = r.extractLsb' a b := by
  refine BitVec.eq_of_getLsbD_eq fun i hi => ?_
  rw [BitVec.getLsbD_extractLsb', BitVec.getLsbD_extractLsb', getLsbD_setField, if_neg (by omega)]

/-- A field lies below what is added at a higher bit. -/
theorem extractLsb'_ofNat_add_mul {n lo w k : Nat} (x c : Nat) (h : lo + w ≤ k) :
    (BitVec.ofNat n (x + c * 2 ^ k)).extractLsb' lo w = (BitVec.ofNat n x).extractLsb' lo w := by
  refine BitVec.eq_of_getLsbD_eq fun i hi => ?_
  have low (y : Nat) : y.testBit (lo + i) = (y % 2 ^ k).testBit (lo + i) := by
    simp [Nat.testBit_mod_two_pow, show lo + i < k by omega]
  rw [BitVec.getLsbD_extractLsb', BitVec.getLsbD_extractLsb', BitVec.getLsbD_ofNat, BitVec.getLsbD_ofNat,
    low (x + c * 2 ^ k), low x, Nat.add_mul_mod_self_right]

/-! ### Records of fields in rising order -/

/-- The fields of a record rise and do not overlap. -/
def Rising (fs : List (Nat × Nat × Nat)) : Prop := fs.Pairwise fun f g => f.1 + f.2.1 ≤ g.1

namespace Machine

theorem two_pow_dvd_mkRecord (k : Nat) (fs : List (Nat × Nat × Nat)) (h : ∀ f ∈ fs, k ≤ f.1) : 2 ^ k ∣ mkRecord fs := by
  refine List.dvd_sum fun x hx => ?_
  obtain ⟨f, hf, rfl⟩ := List.mem_map.1 hx
  exact Dvd.dvd.mul_left (pow_dvd_pow 2 (h f hf)) _

theorem mkRecord_cons (f : Nat × Nat × Nat) (fs : List (Nat × Nat × Nat)) :
    mkRecord (f :: fs) = f.2.2 % 2 ^ f.2.1 * 2 ^ f.1 + mkRecord fs := rfl

theorem mkRecord_nil : mkRecord [] = 0 := rfl

/-- The first field may be called wider, where its value fits. -/
theorem mkRecord_widen {lo w w' v : Nat} (fs : List (Nat × Nat × Nat)) (hv : v < 2 ^ w) (hw : w ≤ w') :
    mkRecord ((lo, w, v) :: fs) = mkRecord ((lo, w', v) :: fs) := by
  rw [mkRecord_cons, mkRecord_cons, Nat.mod_eq_of_lt hv, Nat.mod_eq_of_lt (hv.trans_le (Nat.pow_le_pow_right (by norm_num) hw))]

theorem testBit_mkRecord_cons {f : Nat × Nat × Nat} {fs : List (Nat × Nat × Nat)} (h : Rising (f :: fs)) (i : Nat) :
    (mkRecord (f :: fs)).testBit i =
      if i < f.1 + f.2.1 then decide (f.1 ≤ i) && f.2.2.testBit (i - f.1) else (mkRecord fs).testBit i := by
  obtain ⟨lo, w, v⟩ := f
  obtain ⟨k, hk⟩ := two_pow_dvd_mkRecord (lo + w) fs (List.pairwise_cons.1 h).1
  have bound : v % 2 ^ w * 2 ^ lo < 2 ^ (lo + w) := by
    rw [pow_add, Nat.mul_comm (2 ^ lo)]
    exact Nat.mul_lt_mul_of_pos_right (Nat.mod_lt _ (Nat.two_pow_pos w)) (Nat.two_pow_pos lo)
  have sum : mkRecord ((lo, w, v) :: fs) = 2 ^ (lo + w) * k + v % 2 ^ w * 2 ^ lo := by
    rw [← hk, Nat.add_comm, mkRecord_cons]
  rw [sum, Nat.testBit_two_pow_mul_add _ bound, hk]
  by_cases hi : i < lo + w
  · by_cases hl : lo ≤ i
    · simp [hi, hl, Nat.testBit_mul_two_pow, Nat.testBit_mod_two_pow, show i - lo < w by omega]
    · simp [hi, hl, Nat.testBit_mul_two_pow]
  · simp [hi, Nat.testBit_two_pow_mul, show lo + w ≤ i by omega]

theorem testBit_mkRecord_of_mem {lo w v i : Nat} {fs : List (Nat × Nat × Nat)} (h : Rising fs) (hm : (lo, w, v) ∈ fs)
    (hi : i < w) : (mkRecord fs).testBit (lo + i) = v.testBit i := by
  induction fs with
  | nil => simp at hm
  | cons f fs ih =>
    obtain ⟨above, rest⟩ := List.pairwise_cons.1 h
    rw [testBit_mkRecord_cons h]
    rcases List.mem_cons.1 hm with rfl | tail
    · simp [hi]
    · rw [if_neg (by have := above _ tail; simp at this; omega), ih rest tail]

theorem testBit_mkRecord_of_outside {i : Nat} {fs : List (Nat × Nat × Nat)} (h : Rising fs)
    (ho : ∀ f ∈ fs, f.1 + f.2.1 ≤ i ∨ i < f.1) : (mkRecord fs).testBit i = false := by
  induction fs with
  | nil => exact Nat.zero_testBit i
  | cons f fs ih =>
    rw [testBit_mkRecord_cons h, ih (List.pairwise_cons.1 h).2 fun g hg => ho g (List.mem_cons_of_mem f hg)]
    rcases ho f List.mem_cons_self with hf | hf
    · simp [show ¬i < f.1 + f.2.1 by omega]
    · simp [show ¬f.1 ≤ i by omega]

/-- A record holds at each of its fields the value that was given for it. -/
theorem extractLsb'_mkRecord {n lo w v : Nat} {fs : List (Nat × Nat × Nat)} (h : Rising fs) (hm : (lo, w, v) ∈ fs)
    (hn : lo + w ≤ n) : (BitVec.ofNat n (mkRecord fs)).extractLsb' lo w = BitVec.ofNat w v := by
  refine BitVec.eq_of_getLsbD_eq fun i hi => ?_
  rw [BitVec.getLsbD_extractLsb', BitVec.getLsbD_ofNat, BitVec.getLsbD_ofNat, testBit_mkRecord_of_mem h hm hi]
  simp [show lo + i < n by omega]

/-- Bits that no field covers are zero. -/
theorem extractLsb'_mkRecord_outside {n lo w : Nat} {fs : List (Nat × Nat × Nat)} (h : Rising fs)
    (ho : ∀ f ∈ fs, f.1 + f.2.1 ≤ lo ∨ lo + w ≤ f.1) : (BitVec.ofNat n (mkRecord fs)).extractLsb' lo w = 0 := by
  refine BitVec.eq_of_getLsbD_eq fun i hi => ?_
  rw [BitVec.getLsbD_extractLsb', BitVec.getLsbD_ofNat,
    testBit_mkRecord_of_outside h fun f hf => by have := ho f hf; omega]
  simp

end Machine
end Sys2Proof
end

section
/-! SUPPORT. What the operations that post records leave of the management processor's state, and what a queue's entry reads as
after a write. -/

namespace Sys2Proof

/-- What an entry read as stays where its table loses entries, but for an entry that is lost. -/
theorem Tab.get_filter_of_default {α : Type} [DecidableEq α] (d : α) (p : Nat × α → Bool) (n : Nat) (t : Tab α)
    (h : Tab.wf d t = true) (hn : Tab.get d t n = d) : Tab.get d (t.filter p) n = d := by
  suffices key : ∀ (t : Tab α) (a : Option Nat), Tab.wfFrom d a t = true → Tab.get d t n = d →
      Tab.get d (t.filter p) n = d from key t none h hn
  intro t
  induction t with
  | nil => intro _ _ h; exact h
  | cons e t ih =>
    obtain ⟨k, v⟩ := e
    intro a h hn
    simp only [Tab.wfFrom, Bool.and_eq_true, decide_eq_true_eq] at h
    obtain ⟨⟨-, hv⟩, ht⟩ := h
    have absent : n ≠ k := by
      rintro rfl
      simp [Tab.get, hv] at hn
    have rest : Tab.get d t n = d := by
      by_cases lt : n < k
      · cases t with
        | nil => rfl
        | cons e' t' =>
          simp only [Tab.wfFrom, Bool.and_eq_true, decide_eq_true_eq] at ht
          exact Tab.get_of_lt d e'.1 n e'.2 t' (by omega)
      · simpa [Tab.get, absent, lt] using hn
    rw [List.filter_cons]
    split
    · by_cases lt : n < k
      · exact Tab.get_of_lt d k n v _ lt
      · simpa [Tab.get, absent, lt] using ih _ ht rest
    · exact ih _ ht rest

namespace Machine

/-! ### A fault record leaves the management processor as it is -/

theorem State.vWrite_mgmt {s t : State} {pid va n x : Nat} (h : s.vWrite pid va n x = some t) : t.mgmt = s.mgmt := by
  unfold State.vWrite at h
  split at h
  · cases h
  · cases h
    exact foldl_keeps (fun t : State => t.mgmt = s.mgmt) _ _ s rfl fun _ _ ht => ht

@[simp] theorem State.signal_mgmt (s : State) (pid : Nat) (w : Word64) : (s.signal pid w).mgmt = s.mgmt := by
  unfold State.signal; split
  · split <;> rfl
  · rfl

@[simp] theorem State.withTask_mgmt (s : State) (pid : Nat) (h : BitVec 32) (f : Task → Task) :
    (s.withTask pid h f).mgmt = s.mgmt := by
  unfold State.withTask; split <;> rfl

@[simp] theorem State.event_mgmt (s : State) (kind pid body : Nat) : (s.event kind pid body).mgmt = s.mgmt := by
  unfold State.event; split <;> rfl

theorem State.postAt_mgmt {s t : State} {pid q lvl rec : Nat} (h : s.postAt pid q lvl rec = some t) :
    t.mgmt = s.mgmt := by
  unfold State.postAt at h
  split at h
  · cases h
  · split at h
    · cases h
    · dsimp only at h
      split at h
      · cases h
      · split at h
        · cases h
        · rename_i u record
          split at h
          · cases h
          · rename_i v tail
            cases h
            rw [State.signal_mgmt, State.vWrite_mgmt tail, State.vWrite_mgmt record]

/-- The number of lost records is written into the job's queue where it can be. -/
theorem State.getD_vWrite_mgmt (s : State) (pid va n x : Nat) : ((s.vWrite pid va n x).getD s).mgmt = s.mgmt := by
  cases h : s.vWrite pid va n x with
  | none => rfl
  | some t => exact State.vWrite_mgmt h

@[simp] theorem State.post_mgmt (s : State) (pid : Nat) (tcb : BitVec 32) (fq gfq rec : Nat) :
    (s.post pid tcb fq gfq rec).1.mgmt = s.mgmt := by
  unfold State.post
  dsimp only
  split
  · rename_i h; rw [State.withTask_mgmt, State.postAt_mgmt h]
  · split
    · rename_i h; rw [State.withTask_mgmt, State.postAt_mgmt h]
    · split
      · rename_i h; rw [State.withTask_mgmt, State.postAt_mgmt h]
      · rw [State.event_mgmt]
        split
        · exact State.getD_vWrite_mgmt ..
        · rfl

@[simp] theorem State.traceAt_mgmt (s : State) (pid kind pay core ctx die : Nat) :
    (s.traceAt pid kind pay core ctx die).mgmt = s.mgmt := by
  unfold State.traceAt
  split
  · rfl
  · split
    · rw [State.stopTrace, State.event_mgmt]; rfl
    · split
      · rfl
      · dsimp only
        split
        · exact State.getD_vWrite_mgmt ..
        · rfl

@[simp] theorem State.fault_mgmt (s : State) (i : Issuer) (x : FaultInfo) : (s.fault i x).mgmt = s.mgmt := by
  unfold State.fault State.postRecord
  dsimp only
  rw [apply_ite State.mgmt, State.event_mgmt, ite_self, State.traceAt_mgmt, State.post_mgmt]

/-! ### Retired units -/

/-- An error record does not change which units are retired. -/
@[simp] theorem State.errorRec_retired (s : State) (x : ErrInfo) : (s.errorRec x).mgmt.retired = s.mgmt.retired := by
  unfold State.errorRec
  dsimp only
  split
  · rfl
  · split
    · rfl
    · split <;> rfl

@[simp] theorem State.noteGuarantee_retired (s : State) (pid : Nat) (suspend : Bool) :
    (s.noteGuarantee pid suspend).mgmt.retired = s.mgmt.retired := by
  unfold State.noteGuarantee
  dsimp only
  rw [State.fault_mgmt, State.errorRec_retired]
  rfl

@[simp] theorem State.restoreAll_retired (s : State) (l : List (Nat × Part)) :
    (s.restoreAll l).mgmt.retired = s.mgmt.retired := by
  induction l generalizing s with
  | nil => rfl
  | cons e l ih =>
    unfold State.restoreAll
    split
    · rw [ih, State.noteGuarantee_retired]
    · rfl

@[simp] theorem State.refitUp_retired (s : State) : s.refitUp.mgmt.retired = s.mgmt.retired :=
  State.restoreAll_retired ..

@[simp] theorem State.markUnit_retired (s : State) (u : Nat) (gone : Bool) :
    (s.markUnit u gone).mgmt.retired = Tab.set false s.mgmt.retired u gone := State.errorRec_retired ..

/-- Taking a unit back into service touches the table of retired units alone at that unit, and at the channels of a stack. -/
theorem State.returnsUnit_retired (s : State) (u : Nat) : (s.returnsUnit u).mgmt.retired =
    if 16 ≤ u ∧ u < 24 then
      Tab.clearRange (Tab.set false s.mgmt.retired u false) (unitChannel (u - 16) 0) (unitChannel (u - 16) 0 + 64)
    else Tab.set false s.mgmt.retired u false := by
  unfold State.returnsUnit
  dsimp only
  rw [State.due_mgmt, State.refitUp_retired]
  by_cases stack : 16 ≤ u ∧ u < 24
  · rw [if_pos stack, if_pos stack, if_neg (by omega), State.modMgmt_mgmt, State.markUnit_retired]
  · rw [if_neg stack, if_neg stack]
    split <;> simp only [State.due_mgmt, State.markUnit_retired]

/-- A unit that returns is not retired. -/
theorem State.isRetired_returnsUnit (s : State) (u : Nat) (h : Tab.wf false s.mgmt.retired = true) :
    (s.returnsUnit u).isRetired u = false := by
  have back : Tab.get false (Tab.set false s.mgmt.retired u false) u = false := Tab.get_set_self _ _ _ _ h
  rw [State.isRetired, State.returnsUnit_retired]
  split
  · exact Tab.get_filter_of_default _ _ _ _ (Tab.wf_set _ _ _ _ h) back
  · exact back

/-! ### Queues -/

theorem State.queue_modQueue (s : State) (q p : Nat) (f : BitVec 192 → BitVec 192) (h : Tab.wf 0 s.host.queues = true) :
    (s.modQueue q f).queue p = if p = q then f (s.queue q) else s.queue p := by
  by_cases e : p = q
  · subst e; rw [if_pos rfl]; exact Tab.get_set_self _ _ _ _ h
  · rw [if_neg e]; exact Tab.get_set_ne _ _ _ _ _ e h

@[simp] theorem State.queue_startQueue (s : State) (q p : Nat) : (s.startQueue q).queue p = s.queue p := by
  unfold State.startQueue
  dsimp only
  split <;> rfl

/-- A write of NOTE changes that field of its queue. -/
theorem State.queue_setNote (s : State) (q v p : Nat) (h : Tab.wf 0 s.host.queues = true) :
    (s.setNote q v).queue p = if p = q then setField (s.queue q) 64 32 v else s.queue p := by
  rw [State.setNote, State.queue_startQueue, State.queue_modQueue _ _ _ _ h]

end Machine
end Sys2Proof
end

section
/-! SUPPORT. Doorbells and the event ring (22 R440, R441; 21 R421). -/

namespace Sys2Proof.Machine

/-! ### Doorbells -/

section
variable {s : State} {q v vf : Nat} (ha : s.arg = .num q v vf 0)
include ha

theorem exec_notifyQueue_reserved (hq : 32768 ≤ q) : exec .notifyQueue s = .next s := by
  change execNotifyQueue s = _
  simp only [execNotifyQueue, ha, if_pos hq]

theorem exec_notifyQueue_foreign (hq : q < 32768) (hv : vf ≠ 0) (hp : ((s.queue q).extractLsb' 112 16).toNat ≠ vf) :
    exec .notifyQueue s = .next (s.errorRec ⟨0, 0x0A, 9, 4, vf, vf, 0⟩) := by
  change execNotifyQueue s = _
  rw [← field_eq_toNat] at hp
  simp only [execNotifyQueue, ha, if_neg (Nat.not_le.2 hq)]
  exact if_pos ⟨hv, hp⟩

theorem exec_notifyQueue_own (hq : q < 32768) (hp : vf = 0 ∨ ((s.queue q).extractLsb' 112 16).toNat = vf) :
    exec .notifyQueue s = .next (s.setNote q v) := by
  change execNotifyQueue s = _
  rw [← field_eq_toNat] at hp
  simp only [execNotifyQueue, ha, if_neg (Nat.not_le.2 hq)]
  exact if_neg fun h => hp.elim h.1 h.2

end

/-- NOTE holds what was written, and no other field of any queue has changed. -/
theorem setNote_fields (s : State) (q v : Nat) (h : Tab.wf 0 s.host.queues = true) :
    ((s.setNote q v).queue q).extractLsb' 64 32 = BitVec.ofNat 32 v ∧
      ((s.setNote q v).queue q).extractLsb' 0 64 = (s.queue q).extractLsb' 0 64 ∧
      ((s.setNote q v).queue q).extractLsb' 96 96 = (s.queue q).extractLsb' 96 96 ∧
      ∀ p, p ≠ q → (s.setNote q v).queue p = s.queue p := by
  rw [State.queue_setNote s q v q h, if_pos rfl]
  refine ⟨extractLsb'_setField_self _ _ (by norm_num), extractLsb'_setField_of_disjoint _ _ (by norm_num),
    extractLsb'_setField_of_disjoint _ _ (by norm_num), fun p hp => ?_⟩
  rw [State.queue_setNote s q v p h, if_neg hp]

/-! ### The event ring -/

/-- The ring takes a record: it is enabled, of a size that the rules allow, and not full, and the management processor is up. -/
def State.RingTakes (s : State) : Prop :=
  s.host.eqctl.getLsbD 8 = true ∧ 16 ≤ 2 ^ (s.host.eqctl.extractLsb' 0 4).toNat ∧
    (s.host.eqtail - s.host.eqhead).toNat < 2 ^ (s.host.eqctl.extractLsb' 0 4).toNat ∧ s.mgmt.down = false

theorem State.ringTakes_iff (s : State) : s.RingTakes ↔ (!s.host.ringOpen || s.mgmt.down) = false := by
  have size (k : Nat) : 16 ≤ 2 ^ k ↔ 4 ≤ k := Nat.pow_le_pow_iff_right (a := 2) (n := 4) (by norm_num)
  simp only [RingTakes, HostBlock.ringOpen, HostBlock.ringSize, field_eq_toNat, size, and_assoc, Bool.or_eq_false_iff,
    Bool.not_eq_false', Bool.and_eq_true, decide_eq_true_eq]

/-- The key of the place of the ring that is written next. -/
def HostBlock.place (h : HostBlock) : Nat :=
  hostKey (h.eqbase.toNat + 256 * (h.eqtail.toNat % 2 ^ (h.eqctl.extractLsb' 0 4).toNat))

/-- LOST of the record that is written next (R441). -/
def State.lostCount (s : State) : Nat := min (s.host.lost + (s.mgmt.drops.map Prod.snd).sum) 0xFFFF

/-- The records of corrected errors that still stand in the ring when the place at `key` is written (21 R419). -/
def standing (posted : List (Nat × BitVec 256)) (now key : Nat) : List (Nat × BitVec 256) :=
  posted.filter fun x => decide (now ≤ (x.2.extractLsb' 128 64).toNat + 2 ^ 20) && decide (x.1 ≠ key + 32)

theorem exec_eventPost_closed {s : State} (h : ¬s.RingTakes) : exec .eventPost s = .next s := by
  change execEventPost s = _
  rw [State.ringTakes_iff, Bool.not_eq_false] at h
  rw [execEventPost, if_pos h]

theorem exec_eventPost_none {s : State} (h : s.nextEvent = none) : exec .eventPost s = .next s := by
  change execEventPost s = _
  rw [execEventPost, h]
  split <;> rfl

/-- A record that waits is written, with LOST in it. -/
theorem exec_eventPost_some {s u : State} {e : BitVec 2048} {r : Option (BitVec 256)} (ho : s.RingTakes)
    (h : s.nextEvent = some (e, r, (s.mgmt.drops.map Prod.snd).sum, u)) (hl : u.host.lost = s.host.lost)
    (hp : u.host.place = s.host.place) : exec .eventPost s = .next
      ((((u.wrNat s.host.place 256 (setField e 48 16 s.lostCount).toNat).notePosted (s.host.place + 32) r).modHost
        fun h => { h with eqtail := h.eqtail + 1, msix := h.msix + 1, lost := 0 }).due [⟨.eventPost, .none⟩]) := by
  change execEventPost s = _
  rw [State.ringTakes_iff] at ho
  rw [← hp, HostBlock.place, State.lostCount, ← hl, ← field_eq_toNat]
  rw [execEventPost, if_neg (by simp [ho]), h]
  rfl

@[simp] theorem State.notePosted_none (s : State) (key : Nat) : s.notePosted (key + 32) none =
    s.modMgmt fun m => { m with posted := standing m.posted s.now key } := by
  simp only [State.notePosted, List.append_nil, field_eq_toNat]
  rfl

theorem State.notePosted_some (s : State) (key : Nat) (e : BitVec 256) : s.notePosted (key + 32) (some e) =
    s.modMgmt fun m => { m with posted := standing m.posted s.now key ++
      (if e.extractLsb' 32 8 = 1 then [(key + 32, setField e 128 64 s.now)] else []) } := by
  have corrected : field e 32 8 = 1 ↔ e.extractLsb' 32 8 = 1 := by rw [field_eq_toNat, BitVec.toNat_eq]; rfl
  simp only [State.notePosted, corrected]
  simp only [field_eq_toNat]
  rfl

theorem nextEvent_waiting {s : State} {e : BitVec 2048} {rest : List (BitVec 2048)} (h : s.host.events = e :: rest) :
    s.nextEvent = some (e, none, (s.mgmt.drops.map Prod.snd).sum,
      (s.modMgmt fun m => { m with drops := [] }).modHost fun h => { h with events := rest }) := by
  simp [State.nextEvent, h]

theorem nextEvent_nothing {s : State} (h : s.host.events = []) (he : ∀ d < 4, Tab.get [] s.mgmt.errors d = []) :
    s.nextEvent = none := by
  have none_ : ((List.range 4).find? fun d => !(Tab.get [] s.mgmt.errors d).isEmpty) = none :=
    List.find?_eq_none.2 fun d hd => by simp [he d (List.mem_range.1 hd)]
  simp [State.nextEvent, h, none_]

/-- The record of an event of KIND 0x01 for an error record. -/
def errorEvent (r : BitVec 256) (now : Nat) : BitVec 2048 :=
  BitVec.ofNat 2048 (mkRecord [(0, 8, 0x01), (32, 16, field r 80 16), (64, 64, now), (256, 256, r.toNat)])

theorem nextEvent_error {s : State} {d : Nat} {e : BitVec 256} {rest : List (BitVec 256)} (h : s.host.events = [])
    (hd : d < 4) (before : ∀ j < d, Tab.get [] s.mgmt.errors j = []) (he : Tab.get [] s.mgmt.errors d = e :: rest) :
    s.nextEvent = some (errorEvent e s.now, some e, (s.mgmt.drops.map Prod.snd).sum,
      s.modMgmt fun m => { m with drops := [], errors := Tab.set [] m.errors d rest }) := by
  have oldest : ((List.range 4).find? fun d => !(Tab.get [] s.mgmt.errors d).isEmpty) = some d :=
    List.find?_range_eq_some.2 ⟨by simp [he], List.mem_range.2 hd, fun j hj => by simp [before j hj]⟩
  simp [State.nextEvent, h, oldest, he, errorEvent, State.modMgmt]

/-- LOST is put into a record that has none. -/
theorem setLost_fields (s : State) (e : BitVec 2048) :
    (setField e 48 16 s.lostCount).extractLsb' 0 48 = e.extractLsb' 0 48 ∧
      (setField e 48 16 s.lostCount).extractLsb' 48 16 = BitVec.ofNat 16 s.lostCount ∧
      (setField e 48 16 s.lostCount).extractLsb' 64 1984 = e.extractLsb' 64 1984 :=
  ⟨extractLsb'_setField_of_disjoint _ _ (by norm_num), extractLsb'_setField_self _ _ (by norm_num),
    extractLsb'_setField_of_disjoint _ _ (by norm_num)⟩

/-- What the event of an error record holds (R421, R441). -/
theorem errorEvent_fields (s : State) (e : BitVec 256) :
    let r := setField (errorEvent e s.now) 48 16 s.lostCount
    r.extractLsb' 0 32 = 0x01 ∧ r.extractLsb' 32 16 = e.extractLsb' 80 16 ∧
      r.extractLsb' 48 16 = BitVec.ofNat 16 s.lostCount ∧ r.extractLsb' 64 64 = BitVec.ofNat 64 s.now ∧
      r.extractLsb' 128 128 = 0 ∧ r.extractLsb' 256 256 = e ∧ r.extractLsb' 512 1536 = 0 := by
  have rising : Rising [(0, 32, 0x01), (32, 16, field e 80 16), (64, 64, s.now), (256, 256, e.toNat)] := by
    simp [Rising]
  have record : errorEvent e s.now = BitVec.ofNat 2048 (mkRecord
      [(0, 32, 0x01), (32, 16, field e 80 16), (64, 64, s.now), (256, 256, e.toNat)]) := by
    rw [errorEvent, mkRecord_widen _ (by norm_num) (show 8 ≤ 32 by norm_num)]
  dsimp only
  have kept (a b : Nat) (h : a + b ≤ 48 ∨ 48 + 16 ≤ a) :=
    extractLsb'_setField_of_disjoint (errorEvent e s.now) s.lostCount h
  refine ⟨?_, ?_, extractLsb'_setField_self _ _ (by norm_num), ?_, ?_, ?_, ?_⟩ <;>
    rw [kept _ _ (by norm_num), record]
  · exact extractLsb'_mkRecord rising (by simp) (by norm_num)
  · exact (extractLsb'_mkRecord rising (v := field e 80 16) (by simp) (by norm_num)).trans (ofNat_field ..)
  · exact extractLsb'_mkRecord rising (by simp) (by norm_num)
  · exact extractLsb'_mkRecord_outside rising (by simp)
  · exact (extractLsb'_mkRecord rising (v := e.toNat) (by simp) (by norm_num)).trans (by simp)
  · exact extractLsb'_mkRecord_outside rising (by simp)

theorem exec_eventPost_waiting {s : State} {e : BitVec 2048} {rest : List (BitVec 2048)} (ho : s.RingTakes)
    (h : s.host.events = e :: rest) : exec .eventPost s = .next (({ s.wrNat s.host.place 256
        (setField e 48 16 s.lostCount).toNat with
      host := { s.host with events := rest, eqtail := s.host.eqtail + 1, msix := s.host.msix + 1, lost := 0 }
      mgmt := { s.mgmt with drops := [], posted := standing s.mgmt.posted s.now s.host.place } } : State).due
        [⟨.eventPost, .none⟩]) := by
  rw [exec_eventPost_some ho (nextEvent_waiting h) rfl rfl, State.notePosted_none]
  unfold State.wrNat
  generalize natToBytes _ _ = bytes
  rfl

theorem exec_eventPost_error {s : State} {d : Nat} {e : BitVec 256} {rest : List (BitVec 256)} (ho : s.RingTakes)
    (h : s.host.events = []) (hd : d < 4) (before : ∀ j < d, Tab.get [] s.mgmt.errors j = [])
    (he : Tab.get [] s.mgmt.errors d = e :: rest) : exec .eventPost s = .next (({ s.wrNat s.host.place 256
        (setField (errorEvent e s.now) 48 16 s.lostCount).toNat with
      host := { s.host with eqtail := s.host.eqtail + 1, msix := s.host.msix + 1, lost := 0 }
      mgmt := { s.mgmt with
        errors := Tab.set [] s.mgmt.errors d rest, drops := []
        posted := standing s.mgmt.posted s.now s.host.place ++
          (if e.extractLsb' 32 8 = 1 then [(s.host.place + 32, setField e 128 64 s.now)] else []) } } : State).due
        [⟨.eventPost, .none⟩]) := by
  rw [exec_eventPost_some ho (nextEvent_error h hd before he) rfl rfl, State.notePosted_some]
  unfold State.wrNat
  generalize natToBytes _ _ = bytes
  rfl
end Sys2Proof.Machine
end

section
/-! SUPPORT. The registers of the host block, and how a command is submitted and ends (22 R440, R442, R443). -/

namespace Sys2Proof.Machine

/-! ### Registers -/

section
variable {s : State} {v : Word64}

theorem exec_registerWrite_eqbase (ha : s.arg = .value 0x00 v) : exec .registerWrite s =
    .next (s.modHost fun h => { h with eqbase := v }).forgetPosted := by
  change execRegisterWrite s = _
  simp [execRegisterWrite, ha]

theorem exec_registerWrite_eqctl (ha : s.arg = .value 0x08 v) : exec .registerWrite s =
    .next ((s.modHost fun h => { h with eqctl := v &&& 0x10F }).forgetPosted.due [⟨.eventPost, .none⟩]) := by
  change execRegisterWrite s = _
  simp [execRegisterWrite, ha]

theorem exec_registerWrite_eqhead (ha : s.arg = .value 0x10 v) : exec .registerWrite s =
    .next ((s.modHost fun h => { h with eqhead := v }).due [⟨.eventPost, .none⟩]) := by
  change execRegisterWrite s = _
  simp [execRegisterWrite, ha]

theorem exec_registerWrite_mbox {j : Nat} (hj : j < 8) (ha : s.arg = .value (0x40 + 8 * j) v) : exec .registerWrite s =
    .next (s.modHost fun h => { h with mbox := setField h.mbox (64 * j) 64 v.toNat }) := by
  change execRegisterWrite s = _
  have at_ : 8 * (0x40 + 8 * j - 0x40) = 64 * j := by omega
  simp only [execRegisterWrite, ha, at_, if_neg (show ¬0x40 + 8 * j = 0x00 by omega),
    if_neg (show ¬0x40 + 8 * j = 0x08 by omega), if_neg (show ¬0x40 + 8 * j = 0x10 by omega)]
  exact if_pos ⟨by omega, by omega, by omega⟩

/-- A write to MBELL while a command is executing is ignored (R442). -/
theorem exec_registerWrite_busy (ha : s.arg = .value 0x80 v) (hb : s.host.busy = true) :
    exec .registerWrite s = .next s := by
  change execRegisterWrite s = _
  simp [execRegisterWrite, ha, hb]

/-- A write to MBELL submits MBOX to the step that its KIND names. -/
theorem exec_registerWrite_mbell (ha : s.arg = .value 0x80 v) (hb : s.host.busy = false) : exec .registerWrite s =
    .next ((s.modHost fun h => { h with busy := true }).due [⟨commandStep s.host.mbox, mboxArg s.host.mbox⟩]) := by
  change execRegisterWrite s = _
  simp [execRegisterWrite, ha, hb]

theorem exec_registerWrite_other {off : Nat} (ha : s.arg = .value off v)
    (ho : off ∈ [0x18, 0x20, 0x28, 0x30, 0x38, 0x88]) : exec .registerWrite s = .next s := by
  change execRegisterWrite s = _
  simp only [List.mem_cons, List.not_mem_nil, or_false] at ho
  rcases ho with rfl | rfl | rfl | rfl | rfl | rfl <;> simp [execRegisterWrite, ha]

end

/-- The doublewords of MBOX after a write of one of them. -/
theorem mbox_fields (m : BitVec 512) (v : Word64) {j : Nat} (hj : j < 8) :
    (setField m (64 * j) 64 v.toNat).extractLsb' (64 * j) 64 = v ∧ ∀ i < 8, i ≠ j →
      (setField m (64 * j) 64 v.toNat).extractLsb' (64 * i) 64 = m.extractLsb' (64 * i) 64 := by
  refine ⟨(extractLsb'_setField_self _ _ (by omega)).trans (by simp), fun i _ hne => ?_⟩
  exact extractLsb'_setField_of_disjoint _ _ (by omega)

theorem hostRead_mbox (s : State) {j : Nat} (hj : j < 8) :
    s.hostRead (0x40 + 8 * j) = s.host.mbox.extractLsb' (64 * j) 64 := by
  have at_ : 8 * (0x40 + 8 * j - 0x40) = 64 * j := by omega
  simp only [State.hostRead, at_, if_neg (show ¬0x40 + 8 * j = 0x00 by omega),
    if_neg (show ¬0x40 + 8 * j = 0x08 by omega), if_neg (show ¬0x40 + 8 * j = 0x10 by omega),
    if_neg (show ¬0x40 + 8 * j = 0x18 by omega), if_neg (show ¬0x40 + 8 * j = 0x20 by omega)]
  exact if_pos (by omega)

/-- A doorbell reads as zero (00 R8). -/
theorem hostRead_doorbell (s : State) (q : Nat) : s.hostRead (0x10000 + 8 * q) = 0 := by
  simp only [State.hostRead]
  iterate 7 rw [if_neg (by omega)]

/-! ### Which step a command record names (R443) -/

theorem commandStep_of_reserved_ne {m : BitVec 512} (h : m.extractLsb' 8 56 ≠ 0) : commandStep m = .mboxBadcmd :=
  if_pos (mt (field_eq_zero_iff m 8 56).1 h)

/-- The step that KIND names, and OP for KIND 0x03 and 0x0A. -/
def kindStep (kind op : Nat) : Instr :=
  match kind with
  | 0x01 => .qcfg
  | 0x02 => .setMode
  | 0x03 => match op with
    | 0 => .layoutPrepare
    | 1 => .layoutCommit
    | 2 => .layoutAbort
    | _ => .mboxBadcmd
  | 0x04 => .retire
  | 0x05 => .returnUnit
  | 0x06 => .answer
  | 0x07 => .resumeFault
  | 0x08 => .attest
  | 0x09 => .fwload
  | 0x0A => match op with
    | 0 => .podcfgSetPkgn
    | 1 => .podcfgSetRoute
    | _ => .mboxBadcmd
  | _ => .mboxBadcmd

/-- With its reserved bits zero a record names its step by KIND and OP. -/
theorem commandStep_of_reserved_eq {m : BitVec 512} (h : m.extractLsb' 8 56 = 0) :
    commandStep m = kindStep (m.extractLsb' 0 8).toNat (m.extractLsb' 64 2).toNat := by
  rw [← field_eq_toNat, ← field_eq_toNat, commandStep, if_neg (not_not.2 ((field_eq_zero_iff m 8 56).2 h))]
  rfl

theorem kindStep_reserved {kind : Nat} (op : Nat) (h : kind = 0 ∨ 0x0A < kind) : kindStep kind op = .mboxBadcmd := by
  rcases h with rfl | h
  · rfl
  · obtain ⟨n, rfl⟩ := Nat.exists_eq_add_of_lt h
    rw [Nat.add_right_comm, Nat.add_comm]
    rfl

end Sys2Proof.Machine
end

section
/-! SUPPORT. What each management command does (22 R443 to R448; 21 R430). -/

namespace Sys2Proof.Machine

/-! ### How a command ends -/

/-- MBRES after a command (R443). -/
theorem endCommand_mbres {s : State} {m : BitVec 512} (status result : Nat) (ha : s.arg = .cmd 32768 m) :
    (s.endCommand status result).host.mbres.extractLsb' 0 8 = BitVec.ofNat 8 status ∧
      (s.endCommand status result).host.mbres.extractLsb' 8 8 = m.extractLsb' 0 8 ∧
      (s.endCommand status result).host.mbres.extractLsb' 16 16 = 0 ∧
      (s.endCommand status result).host.mbres.extractLsb' 32 32 = BitVec.ofNat 32 result := by
  have rising : Rising [(0, 8, status), (8, 8, field s.command 0 8), (32, 32, result)] := by simp [Rising]
  have command : s.command = m := by rw [State.command, ha]
  refine ⟨extractLsb'_mkRecord rising (by simp) (by norm_num), ?_, extractLsb'_mkRecord_outside rising (by simp),
    extractLsb'_mkRecord rising (by simp) (by norm_num)⟩
  rw [← ofNat_field m, ← command]
  exact extractLsb'_mkRecord rising (by simp) (by norm_num)

/-- The commands other than FWLOAD, which `onCommand` checks first. -/
def checkedCommands : List Instr := [.qcfg, .setMode, .layoutPrepare, .layoutCommit, .layoutAbort, .retire, .returnUnit,
  .answer, .resumeFault, .attest, .podcfgSetPkgn, .podcfgSetRoute, .mboxBadcmd]

/-- In recovery a command ends with NOFW (R442). -/
theorem exec_of_recovery {s : State} {i : Instr} (hi : i ∈ checkedCommands) (hr : s.mgmt.recovery = true) :
    exec i s = .next (s.endCommand 8 0) := by
  simp only [checkedCommands, List.mem_cons, List.not_mem_nil, or_false] at hi
  rcases hi with rfl | rfl | rfl | rfl | rfl | rfl | rfl | rfl | rfl | rfl | rfl | rfl | rfl <;> exact if_pos hr

/-- While the management processor is down a command ends with BUSY (21 R430; log 78). -/
theorem exec_of_down {s : State} {i : Instr} (hi : i ∈ checkedCommands) (hr : s.mgmt.recovery = false)
    (hd : s.mgmt.down = true) : exec i s = .next (s.endCommand 1 0) := by
  simp only [checkedCommands, List.mem_cons, List.not_mem_nil, or_false] at hi
  rcases hi with rfl | rfl | rfl | rfl | rfl | rfl | rfl | rfl | rfl | rfl | rfl | rfl | rfl <;>
    exact (if_neg (by simp [hr])).trans (if_pos hd)

/-- The management processor is up and out of recovery, and executes the command of a record. -/
structure Commanded (s : State) (m : BitVec 512) : Prop where
  arg : s.arg = .cmd 32768 m
  recovery : s.mgmt.recovery = false
  down : s.mgmt.down = false

/-- A command services the watchdog and ends with a status and a result. -/
def CommandEnds (s : State) (i : Instr) (t : State) (status result : Nat) : Prop :=
  exec i s = .next (t.service.endCommand status result)

theorem Commanded.ends {s t : State} {m : BitVec 512} {status result : Nat} {f : BitVec 512 → State × Nat × Nat}
    (h : Commanded s m) (hf : f m = (t, status, result)) :
    onCommand s f = .next (t.service.endCommand status result) := by
  have command : s.command = m := by rw [State.command, h.arg]
  rw [onCommand, if_neg (by simp [h.recovery]), if_neg (by simp [h.down]), command, hf]

theorem ends_mboxBadcmd {s : State} {m : BitVec 512} (h : Commanded s m) : CommandEnds s .mboxBadcmd s 2 0 := by
  change execMboxBadcmd s = _
  exact h.ends rfl

/-! ### QCFG -/

theorem field_setWidth {n k : Nat} (hnk : n ≤ k) (x : BitVec n) (lo w : Nat) : field (x.setWidth k) lo w = field x lo w := by
  rw [field, BitVec.toNat_setWidth_of_le hnk]; rfl

/-- What QCFG refuses as malformed (R443; log 55). -/
def QcfgBad (s : State) (new : BitVec 128) : Prop :=
  new.extractLsb' 52 10 ≠ 0 ∨ new.extractLsb' 64 48 ≠ 0 ∨ new.extractLsb' 0 6 ≠ 0 ∨ (new.extractLsb' 48 4).toNat < 4 ∨
    (new.getLsbD 63 = true ∧ (s.part (new.extractLsb' 112 16).toNat).record = 0)

/-- Every record of a queue has been consumed. -/
def QueueEmpty (old : BitVec 192) : Prop :=
  old.extractLsb' 160 32 = if old.getLsbD 62 then old.extractLsb' 64 32 else old.extractLsb' 128 32

theorem qcfgBad_iff (s : State) (new : BitVec 128) : (decide (field (new.setWidth 192) 52 10 ≠ 0) ||
    decide (field (new.setWidth 192) 64 48 ≠ 0) || decide (qBase (new.setWidth 192) % 64 ≠ 0) ||
    decide (field (new.setWidth 192) 48 4 < 4) ||
    (qEn (new.setWidth 192) && decide ((s.part (qPart (new.setWidth 192))).record = 0))) = true ↔ QcfgBad s new := by
  have base : qBase (new.setWidth 192) % 64 = field new 0 6 := by
    rw [qBase, field_setWidth (by norm_num), field, field, bitsAt, bitsAt]
    exact Nat.mod_mod_of_dvd _ (by norm_num)
  have enabled : qEn (new.setWidth 192) = new.getLsbD 63 := by simp [qEn]
  simp only [base, enabled, qPart, field_setWidth (show 128 ≤ 192 by norm_num), QcfgBad, ne_eq, field_eq_zero_iff,
    Bool.or_eq_true, Bool.and_eq_true, decide_eq_true_eq, or_assoc]
  simp only [field_eq_toNat]

/-- QCFG finds a queue BUSY where it is enabled and not empty. -/
theorem queueBusy_iff (old : BitVec 192) : (qEn old && !decide (qHead old = if qLoc old then qNote old else qTail old)) =
    true ↔ old.getLsbD 63 = true ∧ ¬QueueEmpty old := by
  have empty : qHead old = (if qLoc old then qNote old else qTail old) ↔ QueueEmpty old := by
    rw [QueueEmpty, qHead, qNote, qTail, qLoc]
    simp only [field_eq_toNat]
    split <;> exact BitVec.toNat_inj
  rw [Bool.and_eq_true, Bool.not_eq_true', decide_eq_false_iff_not, empty, qEn]

/-- A queue's entry with the configuration and the indices that it keeps. -/
theorem add_indices_eq_mkRecord (new : BitVec 128) (hz : new.extractLsb' 64 48 = 0) {note indices : Nat} (hn : note < 2 ^ 32)
    (hi : indices < 2 ^ 64) : new.toNat + (note * 2 ^ 64 + indices * 2 ^ 128) =
      mkRecord [(0, 64, field new 0 64), (64, 32, note), (96, 32, field new 96 32), (128, 64, indices)] := by
  have low : field new 0 64 % 2 ^ 64 = new.toNat % 2 ^ 64 := by
    rw [field, bitsAt, pow_zero, Nat.div_one, Nat.mod_mod]
  have high : field new 96 32 % 2 ^ 32 = new.toNat / 2 ^ (64 + 32) := by
    have bound : new.toNat / 2 ^ 96 < 2 ^ 32 :=
      Nat.div_lt_of_lt_mul (by rw [← pow_add]; exact new.isLt)
    rw [field, bitsAt, Nat.mod_mod, Nat.mod_eq_of_lt bound]
  have note_zero : bitsAt 64 32 new.toNat = 0 := by
    have zero : new.toNat / 2 ^ 64 % 2 ^ 48 = 0 := (field_eq_zero_iff new 64 48).2 hz
    rw [bitsAt, ← Nat.mod_mod_of_dvd _ (pow_dvd_pow 2 (show 32 ≤ 48 by norm_num)), zero, Nat.zero_mod]
  rw [mkRecord_cons, mkRecord_cons, mkRecord_cons, mkRecord_cons, mkRecord_nil]
  dsimp only
  rw [low, high, Nat.mod_eq_of_lt hn, Nat.mod_eq_of_lt hi, pow_zero, mul_one, add_zero]
  have parts := eq_of_bitsAt_eq_zero note_zero
  generalize new.toNat % 2 ^ 64 = l at *
  generalize new.toNat / 2 ^ (64 + 32) = u at *
  generalize new.toNat = x at *
  rw [parts, Nat.add_right_comm]
  omega

theorem queueEntry_fields (new : BitVec 128) (hz : new.extractLsb' 64 48 = 0) {note indices : Nat} (hn : note < 2 ^ 32)
    (hi : indices < 2 ^ 64) (x : BitVec 192)
    (hx : x = BitVec.ofNat 192 (new.toNat + (note * 2 ^ 64 + indices * 2 ^ 128))) :
    x.extractLsb' 0 64 = new.extractLsb' 0 64 ∧ x.extractLsb' 96 32 = new.extractLsb' 96 32 ∧
      x.extractLsb' 64 32 = BitVec.ofNat 32 note ∧ x.extractLsb' 128 64 = BitVec.ofNat 64 indices := by
  have rising : Rising [(0, 64, field new 0 64), (64, 32, note), (96, 32, field new 96 32), (128, 64, indices)] := by
    simp [Rising]
  rw [hx, add_indices_eq_mkRecord new hz hn hi, ← ofNat_field new, ← ofNat_field new]
  exact ⟨extractLsb'_mkRecord rising (by simp) (by norm_num), extractLsb'_mkRecord rising (by simp) (by norm_num),
    extractLsb'_mkRecord rising (by simp) (by norm_num), extractLsb'_mkRecord rising (by simp) (by norm_num)⟩

/-- The configuration that QCFG gives, as the model takes it from the record. -/
theorem qcfg_new (m : BitVec 512) : BitVec.ofNat 192 (field m 128 128) = (m.extractLsb' 128 128).setWidth 192 := by
  rw [field_eq_toNat, BitVec.ofNat_toNat]

/-- QCFG opens a queue: it becomes enabled. -/
def QueueOpens (new : BitVec 128) (old : BitVec 192) : Prop := new.getLsbD 63 = true ∧ old.getLsbD 63 = false

theorem queueOpens_iff (new : BitVec 128) (old : BitVec 192) :
    (qEn (new.setWidth 192) && !qEn old) = true ↔ QueueOpens new old := by
  simp [qEn, QueueOpens]

theorem qPart_setWidth (new : BitVec 128) : qPart (new.setWidth 192) = (new.extractLsb' 112 16).toNat := by
  rw [qPart, field_setWidth (by norm_num), field_eq_toNat]

section
variable {s : State} {m : BitVec 512} (h : Commanded s m)
include h

theorem ends_qcfg_bad (hb : QcfgBad s (m.extractLsb' 128 128)) : CommandEnds s .qcfg s 2 0 := by
  change execQcfg s = _
  refine h.ends (f := _) ?_
  dsimp only
  rw [qcfg_new, if_pos ((qcfgBad_iff s _).2 hb)]
  rfl

theorem ends_qcfg_busy (hb : ¬QcfgBad s (m.extractLsb' 128 128))
    (hen : (s.queue (m.extractLsb' 64 15).toNat).getLsbD 63 = true)
    (he : ¬QueueEmpty (s.queue (m.extractLsb' 64 15).toNat)) : CommandEnds s .qcfg s 1 0 := by
  change execQcfg s = _
  refine h.ends (f := _) ?_
  dsimp only
  rw [qcfg_new, field_eq_toNat m 64 15, if_neg (mt (qcfgBad_iff s _).1 hb), if_pos ((queueBusy_iff _).2 ⟨hen, he⟩)]
  rfl

theorem ends_qcfg_nofit (hb : ¬QcfgBad s (m.extractLsb' 128 128))
    (ho : QueueOpens (m.extractLsb' 128 128) (s.queue (m.extractLsb' 64 15).toNat))
    (hf : s.queueFits ((m.extractLsb' 128 128).extractLsb' 112 16).toNat = false) : CommandEnds s .qcfg s 3 0 := by
  change execQcfg s = _
  refine h.ends (f := _) ?_
  dsimp only
  rw [qcfg_new, field_eq_toNat m 64 15, if_neg (mt (qcfgBad_iff s _).1 hb),
    if_neg (mt (queueBusy_iff _).1 fun busy => Bool.false_ne_true (ho.2.symm.trans busy.1)), qPart_setWidth, hf,
    (queueOpens_iff _ _).2 ho]
  rfl

/-- QCFG writes the configuration, with the indices that the queue keeps. -/
theorem ends_qcfg_write (hb : ¬QcfgBad s (m.extractLsb' 128 128))
    (he : (s.queue (m.extractLsb' 64 15).toNat).getLsbD 63 = true → QueueEmpty (s.queue (m.extractLsb' 64 15).toNat))
    (hf : QueueOpens (m.extractLsb' 128 128) (s.queue (m.extractLsb' 64 15).toNat) →
      s.queueFits ((m.extractLsb' 128 128).extractLsb' 112 16).toNat = true) :
    CommandEnds s .qcfg (s.modQueue (m.extractLsb' 64 15).toNat fun _ => BitVec.ofNat 192 ((m.extractLsb' 128 128).toNat +
      if qEn ((m.extractLsb' 128 128).setWidth 192) && !qEn (s.queue (m.extractLsb' 64 15).toNat) then 0
      else field (s.queue (m.extractLsb' 64 15).toNat) 64 32 * 2 ^ 64 +
        field (s.queue (m.extractLsb' 64 15).toNat) 128 64 * 2 ^ 128)) 0 0 := by
  change execQcfg s = _
  refine h.ends (f := _) ?_
  have fits : ¬(qEn ((m.extractLsb' 128 128).setWidth 192) && !qEn (s.queue (m.extractLsb' 64 15).toNat) &&
      !s.queueFits ((m.extractLsb' 128 128).extractLsb' 112 16).toNat) = true := by
    rw [Bool.and_eq_true, queueOpens_iff, Bool.not_eq_true', ← Bool.not_eq_true]
    exact fun no => no.2 (hf no.1)
  dsimp only
  rw [qcfg_new, field_eq_toNat m 64 15, if_neg (mt (qcfgBad_iff s _).1 hb),
    if_neg (mt (queueBusy_iff _).1 fun busy => busy.2 (he busy.1)), qPart_setWidth, if_neg fits,
    BitVec.toNat_setWidth_of_le (show 128 ≤ 192 by norm_num)]
  rfl

/-- A queue that QCFG opens begins at index 0, another keeps its indices. -/
theorem ends_qcfg_ok (hb : ¬QcfgBad s (m.extractLsb' 128 128))
    (he : (s.queue (m.extractLsb' 64 15).toNat).getLsbD 63 = true → QueueEmpty (s.queue (m.extractLsb' 64 15).toNat))
    (hf : QueueOpens (m.extractLsb' 128 128) (s.queue (m.extractLsb' 64 15).toNat) →
      s.queueFits ((m.extractLsb' 128 128).extractLsb' 112 16).toNat = true) :
    ∃ x : BitVec 192, CommandEnds s .qcfg (s.modQueue (m.extractLsb' 64 15).toNat fun _ => x) 0 0 ∧
      x.extractLsb' 0 64 = (m.extractLsb' 128 128).extractLsb' 0 64 ∧
      x.extractLsb' 96 32 = (m.extractLsb' 128 128).extractLsb' 96 32 ∧
      (QueueOpens (m.extractLsb' 128 128) (s.queue (m.extractLsb' 64 15).toNat) →
        x.extractLsb' 64 32 = 0 ∧ x.extractLsb' 128 64 = 0) ∧
      (¬QueueOpens (m.extractLsb' 128 128) (s.queue (m.extractLsb' 64 15).toNat) →
        x.extractLsb' 64 32 = (s.queue (m.extractLsb' 64 15).toNat).extractLsb' 64 32 ∧
          x.extractLsb' 128 64 = (s.queue (m.extractLsb' 64 15).toNat).extractLsb' 128 64) := by
  have zero : (m.extractLsb' 128 128).extractLsb' 64 48 = 0 := not_not.1 fun hz => hb (.inr (.inl hz))
  have written := ends_qcfg_write h hb he hf
  rw [← ofNat_field (s.queue _) 64 32, ← ofNat_field (s.queue _) 128 64]
  by_cases opens : QueueOpens (m.extractLsb' 128 128) (s.queue (m.extractLsb' 64 15).toNat)
  · rw [if_pos ((queueOpens_iff _ _).2 opens)] at written
    obtain ⟨low, high, note, indices⟩ := queueEntry_fields (m.extractLsb' 128 128) zero (note := 0) (indices := 0)
      (by norm_num) (by norm_num) _ (by rw [Nat.zero_mul, Nat.zero_mul])
    exact ⟨_, written, low, high, fun _ => ⟨note, indices⟩, fun no => absurd opens no⟩
  · rw [if_neg (mt (queueOpens_iff _ _).1 opens)] at written
    obtain ⟨low, high, note, indices⟩ := queueEntry_fields (m.extractLsb' 128 128) zero (field_lt _ 64 32)
      (field_lt _ 128 64) _ rfl
    exact ⟨_, written, low, high, fun yes => absurd yes opens, fun _ => ⟨note, indices⟩⟩

end
end Sys2Proof.Machine
end

section
/-! SUPPORT. What each management command does, continued: MODE, LAYOUT, RETIRE, RETURN, ANSWER, RESUME, ATTEST, PODCFG and FWLOAD
(22 R443 to R448). -/

namespace Sys2Proof.Machine

/-! ### MODE -/

/-- The state in which MODE leaves the module (R445): requests of a function that returns to hardware mode are decided by the
device. -/
def State.withMode (s : State) (mode : Word64) : State :=
  let back := s.host.assisted.filter fun a => !mode.getLsbD a.fn && a.answer.isNone
  let s := s.modHost fun h => { h with
    mpmode := mode, assisted := h.assisted.filter fun a => mode.getLsbD a.fn || a.answer.isSome }
  let s := if mode.getLsbD 3 then s
    else s.modBoard fun b => { b with handovers := b.handovers.map fun h => { h with assisted := false } }
  s.due (back.map Assist.due)

theorem State.withMode_host (s : State) (mode : Word64) : (s.withMode mode).host = { s.host with
    mpmode := mode, assisted := s.host.assisted.filter fun a => mode.getLsbD a.fn || a.answer.isSome } := by
  unfold State.withMode
  dsimp only
  split <;> rfl

theorem State.withMode_agenda (s : State) (mode : Word64) : (s.withMode mode).agenda = s.agenda ++
    (s.host.assisted.filter fun a => !mode.getLsbD a.fn && a.answer.isNone).map Assist.due := by
  unfold State.withMode
  dsimp only
  split <;> rfl

/-- The device drives every hand-over again where function 3 returns to hardware mode. -/
theorem State.withMode_handovers (s : State) (mode : Word64) (hm : mode.getLsbD 3 = false) :
    ∀ h ∈ (s.withMode mode).board.handovers, h.assisted = false := by
  intro h hh
  unfold State.withMode at hh
  dsimp only at hh
  rw [if_neg (Bool.eq_false_iff.1 hm)] at hh
  obtain ⟨h', -, rfl⟩ := List.mem_map.1 hh
  rfl

/-- MODE as the command gives it. -/
def modeOf (m : BitVec 512) : Word64 := (m.extractLsb' 64 6).setWidth 64

theorem getLsbD_modeOf (m : BitVec 512) (fn : Nat) :
    (modeOf m).getLsbD fn = (decide (fn < 6) && m.getLsbD (64 + fn)) := by
  rw [modeOf, BitVec.getLsbD_setWidth, BitVec.getLsbD_extractLsb']
  by_cases h : fn < 6
  · simp [h, show fn < 64 by omega]
  · simp [h]

/-- What stays are the requests of functions that stay host-assisted, and those that have been answered. -/
theorem mem_withMode_assisted {s : State} {m : BitVec 512} {a : Assist}
    (ha : a ∈ (s.withMode (modeOf m)).host.assisted) :
    a ∈ s.host.assisted ∧ (m.getLsbD (64 + a.fn) = true ∧ a.fn < 6 ∨ a.answer ≠ none) := by
  rw [State.withMode_host] at ha
  obtain ⟨mem, stays⟩ := List.mem_filter.1 ha
  rw [getLsbD_modeOf, Bool.or_eq_true, Bool.and_eq_true, decide_eq_true_eq, Option.isSome_iff_ne_none] at stays
  exact ⟨mem, stays.imp_left And.symm⟩

/-- The step that asked for a function that returns to hardware mode is due again. -/
theorem due_mem_withMode_agenda {s : State} {m : BitVec 512} {a : Assist} (ha : a ∈ s.host.assisted)
    (hm : m.getLsbD (64 + a.fn) = false) (hn : a.answer = none) : a.due ∈ (s.withMode (modeOf m)).agenda := by
  rw [State.withMode_agenda]
  refine List.mem_append_right _ (List.mem_map_of_mem (List.mem_filter.2 ⟨ha, ?_⟩))
  rw [getLsbD_modeOf, hm, hn, Bool.and_false]
  rfl

section
variable {s : State} {m : BitVec 512} (h : Commanded s m)
include h

theorem ends_setMode_busy (hs : s.board.switching ≠ 0) : CommandEnds s .setMode s 1 0 := by
  change execSetMode s = _
  exact h.ends (if_pos hs)

theorem ends_setMode_ok (hs : s.board.switching = 0) :
    CommandEnds s .setMode (s.withMode (modeOf m)) 0 0 := by
  change execSetMode s = _
  refine h.ends (f := _) ((if_neg (not_not.2 hs)).trans ?_)
  rw [field_eq_toNat, BitVec.ofNat_toNat]
  rfl

end

/-! ### LAYOUT -/

section
variable {s : State} {m : BitVec 512} (h : Commanded s m)
include h

theorem ends_layoutPrepare_misaligned (ha : (m.extractLsb' 128 48).toNat % 64 ≠ 0) : CommandEnds s .layoutPrepare s 2 0 := by
  change execLayoutPrepare s = _
  rw [← field_eq_toNat] at ha
  exact h.ends (if_pos ha)

theorem ends_layoutPrepare_aligned (ha : (m.extractLsb' 128 48).toNat % 64 = 0) :
    let a := (m.extractLsb' 128 48).toNat
    let r := s.prepare (fun off k => s.rdNat (hostKey (a + off)) k) a
    CommandEnds s .layoutPrepare r.1 r.2.1 (r.2.2.getD 0) := by
  change execLayoutPrepare s = _
  rw [← field_eq_toNat] at ha ⊢
  exact h.ends (if_neg (not_not.2 ha))

theorem ends_layoutCommit_none (hp : s.board.prepared = none) : CommandEnds s .layoutCommit s 3 0 := by
  change execLayoutCommit s = _
  refine h.ends (f := _) ?_
  simp [State.commit, h.down, hp, stNoPrep]

theorem ends_layoutAbort_none (hp : s.board.prepared = none) : CommandEnds s .layoutAbort s 3 0 := by
  change execLayoutAbort s = _
  refine h.ends (f := _) ?_
  simp [State.abort, h.down, hp, stNoPrep]

theorem ends_layoutAbort_some {l : Layout} (hp : s.board.prepared = some l) :
    CommandEnds s .layoutAbort ((s.modBoard fun b => { b with prepared := none }).journalLayout 0x05 l) 0 0 := by
  change execLayoutAbort s = _
  refine h.ends (f := _) ?_
  simp [State.abort, h.down, hp, stOk, jAbort]

theorem ends_layoutCommit_busy {l : Layout} (hp : s.board.prepared = some l) (hs : s.board.switching ≠ 0) :
    CommandEnds s .layoutCommit s 1 0 := by
  change execLayoutCommit s = _
  refine h.ends (f := _) ?_
  simp [State.commit, h.down, hp, hs, stBusy]

theorem ends_layoutCommit_some {l : Layout} (hp : s.board.prepared = some l) (hs : s.board.switching = 0) :
    CommandEnds s .layoutCommit
      (((s.modBoard fun b => { b with prepared := none }).journalLayout 0x02 l).startSwitch l 0 0) 0 0 := by
  change execLayoutCommit s = _
  refine h.ends (f := _) ?_
  simp [State.commit, h.down, hp, hs, stOk, jCmt]

end

/-! ### RETIRE and RETURN -/

theorem State.unitBusy_iff (s : State) (u : Nat) : s.unitBusy u = true ↔
    (u < 16 ∧ s.board.switching ≠ 0) ∨ (16 ≤ u ∧ u < 24 ∧ ∃ h ∈ s.board.handovers, h.stack = u - 16) := by
  simp only [State.unitBusy, State.passing, Nat.testBit_two_pow, Bool.or_eq_true, Bool.and_eq_true, decide_eq_true_eq,
    List.any_eq_true, and_assoc, eq_comm (a := u - 16)]

theorem State.unitBusy_eq_false {s : State} {u : Nat} (hb : ¬((u < 16 ∧ s.board.switching ≠ 0) ∨
    (16 ≤ u ∧ u < 24 ∧ ∃ h ∈ s.board.handovers, h.stack = u - 16))) : s.unitBusy u = false :=
  Bool.eq_false_iff.2 (mt (s.unitBusy_iff u).1 hb)

theorem retireStep_cluster {c : Nat} (hc : c < 16) : retireStep (unitCluster c) = .num .clusterRetire c := if_pos hc

theorem retireStep_stack {k : Nat} (hk : k < 8) : retireStep (unitStack k) = .num .stackRetire k := by
  rw [retireStep, unitStack, if_neg (by omega), if_pos (by omega), Nat.add_sub_cancel_left]

theorem retireStep_link {l : Nat} (hl : l < 4) : retireStep (unitLink l) = .num .linkRetire 0 l := by
  rw [retireStep, unitLink, if_neg (by omega), if_neg (by omega), if_pos (by omega), Nat.add_sub_cancel_left]

theorem retireStep_cxl {p : Nat} (hp : p < 8) : retireStep (unitCxl p) = .num .linkRetire 1 p := by
  rw [retireStep, unitCxl, if_neg (by omega), if_neg (by omega), if_neg (by omega), if_pos (by omega),
    Nat.add_sub_cancel_left]

theorem retireStep_jorrin (p : Nat) : retireStep (unitJorrin p) = .num .linkRetire 2 p := by
  rw [retireStep, unitJorrin, if_neg (by omega), if_neg (by omega), if_neg (by omega), if_neg (by omega),
    Nat.add_sub_cancel_left]

section
variable {s : State} {m : BitVec 512} (h : Commanded s m)
include h

theorem ends_retire_noUnit (hu : unitOf (m.extractLsb' 80 8).toNat (m.extractLsb' 64 16).toNat = none) :
    CommandEnds s .retire s 2 0 := by
  change execRetire s = _
  rw [← field_eq_toNat, ← field_eq_toNat] at hu
  refine h.ends (f := _) ?_
  simp only [hu, mbBadcmd]

theorem ends_returnUnit_noUnit (hu : unitOf (m.extractLsb' 80 8).toNat (m.extractLsb' 64 16).toNat = none) :
    CommandEnds s .returnUnit s 2 0 := by
  change execReturnUnit s = _
  rw [← field_eq_toNat, ← field_eq_toNat] at hu
  refine h.ends (f := _) ?_
  simp only [hu, mbBadcmd]

variable {u : Nat} (hu : unitOf (m.extractLsb' 80 8).toNat (m.extractLsb' 64 16).toNat = some u)
include hu

theorem ends_retire_retired (hr : s.isRetired u = true) : CommandEnds s .retire s 4 0 := by
  change execRetire s = _
  rw [← field_eq_toNat, ← field_eq_toNat] at hu
  refine h.ends (f := _) ?_
  simp only [hu, hr, if_true, mbRetired]

theorem ends_retire_busy (hr : s.isRetired u = false) (hb : s.unitBusy u = true) : CommandEnds s .retire s 1 0 := by
  change execRetire s = _
  rw [← field_eq_toNat, ← field_eq_toNat] at hu
  refine h.ends (f := _) ?_
  simp only [hu, hr, hb, if_true, Bool.false_eq_true, if_false, mbBusy]

theorem ends_retire_ok (hr : s.isRetired u = false) (hb : s.unitBusy u = false) :
    CommandEnds s .retire (s.due [retireStep u]) 0 0 := by
  change execRetire s = _
  rw [← field_eq_toNat, ← field_eq_toNat] at hu
  refine h.ends (f := _) ?_
  simp only [hu, hr, hb, Bool.false_eq_true, if_false, mbOk]

theorem ends_returnUnit_busy (hb : s.unitBusy u = true) : CommandEnds s .returnUnit s 1 0 := by
  change execReturnUnit s = _
  rw [← field_eq_toNat, ← field_eq_toNat] at hu
  refine h.ends (f := _) ?_
  simp only [hu, hb, if_true, mbBusy]

theorem ends_returnUnit_retired (hb : s.unitBusy u = false) (hr : s.isRetired u = true) :
    CommandEnds s .returnUnit (s.returnsUnit u) 0 0 := by
  change execReturnUnit s = _
  rw [← field_eq_toNat, ← field_eq_toNat] at hu
  refine h.ends (f := _) ?_
  simp only [hu, hb, hr, if_true, Bool.false_eq_true, if_false, mbOk]

/-- In a stack that is in service, the channel that the command names returns. -/
theorem ends_returnUnit_channel (hb : s.unitBusy u = false) (hr : s.isRetired u = false)
    (hc : (m.extractLsb' 80 8).toNat = 0x04 ∧
      s.isRetired (unitChannel ((m.extractLsb' 64 16).toNat / 64) ((m.extractLsb' 64 16).toNat % 64)) = true) :
    CommandEnds s .returnUnit
      (s.returnsUnit (unitChannel ((m.extractLsb' 64 16).toNat / 64) ((m.extractLsb' 64 16).toNat % 64))) 0 0 := by
  change execReturnUnit s = _
  rw [← field_eq_toNat, ← field_eq_toNat] at hu hc
  rw [← field_eq_toNat m 64 16]
  refine h.ends (f := _) ?_
  simp only [hu, hb, hr, Bool.false_eq_true, if_false, if_pos hc, mbOk]

theorem ends_returnUnit_inService (hb : s.unitBusy u = false) (hr : s.isRetired u = false)
    (hc : ¬((m.extractLsb' 80 8).toNat = 0x04 ∧
      s.isRetired (unitChannel ((m.extractLsb' 64 16).toNat / 64) ((m.extractLsb' 64 16).toNat % 64)) = true)) :
    CommandEnds s .returnUnit s 2 0 := by
  change execReturnUnit s = _
  rw [← field_eq_toNat, ← field_eq_toNat] at hu hc
  refine h.ends (f := _) ?_
  simp only [hu, hb, hr, Bool.false_eq_true, if_false, if_neg hc, mbBadcmd]

end

/-! ### ANSWER and RESUME -/

/-- The request `a` has been answered. -/
def State.answered (s : State) (a : Assist) (v : Word64) : State :=
  s.modHost fun h => { h with assisted := h.assisted.map fun x => if x = a then { a with answer := some v } else x }

theorem mem_answered {s : State} {a : Assist} (v : Word64) (ha : a ∈ s.host.assisted) :
    { a with answer := some v } ∈ (s.answered a v).host.assisted :=
  List.mem_map.2 ⟨a, ha, if_pos rfl⟩

section
variable {s : State} {m : BitVec 512} (h : Commanded s m)
include h

theorem ends_answer_none
    (hn : ∀ a ∈ s.host.assisted, a.tag = (m.extractLsb' 64 32).toNat → a.answer ≠ none) :
    CommandEnds s .answer s 5 0 := by
  change execAnswer s = _
  rw [← field_eq_toNat] at hn
  have none_ : (s.host.assisted.find? fun a => decide (a.tag = field m 64 32) && a.answer.isNone) = none :=
    List.find?_eq_none.2 fun a ha waits => by
      rw [Bool.and_eq_true, decide_eq_true_eq, Option.isNone_iff_eq_none] at waits
      exact hn a ha waits.1 waits.2
  refine h.ends (f := _) ?_
  simp only [none_, mbStale]

theorem ends_answer_some {a : Assist}
    (ha : s.host.assisted.find? (fun x => decide (x.tag = (m.extractLsb' 64 32).toNat) && x.answer.isNone) = some a) :
    CommandEnds s .answer ((s.answered a (m.extractLsb' 96 64)).due [a.due]) 0 0 := by
  change execAnswer s = _
  rw [← field_eq_toNat] at ha
  rw [← ofNat_field]
  refine h.ends (f := _) ?_
  simp only [ha, mbOk, State.answered]

theorem ends_resumeFault_none (hn : s.resume (m.extractLsb' 64 16).toNat (m.extractLsb' 96 32) = none) :
    CommandEnds s .resumeFault s 5 0 := by
  change execResumeFault s = _
  rw [← field_eq_toNat, ← ofNat_field] at hn
  refine h.ends (f := _) ?_
  simp only [hn, mbStale]

theorem ends_resumeFault_some {t : State}
    (ht : s.resume (m.extractLsb' 64 16).toNat (m.extractLsb' 96 32) = some t) : CommandEnds s .resumeFault t 0 0 := by
  change execResumeFault s = _
  rw [← field_eq_toNat, ← ofNat_field] at ht
  refine h.ends (f := _) ?_
  simp only [ht, mbOk]

end
end Sys2Proof.Machine
end

section
/-! SUPPORT. What each management command does, continued: ATTEST, PODCFG and FWLOAD (22 R436, R446 to R448). -/

namespace Sys2Proof.Machine

/-! ### ATTEST -/

/-- A record of the journal (21 R429). -/
def journalRecord (seqn kind ver arg : Nat) : BitVec 512 :=
  let body := mkRecord [(0, 8, kind), (64, 32, ver), (128, 64, arg), (448, 32, seqn)]
  BitVec.ofNat 512 (body + crc32 480 body * 2 ^ 480)

theorem journal_journal (s : State) (kind ver arg : Nat) : ∃ seqn, (s.journal kind ver arg).mgmt.journal =
    if (s.mgmt.journal ++ [journalRecord seqn kind ver arg]).length ≤ 256
    then s.mgmt.journal ++ [journalRecord seqn kind ver arg]
    else (s.mgmt.journal ++ [journalRecord seqn kind ver arg]).drop 1 := ⟨_, rfl⟩

theorem journalRecord_fields (seqn kind ver arg : Nat) : recordKind (journalRecord seqn kind ver arg) = kind % 2 ^ 8 ∧
    recordArg (journalRecord seqn kind ver arg) = arg % 2 ^ 64 := by
  have rising : Rising [(0, 8, kind), (64, 32, ver), (128, 64, arg), (448, 32, seqn)] := by simp [Rising]
  rw [recordKind, recordArg, field_eq_toNat, field_eq_toNat, journalRecord,
    extractLsb'_ofNat_add_mul _ _ (by norm_num), extractLsb'_ofNat_add_mul _ _ (by norm_num),
    extractLsb'_mkRecord rising (v := kind) (by simp) (by norm_num),
    extractLsb'_mkRecord rising (v := arg) (by simp) (by norm_num), BitVec.toNat_ofNat, BitVec.toNat_ofNat]
  exact ⟨rfl, rfl⟩

/-- The journal ends with the record that has been put into it. -/
theorem journal_getLast (s : State) (kind ver arg : Nat) : ∃ r, (s.journal kind ver arg).mgmt.journal.getLast? = some r ∧
    recordKind r = kind % 2 ^ 8 ∧ recordArg r = arg % 2 ^ 64 := by
  obtain ⟨seqn, hj⟩ := journal_journal s kind ver arg
  refine ⟨_, ?_, journalRecord_fields seqn kind ver arg⟩
  rw [hj]
  split
  · exact List.getLast?_concat ..
  · rename_i long
    rw [List.getLast?_drop, if_neg (by simp only [List.length_append, List.length_singleton] at long ⊢; omega),
      List.getLast?_concat]

/-- The next leaf of the identity key has been taken, and its use is journalled (R447; log 77). -/
def State.takeLeaf (s : State) : State :=
  (s.modMgmt fun m => { m with leaf := m.leaf + 1 }).journal jLeaf s.board.layout.version.toNat (s.mgmt.leaf.toNat + 1)

/-- What a quote states (R447; log 85). -/
def State.quoted (s : State) (nonce : BitVec 256) : List Byte :=
  natToBytes 32 (shake256 s.mgmt.running) ++ natToBytes 4 (bytesToNat (s.mgmt.running.take 64) % 2 ^ 32) ++
    natToBytes 4 s.board.layout.version.toNat ++ natToBytes 8 s.host.mpmode.toNat ++ natToBytes 32 nonce.toNat

theorem quoteBody_eq_quoted (s : State) (nonce : BitVec 256) :
    quoteBody s.mgmt.running s.board.layout.version s.host.mpmode nonce = s.quoted nonce := by
  rw [quoteBody, State.quoted, imageVersion, bitsAt, pow_zero, Nat.div_one]

/-- A quote and its signature under a leaf. -/
def State.signedQuote (s : State) (nonce : BitVec 256) : List Byte :=
  s.quoted nonce ++ Config.identitySignature s.mgmt.leaf (s.quoted nonce)

section
variable {s : State} {m : BitVec 512} (h : Commanded s m)
include h

theorem ends_attest_exhausted (hl : 2 ^ 20 ≤ s.mgmt.leaf.toNat) : CommandEnds s .attest s 9 0 := by
  change execAttest s = _
  exact h.ends (if_pos hl)

theorem ends_attest_ok (hl : s.mgmt.leaf.toNat < 2 ^ 20) : CommandEnds s .attest
    (s.takeLeaf.wrN (hostKey (m.extractLsb' 320 48).toNat) (s.signedQuote (m.extractLsb' 64 256))) 0 0 := by
  change execAttest s = _
  refine h.ends (f := _) ((if_neg (Nat.not_le.2 hl)).trans ?_)
  dsimp only
  rw [quoteBody_eq_quoted, field_eq_toNat]
  rfl

end

/-- After a quote the leaf is the next one, and the journal says so. -/
theorem takeLeaf_journal {s : State} (hl : s.mgmt.leaf.toNat < 2 ^ 20) : ∃ r, s.takeLeaf.mgmt.journal.getLast? = some r ∧
    recordKind r = 0x15 ∧ recordArg r = s.mgmt.leaf.toNat + 1 := by
  obtain ⟨r, last, kind, arg⟩ := journal_getLast (s.modMgmt fun m => { m with leaf := m.leaf + 1 }) jLeaf
    s.board.layout.version.toNat (s.mgmt.leaf.toNat + 1)
  exact ⟨r, last, kind, arg.trans (Nat.mod_eq_of_lt (by omega))⟩

/-- Bytes that are stored stand at their key, and no other byte changes. -/
theorem byte_wrN_cases {s : State} (k : Nat) (bs : List Byte) (hm : s.MemOk) :
    (∀ i < bs.length, (s.wrN k bs).byte (k + i) = bs.getD i 0) ∧
      ∀ key, key < k ∨ k + bs.length ≤ key → (s.wrN k bs).byte key = s.byte key := by
  constructor
  · intro i hi
    rw [State.byte_wrN _ _ _ _ hm, if_pos (by omega), Nat.add_sub_cancel_left]
  · intro key hk
    rw [State.byte_wrN _ _ _ _ hm, if_neg (by omega)]

/-! ### PODCFG -/

section
variable {s : State} {m : BitVec 512} (h : Commanded s m)
include h

theorem ends_podcfgSetPkgn_busy (hn : (m.extractLsb' 80 12).toNat ≠ s.pod.pkgn.toNat)
    (hj : ∃ e ∈ s.partList, e.2.pjob ≠ 0) : CommandEnds s .podcfgSetPkgn s 1 0 := by
  change execPodcfgSetPkgn s = _
  rw [← field_eq_toNat] at hn
  refine h.ends (f := _) (if_pos ⟨hn, ?_⟩)
  simpa using hj

theorem ends_podcfgSetPkgn_ok (hn : (m.extractLsb' 80 12).toNat = s.pod.pkgn.toNat ∨ (∀ e ∈ s.partList, e.2.pjob = 0)) :
    CommandEnds s .podcfgSetPkgn (s.modPod fun p => { p with
      pkgn := m.extractLsb' 80 12, routes := Tab.set 0 p.routes (m.extractLsb' 80 12).toNat 0 }) 0 0 := by
  change execPodcfgSetPkgn s = _
  refine h.ends (f := _) ((if_neg ?_).trans ?_)
  · rw [field_eq_toNat]
    rintro ⟨hne, hj⟩
    obtain ⟨e, he, hp⟩ := List.any_eq_true.1 hj
    exact of_decide_eq_true hp (hn.elim (fun heq => absurd heq hne) fun none_ => none_ e he)
  · rw [ofNat_field, field_eq_toNat]
    rfl

theorem ends_podcfgSetRoute : CommandEnds s .podcfgSetRoute (if (m.extractLsb' 80 12).toNat = s.pod.pkgn.toNat then s
    else (s.modPod fun p => { p with
      routes := Tab.set 0 p.routes (m.extractLsb' 80 12).toNat (m.extractLsb' 96 16) }).failUnrouted) 0 0 := by
  change execPodcfgSetRoute s = _
  refine h.ends (f := _) ?_
  dsimp only
  rw [ofNat_field, field_eq_toNat]
  split <;> rfl

end

/-! ### FWLOAD -/

/-- The header of a firmware image (R446). -/
def imageHeader (image : List Byte) : BitVec 512 := BitVec.ofNat 512 (bytesToNat (image.take 64))

theorem imageVersion_eq (image : List Byte) : imageVersion image = ((imageHeader image).extractLsb' 0 32).toNat := by
  rw [← field_eq_toNat, imageHeader, field_ofNat _ (by norm_num), imageVersion]

/-- An image is signed: its header is well formed, and the signature that follows its code verifies (R446). -/
def SignedImage (image : List Byte) : Prop :=
  Config.signatureValid Config.keyHash (image.take (64 + ((imageHeader image).extractLsb' 64 32).toNat))
      (image.drop (64 + ((imageHeader image).extractLsb' 64 32).toNat)) = true ∧
    64 + ((imageHeader image).extractLsb' 64 32).toNat < image.length ∧
    (imageHeader image).extractLsb' 32 32 = 0 ∧ (imageHeader image).extractLsb' 96 416 = 0

theorem imageSigned_iff (image : List Byte) : imageSigned image = true ↔ SignedImage image := by
  have code : imageLength image = ((imageHeader image).extractLsb' 64 32).toNat := by
    rw [← field_eq_toNat, imageHeader, field_ofNat _ (by norm_num), imageLength]
  have low : bitsAt 32 32 (bytesToNat (image.take 64)) = 0 ↔ (imageHeader image).extractLsb' 32 32 = 0 := by
    rw [← field_eq_zero_iff, imageHeader, field_ofNat _ (by norm_num)]
  have high : bitsAt 96 416 (bytesToNat (image.take 64)) = 0 ↔ (imageHeader image).extractLsb' 96 416 = 0 := by
    rw [← field_eq_zero_iff, imageHeader, field_ofNat _ (by norm_num)]
  rw [imageSigned, SignedImage, code]
  simp only [Bool.and_eq_true, decide_eq_true_eq, low, high]
  tauto

/-- The image that FWLOAD names in host memory. -/
def State.namedImage (s : State) (m : BitVec 512) : List Byte :=
  s.rdN (hostKey (m.extractLsb' 64 48).toNat) (m.extractLsb' 128 32).toNat

/-- The state with an image stored and its version in the fuses (R448). -/
def State.storeImage (s : State) (image : List Byte) : State := { s with mgmt := { s.mgmt with
  stored := image, fuse := ((imageHeader image).extractLsb' 0 32).setWidth 64, watchdog := s.now } }

theorem exec_fwload_down {s : State} (hd : s.mgmt.down = true) : exec .fwload s = .next (s.endCommand 1 0) := by
  change execFwload s = _
  exact if_pos hd

section
variable {s : State} {m : BitVec 512} (ha : s.arg = .cmd 32768 m)
include ha

theorem namedImage_eq : s.rdN (hostKey (field s.command 64 48)) (field s.command 128 32) = s.namedImage m := by
  rw [State.command, ha, State.namedImage, field_eq_toNat, field_eq_toNat]

theorem exec_fwload_unsigned (hd : s.mgmt.down = false) (hs : ¬SignedImage (s.namedImage m)) :
    exec .fwload s = .next (s.endCommand 6 0) := by
  change execFwload s = _
  rw [← imageSigned_iff, Bool.not_eq_true] at hs
  simp [execFwload, namedImage_eq ha, hd, hs, mbBadsig]

theorem exec_fwload_rollback (hd : s.mgmt.down = false) (hs : SignedImage (s.namedImage m))
    (hv : ((imageHeader (s.namedImage m)).extractLsb' 0 32).toNat < s.mgmt.fuse.toNat) :
    exec .fwload s = .next (s.endCommand 7 0) := by
  change execFwload s = _
  rw [← imageSigned_iff] at hs
  rw [← imageVersion_eq] at hv
  simp [execFwload, namedImage_eq ha, hd, hs, hv, Mgmt.accepts, mbRollback]

theorem exec_fwload_ok (hd : s.mgmt.down = false) (hs : SignedImage (s.namedImage m))
    (hv : s.mgmt.fuse.toNat ≤ ((imageHeader (s.namedImage m)).extractLsb' 0 32).toNat) :
    exec .fwload s = .next (if s.mgmt.recovery
      then ((s.storeImage (s.namedImage m)).endCommand 0 0).due [.num .powerOn 0 1]
      else (s.storeImage (s.namedImage m)).endCommand 0 0) := by
  change execFwload s = _
  have fuse : BitVec.ofNat 64 (imageVersion (s.namedImage m)) =
      ((imageHeader (s.namedImage m)).extractLsb' 0 32).setWidth 64 := by rw [imageVersion_eq, BitVec.ofNat_toNat]
  rw [← imageSigned_iff] at hs
  rw [← imageVersion_eq] at hv
  simp only [execFwload, namedImage_eq ha, hd, hs, fuse, Mgmt.accepts, decide_eq_true hv, Bool.and_self, Bool.not_true,
    Bool.false_eq_true, if_false]
  rfl

end
end Sys2Proof.Machine
end

section
/-! The host block and the module after reset: O53 and O60. -/

namespace Sys2Proof.Machine

/-- The event of the end of bring-up waits (22 R449). -/
theorem reset_event : ∃ e, State.reset.host.events = [e] ∧ e.extractLsb' 0 8 = 0x09 := by
  refine ⟨BitVec.ofNat 2048 0x09, rfl, ?_⟩
  rw [← ofNat_field, field_ofNat _ (by norm_num)]
  rfl

theorem reset_queue (q : Nat) : State.reset.queue q = 0 := rfl

/-- Settles O60: each clause is read off the reset state, whose canonical form is `State.reset_ok`. -/
theorem resetState : Obligations.ResetState := by
  unfold Obligations.ResetState
  exact ⟨State.reset_ok, fun _ => rfl, fun _ _ => rfl, fun _ => ⟨fun _ => rfl, fun _ => rfl⟩, by decide, by decide,
    fun _ => rfl, fun _ => rfl, rfl, fun q => by rw [reset_queue]; decide, rfl, rfl, fun _ => rfl, reset_event⟩

/-- A write to MBELL submits the step that MBOX names. -/
theorem registerWrite_submits {s : State} {v : Word64} {i : Instr} (ha : s.arg = .value 0x80 v) (hb : s.host.busy = false)
    (hi : commandStep s.host.mbox = i) : exec .registerWrite s =
      .next (({ s with host := { s.host with busy := true } } : State).due [⟨i, .cmd 32768 s.host.mbox⟩]) := by
  rw [exec_registerWrite_mbell ha hb, hi]
  rfl

section
variable {s : State} {v : Word64} (ha : s.arg = .value 0x80 v) (hb : s.host.busy = false)
  (hr : s.host.mbox.extractLsb' 8 56 = 0)
include ha hb hr

/-- The same for a record whose reserved bits are zero, by KIND. -/
theorem registerWrite_submits_kind {kind : BitVec 8} {i : Instr} (hk : s.host.mbox.extractLsb' 0 8 = kind)
    (hi : kindStep kind.toNat (s.host.mbox.extractLsb' 64 2).toNat = i) : exec .registerWrite s =
      .next (({ s with host := { s.host with busy := true } } : State).due [⟨i, .cmd 32768 s.host.mbox⟩]) :=
  registerWrite_submits ha hb ((commandStep_of_reserved_eq hr).trans (by rw [hk, hi]))

/-- By KIND and OP. -/
theorem registerWrite_submits_op {kind : BitVec 8} {op : BitVec 2} {i : Instr}
    (hk : s.host.mbox.extractLsb' 0 8 = kind) (ho : s.host.mbox.extractLsb' 64 2 = op)
    (hi : kindStep kind.toNat op.toNat = i) : exec .registerWrite s =
      .next (({ s with host := { s.host with busy := true } } : State).due [⟨i, .cmd 32768 s.host.mbox⟩]) :=
  registerWrite_submits_kind ha hb hr hk (by rw [ho, hi])

end

/-- Settles O53. Each clause is put together from the lemmas on the step that it is about: doorbells, the event ring, the
registers with the table of KIND, MBRES, the checks before every command, the commands one by one, and FWLOAD. -/
theorem hostEvents : Obligations.HostEvents := by
  unfold Obligations.HostEvents
  refine ⟨fun s q v vf ha => ⟨exec_notifyQueue_reserved ha, exec_notifyQueue_foreign ha, fun hq hp hw =>
      ⟨_, exec_notifyQueue_own ha hq hp, setNote_fields s q v hw⟩⟩, ?_, ?_, ?_, ?_, ?_, ?_⟩
  · -- R441, R421: the event ring
    intro s
    refine ⟨exec_eventPost_closed, fun _ he hd => exec_eventPost_none (nextEvent_nothing he hd), fun e rest ho he => ?_,
      fun d e rest ho he hd before herr => ?_⟩
    · obtain ⟨low, lost, high⟩ := setLost_fields s e
      exact ⟨_, low, lost, high, exec_eventPost_waiting ho he⟩
    · obtain ⟨kind, pid, lost, now, zero, body, above⟩ := errorEvent_fields s e
      exact ⟨_, kind, pid, lost, now, zero, body, above, exec_eventPost_error ho he hd before herr⟩
  · -- R440, R443: the registers, and which step MBELL submits
    intro s off v ha
    refine ⟨?_, ?_, ?_, ?_, ?_, ?_, exec_registerWrite_other ha, rfl, rfl, rfl, rfl, rfl, fun _ => hostRead_mbox s, rfl,
      rfl, hostRead_doorbell s⟩
    · rintro rfl; exact exec_registerWrite_eqbase ha
    · rintro rfl; exact exec_registerWrite_eqctl ha
    · rintro rfl; exact exec_registerWrite_eqhead ha
    · rintro j hj rfl; exact ⟨_, exec_registerWrite_mbox hj ha, mbox_fields _ _ hj⟩
    · rintro rfl; exact exec_registerWrite_busy ha
    · rintro rfl hb
      refine ⟨fun hr => registerWrite_submits ha hb (commandStep_of_reserved_ne hr), fun hr => ?_⟩
      have byKind {k i} := registerWrite_submits_kind (kind := k) (i := i) ha hb hr
      have byOp {k o i} := registerWrite_submits_op (kind := k) (op := o) (i := i) ha hb hr
      exact ⟨fun hk => byKind hk rfl, fun hk => byKind hk rfl,
        fun hk => ⟨fun ho => byOp hk ho rfl, fun ho => byOp hk ho rfl, fun ho => byOp hk ho rfl, fun ho => byOp hk ho rfl⟩,
        fun hk => byKind hk rfl, fun hk => byKind hk rfl, fun hk => byKind hk rfl, fun hk => byKind hk rfl,
        fun hk => byKind hk rfl, fun hk => byKind hk rfl,
        fun hk => ⟨fun ho => byOp hk ho rfl, fun ho => byOp hk ho rfl,
          fun ho => ho.elim (fun ho => byOp hk ho rfl) fun ho => byOp hk ho rfl⟩,
        fun hk => byKind rfl (kindStep_reserved _ (hk.imp_left fun zero => by rw [zero]; rfl))⟩
  · -- R443: MBRES
    exact fun s m status result ha _ _ => ⟨_, rfl, endCommand_mbres status result ha⟩
  · -- R442, R430: in recovery, and while the management processor is down
    exact fun s i hi => ⟨exec_of_recovery hi, exec_of_down hi⟩
  · -- R443 to R447, R436: the commands
    intro s m ha hr hd
    have h : Commanded s m := ⟨ha, hr, hd⟩
    refine ⟨ends_mboxBadcmd h, ⟨ends_qcfg_bad h, ends_qcfg_busy h, ends_qcfg_nofit h, ends_qcfg_ok h⟩,
      ends_setMode_busy h,
      fun hs => ⟨_, ends_setMode_ok h hs, by rw [State.withMode_host]; rfl,
        fun _ => mem_withMode_assisted, fun _ ha _ => due_mem_withMode_agenda ha,
        fun hm => State.withMode_handovers _ _ (by rw [getLsbD_modeOf, hm]; rfl)⟩,
      ⟨ends_layoutPrepare_misaligned h, ends_layoutPrepare_aligned h⟩,
      fun hp => ⟨ends_layoutCommit_none h hp, ends_layoutAbort_none h hp⟩,
      fun l hp => ⟨ends_layoutAbort_some h hp, ends_layoutCommit_busy h hp, ends_layoutCommit_some h hp⟩,
      fun hu => ⟨ends_retire_noUnit h hu, ends_returnUnit_noUnit h hu⟩, fun u hu => ?_,
      ends_answer_none h,
      fun a ha => ⟨_, ends_answer_some h ha, mem_answered _ (List.mem_of_find?_eq_some ha), rfl⟩,
      ends_resumeFault_none h, fun t => ends_resumeFault_some h, ends_attest_exhausted h,
      fun hl hm => ⟨_, ends_attest_ok h hl, rfl, takeLeaf_journal hl, byte_wrN_cases (s := s.takeLeaf) _ _ hm⟩,
      ends_podcfgSetPkgn_busy h, ends_podcfgSetPkgn_ok h, ends_podcfgSetRoute h⟩
    have idle {u} := State.unitBusy_eq_false (s := s) (u := u)
    exact ⟨ends_retire_retired h hu, fun hr hb => ends_retire_busy h hu hr ((s.unitBusy_iff u).2 hb),
      fun hr hb => ⟨_, ends_retire_ok h hu hr (idle hb), fun c hc e => e ▸ retireStep_cluster hc,
        fun k hk e => e ▸ retireStep_stack hk, fun l hl e => e ▸ retireStep_link hl, fun p hp e => e ▸ retireStep_cxl hp,
        fun p _ e => e ▸ retireStep_jorrin p⟩,
      fun hb => ends_returnUnit_busy h hu ((s.unitBusy_iff u).2 hb),
      fun hb hr => ⟨ends_returnUnit_retired h hu (idle hb) hr, s.isRetired_returnsUnit u⟩,
      fun hb hr => ⟨ends_returnUnit_channel h hu (idle hb) hr, ends_returnUnit_inService h hu (idle hb) hr⟩⟩
  · -- R448: FWLOAD
    exact fun s m ha => ⟨exec_fwload_down, exec_fwload_unsigned ha, exec_fwload_rollback ha, exec_fwload_ok ha⟩

end Sys2Proof.Machine
end

section
/-! SUPPORT. Rings and tables: which place a search in ring order finds, and what reads back in any table. -/

namespace Sys2Proof

theorem ringFind_eq_some {n start j : Nat} {p : Nat → Bool} (hj : j < n) (hp : p ((start + j) % n) = true)
    (before : ∀ i < j, p ((start + i) % n) = false) : ringFind n start p = some ((start + j) % n) := by
  have found : (List.range n).find? (p ∘ fun i => (start + i) % n) = some j :=
    List.find?_range_eq_some.2 ⟨hp, List.mem_range.2 hj, fun i hi => by simp [before i hi]⟩
  rw [ringFind, List.find?_map, found]
  rfl

theorem lowest_eq_some {n j : Nat} {p : Nat → Bool} (hj : j < n) (hp : p j = true) (before : ∀ i < j, p i = false) :
    lowest n p = some j :=
  List.find?_range_eq_some.2 ⟨hp, List.mem_range.2 hj, fun i hi => by simp [before i hi]⟩

/-- A value other than the default reads back from a table of whatever form. -/
theorem Tab.get_set_self_of_ne {α : Type} [DecidableEq α] {d v : α} (t : Tab α) (n : Nat) (hv : v ≠ d) :
    Tab.get d (Tab.set d t n v) n = v := by
  induction t with
  | nil => simp [Tab.set, Tab.get, hv]
  | cons e t ih =>
    obtain ⟨k, w⟩ := e
    simp only [Tab.set]
    split
    · simp [Tab.get]
    · split
      · simp [Tab.get]
      · next hlt hne => rw [Tab.get, if_neg hne, if_neg hlt, ih]

end Sys2Proof
end

section
/-! SUPPORT. Waking (01 R13, R14; 09 R201, R204): which contexts become READY, and what stays. -/

namespace Sys2Proof.Machine

/-- `t` is `s` but for its cores and the steps that are due. -/
def State.MovesCores (s t : State) : Prop := t = { s with cores := t.cores, agenda := t.agenda }

theorem State.MovesCores.trans {s t u : State} (h : s.MovesCores t) (h' : t.MovesCores u) : s.MovesCores u := by
  rw [State.MovesCores] at *
  rw [h', h]

theorem State.MovesCores.rest {s t : State} (h : s.MovesCores t) :
    t.mem = s.mem ∧ t.tiles = s.tiles ∧ t.parts = s.parts ∧ t.board = s.board ∧ t.host = s.host := by
  rw [State.MovesCores] at h
  rw [h]
  exact ⟨rfl, rfl, rfl, rfl, rfl⟩

theorem State.movesCores_foldl {β : Type} {f : State → β → State} (hf : ∀ (s : State) b, s.MovesCores (f s b))
    (l : List β) (s : State) : s.MovesCores (l.foldl f s) :=
  foldl_keeps s.MovesCores f l s rfl fun _ b h => h.trans (hf _ b)

theorem State.movesCores_wake (s : State) (g c : Nat) : s.MovesCores (s.wake g c) := by
  unfold State.MovesCores State.wake
  dsimp only
  split <;> rfl

theorem State.movesCores_wakeAll (s : State) (g : Nat) (p : Wait → Bool) : s.MovesCores (s.wakeAll g p) :=
  State.movesCores_foldl (fun s n => s.movesCores_wake g n) _ s

theorem State.movesCores_setCounter (s : State) (g n : Nat) (v : Word32) : s.MovesCores (s.setCounter g n v) :=
  State.MovesCores.trans (t := s.modCore g fun c => { c with counters := Tab.set 0 c.counters n v }) rfl
    (State.movesCores_wakeAll _ g _)

/-! ### One context -/

theorem State.wake_cores (s : State) (g c : Nat) :
    (s.wake g c).cores = (s.modCtx g c fun k => { k with mode := .ready }).cores := by
  unfold State.wake
  dsimp only
  split <;> rfl

theorem State.wake_ok {s : State} {g c : Nat} (h : s.Ok) : (s.wake g c).Ok := by
  have woken : (s.modCtx g c fun k => { k with mode := .ready }).Ok := State.modCtx_ok h fun _ hk => hk
  unfold State.wake
  dsimp only
  split
  · exact State.due_ok woken
  · exact woken

theorem State.core_wake {s : State} (hs : s.Ok) (g c h : Nat) : (s.wake g c).core h =
    if h = g then (s.core g).setCtx c { s.ctx g c with mode := .ready } else s.core h := by
  rw [State.core, State.wake_cores]
  exact State.core_setCore s g h _ hs.cores

/-- A wake changes a context of one core, and nothing else of any core. -/
theorem State.core_wake_frame {s : State} (hs : s.Ok) (g c h : Nat) :
    (s.wake g c).core h = { s.core h with ctxs := ((s.wake g c).core h).ctxs } := by
  rw [State.core_wake hs]
  split
  · next e => rw [e]; rfl
  · rfl

theorem State.ctx_wake {s : State} (hs : s.Ok) (g c h n : Nat) : (s.wake g c).ctx h n =
    if h = g ∧ n = c then { s.ctx h n with mode := .ready } else s.ctx h n := by
  rw [State.ctx, State.core_wake hs]
  by_cases hg : h = g
  · subst hg
    rw [if_pos rfl, Core.ctx_setCtx _ _ _ _ hs.core.1]
    by_cases hn : n = c
    · subst hn; simp
    · simp [hn]; rfl
  · simp [hg]; rfl

/-! ### Several contexts of a core -/

theorem State.foldl_wake_ok {s : State} (hs : s.Ok) (g : Nat) (l : List Nat) : (l.foldl (fun s n => s.wake g n) s).Ok :=
  foldl_ok hs fun _ _ => State.wake_ok

theorem State.ctx_foldl_wake {s : State} (hs : s.Ok) (g h n : Nat) (l : List Nat) :
    (l.foldl (fun s n => s.wake g n) s).ctx h n =
      if h = g ∧ n ∈ l then { s.ctx h n with mode := .ready } else s.ctx h n := by
  induction l generalizing s with
  | nil => simp
  | cons c l ih =>
    rw [List.foldl_cons, ih (State.wake_ok hs), State.ctx_wake hs]
    by_cases hg : h = g <;> by_cases hc : n = c <;> by_cases hl : n ∈ l <;> simp [hg, hc, hl]

theorem State.core_foldl_wake {s : State} (hs : s.Ok) (g h : Nat) (l : List Nat) :
    ∃ x, (l.foldl (fun s n => s.wake g n) s).core h = { s.core h with ctxs := x } := by
  induction l generalizing s with
  | nil => exact ⟨_, rfl⟩
  | cons c l ih =>
    obtain ⟨x, hx⟩ := ih (State.wake_ok (g := g) (c := c) hs)
    exact ⟨x, by rw [List.foldl_cons, hx, State.core_wake_frame hs]⟩

theorem State.core_foldl_wake_ne {s : State} (hs : s.Ok) {g h : Nat} (hne : h ≠ g) (l : List Nat) :
    (l.foldl (fun s n => s.wake g n) s).core h = s.core h := by
  induction l generalizing s with
  | nil => rfl
  | cons c l ih => rw [List.foldl_cons, ih (State.wake_ok hs), State.core_wake hs, if_neg hne]

theorem Core.mem_waiters {c : Core} {p : Wait → Bool} {n : Nat} :
    n ∈ c.waiters p ↔ n < 16 ∧ (c.ctx n).live = true ∧ ∃ w, (c.ctx n).mode = .waitSync w ∧ p w = true := by
  simp only [Core.waiters, List.mem_filter, List.mem_range, Bool.and_eq_true]
  cases (c.ctx n).mode <;> simp

theorem State.wakeAll_ok {s : State} {g : Nat} {p : Wait → Bool} (hs : s.Ok) : (s.wakeAll g p).Ok :=
  State.foldl_wake_ok hs g _

theorem State.ctx_wakeAll {s : State} (hs : s.Ok) (g h n : Nat) (p : Wait → Bool) : (s.wakeAll g p).ctx h n =
    if h = g ∧ n ∈ (s.core g).waiters p then { s.ctx h n with mode := .ready } else s.ctx h n :=
  State.ctx_foldl_wake hs g h n _

/-- Waking changes contexts alone of a core: its counters, its queues and which context runs stay. -/
theorem State.core_wakeAll {s : State} (hs : s.Ok) (g h : Nat) (p : Wait → Bool) :
    ∃ x, (s.wakeAll g p).core h = { s.core h with ctxs := x } := State.core_foldl_wake hs g h _

theorem State.core_wakeAll_ne {s : State} (hs : s.Ok) {g h : Nat} (hne : h ≠ g) (p : Wait → Bool) :
    (s.wakeAll g p).core h = s.core h := State.core_foldl_wake_ne hs hne _

end Sys2Proof.Machine
end

section
/-! SUPPORT. Messages, traces and the ends of strands move no context (09 R203, R216; 17 R391; 22 R438). -/

namespace Sys2Proof.Machine

/-! ### The cores stay -/

@[simp] theorem State.sendPacket_cores (s : State) (pkg : Nat) (own : Bool) (m : PodMsg) :
    (s.sendPacket pkg own m).cores = s.cores := by
  unfold State.sendPacket
  split
  · rfl
  · dsimp only
    split <;> rfl

@[simp] theorem State.sendPod_cores (s : State) (pkg : Nat) (m : PodMsg) : (s.sendPod pkg m).cores = s.cores :=
  s.sendPacket_cores pkg true m

@[simp] theorem State.checkBars_cores (s : State) (pid : Nat) (tcb : BitVec 32) :
    (s.checkBars pid tcb).cores = s.cores := by
  unfold State.checkBars
  dsimp only
  split
  · rfl
  · refine foldl_keeps (fun t : State => t.cores = s.cores) _ _ s rfl fun t m ht => ?_
    split
    · exact ht
    · split
      · split
        · exact ht
        · rw [State.sendPod_cores, ht]
      · exact ht

@[simp] theorem State.gangExit_cores (s : State) (pid : Nat) (tcb : BitVec 32) :
    (s.gangExit pid tcb).cores = s.cores := by
  unfold State.gangExit
  split
  · dsimp only
    split
    · exact s.sendPod_cores ..
    · rfl
  · rfl

@[simp] theorem State.withTask_cores (s : State) (pid : Nat) (h : BitVec 32) (f : Task → Task) :
    (s.withTask pid h f).cores = s.cores := by
  unfold State.withTask
  split <;> rfl

@[simp] theorem State.settle_cores (s : State) (pid : Nat) (h : BitVec 32) : (s.settle pid h).cores = s.cores := by
  unfold State.settle
  split <;> rfl

@[simp] theorem State.liveDown_cores (s : State) (g : Nat) : (s.liveDown g).cores = s.cores := by
  rw [State.liveDown, State.settle_cores, State.withTask_cores]

/-! ### A trace record leaves the cores, the tiles and the barriers -/

/-- What a trace leaves: the cores, the tiles and the open barriers. -/
def State.SameStrands (s t : State) : Prop := t.cores = s.cores ∧ t.tiles = s.tiles ∧ t.meetings = s.meetings

theorem State.sameStrands_event (s : State) (kind pid body : Nat) : s.SameStrands (s.event kind pid body) := by
  unfold State.SameStrands State.event
  split <;> exact ⟨rfl, rfl, rfl⟩

theorem State.sameStrands_vWrite {s t : State} {pid va n x : Nat} (h : s.vWrite pid va n x = some t) :
    s.SameStrands t := by
  unfold State.vWrite at h
  split at h
  · cases h
  · cases h
    exact foldl_keeps s.SameStrands _ _ s ⟨rfl, rfl, rfl⟩ fun _ _ ht => ht

theorem State.sameStrands_dropTrace (s : State) (pid h : Nat) : s.SameStrands (s.dropTrace pid h) := by
  unfold State.dropTrace
  cases hw : s.vWrite pid (s.part pid).slb 8 (putBits 224 32 (bitsAt 224 32 h + 1) h) with
  | none => exact ⟨rfl, rfl, rfl⟩
  | some t => exact State.sameStrands_vWrite hw

theorem State.sameStrands_traceAt (s : State) (pid kind pay core ctx die : Nat) :
    s.SameStrands (s.traceAt pid kind pay core ctx die) := by
  unfold State.traceAt
  split
  · exact ⟨rfl, rfl, rfl⟩
  · split
    · exact State.sameStrands_event (s.modPart pid _) ..
    · split
      · exact ⟨rfl, rfl, rfl⟩
      · dsimp only
        split
        · exact s.sameStrands_dropTrace ..
        · exact ⟨rfl, rfl, rfl⟩

end Sys2Proof.Machine
end

section
/-! SUPPORT. Contexts read after the writes of the shared operations (01 R14, R18). -/

namespace Sys2Proof.Machine

theorem State.ctx_eq_of_cores {s t : State} (h : t.cores = s.cores) (g n : Nat) : t.ctx g n = s.ctx g n := by
  rw [State.ctx, State.ctx, State.core, State.core, h]

theorem State.ctx_setCtx {s : State} (hs : s.Ok) (g c h n : Nat) (k : Ctx) :
    (s.setCtx g c k).ctx h n = if h = g ∧ n = c then k else s.ctx h n := by
  rw [State.ctx, State.setCtx, State.modCore, State.core_setCore _ _ _ _ hs.cores]
  by_cases hg : h = g
  · subst hg
    simp only [if_true, true_and]
    exact Core.ctx_setCtx _ _ _ _ hs.core.1
  · simp only [hg, if_false, false_and]
    rfl

/-- A change of a core that leaves its table of contexts leaves every context. -/
theorem State.ctx_modCore {s : State} (hs : s.Ok) (g h n : Nat) (f : Core → Core) (hf : ∀ c, (f c).ctxs = c.ctxs) :
    (s.modCore g f).ctx h n = s.ctx h n := by
  rw [State.ctx, State.modCore, State.core_setCore _ _ _ _ hs.cores]
  split
  · next e => rw [Core.ctx, hf, e]; rfl
  · rfl

theorem State.core_modCore_self {s : State} (hs : s.Ok) (g : Nat) (f : Core → Core) :
    (s.modCore g f).core g = f (s.core g) := by
  rw [State.modCore, State.core_setCore _ _ _ _ hs.cores, if_pos rfl]

theorem State.core_modCore_ne {s : State} (hs : s.Ok) {g h : Nat} (hne : h ≠ g) (f : Core → Core) :
    (s.modCore g f).core h = s.core h := by
  rw [State.modCore, State.core_setCore _ _ _ _ hs.cores, if_neg hne]

theorem State.leaveRunning_ok {s : State} {g c : Nat} {m : Mode} (hs : s.Ok) : (s.leaveRunning g c m).Ok :=
  State.due_ok (State.modCore_ok hs fun _ hc => Core.setCtx_ok hc hc.ctx)

/-- What leaving RUNNING does to the core. -/
def Core.leave (c : Nat) (m : Mode) (x : Core) : Core :=
  { x.setCtx c { x.ctx c with mode := m } with running := none, from_ := (c + 1) % 16 }

theorem State.core_leaveRunning_self {s : State} (hs : s.Ok) (g c : Nat) (m : Mode) :
    (s.leaveRunning g c m).core g = (s.core g).leave c m := State.core_modCore_self hs g (Core.leave c m)

theorem State.core_leaveRunning_ne {s : State} (hs : s.Ok) {g h : Nat} (hne : h ≠ g) (c : Nat) (m : Mode) :
    (s.leaveRunning g c m).core h = s.core h := State.core_modCore_ne hs hne (Core.leave c m)

/-- Leaving RUNNING changes the mode of one context, and no other context. -/
theorem State.ctx_leaveRunning_ne {s : State} (hs : s.Ok) {g c h n : Nat} (hne : ¬(h = g ∧ n = c)) (m : Mode) :
    (s.leaveRunning g c m).ctx h n = s.ctx h n := by
  by_cases hg : h = g
  · subst hg
    rw [State.ctx, State.core_leaveRunning_self hs]
    exact (Core.ctx_setCtx _ _ _ _ hs.core.1).trans (if_neg fun e => hne ⟨rfl, e⟩)
  · rw [State.ctx, State.core_leaveRunning_ne hs hg]
    rfl

end Sys2Proof.Machine
end

section
/-! SUPPORT. A counter that is set, a strand that ends, a barrier that is released (01 R14, R18; 09 R201, R203, R204,
R216). -/

namespace Sys2Proof.Machine

/-! ### A counter is set -/

/-- What a sleeper waits for that a counter `n` at `v` releases. -/
def releasedAt (n : Nat) (v : Word32) : Wait → Bool
  | .counter m u => decide (m = n) && reached v u
  | _ => false

def State.putCounter (s : State) (g n : Nat) (v : Word32) : State :=
  s.modCore g fun c => { c with counters := Tab.set 0 c.counters n v }

theorem State.setCounter_eq_wakeAll (s : State) (g n : Nat) (v : Word32) :
    s.setCounter g n v = (s.putCounter g n v).wakeAll g (releasedAt n v) := rfl

theorem State.putCounter_ok {s : State} {g n : Nat} {v : Word32} (hs : s.Ok) : (s.putCounter g n v).Ok :=
  State.modCore_ok hs fun _ hc => ⟨hc.1, Tab.wf_set _ _ _ _ hc.2.1, hc.2.2⟩

theorem State.ctx_putCounter {s : State} (hs : s.Ok) (g n : Nat) (v : Word32) (h c : Nat) :
    (s.putCounter g n v).ctx h c = s.ctx h c := State.ctx_modCore hs g h c _ fun _ => rfl

theorem State.counter_setCounter {s : State} (hs : s.Ok) (g n m : Nat) (v : Word32) :
    (s.setCounter g n v).counter g m = if m = n then v else s.counter g m := by
  obtain ⟨x, hx⟩ := State.core_wakeAll (State.putCounter_ok hs) g g (releasedAt n v)
  rw [State.counter, State.setCounter_eq_wakeAll, hx]
  change Tab.get 0 ((s.putCounter g n v).core g).counters m = _
  rw [State.putCounter, State.core_modCore_self hs]
  split
  · next e => rw [e]; exact Tab.get_set_self _ _ _ _ hs.core.2.1
  · next e => exact Tab.get_set_ne _ _ _ _ _ e hs.core.2.1

theorem State.ctx_setCounter {s : State} (hs : s.Ok) (g n : Nat) (v : Word32) (c : Nat) :
    (s.setCounter g n v).ctx g c =
      if c ∈ ((s.putCounter g n v).core g).waiters (releasedAt n v) then { s.ctx g c with mode := .ready }
      else s.ctx g c := by
  rw [State.setCounter_eq_wakeAll, State.ctx_wakeAll (State.putCounter_ok hs), State.ctx_putCounter hs]
  simp

/-- The sleepers that a counter releases are the live contexts that wait for a value that it has reached. -/
theorem State.mem_waiters_putCounter {s : State} (hs : s.Ok) {g n : Nat} {v : Word32} {c : Nat} :
    c ∈ ((s.putCounter g n v).core g).waiters (releasedAt n v) ↔
      c < 16 ∧ (s.ctx g c).live = true ∧ ∃ u, (s.ctx g c).mode = .waitSync (.counter n u) ∧ (v - u).toNat < 2 ^ 31 := by
  rw [Core.mem_waiters]
  change _ ∧ ((s.putCounter g n v).ctx g c).live = true ∧ (∃ w, ((s.putCounter g n v).ctx g c).mode = _ ∧ _) ↔ _
  rw [State.ctx_putCounter hs]
  refine and_congr_right fun _ => and_congr_right fun _ => ⟨?_, ?_⟩
  · rintro ⟨w, hm, hw⟩
    cases w with
    | counter m u =>
      simp only [releasedAt, reached, Bool.and_eq_true, decide_eq_true_eq] at hw
      obtain ⟨rfl, hu⟩ := hw
      exact ⟨u, hm, hu⟩
    | helper | leaveEarly | graph | barrier => cases hw
  · rintro ⟨u, hm, hu⟩
    exact ⟨_, hm, by simpa only [releasedAt, reached, decide_true, Bool.true_and, decide_eq_true_eq] using hu⟩

/-! ### A strand ends -/

/-- The deferred refusals of a context go. -/
def Core.dropRefusals (c : Nat) (x : Core) : Core :=
  { x with refusals := x.refusals.filter fun r => decide (r.ctx ≠ c) }

/-- What a strand waits for that joins another of its core. -/
def joinsOf (c : Nat) (w : Wait) : Bool := decide (w = .helper c)

/-- The context that ends is idle and the core has no RUNNING context: the part of `endStrand` before anything wakes. -/
def State.vacate (s : State) (g c : Nat) : State :=
  ((s.modCore g (Core.dropRefusals c)).leaveRunning g c .ready).setCtx g c Ctx.idle

section
variable {s : State} (hs : s.Ok) (g c : Nat)
include hs

theorem State.dropRefusals_ok : (s.modCore g (Core.dropRefusals c)).Ok :=
  State.modCore_ok hs fun _ hc => hc

theorem State.vacate_ok : (s.vacate g c).Ok :=
  State.setCtx_ok (State.leaveRunning_ok (State.dropRefusals_ok hs g c)) Ctx.idle_ok

theorem State.ctx_vacate (h n : Nat) : (s.vacate g c).ctx h n = if h = g ∧ n = c then Ctx.idle else s.ctx h n := by
  have dropped := State.dropRefusals_ok hs g c
  rw [State.vacate, State.ctx_setCtx (State.leaveRunning_ok dropped)]
  split
  · rfl
  · next hne => rw [State.ctx_leaveRunning_ne dropped hne, State.ctx_modCore hs]; intro; rfl

theorem State.running_vacate : ((s.vacate g c).core g).running = none := by
  have dropped := State.dropRefusals_ok hs g c
  rw [State.vacate, State.setCtx, State.core_modCore_self (State.leaveRunning_ok dropped)]
  exact congrArg Core.running (State.core_leaveRunning_self dropped g c .ready)

/-- A RUNNING strand without deferred refusals ends: it is idle, and those that join it wake. -/
theorem State.endStrand_cores (clean : (s.core g).refusals = []) (hrun : (s.core g).running = some c) :
    (s.endStrand g c).cores = ((s.vacate g c).wakeAll g (joinsOf c)).cores := by
  have still : ((s.modCore g (Core.dropRefusals c)).core g).running = some c := by
    rw [State.core_modCore_self hs, ← hrun]
    rfl
  have woken := congrArg (fun u : State => ((u.setCtx g c Ctx.idle).wakeAll g (joinsOf c)).cores)
    (if_pos still : (if _ then (s.modCore g (Core.dropRefusals c)).leaveRunning g c .ready
      else s.modCore g (Core.dropRefusals c)) = _)
  unfold State.endStrand
  dsimp only
  rw [State.liveDown_cores, clean, List.filter_nil, List.foldl_nil]
  split
  · rw [State.gangExit_cores, State.checkBars_cores]
    exact woken
  · exact woken

/-- The strands that join the one that ended. -/
theorem State.mem_waiters_vacate {n : Nat} : n ∈ ((s.vacate g c).core g).waiters (joinsOf c) ↔
    n < 16 ∧ n ≠ c ∧ (s.ctx g n).live = true ∧ (s.ctx g n).mode = .waitSync (.helper c) := by
  have hx : ((s.vacate g c).core g).ctx n = if n = c then Ctx.idle else s.ctx g n :=
    (State.ctx_vacate hs g c g n).trans (by simp)
  rw [Core.mem_waiters, hx]
  by_cases hn : n = c
  · simp [hn, Ctx.idle]
  · simp [hn, joinsOf]

theorem State.ctx_endStrand (clean : (s.core g).refusals = []) (hrun : (s.core g).running = some c) (h n : Nat) :
    (s.endStrand g c).ctx h n =
      if h = g ∧ n ∈ ((s.vacate g c).core g).waiters (joinsOf c) then { s.ctx h n with mode := .ready }
      else if h = g ∧ n = c then Ctx.idle else s.ctx h n := by
  rw [State.ctx_eq_of_cores (State.endStrand_cores hs g c clean hrun), State.ctx_wakeAll (State.vacate_ok hs g c),
    State.ctx_vacate hs]
  split
  · next joins =>
    obtain ⟨rfl, hj⟩ := joins
    rw [if_neg fun e => ((State.mem_waiters_vacate hs h c).1 hj).2.1 e.2]
  · rfl

theorem State.running_endStrand (clean : (s.core g).refusals = []) (hrun : (s.core g).running = some c) :
    ((s.endStrand g c).core g).running = none := by
  obtain ⟨x, hx⟩ := State.core_wakeAll (State.vacate_ok hs g c) g g (joinsOf c)
  rw [State.core, State.endStrand_cores hs g c clean hrun]
  exact (congrArg Core.running hx).trans (State.running_vacate hs g c)

end

/-! ### A barrier is released -/

/-- The waits that the release of a barrier ends. -/
def waitsAt (r : RedArr) : Wait → Bool
  | .barrier sc n => decide (sc = r.scope) && decide (n = r.tag)
  | _ => false

/-- The release reaches the core of one arrival. -/
def State.releaseAt (r : RedArr) (s : State) (a : RedArr) : State :=
  if s.pidOf a.by_.core = r.by_.pid ∧ s.tcbOf a.by_.core = r.by_.tcb then s.wakeAll a.by_.core (waitsAt r) else s

/-- The barrier is gone, and its end is traced. -/
def State.closeBar (s : State) (r : RedArr) : State :=
  let t : State := { s with meetings := s.meetings.filter fun m => !m.fits 0 r }
  if (s.meetings.filter fun m => m.fits 0 r).isEmpty then t
  else t.traceAt r.by_.pid 2 (scopeNum r.scope + r.tag * 2 ^ 32) 0 0 (dieOf (r.by_.core / 8))

/-- Those who have arrived at the barriers that a release names. -/
def State.barArrivals (s : State) (r : RedArr) : List RedArr :=
  (s.meetings.filter fun m => m.fits 0 r).flatMap (·.arrived)

theorem exec_barRelease_stopping {s : State} {r : RedArr} {n : Nat} (ha : s.arg = .arr r)
    (hn : (s.part r.by_.pid).taskSlot r.by_.tcb = some n) (hstop : (s.task r.by_.pid n).stopping = true) :
    exec .barRelease s = .next (if r.scope = .pod then s.dueIn 64 ⟨.barRelease, .arr r⟩ else s) := by
  change execBarRelease s = _
  simp only [execBarRelease, ha, hn, hstop, if_true]

theorem exec_barRelease {s : State} {r : RedArr} (ha : s.arg = .arr r)
    (hgo : ∀ n, (s.part r.by_.pid).taskSlot r.by_.tcb = some n → (s.task r.by_.pid n).stopping = false) :
    exec .barRelease s = .next ((s.barArrivals r).foldl (State.releaseAt r) (s.closeBar r)) := by
  change execBarRelease s = _
  rw [State.barArrivals, List.foldl_flatMap]
  unfold execBarRelease
  split
  · next r' h =>
    cases ha.symm.trans h
    refine (if_neg ?_).trans rfl
    split
    · next n hn => simp [hgo n hn]
    · exact Bool.false_ne_true
  · next h => exact absurd ha (h r)

theorem State.sameStrands_closeBar (s : State) (r : RedArr) :
    ({ s with meetings := s.meetings.filter fun m => !m.fits 0 r } : State).SameStrands (s.closeBar r) := by
  unfold State.closeBar
  dsimp only
  split
  · exact ⟨rfl, rfl, rfl⟩
  · exact State.sameStrands_traceAt ..

theorem State.movesCores_releaseAt (r : RedArr) (s : State) (a : RedArr) : s.MovesCores (s.releaseAt r a) := by
  unfold State.releaseAt
  split
  · exact s.movesCores_wakeAll ..
  · rfl

end Sys2Proof.Machine
end

section
/-! SUPPORT. Which contexts the release of a barrier wakes, and when a barrier is released (09 R216). -/

namespace Sys2Proof.Machine

/-- A context that waits at the barrier that a release names. -/
def State.WaitsAt (s : State) (r : RedArr) (g c : Nat) : Prop :=
  s.pidOf g = r.by_.pid ∧ s.tcbOf g = r.by_.tcb ∧ c < 16 ∧ (s.ctx g c).live = true ∧
    (s.ctx g c).mode = .waitSync (.barrier r.scope r.tag)

theorem State.mem_waiters_waitsAt {s : State} {r : RedArr} {g c : Nat} : c ∈ (s.core g).waiters (waitsAt r) ↔
    c < 16 ∧ (s.ctx g c).live = true ∧ (s.ctx g c).mode = .waitSync (.barrier r.scope r.tag) := by
  rw [Core.mem_waiters]
  refine and_congr_right fun _ => and_congr_right fun _ => ⟨?_, fun h => ⟨_, h, by simp [waitsAt]⟩⟩
  rintro ⟨w, hm, hw⟩
  cases w with
  | barrier sc n =>
    simp only [waitsAt, Bool.and_eq_true, decide_eq_true_eq] at hw
    obtain ⟨rfl, rfl⟩ := hw
    exact hm
  | counter | helper | leaveEarly | graph => cases hw

theorem State.releaseAt_ok {s : State} {r a : RedArr} (hs : s.Ok) : (s.releaseAt r a).Ok := by
  unfold State.releaseAt
  split
  · exact State.wakeAll_ok hs
  · exact hs

theorem State.tile_releaseAt (s : State) (r a : RedArr) (t : Nat) : (s.releaseAt r a).tile t = s.tile t := by
  rw [State.tile, State.movesCores_releaseAt r s a]
  rfl

section
variable {s : State} (hs : s.Ok) {r a : RedArr} {g c : Nat}
include hs

theorem State.ctx_releaseAt_of_waits (ha : a.by_.core = g) (hw : s.WaitsAt r g c) :
    (s.releaseAt r a).ctx g c = { s.ctx g c with mode := .ready } := by
  subst ha
  obtain ⟨hp, ht, waits⟩ := hw
  rw [State.releaseAt, if_pos ⟨hp, ht⟩, State.ctx_wakeAll hs, if_pos ⟨rfl, State.mem_waiters_waitsAt.2 waits⟩]

theorem State.ctx_releaseAt_of_not (h : ¬(a.by_.core = g ∧ s.WaitsAt r g c)) :
    (s.releaseAt r a).ctx g c = s.ctx g c := by
  unfold State.releaseAt
  split
  · next works =>
    rw [State.ctx_wakeAll hs, if_neg]
    rintro ⟨rfl, waits⟩
    exact h ⟨rfl, works.1, works.2, State.mem_waiters_waitsAt.1 waits⟩
  · rfl

/-- A context that a release has made READY waits no more, and every other one waits as before. -/
theorem State.waitsAt_releaseAt : (s.releaseAt r a).WaitsAt r g c ↔ s.WaitsAt r g c ∧ a.by_.core ≠ g := by
  by_cases h : a.by_.core = g ∧ s.WaitsAt r g c
  · simp [State.WaitsAt, State.ctx_releaseAt_of_waits hs h.1 h.2, h.1]
  · rw [State.WaitsAt, State.pidOf, State.tcbOf, State.tile_releaseAt, State.ctx_releaseAt_of_not hs h]
    exact ⟨fun w => ⟨w, fun e => h ⟨e, w⟩⟩, And.left⟩

end

section
variable {s : State} (hs : s.Ok) {r : RedArr} {l : List RedArr} {g c : Nat}
include hs

theorem State.ctx_foldl_releaseAt_of_not (h : ¬((∃ a ∈ l, a.by_.core = g) ∧ s.WaitsAt r g c)) :
    (l.foldl (State.releaseAt r) s).ctx g c = s.ctx g c := by
  induction l generalizing s with
  | nil => rfl
  | cons a l ih =>
    rw [List.exists_mem_cons_iff] at h
    rw [List.foldl_cons, ih (State.releaseAt_ok hs), State.ctx_releaseAt_of_not hs fun w => h ⟨.inl w.1, w.2⟩]
    exact fun ⟨later, w⟩ => h ⟨.inr later, ((State.waitsAt_releaseAt hs).1 w).1⟩

theorem State.ctx_foldl_releaseAt_of_waits (hl : ∃ a ∈ l, a.by_.core = g) (hw : s.WaitsAt r g c) :
    (l.foldl (State.releaseAt r) s).ctx g c = { s.ctx g c with mode := .ready } := by
  induction l generalizing s with
  | nil => simp at hl
  | cons a l ih =>
    rw [List.foldl_cons]
    by_cases ha : a.by_.core = g
    · rw [State.ctx_foldl_releaseAt_of_not (State.releaseAt_ok hs) fun w => ((State.waitsAt_releaseAt hs).1 w.2).2 ha,
        State.ctx_releaseAt_of_waits hs ha hw]
    · have later := ((List.exists_mem_cons_iff ..).1 hl).resolve_left ha
      rw [ih (State.releaseAt_ok hs) later ((State.waitsAt_releaseAt hs).2 ⟨hw, ha⟩),
        State.ctx_releaseAt_of_not hs fun w => ha w.1]

end

theorem State.mem_barArrivals {s : State} {r a : RedArr} :
    a ∈ s.barArrivals r ↔ ∃ m ∈ s.meetings, m.fits 0 r = true ∧ a ∈ m.arrived := by
  simp [State.barArrivals, and_assoc]

/-! ### Traces keep the canonical form -/

theorem State.event_ok {s : State} {kind pid body : Nat} (h : s.Ok) : (s.event kind pid body).Ok := by
  unfold State.event
  split
  · exact h.of h.mem rfl rfl rfl h.tables
  · exact h.of h.mem rfl rfl rfl h.tables

theorem State.vWrite_ok {s : State} {pid va n x : Nat} (h : s.Ok) : KeepsSome (s.vWrite pid va n x) := by
  unfold State.vWrite
  split
  · exact keeps_none
  · exact keeps_some (foldl_ok h fun _ _ => State.wrN_ok)

theorem State.dropTrace_ok {s : State} {pid n : Nat} (h : s.Ok) : (s.dropTrace pid n).Ok := by
  unfold State.dropTrace
  cases hw : s.vWrite pid (s.part pid).slb 8 (putBits 224 32 (bitsAt 224 32 n + 1) n) with
  | none => exact h
  | some t => exact State.vWrite_ok h t hw

theorem State.traceAt_ok {s : State} {pid kind pay core ctx die : Nat} (h : s.Ok) :
    (s.traceAt pid kind pay core ctx die).Ok := by
  unfold State.traceAt
  split
  · exact h
  · split
    · exact State.event_ok (State.modPart_ok h fun _ hp => hp)
    · split
      · exact h
      · dsimp only
        split
        · exact State.dropTrace_ok h
        · exact h.of h.mem rfl rfl rfl h.tables

theorem State.closeBar_ok {s : State} (hs : s.Ok) (r : RedArr) : (s.closeBar r).Ok := by
  have gone : ({ s with meetings := s.meetings.filter fun m => !m.fits 0 r } : State).Ok :=
    hs.of hs.mem rfl rfl rfl hs.tables
  unfold State.closeBar
  dsimp only
  split
  · exact gone
  · exact State.traceAt_ok gone

/-! ### The release as a whole -/

theorem State.waitsAt_closeBar (s : State) (r : RedArr) (g c : Nat) :
    (s.closeBar r).WaitsAt r g c ↔ s.WaitsAt r g c := by
  obtain ⟨cores, tiles, -⟩ := s.sameStrands_closeBar r
  simp only [State.WaitsAt, State.pidOf, State.tcbOf, State.tile, tiles, State.ctx, State.core, cores]

theorem State.ctx_closeBar (s : State) (r : RedArr) (g c : Nat) : (s.closeBar r).ctx g c = s.ctx g c :=
  State.ctx_eq_of_cores (s.sameStrands_closeBar r).1 g c

/-- What the release of a barrier leaves. -/
def State.barReleased (s : State) (r : RedArr) : State := (s.barArrivals r).foldl (State.releaseAt r) (s.closeBar r)

theorem State.meetings_barReleased (s : State) (r : RedArr) :
    (s.barReleased r).meetings = s.meetings.filter fun m => !m.fits 0 r := by
  rw [State.barReleased, State.movesCores_foldl (State.movesCores_releaseAt r) (s.barArrivals r) (s.closeBar r)]
  exact (s.sameStrands_closeBar r).2.2

theorem State.ctx_barReleased_of_waits {s : State} (hs : s.Ok) {r : RedArr} {g c : Nat}
    (ha : ∃ a ∈ s.barArrivals r, a.by_.core = g) (hw : s.WaitsAt r g c) :
    (s.barReleased r).ctx g c = { s.ctx g c with mode := .ready } := by
  have waits := (s.waitsAt_closeBar r g c).2 hw
  rw [State.barReleased, State.ctx_foldl_releaseAt_of_waits (State.closeBar_ok hs r) ha waits, State.ctx_closeBar]

theorem State.ctx_barReleased_of_not {s : State} (hs : s.Ok) {r : RedArr} {g c : Nat}
    (h : ¬((∃ a ∈ s.barArrivals r, a.by_.core = g) ∧ s.WaitsAt r g c)) : (s.barReleased r).ctx g c = s.ctx g c := by
  rw [State.barReleased, State.ctx_foldl_releaseAt_of_not (State.closeBar_ok hs r) (by rwa [State.waitsAt_closeBar]),
    State.ctx_closeBar]

/-! ### When a barrier is released -/

theorem State.allHere_iff (s : State) (m : Meeting) : s.allHere m = true ↔
    ∀ g ∈ s.participants m, (∃ r ∈ m.arrived, r.by_.core = g) ∨ (s.ctx g 0).live = false := by
  simp [State.allHere]

theorem Task.mem_coresIn {t : Task} {sc : Scope} {d g : Nat} :
    g ∈ t.coresIn sc d ↔ g / 8 ∈ t.tiles ∧ domainOf g sc = d := by
  simp only [Task.coresIn, List.mem_filter, List.mem_flatMap, List.mem_map, List.mem_range, decide_eq_true_eq]
  refine and_congr_left fun _ => ⟨?_, fun h => ⟨g / 8, h, g % 8, Nat.mod_lt _ (by decide), Nat.div_add_mod g 8⟩⟩
  rintro ⟨x, hx, k, hk, rfl⟩
  rwa [Nat.mul_add_div (by decide), Nat.div_eq_of_lt hk]

theorem State.participants_of_strand (s : State) {m : Meeting} (h : m.scope = .context ∨ m.scope = .core) :
    s.participants m = [m.domain] := by
  unfold State.participants
  obtain h | h := h <;> rw [h]

theorem State.participants_of_task (s : State) {m : Meeting} (hx : m.scope ≠ .context) (hc : m.scope ≠ .core) :
    s.participants m = match (s.part m.pid).taskSlot m.tcb with
      | some n => (s.task m.pid n).coresIn m.scope m.domain
      | none => [] := by
  unfold State.participants
  split
  · next h => exact absurd h hx
  · next h => exact absurd h hc
  · rfl

theorem State.barsHeld_iff (s : State) (pid : Nat) (tcb : BitVec 32) : s.barsHeld pid tcb = true ↔
    ∃ n, (s.part pid).taskSlot tcb = some n ∧ ((s.task pid n).stopping = true ∨ (s.task pid n).saved = true) := by
  unfold State.barsHeld
  split
  · next n h => simp [h]
  · next h => simp [h]

/-- The barriers of a task that are complete. -/
def State.wholeBars (s : State) (pid : Nat) (tcb : BitVec 32) : List Meeting :=
  s.meetings.filter fun m => decide (m.kind = 0) && decide (m.pid = pid) && decide (m.tcb = tcb) && s.allHere m

/-- A complete barrier's release comes due. -/
def State.dueRelease (s : State) (m : Meeting) : State :=
  match m.arrived with
  | [] => s
  | r :: _ => s.due [⟨.barRelease, .arr r⟩]

theorem State.checkBars_of_held {s : State} {pid : Nat} {tcb : BitVec 32} (h : s.barsHeld pid tcb = true) :
    s.checkBars pid tcb = s := if_pos h

theorem State.checkBars_of_free {s : State} {pid : Nat} {tcb : BitVec 32} (h : ¬s.barsHeld pid tcb = true)
    (near : ∀ m ∈ s.wholeBars pid tcb, m.scope ≠ .pod) :
    s.checkBars pid tcb = (s.wholeBars pid tcb).foldl State.dueRelease s := by
  refine (if_neg h).trans (List.foldl_ext _ _ _ fun u m hm => ?_)
  have here := near m hm
  unfold State.dueRelease
  cases m.arrived with
  | nil => rfl
  | cons r l => exact if_neg here

theorem State.checkBars_of_pod {s : State} {pid : Nat} {tcb : BitVec 32} {m : Meeting} {r : RedArr} {rest : List RedArr}
    (h : ¬s.barsHeld pid tcb = true) (only : s.meetings = [m]) (whole : s.wholeBars pid tcb = [m]) (hp : m.scope = .pod)
    (hr : m.arrived = r :: rest) : s.checkBars pid tcb =
      if m.need ≠ 0 then s else ({ s with meetings := [{ m with need := 1 }] } : State).sendPod (s.part pid).proot
        (.barArrive s.pod.pkgn.toNat (s.part pid).pjob (s.gangOf pid tcb) m.tag) := by
  refine (if_neg h).trans ?_
  change (s.wholeBars pid tcb).foldl _ s = _
  rw [whole, List.foldl_cons, List.foldl_nil, hr]
  simp only [hp, if_true, only, List.map_cons, List.map_nil]

/-! ### An arrival -/

theorem State.join_spec (s : State) (kind : BitVec 2) (r : RedArr) :
    s.join kind r = { s with meetings := (s.join kind r).meetings } ∧
      ∃ m ∈ (s.join kind r).meetings, m.fits kind r = true ∧ r ∈ m.arrived := by
  unfold State.join
  split
  · next h =>
    obtain ⟨m, hm, hf⟩ := List.any_eq_true.1 h
    refine ⟨rfl, { m with arrived := m.arrived ++ [r] }, List.mem_map.2 ⟨m, hm, if_pos hf⟩, hf, ?_⟩
    simp
  · refine ⟨rfl, _, List.mem_append_right _ (List.mem_singleton.2 rfl), ?_, List.mem_singleton.2 rfl⟩
    simp [Meeting.fits]

end Sys2Proof.Machine
end

section
/-! What wakes, and when barriers are released: O25. -/

namespace Sys2Proof.Machine

theorem setCounter_wakes {s : State} (hs : s.Ok) (g n : Nat) (v : Word32) :
    let t := s.setCounter g n v
    t.counter g n = v ∧ (∀ m, m ≠ n → t.counter g m = s.counter g m) ∧
    (∀ c < 16, (s.ctx g c).live = true → ∀ u, (s.ctx g c).mode = .waitSync (.counter n u) →
      t.ctx g c = if (v - u).toNat < 2 ^ 31 then { s.ctx g c with mode := .ready } else s.ctx g c) ∧
    (∀ c, (∀ u, (s.ctx g c).mode ≠ .waitSync (.counter n u)) → t.ctx g c = s.ctx g c) ∧
    (∀ h, h ≠ g → t.core h = s.core h) ∧
    t.mem = s.mem ∧ t.tiles = s.tiles ∧ t.parts = s.parts ∧ t.board = s.board ∧ t.host = s.host := by
  refine ⟨by simp [State.counter_setCounter hs], fun m hm => by simp [State.counter_setCounter hs, hm],
    fun c hc hl u hu => ?_, fun c hc => ?_, fun h hne => ?_, (s.movesCores_setCounter g n v).rest⟩
  · rw [State.ctx_setCounter hs]
    refine if_congr ((State.mem_waiters_putCounter hs).trans ⟨?_, fun h => ⟨hc, hl, u, hu, h⟩⟩) rfl rfl
    rintro ⟨-, -, u', hu', h⟩
    cases hu.symm.trans hu'
    exact h
  · rw [State.ctx_setCounter hs, if_neg]
    intro h
    obtain ⟨-, -, u, hu, -⟩ := (State.mem_waiters_putCounter hs).1 h
    exact hc u hu
  · rw [State.setCounter_eq_wakeAll, State.core_wakeAll_ne (State.putCounter_ok hs) hne]
    exact State.core_modCore_ne hs hne _

theorem exec_hexit {s : State} {pre : Prefixes} (h : s.Chosen pre) :
    exec (.hexit pre) s = .next (s.endStrand s.me s.myCtx) := congrArg Host.Outcome.next (if_pos h)

/-- Settles O25, clause by clause: a counter, the end of a strand, a release held back, a release, who takes part, the
check of a task's barriers, an arrival. -/
theorem wakesAndReleases : Obligations.WakesAndReleases := by
  unfold Obligations.WakesAndReleases
  refine ⟨fun s g n v hs => setCounter_wakes hs g n v, ?_,
    fun s r n ha hn hstop => exec_barRelease_stopping ha hn hstop, ?_, ?_, ?_, ?_⟩
  · intro s pre hs hp hr hrun joining
    have ctx := State.ctx_endStrand hs s.me s.myCtx hr hrun
    have joined {c : Nat} : c ∈ ((s.vacate s.me s.myCtx).core s.me).waiters (joinsOf s.myCtx) ↔ joining c :=
      State.mem_waiters_vacate hs s.me s.myCtx
    refine ⟨_, exec_hexit hp, ?_, State.running_endStrand hs _ _ hr hrun, fun c hc => ?_, fun c hne hc => ?_,
      fun g hg c => ?_⟩
    · rw [ctx, if_neg fun h => (joined.1 h.2).2.1 rfl, if_pos ⟨rfl, rfl⟩]
    · rw [ctx, if_pos ⟨rfl, joined.2 hc⟩]
    · rw [ctx, if_neg fun h => hc (joined.1 h.2), if_neg fun h => hne h.2]
    · rw [ctx, if_neg fun h => hg h.1, if_neg fun h => hg h.1]
  · intro s r hs ha hgo wakes
    have arrived {g : Nat} : (∃ a ∈ s.barArrivals r, a.by_.core = g) ↔
        ∃ m ∈ s.meetings, m.fits 0 r = true ∧ ∃ a ∈ m.arrived, a.by_.core = g := by
      simp only [State.mem_barArrivals]
      exact ⟨fun ⟨a, ⟨m, hm, hf, h⟩, e⟩ => ⟨m, hm, hf, a, h, e⟩, fun ⟨m, hm, hf, a, h, e⟩ => ⟨a, ⟨m, hm, hf, h⟩, e⟩⟩
    refine ⟨s.barReleased r, exec_barRelease ha hgo, fun m hm => ?_, fun g c ⟨hm, hw⟩ => ?_, fun g c h => ?_⟩
    · rw [State.meetings_barReleased] at hm
      simpa using (List.mem_filter.1 hm).2
    · exact State.ctx_barReleased_of_waits hs (arrived.2 hm) hw
    · exact State.ctx_barReleased_of_not hs fun w => h ⟨arrived.1 w.1, w.2⟩
  · intro s m
    refine ⟨s.allHere_iff m, s.participants_of_strand, fun hx hc => ⟨fun hn => ?_, fun n hn g => ?_⟩⟩
    · rw [s.participants_of_task hx hc, hn]
    · rw [s.participants_of_task hx hc, hn]
      exact Task.mem_coresIn
  · intro s pid tcb held whole
    have held_iff : s.barsHeld pid tcb = true ↔ held := s.barsHeld_iff pid tcb
    exact ⟨fun h => State.checkBars_of_held (held_iff.2 h),
      fun h near => State.checkBars_of_free (mt held_iff.1 h) near,
      fun m r rest h only hw hp hr => State.checkBars_of_pod (mt held_iff.1 h) only hw hp hr⟩
  · intro s r ha
    obtain ⟨same, member⟩ := s.join_spec 0 r
    refine ⟨s.join 0 r, ?_, same, member⟩
    change execBarArrival s = _
    simp only [execBarArrival, ha]

end Sys2Proof.Machine
end

section
/-! The arbiter of a tile (01 R21, R22): O19. -/

namespace Sys2Proof.Machine

/-! ### The choice -/

theorem mem_of_largest {f : Nat → Nat} {j : Nat} : ∀ {l : List Nat}, largest f l = some j → j ∈ l
  | [], h => by cases h
  | k :: ks, h => by
    rw [largest] at h
    split at h
    · cases h; exact List.mem_cons_self
    · next i hi =>
      split at h
      · cases h; exact List.mem_cons_self
      · cases h; exact List.mem_cons_of_mem _ (mem_of_largest hi)

/-- In a rising list the largest, and the lowest among its equals, is chosen. -/
theorem largest_eq_some {f : Nat → Nat} {w : Nat} {l : List Nat} (rising : l.Pairwise (· < ·)) (hw : w ∈ l)
    (best : ∀ k ∈ l, f k < f w ∨ (f k = f w ∧ w ≤ k)) : largest f l = some w := by
  induction l with
  | nil => cases hw
  | cons k ks ih =>
    obtain ⟨above, rising⟩ := List.pairwise_cons.1 rising
    rw [largest]
    obtain rfl | later := List.mem_cons.1 hw
    · split
      · rfl
      · next j hj =>
        have below := best j (List.mem_cons_of_mem _ (mem_of_largest hj))
        exact if_pos (by omega)
    · rw [ih rising later fun j hj => best j (List.mem_cons_of_mem _ hj)]
      have below := best k List.mem_cons_self
      have lt := above w later
      exact if_neg (by omega)

/-! ### A step of the arbiter -/

/-- The cores of a tile whose heads are issuable. -/
def State.candidates (s : State) (t : Nat) : List Nat :=
  (List.range 8).filter fun k => (s.core (8 * t + k)).issuable s.now

theorem State.mem_candidates {s : State} {t k : Nat} :
    k ∈ s.candidates t ↔ k < 8 ∧ (s.core (8 * t + k)).issuable s.now = true := by
  simp [State.candidates]

theorem State.candidates_rising (s : State) (t : Nat) : (s.candidates t).Pairwise (· < ·) :=
  (List.pairwise_lt_range).filter _

def State.refillAll (s : State) (t : Nat) : State := (List.range 8).foldl (fun s k => s.modCore (8 * t + k) refill) s

theorem State.now_refillAll (s : State) (t : Nat) : (s.refillAll t).now = s.now :=
  foldl_keeps (fun u : State => u.now = s.now) _ _ s rfl fun _ _ h => h

/-- The deficits as the arbiter compares them: after a refill where no candidate has a deficit of 1. -/
def State.refilled (s : State) (t : Nat) : State :=
  if (s.candidates t).any fun k => decide (1 ≤ (s.core (8 * t + k)).defi) then s else s.refillAll t

theorem State.now_refilled (s : State) (t : Nat) : (s.refilled t).now = s.now := by
  unfold State.refilled
  split
  · rfl
  · exact s.now_refillAll t

theorem State.refilled_of_short {s : State} {t : Nat}
    (h : ∀ k < 8, (s.core (8 * t + k)).issuable s.now = true → (s.core (8 * t + k)).defi = 0) :
    s.refilled t = s.refillAll t := by
  refine if_neg fun has => ?_
  obtain ⟨k, hk, hd⟩ := List.any_eq_true.1 has
  obtain ⟨lt, can⟩ := State.mem_candidates.1 hk
  simp [h k lt can] at hd

theorem State.refilled_of_not_short {s : State} {t : Nat}
    (h : ¬∀ k < 8, (s.core (8 * t + k)).issuable s.now = true → (s.core (8 * t + k)).defi = 0) : s.refilled t = s := by
  push Not at h
  obtain ⟨k, lt, can, hd⟩ := h
  exact if_pos (List.any_eq_true.2 ⟨k, State.mem_candidates.2 ⟨lt, can⟩, by simp; omega⟩)

/-- The head of a core is bound: the core and its tile as they stand before the instruction does its work. -/
def State.bindHead (s : State) (t l g : Nat) (e : VEntry) (d : Nat) : State :=
  (s.modCore g fun c =>
    let c' := { c with defi := c.defi - 1 }.popHead
    { c' with
      vready := (vecRegs e.instr).1.foldl
        (fun v n => Tab.set 0 v (staggered n d) (s.now + vecLatency e.instr)) c'.vready }).modTile t
  fun x => { x with groups := Tab.set 0 x.groups l (s.now + 4) }

/-- While a queue of the tile holds anything the arbiter runs again. -/
def State.rearm (s : State) (t : Nat) : State :=
  if (List.range 8).all fun k => ((s.core (8 * t + k)).head).isNone then s else s.due [.num .vectorBind t]

/-- The candidate with the largest deficit is bound to a lane group, and its instruction does its work. -/
def State.bindLargest (s : State) (t l : Nat) (cand : List Nat) : State :=
  match largest (fun k => (s.core (8 * t + k)).defi) cand with
  | none => s
  | some w =>
    match (s.core (8 * t + w)).head with
    | none => s
    | some (e, pass, d) => (((s.bindHead t l (8 * t + w) e d).vecRun (8 * t + w) e pass d).callReps t).rearm t

/-- The arbiter once the free lane group is known. -/
def State.bindOn (s : State) (t : Nat) : Option Nat → State
  | none => s.rearm t
  | some l => if (s.candidates t).isEmpty then s.rearm t else (s.refilled t).bindLargest t l (s.candidates t)

def State.freeGroup (s : State) (t : Nat) : Option Nat :=
  lowest 4 fun l => decide (Tab.get 0 (s.tile t).groups l ≤ s.now)

theorem bindVector_eq_bindOn (t : Nat) (s : State) : bindVector t s = (s.callReps t).bindOn t (s.freeGroup t) := rfl

theorem State.bindOn_some {s : State} {t l w pass d : Nat} {e : VEntry}
    (hw : largest (fun k => ((s.refilled t).core (8 * t + k)).defi) (s.candidates t) = some w)
    (hh : ((s.refilled t).core (8 * t + w)).head = some (e, pass, d)) :
    s.bindOn t (some l) =
      ((((s.refilled t).bindHead t l (8 * t + w) e d).vecRun (8 * t + w) e pass d).callReps t).rearm t := by
  have nonempty : ¬(s.candidates t).isEmpty = true := fun h => by
    rw [List.isEmpty_iff] at h
    rw [h] at hw
    cases hw
  rw [State.bindOn, if_neg nonempty, State.bindLargest, hw]
  dsimp only
  rw [hh]

theorem State.due_due (s : State) (ds es : List Due) : (s.due ds).due es = s.due (ds ++ es) :=
  congrArg (fun l => ({ s with agenda := l } : State)) (List.append_assoc ..)

/-- The loads of bodies that `State.callReps` makes due. -/
def State.bodyLoads (s : State) (t : Nat) : List Due :=
  ((List.range 8).filter fun k => (s.core (8 * t + k)).repWaits).map fun k => .num .repBodyLoad (8 * t + k)

/-- What comes due after a binding are the steps of repetition groups and of the arbiter. -/
theorem State.rearm_callReps (s : State) (t : Nat) :
    ∃ ds, (∀ x ∈ ds, x.what = .vectorBind ∨ x.what = .repBodyLoad) ∧ (s.callReps t).rearm t = s.due ds := by
  have bodies : ∀ x ∈ s.bodyLoads t, x.what = .repBodyLoad := by
    intro x hx
    obtain ⟨k, -, rfl⟩ := List.mem_map.1 hx
    rfl
  unfold State.rearm
  split
  · exact ⟨s.bodyLoads t, fun x hx => .inr (bodies x hx), rfl⟩
  · refine ⟨s.bodyLoads t ++ [Due.num .vectorBind t], fun x hx => ?_, s.due_due ..⟩
    obtain hx | hx := List.mem_append.1 hx
    · exact .inr (bodies x hx)
    · cases List.mem_singleton.1 hx
      exact .inl rfl

/-- Settles O19: the free lane group and the choice fix which head is bound (`State.bindOn_some`), and what comes due
after it is the arbiter's own steps (`State.rearm_callReps`). -/
theorem vectorArbiter : Obligations.VectorArbiter := by
  unfold Obligations.VectorArbiter
  intro s t l w ha hold hl free busy hw core can short ds0 r hds hshort hnot best e pass d hh
  have hr : (s.callReps t).refilled t = r := by
    by_cases h : short
    · rw [hshort h, hds]; exact State.refilled_of_short h
    · rw [hnot h, hds]; exact State.refilled_of_not_short h
  have hnow : r.now = s.now := hr ▸ State.now_refilled _ t
  have winner : w ∈ s.candidates t := State.mem_candidates.2 ⟨hw, can⟩
  have lane : s.freeGroup t = some l :=
    lowest_eq_some hl (by simpa using free) fun j hj => by simpa using busy j hj
  have choice : largest (fun k => (r.core (8 * t + k)).defi) (s.candidates t) = some w :=
    largest_eq_some (s.candidates_rising t) winner fun k hk =>
      best k (State.mem_candidates.1 hk).1 (State.mem_candidates.1 hk).2
  subst hr
  obtain ⟨ds, kinds, rest⟩ := State.rearm_callReps
    ((((s.callReps t).refilled t).bindHead t l (8 * t + w) e d).vecRun (8 * t + w) e pass d) t
  have bound := (congrArg ((s.callReps t).bindOn t) lane).trans ((State.bindOn_some choice hh).trans rest)
  refine ⟨ds, kinds, ?_⟩
  change execVectorBind s = _
  simp only [execVectorBind, ha, hold]
  rw [if_neg Bool.false_ne_true, bindVector_eq_bindOn, bound, State.bindHead, hnow]

end Sys2Proof.Machine
end

section
/-! Steps of a core (01 R13, R14, R18, R20, R27): O24. -/

namespace Sys2Proof.Machine

/-- A context that can be selected (01 R13). -/
def Core.Selectable (c : Core) (n : Nat) : Prop := (c.ctx n).live = true ∧ (c.ctx n).mode = .ready

theorem exec_contextSelect {s : State} {g n j : Nat} (ha : s.arg = .num g 0 0 0) (idle : (s.core g).running = none)
    (hj : j < 16) (hn : n = ((s.core g).from_ + j) % 16) (can : (s.core g).Selectable n)
    (before : ∀ i < j, ¬(s.core g).Selectable (((s.core g).from_ + i) % 16)) :
    exec .contextSelect s = .next (s.setCore g
      { (s.core g).setCtx n { (s.core g).ctx n with mode := .running } with running := some n }) := by
  subst hn
  have found : ringFind 16 (s.core g).from_
      (fun n => ((s.core g).ctx n).live && decide (((s.core g).ctx n).mode = .ready)) =
        some (((s.core g).from_ + j) % 16) :=
    ringFind_eq_some hj (by simpa [Core.Selectable] using can) fun i hi => by simpa [Core.Selectable] using before i hi
  change execContextSelect s = _
  simp only [execContextSelect, ha, idle, Option.isSome_none, Bool.false_eq_true, if_false, found]

/-- A value lands in A with the pointer's post-mode, and the PC advances. -/
theorem Ctx.land_value (k : Ctx) (npc : Addr) (p : Nat) (a : Addr) (ty : Option Ty) (v : Word64) :
    k.land ⟨npc, false, some (p, a), ty, none⟩ { Reply.plain with a := some v } =
      ({ k.setAddr p a with a := v, pc := npc, await := none, reply := none } : Ctx).loopTest := by
  simp only [Ctx.land, Reply.plain, if_true, if_false, Bool.false_eq_true]
  congr 2
  change (k.f &&& BitVec.allOnes 16) ||| 0#16 = k.f
  rw [BitVec.and_allOnes, BitVec.or_zero]

theorem exec_loadReply {s : State} {g c : Nat} (ha : s.arg = .num g c 0 0) :
    exec .loadReply s = .next (s.landReply g c) := by
  change execLoadReply s = _
  simp only [execLoadReply, ha]

theorem State.landReply_value {s : State} {g c : Nat} {w : Await} {r : Reply} (hm : (s.ctx g c).mode = .waitLoad)
    (hw : (s.ctx g c).await = some w) (hr : (s.ctx g c).reply = some r) (ht : r.trap = none) :
    s.landReply g c = (s.setCtx g c ((s.ctx g c).land w r)).wake g c := by
  simp only [State.landReply, hm, hw, hr, ht, ne_eq, not_true, if_false]

theorem State.landReply_trap {s : State} {g c : Nat} {w : Await} {r : Reply} {t : Trap}
    (hm : (s.ctx g c).mode = .waitLoad) (hw : (s.ctx g c).await = some w) (hr : (s.ctx g c).reply = some r)
    (ht : r.trap = some t) :
    s.landReply g c = ((s.setCtx g c { s.ctx g c with await := none, reply := none }).wake g c).takeTrap g c
      { t with pc := (s.ctx g c).pc } := by
  simp only [State.landReply, hm, hw, hr, ht, ne_eq, not_true, if_false]

/-- A word whose page is known and lies in a memory of this package enters the cache. -/
theorem exec_icacheMissFill {s : State} {g c : Nat} {va : Addr} {e : TlbEntry} {key : Nat}
    (ha : s.arg = .fetch g c va true false)
    (hp : s.translate (g / 8) (s.pidOf g) va.toNat true false = .page e) (hr : e.rem = false)
    (hk : s.physKey (e.phys va.toNat) = some key) :
    exec .icacheMissFill s = .next ((s.modTile (g / 8) fun x =>
      x.fill va (BitVec.ofNat 16 (bytesToNat ((s.tile (g / 8)).code.readN key 2)))).retry g c) := by
  change execIcacheMissFill s = _
  simp only [execIcacheMissFill, ha, hp, hr, hk, Bool.false_eq_true, if_false]

/-- Settles O24, clause by clause: the selection of a context, a reply and a refusal in its place, a fill of the
instruction cache, a retry, an increment. -/
theorem coreSteps : Obligations.CoreSteps := by
  unfold Obligations.CoreSteps
  refine ⟨?_, ?_, ?_, ?_, ?_⟩
  · intro s g n j ha c ready idle hj hn can before
    exact exec_contextSelect ha idle hj hn can before
  · intro s g c p a npc ty v ha k hm hw
    refine ⟨fun hr => ?_, fun kind detail hr => ?_⟩
    · rw [exec_loadReply ha, State.landReply_value hm hw hr rfl, Ctx.land_value]
    · rw [exec_loadReply ha, State.landReply_trap hm hw hr rfl]
      rfl
  · intro s g c va e key ha hp hr hk
    exact exec_icacheMissFill ha hp hr hk
  · intro s g ha
    change execScalarAccessRetry s = _
    simp only [execScalarAccessRetry, ha]
  · intro s g n ha
    change execCounterIncrement s = _
    simp only [execCounterIncrement, ha]

end Sys2Proof.Machine
end

section
/-! The matrix port (01 R29, R30; 06 R144, R145, R147): O35 and O36. -/

namespace Sys2Proof.Machine

/-! ### Issue -/

/-- What a matrix instruction asks of the port (01 R29). -/
def State.matrixRequest (s : State) (i : Instr) (pre : Prefixes) (ptr : Option (Nat × Addr)) : MReq :=
  ⟨i, s.myCtx, false, s.strand.next pre, ptr, none, none, 0, none, false, none, false⟩

theorem exec_of_issueMatrix {s : State} {i : Instr} {pre : Prefixes} (h : s.Chosen pre)
    (hi : exec i s = .next (issueMatrix i pre s)) : exec i s =
      .next ((s.modCore s.me fun c => { c with stalled := true, mreq := some (s.matrixRequest i pre
        ((matrixPtr i).map fun p => (p.1.toNat, (s.strand.ptr p.1.toNat).post p.2.1 p.2.2))) }).due
          [.num .matrixPortGrant s.myTile]) :=
  hi.trans (congrArg Host.Outcome.next (if_pos h))

/-- Settles O35: each form is `issueMatrix` of itself, and `matrixPtr` names its pointer. -/
theorem matrixIssue : Obligations.MatrixIssue := by
  unfold Obligations.MatrixIssue
  intro s p pm pre h k moved e he
  simp only [List.mem_cons, List.not_mem_nil, or_false] at he
  rcases he with rfl | rfl | rfl | rfl | rfl | rfl | rfl | rfl | rfl | rfl | rfl | rfl | rfl <;>
    exact exec_of_issueMatrix h rfl

/-! ### The grant -/

theorem exec_matrixPortGrant {s : State} {t n : Nat} (ha : s.arg = .num t 0 0 0) (hold : s.holdsBack = false)
    (phase : (s.tile t).readPhase = none) (buffer : (s.tile t).buffers < 2) (hn : n < 8)
    (can : s.eligible t (((s.tile t).portPtr + n) % 8) = true)
    (before : ∀ m < n, s.eligible t (((s.tile t).portPtr + m) % 8) = false) :
    exec .matrixPortGrant s = .next (s.grant t (((s.tile t).portPtr + n) % 8)) := by
  change execMatrixPortGrant s = _
  have full : ¬2 ≤ (s.tile t).buffers := Nat.not_le.2 buffer
  simp only [execMatrixPortGrant, ha, hold, phase, full, ringFind_eq_some hn can before, Option.isSome_none,
    decide_false, Bool.or_self, Bool.false_eq_true, if_false]

/-- The address that the port reads for an instruction of a context. -/
def State.portAddr (s : State) (g : Nat) (r : MReq) : Addr :=
  match matrixPtr r.instr with
  | some p => ((s.ctx g r.ctx).ptr p.1.toNat).addr
  | none => 0

/-- The turn of the port passes to the core after the one that is granted. -/
def State.passTurn (s : State) (t k : Nat) : State := s.modTile t fun x => { x with portPtr := (k + 1) % 8 }

/-- The array phase that a grant queues, if any. -/
def State.arrayJob (s : State) (g : Nat) (r : MReq) (x : Grant) : Option ArrayJob :=
  x.job.map fun j => ⟨s.issuerOf g r.ctx, j.1, (s.core g).fctx, j.2.1, j.2.2.1, j.2.2.2, false⟩

theorem State.isSome_arrayJob (s : State) (g : Nat) (r : MReq) (x : Grant) : (s.arrayJob g r x).isSome = x.job.isSome :=
  Option.isSome_map

/-- What a read phase that does not trap does to the state; `array` says whether an array phase follows. -/
def State.beginRead (s : State) (t g : Nat) (r : MReq) (x : Grant) (array : Bool) : State :=
  (((x.writes.foldl (fun s w => s.wrN (scratchKey t w.1) w.2) s).modCore g fun c =>
      { c with mreq := some { r with granted := true, fctx := x.fctx, ka := x.ka, mset := x.mset, ecnt := x.ecnt,
                                     clear := x.clear, a := x.a, array := array } }).modTile t fun y =>
      { y with readPhase := some g, buffers := y.buffers + 1,
               arrays := y.arrays ++ (s.arrayJob g r x).toList }).dueIn x.cycles (.num .matrixRetire g)

/-- A request is granted, with what its read phase comes to. -/
def State.grantTo (s : State) (t g : Nat) (r : MReq) : Except Stop Grant → State
  | .error (.trap tr) => s.matrixStop g r.ctx tr
  | .error .stall => s
  | .ok x => s.beginRead t g r x (s.arrayJob g r x).isSome

/-- The grant of the core whose turn it is, with its request. -/
def State.grantCore (s : State) (t g : Nat) : Option MReq → State
  | none => s
  | some r => s.grantTo t g r (grantOf s g (s.portAddr g r) r.instr)

theorem State.grant_eq_grantCore (s : State) (t k : Nat) :
    s.grant t k = (s.passTurn t k).grantCore t (8 * t + k) (s.core (8 * t + k)).mreq := rfl

section
variable {s : State} {t k : Nat} {r : MReq} (hr : (s.core (8 * t + k)).mreq = some r)
include hr

theorem State.grant_trap {tr : Trap}
    (h : grantOf (s.passTurn t k) (8 * t + k) ((s.passTurn t k).portAddr (8 * t + k) r) r.instr = .error (.trap tr)) :
    s.grant t k = (s.passTurn t k).matrixStop (8 * t + k) r.ctx tr := by
  rw [State.grant_eq_grantCore, hr, State.grantCore, h, State.grantTo]

theorem State.grant_ok {x : Grant}
    (h : grantOf (s.passTurn t k) (8 * t + k) ((s.passTurn t k).portAddr (8 * t + k) r) r.instr = .ok x) :
    s.grant t k = (s.passTurn t k).beginRead t (8 * t + k) r x x.job.isSome := by
  rw [State.grant_eq_grantCore, hr, State.grantCore, h, State.grantTo, State.isSome_arrayJob]

end

/-! ### Retirement and array phases -/

/-- The core after a retirement is never one with nothing on it, so it reads back from a table of whatever form. -/
theorem Core.retire_ne_idle {c : Core} {r : MReq} {n : Nat} (h : c.running = some n) : c.retire r ≠ Core.idle := by
  intro e
  have still : (c.retire r).running = some n := h
  rw [e] at still
  cases still

theorem exec_matrixRetire {s : State} {g : Nat} {r : MReq} (ha : s.arg = .num g 0 0 0) (hr : (s.core g).mreq = some r)
    (hrun : (s.core g).running = some r.ctx) : exec .matrixRetire s =
      .next ((((s.modCore g fun c => c.retire r).modCtx g r.ctx fun k => k.retire r).modTile (g / 8)
        fun x => { x with readPhase := none, buffers := if r.array then x.buffers else x.buffers - 1,
                          arrays := x.arrays.map fun j => if j.by_.core = g then { j with ready := true } else j }).due
          [.num .arrayPhaseStart (g / 8), .num .matrixPortGrant (g / 8)]) := by
  have still : ((s.modCore g fun c => c.retire r).core g).running = some r.ctx :=
    (congrArg Core.running (Tab.get_set_self_of_ne s.cores g (Core.retire_ne_idle hrun))).trans hrun
  change execMatrixRetire s = _
  simp only [execMatrixRetire, ha, hr, still, if_true]

theorem exec_arrayPhaseStart {s : State} {t : Nat} {j : ArrayJob} {rest : List ArrayJob} (ha : s.arg = .num t 0 0 0)
    (hj : (s.tile t).arrays = j :: rest) (ready : j.ready = true) (off : (s.tile t).arrayOn = false) :
    exec .arrayPhaseStart s =
      .next ((s.modTile t fun x => { x with arrayOn := true }).dueIn j.cycles (.num .arrayPhaseEnd t)) := by
  change execArrayPhaseStart s = _
  simp only [execArrayPhaseStart, ha, hj, ready, off, Bool.not_false, Bool.and_self, if_true]

theorem exec_arrayPhaseEnd {s : State} {t : Nat} {j : ArrayJob} {rest : List ArrayJob} (ha : s.arg = .num t 0 0 0)
    (hj : (s.tile t).arrays = j :: rest) (on : (s.tile t).arrayOn = true) : exec .arrayPhaseEnd s =
      .next (((s.arrayWork t j).modTile t fun x =>
        { x with arrays := rest, arrayOn := false, buffers := x.buffers - 1 }).due
          [.num .arrayPhaseStart t, .num .matrixPortGrant t]) := by
  change execArrayPhaseEnd s = _
  simp only [execArrayPhaseEnd, ha, hj, on, if_true]

/-- Settles O36: the grant, whose read phase traps or goes through, the retirement, the array phases. -/
theorem matrixPort : Obligations.MatrixPort := by
  unfold Obligations.MatrixPort
  refine ⟨?_, fun s g r ha hr hrun => exec_matrixRetire ha hr hrun,
    fun s t j rest ha hj => ⟨exec_arrayPhaseStart ha hj, exec_arrayPhaseEnd ha hj⟩⟩
  rintro s t k n r ha hold phase buffer hn rfl can before g s1 a hr
  have granted := exec_matrixPortGrant ha hold phase buffer hn can before
  exact ⟨fun tr h => granted.trans (congrArg Host.Outcome.next (State.grant_trap hr h)),
    fun x h => granted.trans (congrArg Host.Outcome.next (State.grant_ok hr h))⟩

end Sys2Proof.Machine
end

section
/-! SUPPORT. The decoder reads words until the instruction is complete, and the fetch follows it (01 R20; 02 R32,
R61). -/

namespace Sys2Proof

theorem decodeBase_ne_more (page : Nat) (w : Half) (pre : Prefixes) (n : Nat) : decodeBase page w pre n ≠ .more := by
  unfold decodeBase
  split
  · simp
  · split
    · simp
    · split
      · simp
      · split
        · simp
        · split <;> simp

theorem words_of_decodeBase {page : Nat} {w : Half} {pre : Prefixes} {n m : Nat} {i : Instr}
    (h : decodeBase page w pre n = .instr i m) : m = n := by
  unfold decodeBase at h
  split at h
  · cases h
  · split at h
    · cases h
    · split at h
      · cases h
      · split at h
        · cases h
        · split at h
          · cases h; rfl
          · cases h

/-- Once the decoder has an answer, further words do not change it. -/
theorem decodeFrom_append {c : Chain} {n : Nat} {ws : List Half} (vs : List Half) (h : decodeFrom c n ws ≠ .more) :
    decodeFrom c n (ws ++ vs) = decodeFrom c n ws := by
  induction ws generalizing c n with
  | nil => exact absurd rfl h
  | cons w ws ih =>
    rw [decodeFrom] at h
    rw [List.cons_append, decodeFrom, decodeFrom]
    split
    · next hp =>
      rw [if_pos hp] at h
      split
      · rfl
      · next h4 =>
        rw [if_neg h4] at h
        cases hc : c.addPrefix w with
        | inl c' => rw [hc] at h; exact ih h
        | inr d => rfl
    · rfl

/-- The words of an instruction are no more than the decoder has read. -/
theorem words_of_decodeFrom {c : Chain} {n m : Nat} {ws : List Half} {i : Instr} (h : decodeFrom c n ws = .instr i m) :
    m ≤ n + ws.length := by
  induction ws generalizing c n with
  | nil => cases h
  | cons w ws ih =>
    rw [decodeFrom] at h
    rw [List.length_cons]
    split at h
    · split at h
      · cases h
      · split at h
        · have shorter := ih h
          omega
        · cases h
    · rw [words_of_decodeBase h]
      omega

/-- A chain that is still open has at most four words. -/
theorem length_of_decodeFrom_more {c : Chain} {n : Nat} {ws : List Half} (hn : n ≤ 4) (h : decodeFrom c n ws = .more) :
    n + ws.length ≤ 4 := by
  induction ws generalizing c n with
  | nil => exact hn
  | cons w ws ih =>
    rw [decodeFrom] at h
    rw [List.length_cons]
    split at h
    · split at h
      · cases h
      · split at h
        · have shorter := ih (by omega) h
          omega
        · cases h
    · exact (decodeBase_ne_more _ _ _ _ h).elim

theorem length_of_decode_more {ws : List Half} (h : decode ws = .more) : ws.length ≤ 4 := by
  simpa using length_of_decodeFrom_more (Nat.zero_le 4) h

/-- The words before the last of an instruction leave the chain open. -/
theorem decode_more_of_instr {ws : List Half} {w : Half} {i : Instr}
    (h : decode (ws ++ [w]) = .instr i (ws ++ [w]).length) : decode ws = .more := by
  by_contra done
  rw [decode, decodeFrom_append [w] done] at h
  simpa using words_of_decodeFrom h

/-- A chain that is open was open at each of its words. -/
theorem decode_more_of_append {ws vs : List Half} (h : decode (ws ++ vs) = .more) : decode ws = .more := by
  by_contra done
  exact done ((decodeFrom_append vs done).symm.trans h)

namespace Machine

/-- An address from which instruction words can be fetched. -/
def CodeAddr (va : Addr) : Prop := va.toNat < 0xF00000000000

theorem CodeAddr.field_lt {va : Addr} (h : CodeAddr va) : ¬0xF0 ≤ field va 40 8 := by
  have below : va.toNat < 0xF00000000000 := h
  simp only [field, bitsAt]
  omega

/-- The address of the word `n` places on. -/
def wordAddr (va : Addr) (n : Nat) : Addr := va + BitVec.ofNat 48 (2 * n)

theorem wordAddr_zero (va : Addr) : wordAddr va 0 = va := by simp [wordAddr]

theorem wordAddr_succ (va : Addr) (n : Nat) : wordAddr va (n + 1) = wordAddr (va + 2) n := by
  rw [wordAddr, wordAddr, Nat.mul_add, BitVec.ofNat_add, BitVec.add_assoc, BitVec.add_comm (BitVec.ofNat 48 (2 * n))]
  rfl

/-- The words `ws` stand in the instruction cache from an address on, and can be fetched there. -/
def Tile.Holds (x : Tile) (va : Addr) (ws : List Half) : Prop :=
  ∀ n < ws.length, x.word (wordAddr va n) = ws[n]? ∧ CodeAddr (wordAddr va n)

theorem Tile.Holds.head {x : Tile} {va : Addr} {w : Half} {ws : List Half} (h : x.Holds va (w :: ws)) :
    x.word va = some w ∧ CodeAddr va := by
  simpa [wordAddr_zero] using h 0 (Nat.zero_lt_succ _)

theorem Tile.Holds.tail {x : Tile} {va : Addr} {w : Half} {ws : List Half} (h : x.Holds va (w :: ws)) :
    x.Holds (va + 2) ws :=
  fun n hn => by simpa [wordAddr_succ] using h (n + 1) (Nat.succ_lt_succ hn)

theorem Tile.Holds.of_append {x : Tile} {va : Addr} {ws vs : List Half} (h : x.Holds va (ws ++ vs)) : x.Holds va ws :=
  fun n hn => by
    have longer := h n (by rw [List.length_append]; omega)
    rwa [List.getElem?_append_left hn] at longer

section
variable {x : Tile} {va : Addr} {w : Half} {before : List Half} (n : Nat) (code : CodeAddr va)
include code

theorem fetchFrom_miss (absent : x.word va = none) : fetchFrom x va before (n + 1) = .miss va := by
  rw [fetchFrom, if_neg code.field_lt, absent]

theorem fetchFrom_more (here : x.word va = some w) (h : decode (before ++ [w]) = .more) :
    fetchFrom x va before (n + 1) = fetchFrom x (va + 2) (before ++ [w]) n := by
  rw [fetchFrom, if_neg code.field_lt, here]
  dsimp only
  rw [h]

theorem fetchFrom_instr (here : x.word va = some w) {i : Instr} {m : Nat} (h : decode (before ++ [w]) = .instr i m) :
    fetchFrom x va before (n + 1) = .instr i m := by
  rw [fetchFrom, if_neg code.field_lt, here]
  dsimp only
  rw [h]

theorem fetchFrom_illegal (here : x.word va = some w) {d : BitVec 8} (h : decode (before ++ [w]) = .illegal d) :
    fetchFrom x va before (n + 1) = .trap (trapOf kIllegal d 0) := by
  rw [fetchFrom, if_neg code.field_lt, here]
  dsimp only
  rw [h]

end

/-- Words that leave the chain open are passed over. -/
theorem fetchFrom_append {x : Tile} {ws : List Half} : ∀ {va : Addr} {before : List Half} (n : Nat), x.Holds va ws →
    decode (before ++ ws) = .more →
    fetchFrom x va before (ws.length + n) = fetchFrom x (wordAddr va ws.length) (before ++ ws) n := by
  induction ws with
  | nil => intro va before n _ _; simp [wordAddr_zero]
  | cons w ws ih =>
    intro va before n held more
    obtain ⟨here, code⟩ := held.head
    rw [List.append_cons] at more ⊢
    rw [List.length_cons, Nat.succ_add, fetchFrom_more _ code here (decode_more_of_append more), ih n held.tail more,
      wordAddr_succ]

/-- The fetch comes to the word after those that leave the chain open. -/
theorem Tile.fetch_eq {x : Tile} {va : Addr} {ws : List Half} (held : x.Holds va ws) (more : decode ws = .more) :
    x.fetch va = fetchFrom x (wordAddr va ws.length) ws ((4 - ws.length) + 1) := by
  have short := length_of_decode_more more
  rw [Tile.fetch, show 5 = ws.length + ((4 - ws.length) + 1) by omega]
  exact fetchFrom_append (before := []) _ held more

section
variable {x : Tile} {va : Addr} {ws : List Half} {w : Half}

theorem Tile.Holds.last (held : x.Holds va (ws ++ [w])) :
    x.word (wordAddr va ws.length) = some w ∧ CodeAddr (wordAddr va ws.length) := by
  simpa using held ws.length (by simp)

theorem Tile.fetch_instr {i : Instr} (held : x.Holds va (ws ++ [w]))
    (h : decode (ws ++ [w]) = .instr i (ws ++ [w]).length) :
    x.fetch va = .instr i (ws ++ [w]).length := by
  rw [Tile.fetch_eq held.of_append (decode_more_of_instr h), fetchFrom_instr _ held.last.2 held.last.1 h]

theorem Tile.fetch_illegal {d : BitVec 8} (held : x.Holds va (ws ++ [w])) (more : decode ws = .more)
    (h : decode (ws ++ [w]) = .illegal d) : x.fetch va = .trap (trapOf kIllegal d 0) := by
  rw [Tile.fetch_eq held.of_append more, fetchFrom_illegal _ held.last.2 held.last.1 h]

theorem Tile.fetch_miss {n : Nat} (hn : ws.length = n) (held : x.Holds va ws) (more : decode ws = .more)
    (absent : x.word (wordAddr va n) = none) (code : CodeAddr (wordAddr va n)) :
    x.fetch va = .miss (wordAddr va n) := by
  subst hn
  rw [Tile.fetch_eq held more, fetchFrom_miss _ code absent]

end

end Machine
end Sys2Proof
end

section
/-! SUPPORT. What a step begins with (01 R13, R20; 08 R190; 17 R386; 22 R448). -/

namespace Sys2Proof

/-- What an entry of a table in canonical form reads as. -/
theorem Tab.get_of_mem {α : Type} [DecidableEq α] {d : α} {t : Tab α} {k : Nat} {v : α} (h : Tab.wf d t = true)
    (hm : (k, v) ∈ t) :
    Tab.get d t k = v := by
  suffices key : ∀ (t : Tab α) (lo : Option Nat), Tab.wfFrom d lo t = true → (k, v) ∈ t →
      Tab.get d t k = v ∧ ∀ l, lo = some l → l < k from (key t none h hm).1
  intro t
  induction t with
  | nil => intro _ _ hm; cases hm
  | cons e t ih =>
    obtain ⟨k', w⟩ := e
    intro lo h hm
    simp only [Tab.wfFrom, Bool.and_eq_true, decide_eq_true_eq] at h
    obtain ⟨⟨hlo, -⟩, ht⟩ := h
    have above : ∀ l, lo = some l → l < k' := by
      rintro l rfl
      simpa using hlo
    obtain same | later := List.mem_cons.1 hm
    · cases same
      exact ⟨by simp [Tab.get], above⟩
    · obtain ⟨hget, hlt⟩ := ih (some k') ht later
      have lt := hlt k' rfl
      exact ⟨by rw [Tab.get, if_neg (by omega), if_neg (by omega), hget], fun l e => (above l e).trans lt⟩

/-- What does not read as the default is listed. -/
theorem Tab.mem_of_get_ne {α : Type} {d : α} {t : Tab α} {k : Nat} (h : Tab.get d t k ≠ d) :
    (k, Tab.get d t k) ∈ t := by
  induction t with
  | nil => exact absurd rfl h
  | cons e t ih =>
    obtain ⟨k', w⟩ := e
    rw [Tab.get] at h ⊢
    split
    · next e => rw [e]; exact List.mem_cons_self
    · next hne =>
      rw [if_neg hne] at h
      split
      · next lt => rw [if_pos lt] at h; exact absurd rfl h
      · next ge => rw [if_neg ge] at h; exact List.mem_cons_of_mem _ (ih h)

namespace Machine

/-! ### The next core -/

/-- The cores that can issue, as the table lists them. -/
def State.turns (s : State) : List Nat := (s.cores.filter fun e => e.2.canIssue && !s.parked e.1).map Prod.fst

theorem State.mem_turns_of_nextCore {s : State} {g : Nat} (h : s.nextCore = some g) : g ∈ s.turns := by
  change (match s.turns.find? fun g => decide (s.turn < g) with
    | some g => some g
    | none => s.turns.head?) = some g at h
  split at h
  · next found => cases h; exact List.mem_of_find?_eq_some found
  · exact List.mem_of_head? h

theorem State.nextCore_of_mem_turns {s : State} {g : Nat} (h : g ∈ s.turns) : ∃ n, s.nextCore = some n := by
  change ∃ n, (match s.turns.find? fun g => decide (s.turn < g) with
    | some g => some g
    | none => s.turns.head?) = some n
  split
  · exact ⟨_, rfl⟩
  · obtain ⟨a, l, hl⟩ := List.exists_cons_of_ne_nil (List.ne_nil_of_mem h)
    exact ⟨a, by rw [hl]; rfl⟩

theorem Core.canIssue_iff (c : Core) : c.canIssue = true ↔ c.running ≠ none ∧ c.stalled = false := by
  simp [Core.canIssue, Option.isSome_iff_ne_none]

theorem State.mem_turns {s : State} (hs : s.Ok) {g : Nat} :
    g ∈ s.turns ↔ (s.core g).running ≠ none ∧ (s.core g).stalled = false ∧ s.parked g = false := by
  simp only [State.turns, List.mem_map, List.mem_filter, Bool.and_eq_true, Bool.not_eq_true', Core.canIssue_iff]
  refine ⟨?_, fun ⟨run, free, here⟩ => ⟨(g, s.core g), ⟨Tab.mem_of_get_ne fun e => run ?_, ⟨run, free⟩, here⟩, rfl⟩⟩
  · rintro ⟨⟨g, c⟩, ⟨hm, ⟨run, free⟩, here⟩, rfl⟩
    have read : s.core g = c := Tab.get_of_mem hs.cores hm
    exact ⟨read ▸ run, read ▸ free, here⟩
  · exact (congrArg Core.running e).trans rfl

/-! ### The step -/

/-- What comes of what a step begins with: `step s` is `s.begin_.result`. -/
def Begun.result : Begun → Host.Outcome State Fault Refusal
  | .run i s => exec i s
  | .done s => .next s

theorem begin_of_due {s : State} {d : Due} {rest : List Due} (hd : s.tick.agenda = d :: rest) : s.begin_ =
    if s.mgmt.recovery && !inRecovery d.what then .done { s.tick with agenda := rest, arg := d.arg }
    else .run d.what { s.tick with agenda := rest, arg := d.arg } := by
  unfold State.begin_
  dsimp only
  rw [hd]
  rfl

theorem begin_of_turn {s : State} {g : Nat} (hd : s.tick.agenda = []) (hr : s.mgmt.recovery = false)
    (hg : s.tick.nextCore = some g) : s.begin_ = ({ s.tick with turn := g } : State).issueNext := by
  unfold State.begin_
  dsimp only
  rw [hd]
  dsimp only
  rw [show s.tick.mgmt.recovery = false from hr, if_neg Bool.false_ne_true, hg]

theorem begin_of_none {s : State} (hd : s.tick.agenda = []) (h : s.mgmt.recovery = true ∨ s.tick.nextCore = none) :
    s.begin_ = .done s.tick := by
  have nobody : (if s.tick.mgmt.recovery then none else s.tick.nextCore) = none := by
    split
    · rfl
    · next hr => exact h.resolve_left hr
  unfold State.begin_
  dsimp only
  rw [hd]
  dsimp only
  rw [nobody]

/-! ### The instruction -/

/-- A deferred refusal of the strand that issues comes first (08 R190). -/
def State.Pending (s : State) : Prop := s.strand.inh = false ∧ ∃ r ∈ (s.core s.me).refusals, r.ctx = s.myCtx

theorem State.pending_iff (s : State) : s.Pending ↔
    (!s.strand.inh && (s.core s.me).refusals.any fun r => decide (r.ctx = s.myCtx)) = true := by
  simp [State.Pending]

/-- What the core whose turn it is does with what it has fetched. -/
def State.issueFetched (s : State) : Fetched → Begun
  | .miss va => .done (if s.injectionHeld s.me then s.stall else s.fetchMiss s.me s.myCtx va)
  | .trap t => if t.kind = kIllegal then .run (.illegalInstruction t.detail) s else .done (s.raise t)
  | .instr i _ => if s.injectionHeld s.me && injects i then .done s.stall else .run (refine s.strand i) s

theorem issueNext_of_pending {s : State} (h : s.Pending) :
    s.issueNext = .run .deferredRefusal { s with arg := .num s.me s.myCtx 0 0 } := if_pos (s.pending_iff.1 h)

theorem issueNext_of_not_pending {s : State} (h : ¬s.Pending) :
    s.issueNext = s.issueFetched ((s.tile s.myTile).fetch s.strand.pc) := (if_neg (mt s.pending_iff.2 h)).trans rfl

theorem State.injectionHeld_iff (s : State) (g : Nat) : s.injectionHeld g = true ↔ s.pidOf g ∈ s.board.draining :=
  decide_eq_true_iff

theorem State.issueFetched_instr {s : State} {i : Instr} (n : Nat)
    (h : ¬s.pidOf s.me ∈ s.board.draining ∨ injects i = false) :
    s.issueFetched (.instr i n) = .run (refine s.strand i) s := by
  rw [← State.injectionHeld_iff] at h
  refine if_neg fun e => ?_
  obtain ⟨held, inj⟩ := Bool.and_eq_true_iff.1 e
  exact h.elim (· held) fun no => Bool.false_ne_true (no.symm.trans inj)

theorem State.issueFetched_held {s : State} {i : Instr} (n : Nat) (held : s.pidOf s.me ∈ s.board.draining)
    (inj : injects i = true) : s.issueFetched (.instr i n) = .done s.stall :=
  if_pos (Bool.and_eq_true_iff.2 ⟨(s.injectionHeld_iff s.me).2 held, inj⟩)

theorem State.issueFetched_miss (s : State) (va : Addr) : s.issueFetched (.miss va) =
    .done (if s.pidOf s.me ∈ s.board.draining then s.stall else s.fetchMiss s.me s.myCtx va) :=
  congrArg Begun.done (if_congr (s.injectionHeld_iff s.me) rfl rfl)

/-- The words that are cached before a missing one. -/
theorem Tile.holds_range {x : Tile} {va : Addr} {n : Nat} (code : ∀ m < n, CodeAddr (wordAddr va m))
    (cached : ∀ m < n, ∃ w, x.word (wordAddr va m) = some w) :
    x.Holds va ((List.range n).map fun m => (x.word (wordAddr va m)).getD 0) := by
  intro m hm
  rw [List.length_map, List.length_range] at hm
  obtain ⟨w, hw⟩ := cached m hm
  exact ⟨by simp [hm, hw], code m hm⟩

end Machine
end Sys2Proof
end

section
/-! What a step runs: O58. -/

namespace Sys2Proof.Machine

/-- O58, for one state. -/
def StepRunsDecodedFrom (s : State) : Prop :=
  let u := s.tick
  (∀ d rest, u.agenda = d :: rest →
    let v : State := { u with agenda := rest, arg := d.arg }
    (s.mgmt.recovery = false ∨ inRecovery d.what = true → step s = exec d.what v) ∧
    (s.mgmt.recovery = true → inRecovery d.what = false → step s = .next v)) ∧
  (∀ g, u.agenda = [] → s.mgmt.recovery = false → u.nextCore = some g →
    let v : State := { u with turn := g }
    let k := v.strand
    let x := v.tile (g / 8)
    let held := v.pidOf g ∈ s.board.draining
    let pending := k.inh = false ∧ ∃ r ∈ (v.core g).refusals, r.ctx = v.myCtx
    let word (n : Nat) : Option Half := Tab.get none x.icache ((k.pc + BitVec.ofNat 48 (2 * n)).toNat / 2)
    let code (n : Nat) : Prop := (k.pc + BitVec.ofNat 48 (2 * n)).toNat < 0xF00000000000
    (pending → step s = exec .deferredRefusal { v with arg := .num g v.myCtx 0 0 }) ∧
    (∀ (ws : List Half) (i : Instr), ¬pending → (∀ n < ws.length, word n = ws[n]? ∧ code n) →
      decode ws = .instr i ws.length →
      (¬held ∨ injects i = false → step s = exec (refine k i) v) ∧
      (held → injects i = true → step s = .next v.stall)) ∧
    (∀ (ws : List Half) (d : BitVec 8), ¬pending → ws ≠ [] → (∀ n < ws.length, word n = ws[n]? ∧ code n) →
      decode ws = .illegal d → decode (ws.take (ws.length - 1)) = .more → step s = exec (.illegalInstruction d) v) ∧
    (∀ n < 5, ¬pending → (∀ m < n, code m) → code n → word n = none → (∀ m < n, ∃ w, word m = some w ∧
      w.extractLsb' 13 3 = 7) → (decode ((List.range n).map fun m => (word m).getD 0) = .more) →
      step s = .next (if held then v.stall else v.fetchMiss g v.myCtx (k.pc + BitVec.ofNat 48 (2 * n))))) ∧
  (u.agenda = [] → s.mgmt.recovery = true ∨ u.nextCore = none → step s = .next u) ∧
  (∀ g, u.nextCore = some g → (u.core g).running ≠ none ∧ (u.core g).stalled = false ∧ u.parked g = false) ∧
  (∀ g, (u.core g).running ≠ none → (u.core g).stalled = false → u.parked g = false → ∃ h, u.nextCore = some h) ∧
  u.now = s.now + 1 ∧ (∀ d ∈ u.agenda, d ∈ s.agenda ∨ ∃ e ∈ s.later, e.1 ≤ s.now + 1 ∧ e.2 = d) ∧
  (∀ e ∈ s.later, e.1 ≤ s.now + 1 ∨ e ∈ u.later)

theorem stepRunsDecoded_iff : Obligations.StepRunsDecoded ↔ ∀ s, StepRunsDecodedFrom s := Iff.rfl

/-- In every state in canonical form a step runs what O58 says. -/
theorem stepRunsDecodedFrom_of_ok {s : State} (hs : s.Ok) : StepRunsDecodedFrom s := by
  have hu : s.tick.Ok := hs
  refine ⟨?_, ?_, ?_, fun g h => (State.mem_turns hu).1 (State.mem_turns_of_nextCore h),
    fun g run free here => State.nextCore_of_mem_turns ((State.mem_turns hu).2 ⟨run, free, here⟩), rfl, fun d hd => ?_,
    fun e he => ?_⟩
  · intro d rest hd v
    have begun := congrArg Begun.result (begin_of_due hd)
    refine ⟨fun h => begun.trans (congrArg Begun.result (if_neg ?_)),
      fun hr hi => begun.trans (congrArg Begun.result (if_pos ?_))⟩
    · obtain h | h := h <;> simp [h]
    · simp [hr, hi]
  · intro g hd hr hg v k x held pending word code
    have begun : step s = v.issueNext.result := congrArg Begun.result (begin_of_turn hd hr hg)
    have fetched {f : Fetched} (hp : ¬pending) (hf : x.fetch k.pc = f) : step s = (v.issueFetched f).result :=
      begun.trans (congrArg Begun.result ((issueNext_of_not_pending hp).trans (congrArg v.issueFetched hf)))
    refine ⟨fun hp => begun.trans (congrArg Begun.result (issueNext_of_pending hp)), fun ws i hp hw hi => ?_,
      fun ws d hp hne hw hi more => ?_, fun n _ hp before here absent cached more => ?_⟩
    · obtain rfl | ⟨before, last, rfl⟩ := List.eq_nil_or_concat' ws
      · cases hi
      · have read := fetched hp (Tile.fetch_instr hw hi)
        exact ⟨fun h => read.trans (congrArg Begun.result (State.issueFetched_instr _ h)),
          fun hh inj => read.trans (congrArg Begun.result (State.issueFetched_held _ hh inj))⟩
    · obtain rfl | ⟨before, last, rfl⟩ := List.eq_nil_or_concat' ws
      · exact absurd rfl hne
      · rw [List.length_append, List.length_singleton, Nat.add_sub_cancel, List.take_left' rfl] at more
        exact fetched hp (Tile.fetch_illegal hw more hi)
    · have held := Tile.holds_range before fun m hm => (cached m hm).imp fun _ => And.left
      have miss := Tile.fetch_miss (by simp) held more absent here
      exact (fetched hp miss).trans (congrArg Begun.result (v.issueFetched_miss _))
  · intro hd h
    exact congrArg Begun.result (begin_of_none hd h)
  · obtain hd | hd := List.mem_append.1 hd
    · exact .inl hd
    · obtain ⟨e, he, rfl⟩ := List.mem_map.1 hd
      obtain ⟨he, now⟩ := List.mem_filter.1 he
      exact .inr ⟨e, he, of_decide_eq_true now, rfl⟩
  · by_cases h : e.1 ≤ s.now + 1
    · exact .inl h
    · exact .inr (List.mem_filter.2 ⟨he, decide_eq_true (Nat.lt_of_not_le h)⟩)

/-- Core 0 stands twice in the table of cores: first with nothing on it, then with a RUNNING context. -/
def listedTwice : State := { State.reset with cores := [(0, Core.idle), (0, { Core.idle with running := some 0 })] }

/-- The turn goes to core 0 for its second entry, and its first is the one that is read. -/
theorem listedTwice_turn : listedTwice.tick.nextCore = some 0 ∧ (listedTwice.tick.core 0).running = none := by decide

/-- Refutes O58: it speaks of every state, and where the table of cores is not in canonical form (`State.Ok`) a core can
have its turn for an entry that reading the core does not find, so that a core without a RUNNING context is next. That
is all that is wrong with it: `stepRunsDecodedFrom_of_ok` proves the statement for every state in canonical form. -/
theorem not_stepRunsDecoded : ¬ Obligations.StepRunsDecoded := by
  intro h
  obtain ⟨-, -, -, hnext, -⟩ := stepRunsDecoded_iff.1 h listedTwice
  obtain ⟨hrun, -⟩ := hnext 0 listedTwice_turn.1
  exact hrun listedTwice_turn.2

end Sys2Proof.Machine
end

section
/-! SUPPORT. Words made of fields, and the codes of operands (02 R34 to R36, R44, R55). -/

namespace Sys2Proof

/-! ### Codes -/

theorem PostMode.ofCode_code (m : PostMode) : PostMode.ofCode m.code = m := by cases m <;> rfl

theorem Scope.ofCode_code (s : Scope) : Scope.ofCode s.code = some s := by cases s <;> rfl

theorem AtomOrder.ofCode_code (o : AtomOrder) : AtomOrder.ofCode o.code = o := by cases o <;> rfl

theorem RedFn.ofCode_code (f : RedFn) : RedFn.ofCode f.code = some f := by cases f <;> rfl

theorem CvtDir.ofCode_code (d : CvtDir) : CvtDir.ofCode d.code = d := by cases d <;> rfl

theorem Ty.ofCode_code (t : Ty) : Ty.ofCode t.code = some t := by cases t <;> rfl

theorem Rnd.ofCode_code (r : Rnd) : Rnd.ofCode r.code = some r := by cases r <;> rfl

/-! ### Fields -/

/-- A field, or a bit, of a word put together of `a` above `b` is one of the part in which it lies. The width of such a
word equals 16 only by evaluation: `no_index` lets `simp` find it all the same. -/
theorem field_append {v w : Nat} (a : BitVec v) (b : BitVec w) :
    (∀ start len, start + len ≤ w → (no_index (a ++ b)).extractLsb' start len = b.extractLsb' start len) ∧
    (∀ start len, w ≤ start → (no_index (a ++ b)).extractLsb' start len = a.extractLsb' (start - w) len) ∧
    (∀ i, i < w → (no_index (a ++ b)).getLsbD i = b.getLsbD i) ∧
    (∀ i, w ≤ i → (no_index (a ++ b)).getLsbD i = a.getLsbD (i - w)) :=
  ⟨fun _ _ => BitVec.extractLsb'_append_eq_of_add_le, fun _ _ => BitVec.extractLsb'_append_eq_of_le,
    fun i h => by rw [BitVec.getLsbD_append, if_pos h],
    fun i h => by rw [BitVec.getLsbD_append, if_neg (Nat.not_lt.2 h)]⟩

theorem getLsbD_ofBool_zero (b : Bool) : (BitVec.ofBool b).getLsbD 0 = b := by cases b <;> rfl

end Sys2Proof
end

section
/-! SUPPORT. The opcode map and the encoding tables (02 R34, R43, R46 to R60): the base word of every instruction is
read as it, and what the map reads is an encoded row. -/

namespace Sys2Proof

/-! ### The word of an instruction -/

/-- On its page, `w` is the base word of `i`: the opcode map reads it as `i`, up to the rows that share the word. -/
structure IsWordOf (page : Nat) (w : Half) (i : Instr) : Prop where
  onPage : i.page = page
  noPrefix : w.extractLsb' 13 3 ≠ 7
  populated : populated page w = true
  op : decodeOp page w i.pre = some (i.accept, some i.canon)

/-- Page 0 has every format, which the top three bits name (R34). -/
theorem IsWordOf.page0 (format : BitVec 3) {w : Half} {i : Instr} (page : i.page = 0) (hf : format ≠ 7)
    (h : w.extractLsb' 13 3 = format) (op : decodeOp 0 w i.pre = some (i.accept, some i.canon)) : IsWordOf 0 w i :=
  ⟨page, h ▸ hf, rfl, op⟩

/-- The other pages have format SY alone (R43, R60). -/
theorem IsWordOf.sy {page : Nat} {w : Half} {i : Instr} (onPage : i.page = page) (h6 : page ≤ 6)
    (h : w.extractLsb' 13 3 = 6) (op : decodeOp page w i.pre = some (i.accept, some i.canon)) : IsWordOf page w i :=
  ⟨onPage, by rw [h]; decide, by simp [Sys2Proof.populated, h, h6], op⟩

/-- The word of the encoding tables is the instruction's: format by format, each field is where the decoder looks for
it. -/
theorem isWordOf_encodeBase {page : Nat} {w : Half} {i : Instr} (h : encodeBase i = some (page, w)) :
    IsWordOf page w i := by
  cases i <;> cases h
  case' lda | sta | addMem | adc | subMem | sbc | mulMem | mulh | div | rem | andMem | orMem | xorMem | shlMem
      | shrMem | sarMem | rolMem | cmpMem | tstMem | minMem | maxMem | sel | faddMem | fmulMem | fmin | fmax
      | fcmp =>
    refine .page0 0 rfl ?_ ?_ ?_
  case' mac | msb | ffma | movm =>
    refine .page0 1 rfl ?_ ?_ ?_
  case' ldi | addImm | subImm | mulImm | andImm | orImm | xorImm | shlImm | shrImm | sarImm | rolImm | cmpImm
      | tstImm | minImm | maxImm =>
    refine .page0 2 rfl ?_ ?_ ?_
  case' addX | subX | andX | orX | xorX | mulX | cmpX | xcha | clz | popc | faddX | fmulX | fcvt | frcp | movp
      | addp | sets | getp | ret | movf | getf | nop =>
    refine .page0 3 rfl ?_ ?_ ?_
  case' jmp | brZ | brNz | brN | brNn | brC | brNc | brV | brNv | brGt | brGe | brLt | brLe | call | loop | jmpA
      | callA =>
    refine .page0 4 rfl ?_ ?_ ?_
  case' vld | vst | vldt | vmov | vbcast | vadd | vsub | vmul | vfma | vmin | vmax | vabs | vneg | vand | vor
      | vxor | vshl | vshr | vcmpEq | vcmpLt | vcmpLe | vsel | vcvt | vred | vscan | vperm | vexp2 | vlog2
      | vrcp | vrsq | vclamp | rep =>
    refine .page0 5 rfl ?_ ?_ ?_
  case' waitc | sleep | setc | addc | bar | fence | fenceAcq | fenceRel | hstart | hexit | hjoin | yield | trap
      | cpy | cpyc =>
    refine .page0 6 rfl ?_ ?_ ?_
  case' mctx | wpl | mzero | mma | mrow | mcol | mdrain | mdrainf | qnt | qntg | deq | blset | blcnt | ldg | stg
      | ldw | stw | ldgAcq | stgRel | ldwAcq | stwRel | put | putc | mcst | winset | atomAdd | atomMin | atomMax
      | atomAnd | atomOr | atomXor | atomXchg | atomCas | atomnAdd | atomnMin | atomnMax | atomnAnd | atomnOr
      | atomnXor | tok | tokn | atok | cvoid | cpeek | netred | nbar | spawn | arm | link | depdec | gnew
      | gcancel | gwait | qres | qpost | tcbrd | sqnew | sqres | sqcmt | sqvoidCancel | sqvoidCommit | sqlen
      | sqfork | sqclose | sqdrop | sqaddr | eret | csave | cload | tlbinvPage | tlbinvJob | tlbinvStack
      | fltrdTake | fltrdResume | fltrdPeek | stkpass | rgnrd | rgnwr | plcmtPrep | plcmtCommit | plcmtAbort =>
    refine .sy rfl ?_ ?_ ?_
  all_goals simp +decide only [decodeOp, decodeAP, decodePP, decodeAI, decodeAR, decodeBR, decodeVX, decodeSY,
    decodePage1, decodePage2, decodePage3, decodePage4, decodePage5, decodePage6, scopeOf, field_append, Nat.reduceSub,
    BitVec.reduceExtractLsb', BitVec.reduceToNat, BitVec.extractLsb'_eq_self, getLsbD_ofBool_zero,
    PostMode.ofCode_code, Scope.ofCode_code, AtomOrder.ofCode_code, RedFn.ofCode_code, CvtDir.ofCode_code]
  all_goals rfl

theorem Instr.isSome_encodeBase (i : Instr) : (encodeBase i).isSome = i.encoded := by cases i <;> rfl

theorem page_le_of_populated {page : Nat} {w : Half} (h : populated page w = true) : page ≤ 6 := by
  simp only [populated, Bool.or_eq_true, Bool.and_eq_true, decide_eq_true_eq] at h
  omega

/-! ### The rows that share a word -/

theorem Instr.fieldsOk_canon (i : Instr) : i.canon.fieldsOk = i.fieldsOk := by cases i <;> rfl

/-! ### What the map reads -/

/-- `i` is an encoded row of the page, with the chain `pre`, which accepts what `acc` says, and it is the first of the
rows that share its word. -/
structure Reads (page : Nat) (pre : Prefixes) (acc : Accept) (i : Instr) : Prop where
  encoded : i.encoded = true
  pre_eq : i.pre = pre
  accept_eq : i.accept = acc
  page_eq : i.page = page
  canon_eq : i.canon = i

/-- Whatever instruction a part of the opcode map answers is such a row. -/
def AllRead (page : Nat) (pre : Prefixes) (r : Option (Accept × Option Instr)) : Prop :=
  ∀ acc i, r = some (acc, some i) → Reads page pre acc i

section
variable (w : Half) (pre : Prefixes)

theorem allRead_decodeAP : AllRead 0 pre (decodeAP w pre) := by
  unfold decodeAP
  split
  all_goals rintro _ _ ⟨⟩ <;> exact ⟨rfl, rfl, rfl, rfl, rfl⟩

theorem allRead_decodePP : AllRead 0 pre (decodePP w pre) := by
  unfold decodePP
  split
  all_goals rintro _ _ ⟨⟩ <;> exact ⟨rfl, rfl, rfl, rfl, rfl⟩

theorem allRead_decodeAI : AllRead 0 pre (decodeAI w pre) := by
  unfold decodeAI
  split
  all_goals rintro _ _ ⟨⟩ <;> exact ⟨rfl, rfl, rfl, rfl, rfl⟩

theorem allRead_decodeAR : AllRead 0 pre (decodeAR w pre) := by
  unfold decodeAR
  repeat' split
  all_goals rintro _ _ ⟨⟩ <;> exact ⟨rfl, rfl, rfl, rfl, rfl⟩

theorem allRead_decodeBR : AllRead 0 pre (decodeBR w pre) := by
  unfold decodeBR
  dsimp only
  repeat' split
  all_goals rintro _ _ ⟨⟩ <;> exact ⟨rfl, rfl, rfl, rfl, rfl⟩

theorem allRead_decodeVX : AllRead 0 pre (decodeVX w pre) := by
  unfold decodeVX
  repeat' split
  all_goals rintro _ _ ⟨⟩ <;> exact ⟨rfl, rfl, rfl, rfl, rfl⟩

theorem allRead_decodeSY : AllRead 0 pre (decodeSY w pre) := by
  unfold decodeSY
  rcases scopeOf w with _ | s
  all_goals dsimp only [Option.map, Option.bind]
  all_goals repeat' split
  all_goals rintro _ _ ⟨⟩ <;> exact ⟨rfl, rfl, rfl, rfl, rfl⟩

theorem allRead_decodePage1 : AllRead 1 pre (decodePage1 w pre) := by
  unfold decodePage1
  repeat' split
  all_goals rintro _ _ ⟨⟩ <;> exact ⟨rfl, rfl, rfl, rfl, rfl⟩

theorem allRead_decodePage2 : AllRead 2 pre (decodePage2 w pre) := by
  unfold decodePage2
  rcases scopeOf w with _ | s
  all_goals repeat' split
  all_goals rintro _ _ ⟨⟩ <;> exact ⟨rfl, rfl, rfl, rfl, rfl⟩

theorem allRead_decodePage3 : AllRead 3 pre (decodePage3 w pre) := by
  unfold decodePage3
  rcases scopeOf w with _ | s <;> rcases RedFn.ofCode (w.extractLsb' 5 3) with _ | f
  all_goals repeat' split
  all_goals rintro _ _ ⟨⟩ <;> exact ⟨rfl, rfl, rfl, rfl, rfl⟩

theorem allRead_decodePage4 : AllRead 4 pre (decodePage4 w pre) := by
  unfold decodePage4
  repeat' split
  all_goals rintro _ _ ⟨⟩ <;> exact ⟨rfl, rfl, rfl, rfl, rfl⟩

theorem allRead_decodePage5 : AllRead 5 pre (decodePage5 w pre) := by
  unfold decodePage5
  repeat' split
  all_goals rintro _ _ ⟨⟩ <;> exact ⟨rfl, rfl, rfl, rfl, rfl⟩

theorem allRead_decodePage6 : AllRead 6 pre (decodePage6 w pre) := by
  unfold decodePage6
  repeat' split
  all_goals rintro _ _ ⟨⟩ <;> exact ⟨rfl, rfl, rfl, rfl, rfl⟩

theorem allRead_decodeOp {page : Nat} (h6 : page ≤ 6) : AllRead page pre (decodeOp page w pre) := by
  interval_cases page
  · rw [decodeOp]
    split
    · exact allRead_decodeAP w pre
    · exact allRead_decodePP w pre
    · exact allRead_decodeAI w pre
    · exact allRead_decodeAR w pre
    · exact allRead_decodeBR w pre
    · exact allRead_decodeVX w pre
    · exact allRead_decodeSY w pre
  · exact allRead_decodePage1 w pre
  · exact allRead_decodePage2 w pre
  · exact allRead_decodePage3 w pre
  · exact allRead_decodePage4 w pre
  · exact allRead_decodePage5 w pre
  · exact allRead_decodePage6 w pre

end

end Sys2Proof
end

section
/-! SUPPORT. The chain and its words (02 R37 to R39, R61; 03 R70): read in their order, the words of a chain give
it. -/

namespace Sys2Proof

/-! ### One word -/

/-- `w` is one of the words before a base word (R37), and the chain `c` becomes `d` by it. -/
def Chain.Takes (c : Chain) (w : Half) (d : Chain) : Prop := w.extractLsb' 13 3 = 7 ∧ c.addPrefix w = .inl d

section
variable (c : Chain)

theorem Chain.takes_imxWord (v : BitVec 12) :
    c.Takes (imxWord v) { c with pre := { c.pre with imx := c.pre.imx ++ [v] } } := by
  constructor
  · simp +decide only [imxWord, field_append]
  · simp +decide only [addPrefix, imxWord, field_append, BitVec.extractLsb'_eq_self, if_true]

theorem Chain.takes_rgxWord (r : Rgx) (new : c.pre.rgx = none) :
    c.Takes r.word { c with pre := { c.pre with rgx := some r } } := by
  constructor
  · simp +decide only [Rgx.word, field_append]
  · simp +decide only [addPrefix, Rgx.word, field_append, BitVec.extractLsb'_eq_self, if_false, new, Nat.reduceSub,
      BitVec.reduceExtractLsb', BitVec.reduceToNat, getLsbD_ofBool_zero]

theorem Chain.takes_pgxWord {page : Nat} (h : page < 256) (new : c.pre.pgx = false) :
    c.Takes (pgxWord page) { pre := { c.pre with pgx := true }, page := page } := by
  constructor
  · simp +decide only [pgxWord, field_append]
  · simp +decide only [addPrefix, pgxWord, field_append, BitVec.extractLsb'_eq_self, if_false, new, Nat.reduceSub,
      BitVec.reduceExtractLsb', BitVec.toNat_ofNat, Nat.reducePow, Nat.mod_eq_of_lt h]

theorem Chain.takes_wdxWord (x : Wdx) (new : c.pre.wdx = none) :
    c.Takes x.word { c with pre := { c.pre with wdx := some x } } := by
  constructor
  · simp +decide only [Wdx.word, field_append]
  · simp +decide only [addPrefix, Wdx.word, field_append, BitVec.extractLsb'_eq_self, if_false, new, Nat.reduceSub,
      BitVec.reduceExtractLsb', BitVec.reduceToNat, getLsbD_ofBool_zero, Ty.ofCode_code, Rnd.ofCode_code]

end

theorem decodeFrom_prefix {c d : Chain} {n : Nat} {w : Half} (room : n ≠ 4) (h : c.Takes w d) (ws : List Half) :
    decodeFrom c n (w :: ws) = decodeFrom d (n + 1) ws := by
  rw [decodeFrom, if_pos h.1, if_neg room, h.2]

theorem decodeFrom_base (c : Chain) (n : Nat) {w : Half} (hw : w.extractLsb' 13 3 ≠ 7) (ws : List Half) :
    decodeFrom c n (w :: ws) = decodeBase c.page w c.pre (n + 1) := by
  rw [decodeFrom, if_neg hw]

/-! ### The words of a chain -/

section
variable (c : Chain) (n : Nat) (ws : List Half)

theorem decodeFrom_imxWords (vs : List (BitVec 12)) (h : n + vs.length ≤ 4) :
    decodeFrom c n (vs.map imxWord ++ ws) =
      decodeFrom { c with pre := { c.pre with imx := c.pre.imx ++ vs } } (n + vs.length) ws := by
  induction vs generalizing c n with
  | nil => simp
  | cons v vs ih =>
    rw [List.length_cons] at h ⊢
    rw [List.map_cons, List.cons_append, decodeFrom_prefix (by omega) (c.takes_imxWord v), ih _ _ (by omega)]
    simp only [List.append_assoc, List.singleton_append, Nat.add_assoc, Nat.add_comm 1]

theorem decodeFrom_rgxWord (r : Option Rgx) (new : c.pre.rgx = none) (h : n + r.toList.length ≤ 4) :
    decodeFrom c n ((r.map Rgx.word).toList ++ ws) =
      decodeFrom { c with pre := { c.pre with rgx := r } } (n + r.toList.length) ws := by
  cases r with
  | none => obtain ⟨⟨_, _, _, _⟩, _⟩ := c; cases new; rfl
  | some r => exact decodeFrom_prefix (Nat.ne_of_lt h) (c.takes_rgxWord r new) ws

theorem decodeFrom_pgxWord {page : Nat} (h256 : page < 256) (on : Bool) (off : on = false → page = c.page)
    (new : c.pre.pgx = false) (h : n + on.toNat ≤ 4) :
    decodeFrom c n ((if on then [pgxWord page] else []) ++ ws) =
      decodeFrom { pre := { c.pre with pgx := on }, page := page } (n + on.toNat) ws := by
  cases on with
  | false => obtain ⟨⟨_, _, _, _⟩, _⟩ := c; cases new; cases off rfl; rfl
  | true => exact decodeFrom_prefix (Nat.ne_of_lt h) (c.takes_pgxWord h256 new) ws

theorem decodeFrom_wdxWord (x : Option Wdx) (new : c.pre.wdx = none) (h : n + x.toList.length ≤ 4) :
    decodeFrom c n ((x.map Wdx.word).toList ++ ws) =
      decodeFrom { c with pre := { c.pre with wdx := x } } (n + x.toList.length) ws := by
  cases x with
  | none => obtain ⟨⟨_, _, _, _⟩, _⟩ := c; cases new; rfl
  | some x => exact decodeFrom_prefix (Nat.ne_of_lt h) (c.takes_wdxWord x new) ws

end

/-- The words of a chain, for an instruction of a page, in the assembler's order (03 R70). -/
def Prefixes.words (pre : Prefixes) (page : Nat) : List Half :=
  pre.imx.map imxWord ++ (pre.rgx.map Rgx.word).toList ++ (if pre.pgx then [pgxWord page] else []) ++
    (pre.wdx.map Wdx.word).toList

theorem encode_eq {i : Instr} {page : Nat} {w : Half} (h : encodeBase i = some (page, w)) :
    encode i = i.pre.words page ++ [w] := by
  rw [encode, h]
  rfl

theorem Prefixes.length_words (pre : Prefixes) (page : Nat) : (pre.words page).length = pre.count := by
  obtain ⟨imx, rgx, pgx, wdx⟩ := pre
  cases rgx <;> cases pgx <;> cases wdx <;> simp [words, count]

/-- The decoder comes from the words of a chain to the chain. -/
theorem decode_words {pre : Prefixes} {page : Nat} (h4 : pre.count ≤ 4) (h256 : page < 256)
    (hp : page ≠ 0 → pre.pgx = true) (ws : List Half) :
    decode (pre.words page ++ ws) = decodeFrom ⟨pre, page⟩ pre.count ws := by
  rw [Prefixes.count] at h4
  have off : pre.pgx = false → page = 0 := fun no => by
    by_contra hne
    exact Bool.false_ne_true (no.symm.trans (hp hne))
  simp only [decode, Prefixes.words, List.append_assoc]
  rw [decodeFrom_imxWords _ _ _ _ (by omega), decodeFrom_rgxWord _ _ _ _ rfl (by omega),
    decodeFrom_pgxWord _ _ _ h256 _ off rfl (by omega), decodeFrom_wdxWord _ _ _ _ rfl (by omega), Prefixes.count,
    Nat.zero_add]
  rfl

end Sys2Proof
end

section
/-! Decode and encode agree (02 R32, R37, R61, R70): O56. -/

namespace Sys2Proof

/-! ### The base word -/

/-- The decoder answers with an instruction for a base word just when the page has the format, the opcode map reads that
instruction, and it accepts the prefixes and the values of its fields (R61). -/
theorem decodeBase_eq_instr {page : Nat} {w : Half} {pre : Prefixes} {n m : Nat} {i : Instr} :
    decodeBase page w pre n = .instr i m ↔ populated page w = true ∧
      (∃ acc, decodeOp page w pre = some (acc, some i) ∧ acc.admits pre = true) ∧
      i.fieldsOk = true ∧ n = m := by
  unfold decodeBase
  obtain _ | ⟨acc, _ | j⟩ := decodeOp page w pre
  all_goals grind

/-- The base word of a well-formed instruction, under its own chain. -/
theorem IsWordOf.decodeBase_eq {page : Nat} {w : Half} {i : Instr} (h : IsWordOf page w i)
    (accepted : i.accept.admits i.pre = true) (fields : i.fieldsOk = true) (n : Nat) :
    decodeBase page w i.pre n = .instr i.canon n :=
  decodeBase_eq_instr.2 ⟨h.populated, ⟨_, h.op, accepted⟩, i.fieldsOk_canon.trans fields, rfl⟩

/-- An instruction that the decoder answers for a base word is well formed if its chain has at most four words, with a
PGX word where the page is not 0. -/
theorem wellFormed_of_decodeBase {page : Nat} {w : Half} {pre : Prefixes} {n m : Nat} {i : Instr} (h4 : pre.count ≤ 4)
    (paged : page ≠ 0 → pre.pgx = true) (h : decodeBase page w pre n = .instr i m) :
    i.WellFormed ∧ i.canon = i ∧ i.pre = pre := by
  obtain ⟨onMap, ⟨acc, op, accepted⟩, fields, -⟩ := decodeBase_eq_instr.1 h
  obtain ⟨encoded, rfl, rfl, rfl, canon⟩ := allRead_decodeOp w pre (page_le_of_populated onMap) acc i op
  exact ⟨⟨encoded, h4, paged, accepted, fields⟩, canon, rfl⟩

/-! ### An answer and the words that it comes of -/

/-- Where the decoder comes to an instruction, it has taken the word into the chain, or the word is the base word. -/
theorem decodeFrom_cons_instr {c : Chain} {n m : Nat} {w : Half} {ws : List Half} {i : Instr}
    (h : decodeFrom c n (w :: ws) = .instr i m) :
    (∃ d, n ≠ 4 ∧ c.Takes w d ∧ decodeFrom d (n + 1) ws = .instr i m) ∨
    (w.extractLsb' 13 3 ≠ 7 ∧ decodeBase c.page w c.pre (n + 1) = .instr i m) := by
  by_cases hw : w.extractLsb' 13 3 = 7
  · rw [decodeFrom, if_pos hw] at h
    split at h
    · cases h
    · next room =>
      split at h
      · next d hd => exact .inl ⟨d, room, ⟨hw, hd⟩, h⟩
      · cases h
  · exact .inr ⟨hw, decodeFrom_base c n hw ws ▸ h⟩

/-- The words of an instruction alone decode as they do with others behind them. -/
theorem decodeFrom_take {c : Chain} {n m : Nat} {ws : List Half} {i : Instr} (h : decodeFrom c n ws = .instr i m) :
    n < m ∧ decodeFrom c n (ws.take (m - n)) = .instr i m := by
  induction ws generalizing c n with
  | nil => cases h
  | cons w ws ih =>
    obtain ⟨d, room, taken, h⟩ | ⟨hw, h⟩ := decodeFrom_cons_instr h
    · obtain ⟨lt, alone⟩ := ih h
      rw [show m - n = m - (n + 1) + 1 by omega, List.take_succ_cons, decodeFrom_prefix room taken]
      exact ⟨by omega, alone⟩
    · obtain rfl := words_of_decodeBase h
      rw [Nat.add_sub_cancel_left, List.take_succ_cons, decodeFrom_base c n hw]
      exact ⟨Nat.lt_succ_self n, h⟩

/-- A chain of `n` words, at most four, in which a page other than 0 comes from its PGX word. -/
structure Chain.Fits (c : Chain) (n : Nat) : Prop where
  count : c.pre.count = n
  le : n ≤ 4
  paged : c.page ≠ 0 → c.pre.pgx = true

/-- A word is added to a chain that has none of its kind yet, unless it is an IMX word. -/
theorem Chain.addPrefix_cases {c d : Chain} {w : Half} (h : c.addPrefix w = .inl d) :
    (∃ v, d = { c with pre := { c.pre with imx := c.pre.imx ++ [v] } }) ∨
    (c.pre.rgx = none ∧ ∃ r, d = { c with pre := { c.pre with rgx := some r } }) ∨
    (c.pre.pgx = false ∧ ∃ page, d = { pre := { c.pre with pgx := true }, page := page }) ∨
    (c.pre.wdx = none ∧ ∃ x, d = { c with pre := { c.pre with wdx := some x } }) := by
  unfold addPrefix at h
  repeat' split at h
  all_goals cases h
  · exact .inl ⟨_, rfl⟩
  · next new => exact .inr (.inl ⟨by simpa using new, _, rfl⟩)
  · next new => exact .inr (.inr (.inl ⟨by simpa using new, _, rfl⟩))
  · next new => exact .inr (.inr (.inr ⟨by simpa using new, _, rfl⟩))

theorem Chain.Fits.takes {c d : Chain} {n : Nat} {w : Half} (h : c.Fits n) (room : n ≠ 4) (taken : c.Takes w d) :
    d.Fits (n + 1) := by
  obtain ⟨rfl, le, paged⟩ := h
  obtain ⟨v, rfl⟩ | ⟨new, r, rfl⟩ | ⟨new, page, rfl⟩ | ⟨new, x, rfl⟩ := Chain.addPrefix_cases taken.2
  · exact ⟨by simp [Prefixes.count]; omega, by omega, paged⟩
  · exact ⟨by simp [Prefixes.count, new]; omega, by omega, paged⟩
  · exact ⟨by simp [Prefixes.count, new]; omega, by omega, fun _ => rfl⟩
  · exact ⟨by simp [Prefixes.count, new], by omega, paged⟩

theorem wellFormed_of_decodeFrom {c : Chain} {n m : Nat} {ws : List Half} {i : Instr} (hc : c.Fits n)
    (h : decodeFrom c n ws = .instr i m) : i.WellFormed ∧ i.canon = i ∧ m = i.pre.count + 1 := by
  induction ws generalizing c n with
  | nil => cases h
  | cons w ws ih =>
    obtain ⟨d, room, taken, h⟩ | ⟨-, h⟩ := decodeFrom_cons_instr h
    · exact ih (hc.takes room taken) h
    · obtain ⟨wf, canon, pre⟩ := wellFormed_of_decodeBase (hc.count.trans_le hc.le) hc.paged h
      exact ⟨wf, canon, by rw [words_of_decodeBase h, pre, hc.count]⟩

theorem wellFormed_of_decode {ws : List Half} {n : Nat} {i : Instr} (h : decode ws = .instr i n) :
    i.WellFormed ∧ i.canon = i ∧ n = i.pre.count + 1 :=
  wellFormed_of_decodeFrom (c := ⟨Prefixes.none, 0⟩) ⟨rfl, Nat.zero_le 4, fun h => absurd rfl h⟩ h

/-- The words of a well-formed instruction decode to it, or to the first of the rows that share its word. -/
theorem decode_encode {i : Instr} (h : i.WellFormed) (rest : List Half) :
    decode (encode i ++ rest) = .instr i.canon (i.pre.count + 1) ∧ (encode i).length = i.pre.count + 1 := by
  obtain ⟨encoded, count, paged, accepted, fields⟩ := h
  obtain ⟨⟨page, w⟩, hw⟩ := Option.isSome_iff_exists.1 (i.isSome_encodeBase.trans encoded)
  have word := isWordOf_encodeBase hw
  have h256 : page < 256 := (page_le_of_populated word.populated).trans_lt (by decide)
  rw [encode_eq hw, List.append_assoc, List.singleton_append, decode_words count h256 (word.onPage ▸ paged),
    decodeFrom_base _ _ word.noPrefix, word.decodeBase_eq accepted fields, List.length_append, Prefixes.length_words]
  exact ⟨rfl, rfl⟩

/-- Settles O56: forth, the decoder comes from the words of the chain to the chain and from the base word to the row;
back, an answer comes of a chain that fits and of a row of the opcode map. -/
theorem decodeAndEncode : Obligations.DecodeAndEncode := by
  refine ⟨fun i rest wf => decode_encode wf rest, fun ws i n h => ?_⟩
  obtain ⟨wf, canon, words⟩ := wellFormed_of_decode h
  exact ⟨wf, canon, words, by simpa using words_of_decodeFrom h, (decodeFrom_take h).2⟩

end Sys2Proof
end

section
/-! A false predicate (02 R41): O14. -/

namespace Sys2Proof.Machine

/-! ### What stands under the predicate -/

/-- A state that an instruction reaches by doing something under its predicate only. -/
def Guarded (pre : Prefixes) (s t : State) : Prop := ∃ body, t = guarded pre s body

section
variable (pre : Prefixes) (s : State)

theorem guarded_runScalar (f : State → Ctx → Except Stop Effect) : Guarded pre s (runScalar pre s f) := ⟨_, rfl⟩

theorem guarded_runKmem (f : State → Except Block State) : Guarded pre s (runKmem pre s f) := ⟨_, rfl⟩

theorem guarded_apInt (op : IntOp) (p : BitVec 3) (pm : PostMode) (disp : BitVec 3) :
    Guarded pre s (apInt op p pm disp pre s) := guarded_runScalar pre s _

theorem guarded_apFloat (op : Ctx → FV → Ctx) (p : BitVec 3) (pm : PostMode) (disp : BitVec 3) :
    Guarded pre s (apFloat op p pm disp pre s) := guarded_runScalar pre s _

theorem guarded_macOp (neg : Bool) (pa : BitVec 3) (pma : PostMode) (pb : BitVec 3) (pmb : PostMode) :
    Guarded pre s (macOp neg pa pma pb pmb pre s) := guarded_runScalar pre s _

theorem guarded_aiInt (op : IntOp) (imm : BitVec 9) : Guarded pre s (aiInt op imm pre s) := guarded_runScalar pre s _

theorem guarded_arInt (op : IntOp) : Guarded pre s (arInt op pre s) := guarded_runScalar pre s _

theorem guarded_countOp (f : Nat → Nat → Nat) : Guarded pre s (countOp f pre s) := guarded_runScalar pre s _

theorem guarded_branch (cond : Ctx → Bool) (off : BitVec 9) : Guarded pre s (branch cond off pre s) :=
  guarded_runScalar pre s _

theorem guarded_loadGlobal (p : BitVec 3) (pm : PostMode) : Guarded pre s (loadGlobal p pm pre s) :=
  guarded_runKmem pre s _

theorem guarded_storeGlobal (rel : Bool) (p : BitVec 3) (pm : PostMode) :
    Guarded pre s (storeGlobal rel p pm pre s) := guarded_runKmem pre s _

theorem guarded_windowAccess (write rel : Bool) (p : BitVec 3) (pm : PostMode) :
    Guarded pre s (windowAccess write rel p pm pre s) := guarded_runKmem pre s _

theorem guarded_atomReturning (op : AtomOp) (p : BitVec 3) (o : AtomOrder) :
    Guarded pre s (atomReturning op p o pre s) := guarded_runKmem pre s _

theorem guarded_atomPosted (op : AtomOp) (p : BitVec 3) (o : AtomOrder) :
    Guarded pre s (atomPosted op p o pre s) := guarded_runKmem pre s _

end

/-! ### The instructions -/

/-- Whatever an instruction does that has an encoding, is not of format VX and is not REP, it does under its
predicate. -/
theorem exec_guarded {i : Instr} (s : State) (enc : i.encoded = true) (vx : isVx i = false)
    (rep : ∀ n t pre, i ≠ .rep n t pre) : ∃ t, exec i s = .next t ∧ Guarded i.pre s t := by
  cases i with
  | rep n t pre => exact absurd rfl (rep n t pre)
  | vld | vst | vldt | vmov | vbcast | vadd | vsub | vmul | vfma | vmin | vmax | vabs | vneg | vand | vor | vxor
  | vshl | vshr | vcmpEq | vcmpLt | vcmpLe | vsel | vcvt | vred | vscan | vperm | vexp2 | vlog2 | vrcp | vrsq
  | vclamp => cases vx
  | addMem | adc | subMem | sbc | mulMem | mulh | div | rem | andMem | orMem | xorMem | shlMem | shrMem | sarMem
  | rolMem | cmpMem | tstMem | minMem | maxMem | sel => exact ⟨_, rfl, guarded_apInt _ s _ _ _ _⟩
  | faddMem | fmulMem | fmin | fmax | fcmp => exact ⟨_, rfl, guarded_apFloat _ s _ _ _ _⟩
  | mac | msb => exact ⟨_, rfl, guarded_macOp _ s _ _ _ _ _⟩
  | addImm | subImm | mulImm | andImm | orImm | xorImm | shlImm | shrImm | sarImm | rolImm | cmpImm | tstImm
  | minImm | maxImm => exact ⟨_, rfl, guarded_aiInt _ s _ _⟩
  | addX | subX | andX | orX | xorX | mulX | cmpX => exact ⟨_, rfl, guarded_arInt _ s _⟩
  | clz | popc => exact ⟨_, rfl, guarded_countOp _ s _⟩
  | jmp | brZ | brNz | brN | brNn | brC | brNc | brV | brNv | brGt | brGe | brLt | brLe =>
    exact ⟨_, rfl, guarded_branch _ s _ _⟩
  | ldg | ldgAcq => exact ⟨_, rfl, guarded_loadGlobal _ s _ _⟩
  | stg | stgRel => exact ⟨_, rfl, guarded_storeGlobal _ s _ _ _⟩
  | ldw | stw | ldwAcq | stwRel => exact ⟨_, rfl, guarded_windowAccess _ s _ _ _ _⟩
  | atomAdd | atomMin | atomMax | atomAnd | atomOr | atomXor | atomXchg | atomCas =>
    exact ⟨_, rfl, guarded_atomReturning _ s _ _ _⟩
  | atomnAdd | atomnMin | atomnMax | atomnAnd | atomnOr | atomnXor => exact ⟨_, rfl, guarded_atomPosted _ s _ _ _⟩
  | lda | sta | ffma | movm | ldi | xcha | faddX | fmulX | fcvt | frcp | movp | addp | sets | getp | ret | movf
  | getf | nop | call | loop | jmpA | callA | waitc | sleep | setc | addc | bar | fence | fenceAcq | fenceRel
  | hstart | hexit | hjoin | yield | trap | cpy | cpyc | mctx | wpl | mzero | mma | mrow | mcol | mdrain | mdrainf
  | qnt | qntg | deq | blset | blcnt | put | putc | mcst | winset | tok | tokn | atok | cvoid | cpeek | netred
  | nbar | spawn | arm | link | depdec | gnew | gcancel | gwait | qres | qpost | tcbrd | sqnew | sqres | sqcmt
  | sqvoidCancel | sqvoidCommit | sqlen | sqfork | sqclose | sqdrop | sqaddr | eret | csave | cload | tlbinvPage
  | tlbinvJob | tlbinvStack | fltrdTake | fltrdResume | fltrdPeek | stkpass | rgnrd | rgnwr | plcmtPrep
  | plcmtCommit | plcmtAbort => exact ⟨_, rfl, _, rfl⟩
  | _ => cases enc

theorem Guarded.eq_skip {pre : Prefixes} {s t : State} (h : Guarded pre s t)
    (no : s.strand.cond pre.pred.toNat = false) : t = s.skip pre := by
  obtain ⟨body, rfl⟩ := h
  exact if_neg (by simp [no])

/-- Settles O14: all that an instruction does stands under its predicate, and under a false one there is the skip
alone. -/
theorem falsePredicate : Obligations.FalsePredicate := by
  intro s i ⟨enc, _⟩ vx rep no
  obtain ⟨t, done, only⟩ := exec_guarded s enc vx rep
  rw [done, only.eq_skip no, State.skip]

end Sys2Proof.Machine
end

section
/-! The words of the manual (02 R60, R61, R70): O57. -/

namespace Sys2Proof

/-- Settles O57: the decoder, run on each of the words, gives what the manual writes beside it. -/
theorem sampleWordsDecode : Obligations.SampleWordsDecode := by
  unfold Obligations.SampleWordsDecode
  decide

end Sys2Proof
end

section
/-! SUPPORT. Magnitudes of the floating types, in units of the smallest subnormal, and the patterns that stand for them
(04 R79 to R82). -/

namespace Sys2Proof

/-! ### Magnitudes in units of the smallest subnormal -/

/-- The binade of a magnitude with `F` fraction bits; the subnormal magnitudes stand in the lowest one. -/
def binade (F a : Nat) : Nat := a / 2 ^ F - 1

/-- The significand of a magnitude, with the leading one that a normal magnitude leaves out. -/
def significand (F a : Nat) : Nat := a - binade F a * 2 ^ F

/-- What a magnitude stands for, in units of the smallest subnormal. -/
def unitsOf (F a : Nat) : Nat := significand F a * 2 ^ binade F a

/-- A significand and the binade that it is normalised for. -/
def Normalised (F k n : Nat) : Prop := (k = 0 ∨ 2 ^ F ≤ n) ∧ n < 2 ^ (F + 1)

theorem binade_of_normalised {F k n : Nat} (h : Normalised F k n) : binade F (k * 2 ^ F + n) = k := by
  obtain ⟨lower, upper⟩ := h
  have two : n / 2 ^ F < 2 := Nat.div_lt_of_lt_mul (by rwa [← pow_succ])
  rw [binade, Nat.add_comm, Nat.add_mul_div_right _ _ (by positivity)]
  rcases lower with rfl | lower
  · omega
  · have one : 1 ≤ n / 2 ^ F := (Nat.one_le_div_iff (by positivity)).2 lower
    omega

theorem unitsOf_of_normalised {F k n : Nat} (h : Normalised F k n) : unitsOf F (k * 2 ^ F + n) = n * 2 ^ k := by
  rw [unitsOf, significand, binade_of_normalised h, Nat.add_sub_cancel_left]

theorem normalised_significand (F a : Nat) :
    Normalised F (binade F a) (significand F a) ∧ a = binade F a * 2 ^ F + significand F a := by
  simp only [Normalised, significand, binade, pow_succ]
  rcases Nat.eq_zero_or_pos (a / 2 ^ F) with zero | pos
  · have small := (Nat.div_eq_zero_iff_lt (Nat.two_pow_pos F)).1 zero
    simp only [zero, Nat.zero_mul, Nat.zero_sub, Nat.sub_zero]
    exact ⟨⟨.inl trivial, small.trans_le (Nat.le_mul_of_pos_right _ two_pos)⟩, (Nat.zero_add a).symm⟩
  · have split := Nat.div_add_mod' a (2 ^ F)
    have low := Nat.mod_lt a (Nat.two_pow_pos F)
    obtain ⟨k, hk⟩ := Nat.exists_eq_add_of_lt pos
    rw [Nat.zero_add] at hk
    rw [hk, Nat.add_mul] at split
    rw [hk, Nat.add_sub_cancel]
    omega

/-- The next magnitude is one unit of the binade larger, at the end of a binade too. -/
theorem unitsOf_succ (F a : Nat) : unitsOf F (a + 1) = unitsOf F a + 2 ^ binade F a := by
  obtain ⟨norm, eq⟩ := normalised_significand F a
  generalize binade F a = k, significand F a = n at norm eq ⊢
  obtain ⟨lower, upper⟩ := norm
  rw [eq, unitsOf_of_normalised ⟨lower, upper⟩]
  rcases Nat.lt_or_ge (n + 1) (2 ^ (F + 1)) with inside | carry
  · rw [Nat.add_assoc, unitsOf_of_normalised ⟨lower.imp_right Nat.le_succ_of_le, inside⟩, Nat.succ_mul]
  · have full : n + 1 = 2 * 2 ^ F := by rw [pow_succ] at *; omega
    have next : k * 2 ^ F + n + 1 = (k + 1) * 2 ^ F + 2 ^ F := by rw [Nat.add_assoc, full]; ring
    rw [next, unitsOf_of_normalised ⟨.inr le_rfl, by simp [pow_succ]⟩, ← Nat.succ_mul, Nat.succ_eq_add_one, full]
    ring

theorem unitsOf_strictMono (F : Nat) : StrictMono (unitsOf F) :=
  strictMono_nat_of_lt_succ fun a => by
    rw [unitsOf_succ]
    exact Nat.lt_add_of_pos_right (Nat.two_pow_pos _)

/-- A value lies less than one unit above one magnitude only, in whatever unit `K` it is given. -/
theorem eq_of_unitsOf_add_eq {F K a b r r' : Nat} (h : unitsOf F a * K + r = unitsOf F b * K + r')
    (hr : r < 2 ^ binade F a * K) (hr' : r' < 2 ^ binade F b * K) : a = b ∧ r = r' := by
  have below {a b r r' : Nat} (h : unitsOf F a * K + r = unitsOf F b * K + r') (hr' : r' < 2 ^ binade F b * K) :
      a ≤ b := by
    refine Nat.le_of_lt_succ ((unitsOf_strictMono F).lt_iff_lt.1 (Nat.lt_of_mul_lt_mul_right (a := K) ?_))
    rw [unitsOf_succ, Nat.add_mul]
    omega
  obtain rfl := Nat.le_antisymm (below h hr') (below h.symm hr)
  exact ⟨rfl, Nat.add_left_cancel h⟩

/-! ### The patterns of a type -/

/-- The exponent of a type's smallest subnormal. -/
def Ty.unitExp (t : Ty) : Int := 1 - t.bias - t.fracBits

/-- The magnitude of a value in units of `2 ^ u`; 0 for what is not finite. -/
def FV.magIn (u : Int) : FV → Nat
  | .fin _ n f => n * 2 ^ (f - u).toNat
  | _ => 0

theorem Ty.eq_of_isFloat {t : Ty} (ht : t.isFloat = true) :
    t = .f32 ∨ t = .bf16 ∨ t = .f16 ∨ t = .e4m3 ∨ t = .e5m2 := by
  cases t <;> simp [Ty.isFloat] at ht ⊢

section
variable {t : Ty} (ht : t.isFloat = true)
include ht

theorem Ty.bits_eq : t.bits = t.expBits + t.fracBits + 1 := by
  rcases Ty.eq_of_isFloat ht with rfl | rfl | rfl | rfl | rfl <;> rfl

theorem Ty.bits_sub_one : t.bits - 1 = t.expBits + t.fracBits := by
  rw [Ty.bits_eq ht, Nat.add_sub_cancel]

theorem Ty.two_dvd_two_pow_fracBits : 2 ∣ 2 ^ t.fracBits := by
  rcases Ty.eq_of_isFloat ht with rfl | rfl | rfl | rfl | rfl <;> decide

/-- The two largest finite magnitudes are normal and stand in one binade. -/
theorem Ty.binade_maxFinite_sub_one :
    2 ^ t.fracBits < t.maxFinite ∧ binade t.fracBits (t.maxFinite - 1) = binade t.fracBits t.maxFinite := by
  rcases Ty.eq_of_isFloat ht with rfl | rfl | rfl | rfl | rfl <;> decide

theorem Ty.maxFinite_lt : t.maxFinite < 2 ^ (t.expBits + t.fracBits) := by
  rcases Ty.eq_of_isFloat ht with rfl | rfl | rfl | rfl | rfl <;> decide

/-- Only e4m3 has no infinities; elsewhere the infinity follows the largest finite value. -/
theorem Ty.eq_e4m3_or_infinity : t = .e4m3 ∨
    t ≠ .e4m3 ∧ t.hasInf = true ∧ t.infinity = t.maxFinite + 1 ∧ t.infinity = (2 ^ t.expBits - 1) * 2 ^ t.fracBits := by
  rcases Ty.eq_of_isFloat ht with rfl | rfl | rfl | rfl | rfl <;> decide

theorem Ty.testBit_signed {neg : Bool} {a : Nat} (ha : a < 2 ^ (t.expBits + t.fracBits)) :
    (t.signed neg a).testBit (t.bits - 1) = neg := by
  rw [Ty.signed, Ty.bits_sub_one ht]
  cases neg
  · exact Nat.testBit_lt_two_pow ha
  · rw [if_pos rfl, Nat.add_comm, Nat.testBit_two_pow_add_eq, Nat.testBit_lt_two_pow ha]
    rfl

/-- The sign bit stands above the fields of the exponent and of the fraction. -/
theorem Ty.fields_signed {neg : Bool} {a : Nat} (ha : a < 2 ^ (t.expBits + t.fracBits)) :
    bitsAt t.fracBits t.expBits (t.signed neg a) = a / 2 ^ t.fracBits ∧
      bitsAt 0 t.fracBits (t.signed neg a) = a % 2 ^ t.fracBits := by
  have exp : a / 2 ^ t.fracBits < 2 ^ t.expBits := Nat.div_lt_of_lt_mul (by rwa [← pow_add, Nat.add_comm])
  rw [bitsAt, bitsAt, Ty.signed, Ty.bits_sub_one ht, pow_zero, Nat.div_one]
  cases neg
  · exact ⟨Nat.mod_eq_of_lt exp, rfl⟩
  · rw [if_pos rfl, pow_add, Nat.add_mul_div_right _ _ (Nat.two_pow_pos _), Nat.add_mod_right,
      Nat.add_mul_mod_self_right]
    exact ⟨Nat.mod_eq_of_lt exp, rfl⟩

/-- A magnitude up to the largest finite one, read with a sign (R80). -/
theorem Ty.value_signed {neg : Bool} {a : Nat} (ha : a ≤ t.maxFinite) :
    t.value (t.signed neg a) =
      .fin neg (significand t.fracBits a) (t.unitExp + binade t.fracBits a) := by
  have bound := ha.trans_lt (Ty.maxFinite_lt ht)
  obtain ⟨exp, frac⟩ := Ty.fields_signed ht (neg := neg) bound
  have split := Nat.div_add_mod' a (2 ^ t.fracBits)
  simp only [Ty.value, Ty.testBit_signed ht bound, exp, frac]
  have notNaN : ¬ (t = .e4m3 ∧ a / 2 ^ t.fracBits = 15 ∧ a % 2 ^ t.fracBits = 7) := by
    rintro ⟨rfl, he, hf⟩
    rw [he, hf] at split
    exact absurd ha (by rw [← split]; decide)
  have notInf : ¬ (t.hasInf = true ∧ a / 2 ^ t.fracBits = 2 ^ t.expBits - 1) := by
    rintro ⟨inf, he⟩
    rcases Ty.eq_e4m3_or_infinity ht with rfl | ⟨-, -, next, eq⟩
    · cases inf
    · rw [he, ← eq, next] at split
      omega
  rw [if_neg notNaN, if_neg notInf, Ty.unitExp, significand, binade]
  split
  · next zero =>
    rw [zero, Nat.zero_mul, Nat.zero_add] at split
    rw [zero, split]
    simp
  · next pos =>
    obtain ⟨k, hk⟩ := Nat.exists_eq_succ_of_ne_zero pos
    rw [hk, Nat.succ_mul] at split
    rw [hk, Nat.succ_sub_one, FV.fin.injEq]
    refine ⟨rfl, ?_, ?_⟩ <;> push_cast <;> omega

/-- A magnitude beyond the largest finite one, read with a sign, is an infinity or a NaN (R79, R82). -/
theorem Ty.value_signed_of_lt {neg : Bool} {a : Nat} (ha : t.maxFinite < a)
    (bound : a < 2 ^ (t.expBits + t.fracBits)) :
    (t.value (t.signed neg a)).isNaN = true ∨
      t.value (t.signed neg a) = .inf neg ∧ t.hasInf = true ∧ a = t.infinity := by
  obtain ⟨exp, frac⟩ := Ty.fields_signed ht (neg := neg) bound
  simp only [Ty.value, Ty.testBit_signed ht bound, exp, frac]
  rcases Ty.eq_e4m3_or_infinity ht with rfl | ⟨ne, inf, next, eq⟩
  · have all : a = 127 := Nat.le_antisymm (Nat.le_of_lt_succ bound) ha
    subst all
    exact .inl rfl
  · have top : a / 2 ^ t.fracBits = 2 ^ t.expBits - 1 := by
      refine Nat.div_eq_of_lt_le (by omega) (bound.trans_eq ?_)
      rw [Nat.sub_add_cancel Nat.one_le_two_pow, pow_add]
    have split := Nat.div_add_mod' a (2 ^ t.fracBits)
    rw [if_neg fun h => ne h.1, if_pos ⟨inf, top⟩]
    split
    · next zero =>
      rw [top, zero, Nat.add_zero, ← eq] at split
      exact .inr ⟨rfl, inf, split.symm⟩
    · exact .inl rfl

theorem Ty.exists_signed {x : Nat} (hx : x < 2 ^ t.bits) :
    ∃ neg a, x = t.signed neg a ∧ a < 2 ^ (t.expBits + t.fracBits) := by
  rw [Ty.bits_eq ht, pow_succ] at hx
  simp only [Ty.signed, Ty.bits_sub_one ht]
  rcases Nat.lt_or_ge x (2 ^ (t.expBits + t.fracBits)) with low | high
  · exact ⟨false, x, rfl, low⟩
  · exact ⟨true, x - 2 ^ (t.expBits + t.fracBits), (Nat.sub_add_cancel high).symm, by omega⟩

theorem Ty.magIn_value {u : Int} (hu : u ≤ t.unitExp) {a : Nat} (ha : a ≤ t.maxFinite) :
    (t.value a).magIn u = unitsOf t.fracBits a * 2 ^ (t.unitExp - u).toNat := by
  have value := Ty.value_signed ht (neg := false) ha
  have shift : (t.unitExp + binade t.fracBits a - u).toNat = binade t.fracBits a + (t.unitExp - u).toNat := by omega
  rw [show t.value a = _ from value, FV.magIn, unitsOf, shift, pow_add, Nat.mul_assoc]

end

end Sys2Proof
end

section
/-! SUPPORT. Rounding: what is kept and what is shifted out, and where the result goes (04 R88 to R90). -/

namespace Sys2Proof

/-! ### Rounding a magnitude -/

theorem roundsAway_congr {md : RMode} {neg odd : Bool} {r h r' h' : Nat} (more : h < r ↔ h' < r')
    (tie : r = h ↔ r' = h') (pos : 0 < r ↔ 0 < r') : roundsAway md neg odd r h = roundsAway md neg odd r' h' := by
  cases md <;> simp only [roundsAway, more, tie, pos]

theorem roundsAway_mul {md : RMode} {neg odd : Bool} {r h c : Nat} (hc : 0 < c) :
    roundsAway md neg odd (r * c) (h * c) = roundsAway md neg odd r h :=
  roundsAway_congr (Nat.mul_lt_mul_right hc) (Nat.mul_left_inj hc.ne') (by simp [hc])

theorem roundsAway_zero {md : RMode} {neg odd : Bool} {h : Nat} (hh : 0 < h) : roundsAway md neg odd 0 h = false := by
  cases md <;> simp [roundsAway, hh.ne]

/-- The rounding of a value that lies above the magnitude `a`: `r` is to `h` as the value's distance from `a` is to half
the distance between `a` and the next magnitude (R88 to R90). -/
def roundMagnitude (t : Ty) (md : RMode) (sat neg : Bool) (a r h : Nat) : Nat × FFlags :=
  let b := if roundsAway md neg (a % 2 == 1) r h then a + 1 else a
  if b > t.maxFinite then (overflowPattern t md sat neg, ⟨false, true, false, true⟩)
  else (t.signed neg b, ⟨false, false, decide (r ≠ 0) && decide (b ≠ 0) && decide (b < 2 ^ t.fracBits), decide (r ≠ 0)⟩)

/-- The exponent of the last bit that rounding keeps. -/
def Ty.keptExp (t : Ty) (m : Nat) (e : Int) : Int :=
  if e + Nat.log2 m - t.fracBits < t.unitExp then t.unitExp else e + Nat.log2 m - t.fracBits

/-- The model cuts a shift off three bits above the number's own bits; that changes nothing. -/
theorem shift_cut {m d : Nat} (md : RMode) (neg odd : Bool) :
    let sh := min d (Nat.log2 m + 3)
    m / 2 ^ sh = m / 2 ^ d ∧ m % 2 ^ sh = m % 2 ^ d ∧
      roundsAway md neg odd (m % 2 ^ sh) (2 ^ (sh - 1)) = roundsAway md neg odd (m % 2 ^ d) (2 ^ (d - 1)) := by
  intro sh
  rcases Nat.le_total d (Nat.log2 m + 3) with le | le
  · rw [show sh = d from min_eq_left le]
    exact ⟨rfl, rfl, rfl⟩
  · have cut : sh = Nat.log2 m + 3 := min_eq_right le
    have below {i : Nat} (hi : Nat.log2 m + 1 ≤ i) : m < 2 ^ i :=
      Nat.lt_log2_self.trans_le (Nat.pow_le_pow_right (by decide) hi)
    have half := below (i := sh - 1) (by omega)
    have half' := below (i := d - 1) (by omega)
    rw [Nat.div_eq_of_lt (below (by omega)), Nat.div_eq_of_lt (below (by omega)), Nat.mod_eq_of_lt (below (by omega)),
      Nat.mod_eq_of_lt (below (by omega))]
    exact ⟨rfl, rfl, roundsAway_congr (by omega) (by omega) Iff.rfl⟩

section
variable {t : Ty} {m : Nat} {e : Int}

/-- Rounding in terms of the magnitude that is kept and of what is shifted out of it. -/
theorem roundFin_eq_roundMagnitude {q : Int} {d : Nat} (ht : t.isFloat = true) (hm : m ≠ 0) (hq : t.keptExp m e = q)
    (hd : (q - e).toNat = d) (md : RMode) (sat neg : Bool) :
    roundFin t md sat neg m e = roundMagnitude t md sat neg
      ((q - t.unitExp).toNat * 2 ^ t.fracBits + m * 2 ^ (e - q).toNat / 2 ^ d) (m % 2 ^ d) (2 ^ (d - 1)) := by
  generalize hk : (q - t.unitExp).toNat * 2 ^ t.fracBits = k
  have even : 2 ∣ k := hk ▸ (Ty.two_dvd_two_pow_fracBits ht).mul_left _
  generalize hn : m * 2 ^ (e - q).toNat / 2 ^ d = n
  have parity : (k + n) % 2 = n % 2 := by omega
  obtain ⟨div, mod, away⟩ := shift_cut (d := d) md neg (n % 2 == 1)
  rw [mod] at away
  have kept : m * 2 ^ (e - q).toNat / 2 ^ min d (Nat.log2 m + 3) = n := by
    rcases Nat.eq_zero_or_pos d with zero | pos
    · rw [← hn, zero, Nat.zero_min]
    · have none : (e - q).toNat = 0 := by omega
      rw [none, pow_zero, Nat.mul_one] at hn ⊢
      rw [div, hn]
  have inexact : (decide (q > e) && decide (m % 2 ^ d ≠ 0)) = decide (m % 2 ^ d ≠ 0) := by
    by_cases above : q > e
    · simp [above]
    · have zero : d = 0 := by omega
      simp [zero, Nat.mod_one]
  have up : (decide (m % 2 ^ d ≠ 0) && roundsAway md neg (n % 2 == 1) (m % 2 ^ d) (2 ^ (d - 1))) =
      roundsAway md neg (n % 2 == 1) (m % 2 ^ d) (2 ^ (d - 1)) := by
    by_cases zero : m % 2 ^ d = 0
    · simp [zero, roundsAway_zero]
    · simp [zero]
  simp only [roundFin, if_neg hm, ← Ty.unitExp.eq_def, ← Ty.keptExp.eq_def, hq, hd, kept, mod, away, inexact, up, hk,
    roundMagnitude, parity, Nat.add_assoc, apply_ite (k + ·)]

/-- What is kept is a normalised significand of its binade. -/
theorem normalised_kept (hm : m ≠ 0) :
    Normalised t.fracBits (t.keptExp m e - t.unitExp).toNat
      (m * 2 ^ (e - t.keptExp m e).toNat / 2 ^ (t.keptExp m e - e).toNat) := by
  have low : 2 ^ Nat.log2 m ≤ m := Nat.log2_self_le hm
  have high : m < 2 ^ (Nat.log2 m + 1) := Nat.lt_log2_self
  have kept : t.unitExp ≤ t.keptExp m e ∧ e + Nat.log2 m - t.fracBits ≤ t.keptExp m e ∧
      (t.keptExp m e = t.unitExp ∨ t.keptExp m e = e + Nat.log2 m - t.fracBits) := by
    unfold Ty.keptExp; split <;> omega
  generalize t.keptExp m e = q at kept ⊢
  obtain ⟨hq, hq', is⟩ := kept
  constructor
  · refine is.imp (fun h => by omega) fun h => (Nat.le_div_iff_mul_le (Nat.two_pow_pos _)).2 ?_
    calc 2 ^ t.fracBits * 2 ^ (q - e).toNat = 2 ^ Nat.log2 m * 2 ^ (e - q).toNat := by
          rw [← pow_add, ← pow_add]; congr 1; omega
      _ ≤ m * 2 ^ (e - q).toNat := Nat.mul_le_mul_right _ low
  · refine Nat.div_lt_of_lt_mul ?_
    calc m * 2 ^ (e - q).toNat < 2 ^ (Nat.log2 m + 1) * 2 ^ (e - q).toNat :=
          Nat.mul_lt_mul_of_pos_right high (Nat.two_pow_pos _)
      _ ≤ 2 ^ (q - e).toNat * 2 ^ (t.fracBits + 1) := by
          rw [← pow_add, ← pow_add]; exact Nat.pow_le_pow_right (by decide) (by omega)

section
variable {q u : Int} (he : u ≤ e) (hq : u ≤ q)
include he hq

/-- The kept part and what is shifted out, in units of `2 ^ u`. -/
theorem value_eq_kept_add :
    m * 2 ^ (e - u).toNat = m * 2 ^ (e - q).toNat / 2 ^ (q - e).toNat * 2 ^ (q - u).toNat +
      m % 2 ^ (q - e).toNat * 2 ^ (e - u).toNat ∧
    m % 2 ^ (q - e).toNat * 2 ^ (e - u).toNat < 2 ^ (q - u).toNat := by
  rcases le_total e q with le | le
  · have unit : (q - u).toNat = (q - e).toNat + (e - u).toNat := by omega
    have none : (e - q).toNat = 0 := by omega
    rw [unit, none, pow_zero, Nat.mul_one, pow_add, ← Nat.mul_assoc, ← Nat.add_mul, Nat.div_add_mod']
    exact ⟨rfl, Nat.mul_lt_mul_of_pos_right (Nat.mod_lt _ (Nat.two_pow_pos _)) (Nat.two_pow_pos _)⟩
  · have unit : (e - u).toNat = (e - q).toNat + (q - u).toNat := by omega
    have none : (q - e).toNat = 0 := by omega
    rw [unit, none, pow_zero, Nat.div_one, Nat.mod_one, Nat.zero_mul, pow_add, Nat.mul_assoc]
    exact ⟨rfl, Nat.two_pow_pos _⟩

/-- Rounding compares twice what is shifted out with a whole unit. -/
theorem roundsAway_shifted_out (md : RMode) (neg odd : Bool) :
    roundsAway md neg odd (m % 2 ^ (q - e).toNat) (2 ^ ((q - e).toNat - 1)) =
      roundsAway md neg odd (2 * (m % 2 ^ (q - e).toNat * 2 ^ (e - u).toNat)) (2 ^ (q - u).toNat) := by
  rcases Nat.eq_zero_or_pos (q - e).toNat with none | pos
  · rw [none, pow_zero, Nat.mod_one, Nat.zero_mul, Nat.mul_zero, roundsAway_zero Nat.one_pos,
      roundsAway_zero (Nat.two_pow_pos _)]
  · have unit : (q - u).toNat = ((q - e).toNat - 1) + ((e - u).toNat + 1) := by omega
    rw [unit, pow_add, Nat.mul_comm 2, Nat.mul_assoc, ← pow_succ, roundsAway_mul (Nat.two_pow_pos _)]

end

/-- A value that lies above a magnitude by less than one unit of the binade is rounded from there; `r`, by which it lies
above, and the unit are in units of `2 ^ u`. -/
theorem roundFin_eq_of_unitsOf {u : Int} {a r : Nat} (ht : t.isFloat = true) (hm : m ≠ 0) (hu : u ≤ e)
    (hu' : u ≤ t.unitExp) (hv : m * 2 ^ (e - u).toNat = unitsOf t.fracBits a * 2 ^ (t.unitExp - u).toNat + r)
    (hr : r < 2 ^ binade t.fracBits a * 2 ^ (t.unitExp - u).toNat) (md : RMode) (sat neg : Bool) :
    roundFin t md sat neg m e =
      roundMagnitude t md sat neg a (2 * r) (2 ^ binade t.fracBits a * 2 ^ (t.unitExp - u).toNat) := by
  obtain ⟨q, hq⟩ : ∃ q, t.keptExp m e = q := ⟨_, rfl⟩
  have above : t.unitExp ≤ q := by rw [← hq, Ty.keptExp]; split <;> omega
  have norm := normalised_kept (t := t) (e := e) hm
  obtain ⟨value, rest⟩ := value_eq_kept_add (m := m) hu (hu'.trans above)
  have away := roundsAway_shifted_out (m := m) hu (hu'.trans above) md neg
  have unit : (q - u).toNat = (q - t.unitExp).toNat + (t.unitExp - u).toNat := by omega
  rw [hq] at norm
  rw [unit, pow_add] at value rest away
  rw [← Nat.mul_assoc, ← unitsOf_of_normalised norm] at value
  rw [roundFin_eq_roundMagnitude ht hm hq rfl]
  generalize hb : (q - t.unitExp).toNat * 2 ^ t.fracBits + m * 2 ^ (e - q).toNat / 2 ^ (q - e).toNat = b at *
  have step : binade t.fracBits b = (q - t.unitExp).toNat := hb ▸ binade_of_normalised norm
  rw [← step] at rest away
  obtain ⟨rfl, left⟩ := eq_of_unitsOf_add_eq (value.symm.trans hv) rest hr
  rw [left] at away
  have zero : m % 2 ^ (q - e).toNat = 0 ↔ 2 * r = 0 := by simp [← left]
  simp only [roundMagnitude, away, ne_eq, zero]

end

/-! ### The result between two magnitudes, and beyond the largest -/

theorem unitsOf_zero (F : Nat) : unitsOf F 0 = 0 := by simp [unitsOf, significand]

/-- Every value lies less than one unit above some magnitude. -/
theorem exists_unitsOf_add {F K : Nat} (hK : 0 < K) (v : Nat) :
    ∃ a r, v = unitsOf F a * K + r ∧ r < 2 ^ binade F a * K := by
  induction v with
  | zero => exact ⟨0, 0, by simp [unitsOf_zero], Nat.mul_pos (Nat.two_pow_pos _) hK⟩
  | succ v ih =>
    obtain ⟨a, r, eq, lt⟩ := ih
    rcases Nat.lt_or_ge (r + 1) (2 ^ binade F a * K) with inside | carry
    · exact ⟨a, r + 1, by omega, inside⟩
    · exact ⟨a + 1, 0, by rw [unitsOf_succ, Nat.add_mul]; omega, Nat.mul_pos (Nat.two_pow_pos _) hK⟩

/-- Does a mode round a magnitude of this sign away from zero, when it does not round to nearest (R88), and does an
overflow become an infinity (R89)? -/
def RMode.outward (md : RMode) (neg : Bool) : Bool :=
  match md with
  | .nearest => true
  | .zero => false
  | .up => !neg
  | .down => neg

/-- The magnitude that a value `v` between `lo`, which `a` stands for, and `hi` is rounded to (R88). -/
def RMode.choose (md : RMode) (neg : Bool) (a lo hi v : Nat) : Nat :=
  match md with
  | .nearest => if lo + hi < 2 * v then a + 1 else if 2 * v < lo + hi then a else if a % 2 = 0 then a else a + 1
  | _ => if md.outward neg then a + 1 else a

/-- Does a value above the largest finite one, `lo`, pass it when it is rounded as though `hi` were the next (R89)? -/
def RMode.Passes (md : RMode) (neg : Bool) (top lo hi v : Nat) : Prop :=
  match md with
  | .nearest => lo + hi < 2 * v ∨ (lo + hi = 2 * v ∧ top % 2 = 1)
  | _ => md.outward neg = true ∨ hi ≤ v

/-- Rounding goes to the magnitude that the mode chooses. -/
theorem RMode.choose_eq (md : RMode) (neg : Bool) {a lo r gap : Nat} (pos : 0 < r) :
    md.choose neg a lo (lo + gap) (lo + r) = if roundsAway md neg (a % 2 == 1) (2 * r) gap then a + 1 else a := by
  cases md with
  | nearest =>
    simp only [RMode.choose, roundsAway, Bool.or_eq_true, Bool.and_eq_true, decide_eq_true_eq, beq_iff_eq]
    split_ifs <;> omega
  | zero => rfl
  | up | down => cases neg <;> simp [RMode.choose, RMode.outward, roundsAway, pos]

theorem RMode.passes_iff_choose (md : RMode) (neg : Bool) {top lo hi v : Nat} (inside : v < hi) :
    md.Passes neg top lo hi v ↔ md.choose neg top lo hi v = top + 1 := by
  cases md with
  | nearest =>
    simp only [RMode.Passes, RMode.choose]
    split_ifs <;> omega
  | zero | up | down => simp [RMode.Passes, RMode.choose, inside]

theorem RMode.choose_eq_or (md : RMode) (neg : Bool) (a lo hi v : Nat) :
    md.choose neg a lo hi v = a ∨ md.choose neg a lo hi v = a + 1 := by
  cases md <;> simp only [RMode.choose] <;> split_ifs <;> simp

theorem RMode.passes_of_le (md : RMode) (neg : Bool) {top lo hi v : Nat} (above : lo < hi) (beyond : hi ≤ v) :
    md.Passes neg top lo hi v := by
  cases md with
  | nearest => exact .inl (by omega)
  | zero | up | down => exact .inr beyond

section
variable {t : Ty} {md : RMode} {sat neg : Bool}

theorem overflowPattern_eq (ht : t.isFloat = true) : overflowPattern t md sat neg =
    if sat = true ∨ md.outward neg = false then t.signed neg t.maxFinite
    else if t = .e4m3 then 0x7F else t.signed neg t.infinity := by
  have unfolded : overflowPattern t md sat neg = if md.outward neg && !sat then
      (if t.hasInf then t.signed neg t.infinity else t.canonicalNaN) else t.signed neg t.maxFinite := rfl
  rw [unfolded]
  rcases Ty.eq_e4m3_or_infinity ht with rfl | ⟨ne, inf, -, -⟩
  · cases sat <;> cases md.outward neg <;> rfl
  · rw [if_neg ne, if_pos inf]
    cases sat <;> cases md.outward neg <;> rfl

variable {m : Nat} {e u : Int} {mag : Nat → Nat} {v : Nat}
variable (ht : t.isFloat = true) (hm : 0 < m) (he : u ≤ e) (hu : u ≤ t.unitExp)
  (hv : m * 2 ^ (e - u).toNat = v)
  (hmag : ∀ a ≤ t.maxFinite, mag a = unitsOf t.fracBits a * 2 ^ (t.unitExp - u).toNat)

section
include ht hm he hu hv

/-- A value that is a magnitude of the type stays as it is. -/
theorem roundFin_of_unitsOf_eq {a : Nat} (ha : a ≤ t.maxFinite)
    (eq : unitsOf t.fracBits a * 2 ^ (t.unitExp - u).toNat = v) :
    roundFin t md sat neg m e = (t.signed neg a, FFlags.none) := by
  have gap : 0 < 2 ^ binade t.fracBits a * 2 ^ (t.unitExp - u).toNat := by positivity
  rw [roundFin_eq_of_unitsOf ht hm.ne' he hu (hv.trans eq.symm) gap, roundMagnitude, Nat.mul_zero,
    roundsAway_zero gap, if_neg (by simpa using ha)]
  rfl

/-- A value that is no magnitude of the type goes to the magnitude that the mode chooses, or overflows beyond the
largest. -/
theorem roundFin_of_unitsOf_lt {a lo hi b : Nat} (hlo : unitsOf t.fracBits a * 2 ^ (t.unitExp - u).toNat = lo)
    (hhi : unitsOf t.fracBits (a + 1) * 2 ^ (t.unitExp - u).toNat = hi) (above : lo < v) (below : v < hi)
    (hb : md.choose neg a lo hi v = b) :
    roundFin t md sat neg m e = if t.maxFinite < b then (overflowPattern t md sat neg, ⟨false, true, false, true⟩)
      else (t.signed neg b, ⟨false, false, decide (b ≠ 0 ∧ b < 2 ^ t.fracBits), true⟩) := by
  obtain ⟨r, rfl⟩ := Nat.exists_eq_add_of_lt above
  rw [unitsOf_succ, Nat.add_mul, hlo] at hhi
  subst hhi
  rw [Nat.add_assoc, RMode.choose_eq md neg r.succ_pos] at hb
  rw [roundFin_eq_of_unitsOf ht hm.ne' he hu (r := r + 1) (by rw [hv, hlo, Nat.add_assoc]) (by omega), roundMagnitude,
    hb]
  simp

/-- A value as large as what would follow the largest finite magnitude overflows in every mode. -/
theorem roundFin_of_unitsOf_ge (large : unitsOf t.fracBits (t.maxFinite + 1) * 2 ^ (t.unitExp - u).toNat ≤ v) :
    roundFin t md sat neg m e = (overflowPattern t md sat neg, ⟨false, true, false, true⟩) := by
  obtain ⟨a, r, rfl, lt⟩ := exists_unitsOf_add (F := t.fracBits) (Nat.two_pow_pos (t.unitExp - u).toNat) v
  have past : t.maxFinite + 1 < a + 1 := by
    refine (unitsOf_strictMono t.fracBits).lt_iff_lt.1
      (Nat.lt_of_mul_lt_mul_right (a := 2 ^ (t.unitExp - u).toNat) (large.trans_lt ?_))
    rw [unitsOf_succ, Nat.add_mul]
    exact Nat.add_lt_add_left lt _
  rw [roundFin_eq_of_unitsOf ht hm.ne' he hu hv lt, roundMagnitude]
  exact if_pos (by split <;> omega)

end

section
include ht hm he hu hv hmag

theorem roundFin_of_mag_eq {a : Nat} (ha : a ≤ t.maxFinite) (eq : mag a = v) :
    roundFin t md sat neg m e = (t.signed neg a, FFlags.none) :=
  roundFin_of_unitsOf_eq ht hm he hu hv ha ((hmag a ha).symm.trans eq)

/-- Between two finite magnitudes (R88). -/
theorem roundFin_of_mag_between {a b : Nat} (ha : a < t.maxFinite) (above : mag a < v) (below : v < mag (a + 1))
    (hb : md.choose neg a (mag a) (mag (a + 1)) v = b) : roundFin t md sat neg m e =
      (t.signed neg b, ⟨false, false, decide (b ≠ 0 ∧ b < 2 ^ t.fracBits), true⟩) := by
  have le : b ≤ t.maxFinite := by
    rcases RMode.choose_eq_or md neg a (mag a) (mag (a + 1)) v with same | next <;> omega
  rw [roundFin_of_unitsOf_lt ht hm he hu hv (hmag a ha.le).symm (hmag (a + 1) ha).symm above below hb,
    if_neg (Nat.not_lt.2 le)]

omit hm he hu hv in
/-- What would follow the largest finite magnitude, were the exponents without an upper limit (R89). -/
theorem next_of_mag : 2 * mag t.maxFinite - mag (t.maxFinite - 1) =
    unitsOf t.fracBits (t.maxFinite + 1) * 2 ^ (t.unitExp - u).toNat := by
  obtain ⟨normal, same⟩ := Ty.binade_maxFinite_sub_one ht
  have pred := unitsOf_succ t.fracBits (t.maxFinite - 1)
  rw [Nat.sub_add_cancel (Nat.one_le_of_lt normal), same] at pred
  rw [hmag _ le_rfl, hmag _ (Nat.sub_le _ _), unitsOf_succ, pred]
  simp only [Nat.add_mul]
  omega

/-- Beyond the largest finite magnitude (R89, R90). -/
theorem roundFin_of_mag_lt {next : Nat} (hnext : 2 * mag t.maxFinite - mag (t.maxFinite - 1) = next)
    (above : mag t.maxFinite < v) :
    (¬md.Passes neg t.maxFinite (mag t.maxFinite) next v → roundFin t md sat neg m e =
      (t.signed neg t.maxFinite, ⟨false, false, false, true⟩)) ∧
    (md.Passes neg t.maxFinite (mag t.maxFinite) next v → roundFin t md sat neg m e =
      (if sat = true ∨ md.outward neg = false then t.signed neg t.maxFinite
        else if t = .e4m3 then 0x7F else t.signed neg t.infinity, ⟨false, true, false, true⟩)) := by
  rw [next_of_mag ht hmag] at hnext
  rw [← overflowPattern_eq ht]
  obtain ⟨normal, -⟩ := Ty.binade_maxFinite_sub_one ht
  have top := (hmag _ le_rfl).symm
  rcases Nat.lt_or_ge v next with inside | beyond
  · rw [roundFin_of_unitsOf_lt ht hm he hu hv top hnext above inside rfl, RMode.passes_iff_choose md neg inside]
    constructor
    · intro stays
      have same := (RMode.choose_eq_or md neg t.maxFinite (mag t.maxFinite) next v).resolve_right stays
      rw [same, if_neg (lt_irrefl _), decide_eq_false (by omega)]
    · intro passes
      rw [passes, if_pos (Nat.lt_succ_self _)]
  · have order : mag t.maxFinite < next := by
      rw [← top, ← hnext, unitsOf_succ, Nat.add_mul]
      exact Nat.lt_add_of_pos_right (by positivity)
    have passes := RMode.passes_of_le md neg (top := t.maxFinite) order beyond
    exact ⟨fun stays => absurd passes stays, fun _ => roundFin_of_unitsOf_ge ht hm he hu hv (hnext.trans_le beyond)⟩

end

end

/-- The rounding of a finite value, with the magnitudes of the type in units of `2 ^ u` (R88 to R90). -/
theorem FV.round_fin (t : Ty) (md : RMode) (sat neg : Bool) (m : Nat) (e u : Int) (ht : t.isFloat = true) (hm : 0 < m)
    (he : u ≤ e) (hu : u ≤ t.unitExp) :
    let v := m * 2 ^ (e - u).toNat
    let mag (a : Nat) : Nat := (t.value a).magIn u
    let next := 2 * mag t.maxFinite - mag (t.maxFinite - 1)
    let rounded := (FV.fin neg m e).round t md sat
    (∀ a ≤ t.maxFinite, mag a = v → rounded = (t.signed neg a, FFlags.none)) ∧
    (∀ a < t.maxFinite, mag a < v → v < mag (a + 1) →
      let b := md.choose neg a (mag a) (mag (a + 1)) v
      rounded = (t.signed neg b, ⟨false, false, decide (b ≠ 0 ∧ b < 2 ^ t.fracBits), true⟩)) ∧
    (mag t.maxFinite < v →
      (¬md.Passes neg t.maxFinite (mag t.maxFinite) next v →
        rounded = (t.signed neg t.maxFinite, ⟨false, false, false, true⟩)) ∧
      (md.Passes neg t.maxFinite (mag t.maxFinite) next v →
        rounded = (if sat = true ∨ md.outward neg = false then t.signed neg t.maxFinite
          else if t = .e4m3 then 0x7F else t.signed neg t.infinity, ⟨false, true, false, true⟩))) := by
  intro v mag next rounded
  have hmag : ∀ a ≤ t.maxFinite, mag a = unitsOf t.fracBits a * 2 ^ (t.unitExp - u).toNat := fun a ha =>
    Ty.magIn_value ht hu ha
  exact ⟨fun a ha eq => roundFin_of_mag_eq ht hm he hu rfl hmag ha eq,
    fun a ha above below => roundFin_of_mag_between ht hm he hu rfl hmag ha above below rfl,
    fun above => roundFin_of_mag_lt ht hm he hu rfl hmag rfl above⟩

end Sys2Proof
end

section
/-! Rounding and exact results (04 R82, R83, R88 to R90): O9. -/

namespace Sys2Proof

/-! ### Values of the type -/

theorem eq_zero_of_significand_eq_zero {F a : Nat} (h : significand F a = 0) : a = 0 := by
  obtain ⟨⟨lower, -⟩, eq⟩ := normalised_significand F a
  rw [h] at lower eq
  rcases lower with zero | one
  · rw [eq, zero, Nat.zero_mul]
  · exact absurd one (Nat.not_le.2 (Nat.two_pow_pos F))

theorem Ty.round_value {t : Ty} (ht : t.isFloat = true) {x : Nat} (hx : x < 2 ^ t.bits) (md : RMode)
    (num : (t.value x).isNaN = false) : (t.value x).round t md false = (x, FFlags.none) := by
  obtain ⟨neg, a, rfl, bound⟩ := Ty.exists_signed ht hx
  rcases Nat.lt_or_ge t.maxFinite a with beyond | finite
  · rcases Ty.value_signed_of_lt ht (neg := neg) beyond bound with nan | ⟨value, inf, rfl⟩
    · rw [num] at nan
      cases nan
    · rw [value, FV.round, if_neg Bool.false_ne_true, if_pos inf]
  · rw [Ty.value_signed ht finite, FV.round]
    rcases Nat.eq_zero_or_pos (significand t.fracBits a) with zero | pos
    · rw [zero, eq_zero_of_significand_eq_zero zero]
      exact if_pos rfl
    · refine roundFin_of_unitsOf_eq ht pos (u := t.unitExp) (by omega) le_rfl rfl finite ?_
      simp [unitsOf]

theorem FV.exists_eq_nan {x : FV} (h : x.isNaN = true) : ∃ sg, x = .nan sg := by
  cases x with
  | nan sg => exact ⟨sg, rfl⟩
  | inf | fin => cases h

theorem FV.round_nan {t : Ty} {v : FV} (md : RMode) (nan : v.isNaN = true) : (v.round t md false).1 = t.canonicalNaN := by
  obtain ⟨sg, rfl⟩ := FV.exists_eq_nan nan
  rfl

theorem FV.round_zero (t : Ty) (md : RMode) (sat neg : Bool) (e : Int) :
    (FV.fin neg 0 e).round t md sat = (t.signed neg 0, FFlags.none) := by
  rw [FV.round, roundFin, if_pos rfl]

theorem FV.round_inf {t : Ty} (ht : t.isFloat = true) (md : RMode) (sat neg : Bool) :
    (FV.inf neg).round t md sat = if sat = true then (t.signed neg t.maxFinite, FFlags.none)
      else if t = .e4m3 then (0x7F, FFlags.invalid) else (t.signed neg t.infinity, FFlags.none) := by
  rcases Ty.eq_e4m3_or_infinity ht with rfl | ⟨ne, inf, -, -⟩
  · rfl
  · rw [FV.round, if_pos inf, if_neg ne]

/-! ### Exact sums and products -/

theorem scaled_eq (neg : Bool) (m : Nat) (e u : Int) :
    scaled neg m e u = (if neg then -1 else 1) * ((m : Int) * 2 ^ (e - u).toNat) := by
  cases neg <;> simp [scaled]

/-- A lower unit. -/
theorem scaled_mul (neg : Bool) (m : Nat) {e w u : Int} (hw : u ≤ w) (he : w ≤ e) :
    scaled neg m e w * 2 ^ (w - u).toNat = scaled neg m e u := by
  have exp : (e - u).toNat = (e - w).toNat + (w - u).toNat := by omega
  rw [scaled_eq, scaled_eq, exp, pow_add]
  ring

theorem scaled_natAbs (v w u : Int) : scaled (decide (v < 0)) v.natAbs w u = v * 2 ^ (w - u).toNat := by
  rw [scaled_eq, ← mul_assoc]
  congr 1
  rcases lt_or_ge v 0 with neg | nonneg
  · rw [if_pos (decide_eq_true neg)]
    omega
  · rw [if_neg (by simpa using nonneg)]
    omega

/-- The sum of finite values is exact, and its sign is that of the sum (R83). -/
theorem FV.add_fin (md : RMode) (a b : Bool) (m n : Nat) {e f u sum : Int} (he : u ≤ e) (hf : u ≤ f)
    (hsum : scaled a m e u + scaled b n f u = sum) :
    ∃ c k g, FV.add md (.fin a m e) (.fin b n f) = (.fin c k g, FFlags.none) ∧ u ≤ g ∧ scaled c k g u = sum ∧
      (sum ≠ 0 → c = decide (sum < 0)) ∧ (sum = 0 → c = if m = 0 ∧ n = 0 ∧ a = b then a else decide (md = .down)) := by
  obtain ⟨w, hw⟩ : ∃ w, (if e < f then e else f) = w := ⟨_, rfl⟩
  have hu : u ≤ w := by rw [← hw]; split <;> assumption
  have hwe : w ≤ e := by rw [← hw]; split <;> omega
  have hwf : w ≤ f := by rw [← hw]; split <;> omega
  obtain ⟨v, hv⟩ : ∃ v, scaled a m e w + scaled b n f w = v := ⟨_, rfl⟩
  have pos : (0 : Int) < 2 ^ (w - u).toNat := by positivity
  have eq : sum = v * 2 ^ (w - u).toNat := by rw [← hv, add_mul, scaled_mul a m hu hwe, scaled_mul b n hu hwf, hsum]
  have zero : sum = 0 ↔ v = 0 := by rw [eq, mul_eq_zero, or_iff_left pos.ne']
  simp only [FV.add, hw, hv]
  split
  · next hz =>
    refine ⟨_, _, _, rfl, hu, ?_, fun ne => absurd (zero.2 hz) ne, fun _ => rfl⟩
    rw [zero.2 hz]
    simp [scaled_eq]
  · next nz =>
    refine ⟨_, _, _, rfl, hu, (scaled_natAbs v w u).trans eq.symm, fun _ => ?_, fun hz => absurd (zero.1 hz) nz⟩
    rw [eq, decide_eq_decide]
    simp [mul_neg_iff, pos, pos.le]

theorem FV.mul_inf_fin (a b : Bool) (m : Nat) (e : Int) :
    let r := if m = 0 then (FV.nan false, FFlags.invalid) else (FV.inf (a != b), FFlags.none)
    FV.mul (.inf a) (.fin b m e) = r ∧ FV.mul (.fin b m e) (.inf a) = r :=
  ⟨rfl, by rw [bne_comm]; rfl⟩

/-! ### Operands that are NaNs -/

theorem sigFlags_eq (l : List FV) : sigFlags l = ⟨l.any FV.isSignalling, false, false, false⟩ := by
  rw [sigFlags]
  cases l.any FV.isSignalling <;> rfl

section
variable (md : RMode) {x y z : FV}

theorem FV.add_nan (h : x.isNaN = true ∨ y.isNaN = true) : FV.add md x y = (.nan false, sigFlags [x, y]) := by
  rcases h with h | h <;> obtain ⟨sg, rfl⟩ := FV.exists_eq_nan h
  · rfl
  · cases x <;> rfl

theorem FV.mul_nan (h : x.isNaN = true ∨ y.isNaN = true) : FV.mul x y = (.nan false, sigFlags [x, y]) := by
  rcases h with h | h <;> obtain ⟨sg, rfl⟩ := FV.exists_eq_nan h
  · rfl
  · cases x <;> rfl

theorem FV.fma_nan (h : x.isNaN = true ∨ y.isNaN = true) : FV.fma md x y z = (.nan false, sigFlags [x, y, z]) :=
  if_pos (by simpa using h)

/-- A product of what is no NaN is a NaN only as an invalid operation. -/
theorem FV.mul_eq_invalid (hx : x.isNaN = false) (hy : y.isNaN = false) (h : (FV.mul x y).1.isNaN = true) :
    FV.mul x y = (.nan false, FFlags.invalid) := by
  cases x with
  | nan => cases hx
  | inf a =>
    cases y with
    | nan => cases hy
    | inf => cases h
    | fin b m e =>
      rw [FV.mul] at h ⊢
      split at h <;> simp_all [FV.isNaN]
  | fin a m e =>
    cases y with
    | nan => cases hy
    | inf b =>
      rw [FV.mul] at h ⊢
      split at h <;> simp_all [FV.isNaN]
    | fin => cases h

theorem FV.fma_nan_right (hx : x.isNaN = false) (hy : y.isNaN = false) (hz : z.isNaN = true) :
    (FV.fma md x y z).1 = .nan false ∧ ((FV.mul x y).1.isNaN = false → (FV.fma md x y z).2 = sigFlags [z]) := by
  rw [FV.fma, if_neg (by simp [hx, hy])]
  dsimp only
  rw [if_pos hz]
  refine ⟨rfl, fun num => ?_⟩
  simp [num, FFlags.or, FFlags.none]

/-- A fused multiply-add is the exact sum of the exact product (R83). -/
theorem FV.fma_eq (hx : x.isNaN = false) (hy : y.isNaN = false) (hz : z.isNaN = false) : FV.fma md x y z =
    if (FV.mul x y).1.isNaN = true then (.nan false, FFlags.invalid) else FV.add md (FV.mul x y).1 z := by
  rw [FV.fma, if_neg (by simp [hx, hy])]
  dsimp only
  rw [if_neg (by simp [hz])]
  split
  · next nan => exact FV.mul_eq_invalid hx hy nan
  · rfl

end

/-- Settles O9: a value of the type is one of its magnitudes with a sign (`Ty.round_value`); any other goes where the mode
chooses between two magnitudes, or beyond the largest (`FV.round_fin`); sums and products are exact, and what is
invalid gives a NaN. -/
theorem roundingKeepsValues : Obligations.RoundingKeepsValues := by
  refine ⟨fun t x md ht hx => ⟨Ty.round_value ht hx md, FV.round_nan md⟩, ?_,
    fun t md sat neg e ht => ⟨FV.round_zero t md sat neg e, FV.round_inf ht md sat neg⟩, ?_, ?_, ?_⟩
  · intro t md sat neg m e u ht hm he hu
    have := FV.round_fin t md sat neg m e u ht hm he hu
    cases md <;> exact this
  · intro md a b m n e f u he hf units sum
    refine ⟨?_, rfl⟩
    have hs : scaled a m e u + scaled b n f u = sum := by rw [scaled_eq, scaled_eq]
    simp only [units, ← scaled_eq]
    exact FV.add_fin md a b m n he hf hs
  · intro md a b m e
    exact ⟨rfl, rfl, rfl, rfl, fun r hr => hr ▸ FV.mul_inf_fin a b m e⟩
  · intro md x y z flags
    simp only [flags, ← sigFlags_eq]
    exact ⟨fun h => ⟨FV.add_nan md h, FV.mul_nan h, FV.fma_nan md h⟩, FV.fma_nan_right md, FV.fma_eq md⟩

end Sys2Proof
end

section
/-! SUPPORT. Lists read by number: bytes, words, codes and escapes of an operand of the matrix unit (04 R92, R93; 06 R141,
R151, R157). -/

namespace Sys2Proof.Machine

/-! ### Bytes of memory -/

theorem State.rdN_eq (s : State) (k n : Nat) : s.rdN k n = (List.range n).map fun i => s.byte (k + i) := rfl

@[simp] theorem State.length_rdN (s : State) (k n : Nat) : (s.rdN k n).length = n := by simp [State.rdN_eq]

theorem State.drop_rdN (s : State) (k n m : Nat) : (s.rdN k n).drop m = s.rdN (k + m) (n - m) := by
  refine List.ext_getElem (by simp) fun i h₁ h₂ => ?_
  simp [State.rdN_eq, Nat.add_assoc]

theorem State.take_rdN (s : State) (k n m : Nat) : (s.rdN k n).take m = s.rdN k (min m n) := by
  refine List.ext_getElem (by simp) fun i h₁ h₂ => ?_
  simp [State.rdN_eq]

/-- A part of the bytes read is what is read there. -/
theorem State.take_drop_rdN (s : State) {k n m c : Nat} (h : m + c ≤ n) :
    ((s.rdN k n).drop m).take c = s.rdN (k + m) c := by
  rw [State.drop_rdN, State.take_rdN, Nat.min_eq_left (by omega)]

theorem State.getD_rdN (s : State) {k n i : Nat} (h : i < n) : (s.rdN k n).getD i 0 = s.byte (k + i) := by
  simp [State.rdN_eq, h]

/-! ### Integers of a width -/

theorem signedOf_eq_toInt {n : Nat} (hn : 0 < n) (x : Nat) : signedOf n x = (BitVec.ofNat n x).toInt := by
  have half : 2 ^ n = 2 * 2 ^ (n - 1) := by rw [← Nat.pow_succ']; congr 1; omega
  rw [signedOf, BitVec.toInt_eq_toNat_cond, BitVec.toNat_ofNat]
  refine if_congr (by omega) rfl ?_
  push_cast
  rfl

theorem i32_toNat (x : Word32) : i32 x.toNat = x.toInt := by
  rw [i32, signedOf_eq_toInt (by decide), BitVec.ofNat_toNat, BitVec.setWidth_eq]

theorem wrapNat_eq_toNat (n : Nat) (x : Int) : wrapNat n x = (BitVec.ofInt n x).toNat := by
  rw [wrapNat, BitVec.toNat_ofInt]; norm_cast

/-! ### Pieces and words -/

theorem pieces_eq_map {α : Type} (n k : Nat) (l : List α) :
    pieces n k l = (List.range k).map fun i => (l.drop (n * i)).take n := by
  induction k generalizing l with
  | zero => rfl
  | succ k ih =>
    rw [pieces, ih, List.range_succ_eq_map, List.map_cons, List.map_map]
    simp [Function.comp_def, Nat.mul_add, Nat.add_comm]

/-- A list given by number, cut into pieces. -/
theorem pieces_map_range {α : Type} (n k : Nat) (f : Nat → α) :
    pieces n k ((List.range (n * k)).map f) = (List.range k).map fun i => (List.range n).map fun j => f (n * i + j) := by
  rw [pieces_eq_map]
  refine List.map_congr_left fun i hi => ?_
  have inside : n * i + n ≤ n * k := by
    rw [← Nat.mul_succ]; exact Nat.mul_le_mul_left n (List.mem_range.1 hi)
  refine List.ext_getElem (by simp; omega) fun j h₁ h₂ => ?_
  simp

theorem wordsIn_eq_map (n : Nat) (bs : List Byte) :
    wordsIn n bs = (List.range (bs.length / n)).map fun i => bytesToNat ((bs.drop (n * i)).take n) := by
  rw [wordsIn, pieces_eq_map, List.map_map]; rfl

theorem wordsIn_rdN (s : State) (k n : Nat) {c : Nat} (h : 0 < c) :
    wordsIn c (s.rdN k (c * n)) = (List.range n).map fun i => s.rdNat (k + c * i) c := by
  rw [wordsIn_eq_map, State.length_rdN, Nat.mul_div_cancel_left n h]
  refine List.map_congr_left fun i hi => ?_
  have inside : c * i + c ≤ c * n := by
    rw [← Nat.mul_succ]; exact Nat.mul_le_mul_left c (List.mem_range.1 hi)
  rw [State.take_drop_rdN s inside, State.rdNat]

theorem bytesToNat_lt (bs : List Byte) : bytesToNat bs < 2 ^ (8 * bs.length) := by
  induction bs with
  | nil => simp [bytesToNat]
  | cons b bs ih =>
    have hb := b.isLt
    rw [bytesToNat, List.length_cons, Nat.mul_succ, Nat.pow_add]
    omega

theorem State.rdNat_lt (s : State) (k n : Nat) : s.rdNat k n < 2 ^ (8 * n) := by
  have := bytesToNat_lt (s.rdN k n)
  rwa [State.length_rdN] at this

/-- Bytes that a number gives depend on as many of its bits. -/
theorem natToBytes_congr {n x y : Nat} (h : x % 2 ^ (8 * n) = y % 2 ^ (8 * n)) : natToBytes n x = natToBytes n y := by
  induction n generalizing x y with
  | zero => rfl
  | succ n ih =>
    have split : 2 ^ (8 * (n + 1)) = 2 ^ 8 * 2 ^ (8 * n) := by rw [← Nat.pow_add]; congr 1; omega
    rw [split] at h
    rw [natToBytes, natToBytes, ih (x := x / 256) (y := y / 256)]
    · congr 1
      refine BitVec.eq_of_toNat_eq ?_
      rw [BitVec.toNat_ofNat, BitVec.toNat_ofNat, ← Nat.mod_mul_right_mod x (2 ^ 8) (2 ^ (8 * n)), h,
        Nat.mod_mul_right_mod]
    · have hx := Nat.mod_mul_right_div_self x (2 ^ 8) (2 ^ (8 * n))
      have hy := Nat.mod_mul_right_div_self y (2 ^ 8) (2 ^ (8 * n))
      rw [show (256 : Nat) = 2 ^ 8 from rfl, ← hx, ← hy, h]

theorem bytesToNat_natToBytes (n x : Nat) : bytesToNat (natToBytes n x) = x % 2 ^ (8 * n) := by
  induction n generalizing x with
  | zero => simp [natToBytes, bytesToNat, Nat.mod_one]
  | succ n ih =>
    rw [natToBytes, bytesToNat, ih, BitVec.toNat_ofNat, Nat.mul_succ, Nat.add_comm (8 * n), Nat.pow_add,
      Nat.mod_mul]

@[simp] theorem length_natToBytes (n x : Nat) : (natToBytes n x).length = n := by
  induction n generalizing x with
  | zero => rfl
  | succ n ih => rw [natToBytes, List.length_cons, ih]

/-- Blocks of one length, laid end to end, are found by number. -/
theorem take_drop_flatMap {α β : Type} {f : α → List β} {c : Nat} (hf : ∀ a, (f a).length = c) (l : List α) {i : Nat} {a : α}
    (h : l[i]? = some a) : ((l.flatMap f).drop (c * i)).take c = f a := by
  induction l generalizing i with
  | nil => simp at h
  | cons b l ih =>
    rw [List.flatMap_cons]
    cases i with
    | zero =>
      obtain rfl : b = a := by simpa using h
      rw [Nat.mul_zero, List.drop_zero, List.take_append_of_le_length (by rw [hf]), List.take_of_length_le (by rw [hf])]
    | succ i =>
      have rest : (f b ++ l.flatMap f).drop (c * (i + 1)) = (l.flatMap f).drop (c * i) := by
        rw [Nat.mul_succ, Nat.add_comm, ← hf b, List.drop_append, List.drop_of_length_le (Nat.le_add_right _ _),
          List.nil_append, Nat.add_sub_cancel_left]
      rw [rest]
      exact ih (by simpa using h)

theorem length_flatMap_const {α β : Type} {f : α → List β} {c : Nat} (hf : ∀ a, (f a).length = c) (l : List α) :
    (l.flatMap f).length = c * l.length := by
  induction l with
  | nil => simp
  | cons a l ih => rw [List.flatMap_cons, List.length_append, hf, ih, List.length_cons]; ring

/-- An item of such a block. -/
theorem getD_flatMap_range {β : Type} {f : Nat → List β} {c n j k : Nat} (hf : ∀ j, (f j).length = c) (hj : j < n) (hk : k < c)
    (d : β) : ((List.range n).flatMap f).getD (c * j + k) d = (f j).getD k d := by
  rw [← take_drop_flatMap hf (List.range n) (List.getElem?_range hj)]
  simp [List.getD_eq_getElem?_getD, hk]

theorem wordAt_flatMap {l : List Nat} {i w : Nat} (h : l[i]? = some w) (small : w < 2 ^ 32) :
    wordAt (l.flatMap (natToBytes 4)) i = w := by
  rw [wordAt, take_drop_flatMap (length_natToBytes 4) l h, bytesToNat_natToBytes, Nat.mod_eq_of_lt small]

/-! ### Counting -/

theorem countTo_zero (p : Nat → Bool) : countTo p 0 = 0 := rfl

/-- The count with the first number set apart. -/
theorem countTo_succ (p : Nat → Bool) (n : Nat) :
    countTo p (n + 1) = (if p 0 then 1 else 0) + countTo (fun e => p (e + 1)) n := by
  have shifted : ((List.range n).map Nat.succ).filter p = ((List.range n).filter fun e => p (e + 1)).map Nat.succ :=
    List.filter_map
  rw [countTo, List.range_succ_eq_map, List.filter_cons, shifted]
  split <;> simp [countTo, Nat.add_comm]

theorem countTo_congr {p q : Nat → Bool} {n : Nat} (h : ∀ e < n, p e = q e) : countTo p n = countTo q n := by
  rw [countTo, countTo, List.filter_congr fun e he => h e (List.mem_range.1 he)]

/-- A count over blocks of one length is the sum of the counts over the blocks. -/
theorem countTo_blocks (p : Nat → Bool) (c n : Nat) :
    countTo p (c * n) = ((List.range n).map fun j => countTo (fun e => p (c * j + e)) c).sum := by
  induction n with
  | zero => rfl
  | succ n ih =>
    rw [List.range_succ, List.map_append, List.sum_append, ← ih, countTo, Nat.mul_succ, List.range_add, List.filter_append,
      List.length_append, List.filter_map, List.length_map]
    simp [countTo, Function.comp_def]

/-- The numbers counted, as a list. -/
theorem getElem?_filter_countTo {p : Nat → Bool} {n e : Nat} (he : e < n) (hp : p e = true) :
    ((List.range n).filter p)[countTo p e]? = some e := by
  have cut : List.range n = List.range e ++ e :: (List.range (n - e - 1)).map (fun i => e + (i + 1)) := by
    rw [show n = e + (1 + (n - e - 1)) by omega, List.range_add, List.range_add]
    simp [Function.comp_def, Nat.add_comm 1]
  rw [cut, List.filter_append, countTo, List.getElem?_append_right (le_refl _), Nat.sub_self,
    List.filter_cons_of_pos hp, List.getElem?_cons_zero]

/-! ### Codes -/

theorem codeAt_nibbles {t : Ty} (ht : t.bits = 4) (bs : List Byte) (e : Nat) :
    codeAt t bs e = (bs.getD (e / 2) 0).toNat / 16 ^ (e % 2) % 16 := by simp [codeAt, ht]

theorem codeAt_bytes {t : Ty} (ht : t.bits = 8) (bs : List Byte) (e : Nat) : codeAt t bs e = (bs.getD e 0).toNat := by
  simp [codeAt, ht]

theorem codeAt_pairs {t : Ty} (ht : t.bits = 16) (bs : List Byte) (e : Nat) :
    codeAt t bs e = (bs.getD (2 * e) 0).toNat + 256 * (bs.getD (2 * e + 1) 0).toNat := by simp [codeAt, ht]

theorem codeAt_cons_nibbles {t : Ty} (ht : t.bits = 4) (b : Byte) (bs : List Byte) (e : Nat) :
    codeAt t (b :: bs) (e + 2) = codeAt t bs e := by
  simp [codeAt, ht]

theorem codesOf_nibbles {t : Ty} (ht : t.bits = 4) (bs : List Byte) :
    codesOf t bs = (List.range (2 * bs.length)).map (codeAt t bs) := by
  induction bs with
  | nil => rfl
  | cons b bs ih =>
    have head : codesOf t (b :: bs) = b.toNat % 16 :: b.toNat / 16 :: codesOf t bs := by
      cases bs <;> simp [codesOf, ht]
    rw [head, ih, List.length_cons, Nat.mul_succ, List.range_succ_eq_map, List.range_succ_eq_map]
    simp only [List.map_cons, List.map_map, Function.comp_def, Nat.succ_eq_add_one, codeAt_cons_nibbles ht]
    simp [codeAt, ht, Nat.mod_eq_of_lt (show b.toNat / 16 < 16 by have := b.isLt; omega)]

theorem codesOf_bytes {t : Ty} (ht : t.bits = 8) (bs : List Byte) :
    codesOf t bs = (List.range bs.length).map (codeAt t bs) := by
  induction bs with
  | nil => rfl
  | cons b bs ih =>
    have head : codesOf t (b :: bs) = b.toNat :: codesOf t bs := by
      cases bs <;> simp [codesOf, ht]
    rw [head, ih, List.length_cons, List.range_succ_eq_map]
    simp [codeAt, ht, Function.comp_def]

theorem codeAt_cons_pair {t : Ty} (ht : t.bits = 16) (b b' : Byte) (bs : List Byte) (e : Nat) :
    codeAt t (b :: b' :: bs) (e + 1) = codeAt t bs e := by
  simp [codeAt, ht, Nat.mul_add]

theorem codesOf_pairs {t : Ty} (ht : t.bits = 16) (n : Nat) (bs : List Byte) (h : bs.length = 2 * n) :
    codesOf t bs = (List.range n).map (codeAt t bs) := by
  induction n generalizing bs with
  | zero => obtain rfl := List.length_eq_zero_iff.1 h; rfl
  | succ n ih =>
    obtain ⟨b, b', bs, rfl⟩ : ∃ b b' cs, bs = b :: b' :: cs := by
      match bs, h with
      | b :: b' :: cs, _ => exact ⟨b, b', cs, rfl⟩
    rw [codesOf, if_neg (by omega), if_neg (by omega), List.range_succ_eq_map]
    simp only [List.map_cons, List.map_map, Function.comp_def, Nat.succ_eq_add_one, codeAt_cons_pair ht]
    rw [ih bs (by simpa [Nat.mul_add] using h)]
    simp [codeAt, ht]

/-- The types of codes: 4, 8 or 16 bits. -/
def Ty.Coded (t : Ty) : Prop := t.bits = 4 ∨ t.bits = 8 ∨ t.bits = 16

/-- Bytes that hold `n` codes give them in the order of their numbers. -/
theorem codesOf_eq_map {t : Ty} (ht : Ty.Coded t) {bs : List Byte} {n : Nat} (h : 8 * bs.length = n * t.bits) :
    codesOf t bs = (List.range n).map (codeAt t bs) := by
  rcases ht with ht | ht | ht <;> rw [ht] at h
  · rw [codesOf_nibbles ht, show 2 * bs.length = n by omega]
  · rw [codesOf_bytes ht, show bs.length = n by omega]
  · exact codesOf_pairs ht n bs (by omega)

/-- A code is found in the bytes that hold it, wherever they stand. -/
theorem codeAt_append_left {t : Ty} (ht : Ty.Coded t) {bs cs : List Byte} {n e : Nat} (h : 8 * bs.length = n * t.bits) (he : e < n) :
    codeAt t (bs ++ cs) e = codeAt t bs e := by
  have left {i : Nat} (hi : i < bs.length) : (bs ++ cs).getD i 0 = bs.getD i 0 := List.getD_append _ _ _ _ hi
  rcases ht with ht | ht | ht <;> rw [ht] at h
  · rw [codeAt_nibbles ht, codeAt_nibbles ht, left (by omega)]
  · rw [codeAt_bytes ht, codeAt_bytes ht, left (by omega)]
  · rw [codeAt_pairs ht, codeAt_pairs ht, left (by omega), left (by omega)]

theorem codeAt_append_right {t : Ty} (ht : Ty.Coded t) {bs cs : List Byte} {n : Nat} (even : n % 2 = 0)
    (h : 8 * bs.length = n * t.bits) (e : Nat) : codeAt t (bs ++ cs) (n + e) = codeAt t cs e := by
  have right (i : Nat) : (bs ++ cs).getD (bs.length + i) 0 = cs.getD i 0 := by
    rw [List.getD_append_right _ _ _ _ (Nat.le_add_right _ _), Nat.add_sub_cancel_left]
  rcases ht with ht | ht | ht <;> rw [ht] at h
  · rw [codeAt_nibbles ht, codeAt_nibbles ht, show (n + e) / 2 = bs.length + e / 2 by omega, right,
      show (n + e) % 2 = e % 2 by omega]
  · rw [codeAt_bytes ht, codeAt_bytes ht, show n + e = bs.length + e by omega, right]
  · rw [codeAt_pairs ht, codeAt_pairs ht, show 2 * (n + e) = bs.length + 2 * e by omega, Nat.add_assoc, right, right]

/-- Column `j` of blocks of codes. -/
theorem codeAt_flatMap {t : Ty} (ht : Ty.Coded t) {f : Nat → List Byte} {c : Nat} (even : c % 2 = 0)
    (hf : ∀ j, 8 * (f j).length = c * t.bits) (n : Nat) {j e : Nat} (hj : j < n) (he : e < c) :
    codeAt t ((List.range n).flatMap f) (c * j + e) = codeAt t (f j) e := by
  induction n with
  | zero => omega
  | succ n ih =>
    have len : 8 * ((List.range n).flatMap f).length = (c * n) * t.bits := by
      have : ∀ j, (f j).length = c * t.bits / 8 := fun j => by have := hf j; omega
      have div : 8 * (c * t.bits / 8) = c * t.bits := by have := hf 0; omega
      rw [length_flatMap_const this, List.length_range, ← Nat.mul_assoc, div]; ring
    rw [List.range_succ, List.flatMap_append, List.flatMap_singleton]
    rcases Nat.lt_succ_iff_lt_or_eq.1 hj with hlt | rfl
    · rw [codeAt_append_left ht len (by nlinarith), ih hlt]
    · exact codeAt_append_right ht (by simp [Nat.mul_mod, even]) len e

/-! ### Escapes -/

theorem escapeAt_eq (on : Bool) (t : Ty) (bs : List Byte) (e : Nat) :
    escapeAt on t bs e = (on && isEscape t (codeAt t bs e)) := by
  cases t <;> simp [escapeAt, isEscape, beq_eq_decide]

theorem countEscapes_map_range (on : Bool) (t : Ty) (f : Nat → Nat) (n : Nat) :
    countEscapes on t ((List.range n).map f) = countTo (fun e => on && isEscape t (f e)) n := by
  cases on <;> simp [countEscapes, countTo, List.filter_map, Function.comp_def]

theorem countEscapes_codesOf (on : Bool) {t : Ty} (ht : Ty.Coded t) {bs : List Byte} {n : Nat} (h : 8 * bs.length = n * t.bits) :
    countEscapes on t (codesOf t bs) = countTo (escapeAt on t bs) n := by
  rw [codesOf_eq_map ht h, countEscapes_map_range]
  exact countTo_congr fun e _ => (escapeAt_eq on t bs e).symm

/-- An element by its number: its code, or the entry that its escape stands for (04 R93). -/
theorem elemsOf_map_range (on : Bool) (t : Ty) (entry : Nat → Nat) (f : Nat → Nat) (n c : Nat) :
    elemsOf on t entry c ((List.range n).map f) = (List.range n).map fun e =>
      if on && isEscape t (f e) then .esc (entry (c + countTo (fun e => on && isEscape t (f e)) e)) else .code (f e) := by
  induction n generalizing f c with
  | zero => rfl
  | succ n ih =>
    rw [List.range_succ_eq_map, List.map_cons, List.map_map, List.map_cons, List.map_map, elemsOf]
    have tail (c : Nat) := ih (f ∘ Nat.succ) c
    split
    · next here =>
      rw [tail]
      simp [countTo_zero, countTo_succ, here, Function.comp_def, Nat.add_assoc]
    · next here =>
      rw [tail]
      simp [countTo_succ, here, Function.comp_def]

/-- The elements of an operand, as the statements name them. -/
theorem State.elemsOf_codesOf (s : State) (tile list base : Nat) (on : Bool) {t : Ty} (ht : Ty.Coded t) {bs : List Byte} {n : Nat}
    (h : 8 * bs.length = n * t.bits) :
    elemsOf on t (fun i => s.burnEntry tile list (base + i)) 0 (codesOf t bs) =
      (List.range n).map (s.elemAt tile list base on t bs) := by
  have same : escapeAt on t bs = fun e => on && isEscape t (codeAt t bs e) := funext (escapeAt_eq on t bs)
  rw [codesOf_eq_map ht h, elemsOf_map_range]
  refine List.map_congr_left fun e _ => ?_
  simp only [State.elemAt, same, Nat.zero_add]

theorem entryInt_eq (w : Nat) : entryInt w = (BitVec.ofNat 16 (w / 2 ^ 16)).toInt := signedOf_eq_toInt (by decide) _

/-- The integer factor of an element is the one that the statements name (04 R95). -/
theorem Elem.intFactor_eq (t : Ty) (z : Int) (e : Elem) : e.intFactor t z = elemInt t z e := by
  cases e with
  | code q => rfl
  | esc w => rw [Elem.intFactor, elemInt, entryInt_eq]

theorem Elem.realFactor_eq (t : Ty) (g : FV × Int) (e : Elem) : e.realFactor t g = elemReal t g e := by
  cases e <;> rfl

end Sys2Proof.Machine
end

section
/-! SUPPORT. The checks of a read phase, and the first trap among those that apply (06 R144). -/

namespace Sys2Proof.Machine

/-! ### The first trap -/

@[simp] theorem firstTrap_nil : firstTrap [] = none := rfl
@[simp] theorem firstTrap_none_cons (l : List (Option Trap)) : firstTrap (none :: l) = firstTrap l := rfl
@[simp] theorem firstTrap_some_cons (t : Trap) (l : List (Option Trap)) : firstTrap (some t :: l) = some t := rfl

theorem firstTrap_append (l m : List (Option Trap)) : firstTrap (l ++ m) = (firstTrap l).or (firstTrap m) := by
  rw [firstTrap, List.filterMap_append, List.head?_append]; rfl

theorem trapIf_pos {c : Prop} [Decidable c] (h : c) (t : Trap) : trapIf c t = some t := if_pos h

theorem trapIf_neg {c : Prop} [Decidable c] (h : ¬c) (t : Trap) : trapIf c t = none := if_neg h

/-- The result `r` of a read phase stops with the first of the traps `l`, and without one is a grant of which `P` holds. -/
def Comes (l : List (Option Trap)) (r : Except Stop Grant) (P : Grant → Prop) : Prop :=
  (∀ t, firstTrap l = some t → r = .error (.trap t)) ∧ (firstTrap l = none → ∃ x, r = .ok x ∧ P x)

section
variable {l m : List (Option Trap)} {r : Except Stop Grant} {P : Grant → Prop}

theorem comes_nil {x : Grant} (hr : r = .ok x) (h : P x) : Comes [] r P :=
  ⟨fun _ ht => (Option.some_ne_none _ ht.symm).elim, fun _ => ⟨x, hr, h⟩⟩

theorem comes_of_some {t : Trap} (h : firstTrap l = some t) (hr : r = .error (.trap t)) : Comes (l ++ m) r P := by
  have first : firstTrap (l ++ m) = some t := by rw [firstTrap_append, h, Option.some_or]
  exact ⟨fun u hu => by rw [hr, Option.some.inj (first.symm.trans hu)],
    fun hn => (Option.some_ne_none _ (first.symm.trans hn)).elim⟩

theorem comes_of_none (h : firstTrap l = none) (hm : Comes m r P) : Comes (l ++ m) r P := by
  have rest : firstTrap (l ++ m) = firstTrap m := by rw [firstTrap_append, h, Option.none_or]
  rw [Comes, rest]; exact hm

/-- The last checks of a read phase. -/
theorem comes_of_some_last {t : Trap} (h : firstTrap l = some t) (hr : r = .error (.trap t)) : Comes l r P := by
  rw [← List.append_nil l]; exact comes_of_some h hr

theorem comes_of_none_last {x : Grant} (h : firstTrap l = none) (hr : r = .ok x) (hx : P x) : Comes l r P := by
  rw [← List.append_nil l]; exact comes_of_none h (comes_nil hr hx)

theorem comes_trapIf {c : Prop} [Decidable c] {t : Trap} (stop : c → r = .error (.trap t)) (go : ¬c → Comes m r P) :
    Comes (trapIf c t :: m) r P := by
  by_cases h : c
  · exact comes_of_some (l := [trapIf c t]) (by rw [trapIf_pos h, firstTrap_some_cons]) (stop h)
  · exact comes_of_none (l := [trapIf c t]) (by rw [trapIf_neg h, firstTrap_none_cons, firstTrap_nil]) (go h)

/-- A check of the matrix unit. -/
theorem comes_check {c c' : Prop} [Decidable c] [Decidable c'] {d : BitVec 8} (same : c ↔ c') (go : ¬c → Comes m r P) :
    Comes (trapIf c (matrixDetail d) :: m) (if c' then .error (matrixTrap d) else r) P := by
  refine comes_trapIf (fun h => if_pos (same.1 h)) fun h => ?_
  rw [if_neg (mt same.2 h)]
  exact go h

/-- One check of the model that the statements count as two. -/
theorem comes_check_or {c₁ c₂ c' : Prop} [Decidable c₁] [Decidable c₂] [Decidable c'] {d : BitVec 8} (same : c₁ ∨ c₂ ↔ c')
    (go : ¬c₁ → ¬c₂ → Comes m r P) : Comes (trapIf c₁ (matrixDetail d) :: trapIf c₂ (matrixDetail d) :: m)
      (if c' then .error (matrixTrap d) else r) P := by
  refine comes_trapIf (fun h => if_pos (same.1 (.inl h))) fun h => comes_check ?_ (go h)
  rw [← same, or_iff_right h]

theorem Comes.imp {Q : Grant → Prop} (h : Comes l r P) (hPQ : firstTrap l = none → ∀ x, P x → Q x) : Comes l r Q :=
  ⟨h.1, fun hn => let ⟨x, hx, hp⟩ := h.2 hn; ⟨x, hx, hPQ hn x hp⟩⟩

end

/-! ### The checks of the model -/

/-- What follows a check: its trap, or what goes on. -/
def stopOr {α : Type} (o : Option Trap) (a : α) : Except Stop α :=
  match o with
  | some t => .error (.trap t)
  | none => .ok a

theorem stopOr_trapIf {α : Type} {c : Prop} [Decidable c] (t : Trap) (l : List (Option Trap)) (a : α) :
    stopOr (firstTrap (trapIf c t :: l)) a = if c then .error (.trap t) else stopOr (firstTrap l) a := by
  by_cases h : c
  · rw [trapIf_pos h, if_pos h]; rfl
  · rw [trapIf_neg h, if_neg h]; rfl

/-- The offset that an address of the tile's own scratchpad names. -/
def ownOff (a : Addr) : Nat := a.toNat - 0xF00000000000

theorem localOff_eq (a : Addr) : localOff a =
    if 0xF00000000000 ≤ a.toNat ∧ a.toNat < 0xF00000000000 + 2 ^ 21 then some (ownOff a) else none := by
  have small := a.isLt
  have top : a.toNat / 2 ^ 21 % 2 ^ 27 = 0xF00000000000 / 2 ^ 21 ↔ 0xF00000000000 ≤ a.toNat ∧ a.toNat < 0xF00000000000 + 2 ^ 21 := by
    omega
  unfold localOff field bitsAt ownOff
  by_cases inside : 0xF00000000000 ≤ a.toNat ∧ a.toNat < 0xF00000000000 + 2 ^ 21
  · rw [if_pos inside, if_pos (top.2 inside), pow_zero, Nat.div_one]
    refine congrArg some ?_
    omega
  · rw [if_neg inside, if_neg (mt top.1 inside)]

theorem insideLocal_eq (a : Addr) {n : Nat} (hn : 0 < n) : insideLocal a n =
    if a.toNat < 0xF00000000000 ∨ 0xF00000000000 + 2 ^ 21 < a.toNat + n then none else some (ownOff a) := by
  rw [insideLocal, localOff_eq]
  by_cases inside : 0xF00000000000 ≤ a.toNat ∧ a.toNat < 0xF00000000000 + 2 ^ 21
  · have fits : ownOff a + n ≤ 2 ^ 21 ↔ ¬(a.toNat < 0xF00000000000 ∨ 0xF00000000000 + 2 ^ 21 < a.toNat + n) := by
      unfold ownOff; omega
    simp only [inside, and_self, if_true, fits, ite_not]
  · rw [if_neg inside, if_pos (by omega)]

theorem checkLocal_eq (a : Addr) {n align : Nat} (hn : 0 < n) :
    checkLocal a n align = stopOr (firstTrap (pointerTraps a n align)) (ownOff a) := by
  rw [checkLocal, insideLocal_eq a hn, pointerTraps, stopOr_trapIf, stopOr_trapIf]
  by_cases outside : a.toNat < 0xF00000000000 ∨ 0xF00000000000 + 2 ^ 21 < a.toNat + n
  · rw [if_pos outside, if_pos outside]; rfl
  · rw [if_neg outside, if_neg outside]; rfl

theorem State.readSpan_eq (s : State) (g off n : Nat) :
    s.readSpan (g / 8) off n = stopOr (firstTrap [s.poisonTrap g off n]) (s.rdN (scratchKey (g / 8) off) n) := by
  rw [State.readSpan, State.poisonTrap]
  cases s.poisonIn (scratchKey (g / 8) off) n <;> rfl

/-- The checks of a record or an operand at the pointer (06 R144; 21 R420). -/
def State.operandTraps (s : State) (g : Nat) (a : Addr) (n align : Nat) : List (Option Trap) :=
  pointerTraps a n align ++ [s.poisonTrap g (ownOff a) n]

theorem State.operand_eq (s : State) (g : Nat) (a : Addr) {n align : Nat} (hn : 0 < n) :
    s.operand (g / 8) a n align =
      stopOr (firstTrap (s.operandTraps g a n align)) (s.rdN (scratchKey (g / 8) (ownOff a)) n) := by
  rw [State.operand, checkLocal_eq a hn, State.operandTraps, firstTrap_append]
  cases firstTrap (pointerTraps a n align) with
  | some t => rfl
  | none => exact s.readSpan_eq g (ownOff a) n

theorem spanOk_eq (off n : Nat) : spanOk off n = stopOr (firstTrap (spanTraps off n)) () := by
  rw [spanTraps, stopOr_trapIf, stopOr_trapIf]; rfl

theorem require_of_iff {ok : Bool} {c : Prop} [Decidable c] {d : BitVec 8} (h : c ↔ ok = false) :
    require ok d = stopOr (firstTrap [trapIf c (matrixDetail d)]) () := by
  rw [stopOr_trapIf]
  cases ok
  · rw [if_pos (h.2 rfl)]; rfl
  · rw [if_neg (by simp [h])]; rfl

theorem firstFailure_cons (l : List (Option Trap)) (cs : List (Except Stop Unit)) :
    firstFailure (stopOr (firstTrap l) () :: cs) = match firstTrap l with
      | some t => .error (.trap t)
      | none => firstFailure cs := by
  cases firstTrap l <;> rfl

/-- Checks in a row are the check of all their traps. -/
theorem firstFailure_eq (ls : List (List (Option Trap))) :
    firstFailure (ls.map fun l => stopOr (firstTrap l) ()) = stopOr (firstTrap ls.flatten) () := by
  induction ls with
  | nil => rfl
  | cons l ls ih =>
    rw [List.map_cons, firstFailure_cons, List.flatten_cons, firstTrap_append]
    cases firstTrap l with
    | some t => rfl
    | none => exact ih

/-! ### Fields of a record -/

/-- A field of a record, as the statements name it. -/
abbrev num (d : BitVec 256) (lo w : Nat) : Nat := (d.extractLsb' lo w).toNat

theorem num_ofNat (x : Nat) {lo w : Nat} (h : lo + w ≤ 256) : ((BitVec.ofNat 256 x).extractLsb' lo w).toNat = bitsAt lo w x := by
  rw [← field_eq_toNat, field_ofNat x h]

theorem getLsbD_ofNat_record (x : Nat) {i : Nat} (h : i < 256) : (BitVec.ofNat 256 x).getLsbD i = x.testBit i := by
  rw [BitVec.getLsbD_ofNat]; simp [h]

/-- The record at the pointer. -/
abbrev State.recordAt (s : State) (g : Nat) (a : Addr) (n : Nat) : BitVec 256 :=
  BitVec.ofNat 256 (s.rdNat (scratchKey (g / 8) (a.toNat - 0xF00000000000)) n)

/-! ### Zero points and group words (04 R86, R451) -/

theorem zeroPointOk_eq (t : Ty) (z : BitVec 8) : zeroPointOk t z = zpEncoded t z.toNat := by
  revert z
  cases t with
  | i4 | ui4 | i8 | ui8 | i16 | i32 => decide +kernel
  | f32 | bf16 | f16 | e4m3 | e5m2 => intro z; rfl

/-- A group word of the model is well formed when the statements say so. -/
theorem groupWordGood_eq (t : Ty) (w : Nat) : groupWordGood t (BitVec.ofNat 32 w) = groupWordOk t w := by
  have hi : ((BitVec.ofNat 32 w).extractLsb' 24 8).toNat = bitsAt 24 8 w := by rw [← field_eq_toNat, field_ofNat w (by decide)]
  have lo : ((BitVec.ofNat 32 w).extractLsb' 16 8).toNat = bitsAt 16 8 w := by rw [← field_eq_toNat, field_ofNat w (by decide)]
  have zero : (BitVec.ofNat 32 w).extractLsb' 24 8 = 0 ↔ bitsAt 24 8 w = 0 := by rw [BitVec.toNat_eq, hi]; rfl
  rw [groupWordGood, zeroPointOk_eq, lo, groupWordOk, zeroBits]
  simp only [zero]

end Sys2Proof.Machine
end

section
/-! SUPPORT. The read phases that load a format context, weights and sums (06 R143, R148, R149, R151, R153, R161). -/

namespace Sys2Proof.Machine

/-! ### The format context (06 R143, R148) -/

/-- The zero point of a class, as MCTX checks it. -/
def zeroPointFits (cls : Nat) (sgn : Bool) (z : BitVec 8) : Bool :=
  if cls ≠ 0 then true else if sgn then z.sle 7 && (-8 : BitVec 8).sle z else decide (z.toNat ≤ 15)

theorem zeroPointFits_eq (cls : Nat) (sgn : Bool) (z : BitVec 8) : zeroPointFits cls sgn z =
    match classTy cls sgn with
    | some t => zpEncoded t z.toNat
    | none => true := by
  match cls, sgn with
  | 0, true | 0, false => revert z; decide +kernel
  | 1, true => exact zeroPointOk_eq .i8 z
  | 1, false => exact zeroPointOk_eq .ui8 z
  | 2, _ | 3, _ | 4, _ | 5, _ | _ + 6, _ => rfl

/-- The first check of MCTX. -/
abbrev FormatFields (c : BitVec 256) : Prop :=
  num c 164 92 = 0 ∧ num c 114 14 = 0 ∧ num c 40 24 = 0 ∧ num c 18 6 = 0 ∧ num c 8 2 ≠ 3 ∧ num c 10 2 ≠ 3 ∧
    num c 128 21 + 1024 ≤ 0x200000 ∧ zeroPointFits (num c 0 3) (c.getLsbD 3) (c.extractLsb' 24 8) = true ∧
    zeroPointFits (num c 4 3) (c.getLsbD 7) (c.extractLsb' 32 8) = true ∧
    (num c 8 2 = 0 ∨ num c 8 2 = 2 → num c 10 2 = 0 ∧ c.getLsbD 16 = false ∧ c.getLsbD 17 = false) ∧
    (num c 8 2 = 1 ∨ num c 8 2 = 2 → num c 24 8 = 0 ∧ num c 32 8 = 0) ∧ num c 128 21 % 8 = 0 ∧ num c 149 15 % 4 = 0

theorem FCtx.fieldsOk_iff (c : FCtx) : c.fieldsOk = true ↔ FormatFields c := by
  have mode := field_lt c 8 2
  have ok (cls : Nat) (sgn : Bool) (lo : Nat) := zeroPointFits_eq cls sgn (c.extractLsb' lo 8)
  simp only [FormatFields, ok, ← field_eq_toNat]
  simp only [FCtx.fieldsOk, zeroBits, Bool.and_eq_true, Bool.or_eq_true, decide_eq_true_eq, Bool.not_eq_true', and_assoc]
  change field c 164 92 = 0 ∧ field c 114 14 = 0 ∧ field c 40 24 = 0 ∧ field c 18 6 = 0 ∧ field c 8 2 ≠ 3 ∧ _ ↔ _
  have three : ∀ m < 2 ^ 2, m ≠ 3 → m = 0 ∨ m = 1 ∨ m = 2 := by decide
  refine and_congr_right fun _ => and_congr_right fun _ => and_congr_right fun _ => and_congr_right fun _ =>
    and_congr_right fun h => ?_
  simp only [FCtx.mode]
  rcases three _ mode h with h | h | h <;> simp [h, FCtx.gsize, FCtx.dtab, FCtx.clsA, FCtx.sgnA, FCtx.clsB, FCtx.sgnB,
    FCtx.zpA, FCtx.zpB, FCtx.wb, FCtx.grpA, FCtx.grpB] <;> exact fun _ _ => Iff.rfl

/-- The classes that a mode takes. -/
abbrev FormatClasses (c : BitVec 256) : Prop :=
  if num c 8 2 = 2 then c.getLsbD 3 = false ∧ c.getLsbD 7 = false ∧
    ((decide (num c 0 3 = 4 ∨ num c 0 3 = 5) = true ∧ decide (num c 4 3 = 4 ∨ num c 4 3 = 5) = true) ∨
      (num c 0 3 = 2 ∧ num c 4 3 = 2) ∨ (num c 0 3 = 3 ∧ num c 4 3 = 3))
  else decide (num c 0 3 = 0 ∨ num c 0 3 = 1) = true ∧ decide (num c 4 3 = 0 ∨ num c 4 3 = 1) = true

theorem intClass_eq (cls : Nat) : intClass cls = decide (cls = 0 ∨ cls = 1) := by
  rw [intClass, decide_eq_decide]; omega

theorem FCtx.classesOk_iff (c : FCtx) : c.classesOk = true ↔ FormatClasses c := by
  simp only [FormatClasses, ← field_eq_toNat, FCtx.classesOk, intClass_eq]
  change (if field c 8 2 = 2 then _ else _) = true ↔ _
  split
  · simp only [Bool.and_eq_true, Bool.or_eq_true, decide_eq_true_eq, Bool.not_eq_true', and_assoc]
    refine and_congr_right fun _ => and_congr_right fun _ => ?_
    simp only [FCtx.clsA, FCtx.clsB]
    omega
  · rw [Bool.and_eq_true]; rfl

/-- Escapes stand in signed integer operands alone. -/
abbrev FormatEscapes (c : BitVec 256) : Prop :=
  (c.getLsbD 13 = true → decide (num c 0 3 = 0 ∨ num c 0 3 = 1) = true ∧ c.getLsbD 3 = true) ∧
    (c.getLsbD 14 = true → decide (num c 4 3 = 0 ∨ num c 4 3 = 1) = true ∧ c.getLsbD 7 = true)

theorem FCtx.escapesOk_iff (c : FCtx) :
    ((c.escA && !(intClass c.clsA && c.sgnA)) || (c.escB && !(intClass c.clsB && c.sgnB))) = true ↔ ¬FormatEscapes c := by
  simp only [FormatEscapes, ← field_eq_toNat, intClass_eq]
  change ((c.getLsbD 13 && !(decide (field c 0 3 = 0 ∨ field c 0 3 = 1) && c.getLsbD 3)) ||
    (c.getLsbD 14 && !(decide (field c 4 3 = 0 ∨ field c 4 3 = 1) && c.getLsbD 7))) = true ↔ _
  cases c.getLsbD 13 <;> cases c.getLsbD 14 <;> simp [Decidable.imp_iff_not_or, not_or]

/-- The lists end within their 4,096 entries. -/
abbrev FormatLists (c : BitVec 256) : Prop := num c 64 12 + num c 76 13 ≤ 4096 ∧ num c 89 12 + num c 101 13 ≤ 4096

theorem FCtx.refusal_eq (c : FCtx) : c.refusal = formatDetail c := by
  have lists : 4096 < c.baseA + c.lenA ∨ 4096 < c.baseB + c.lenB ↔ ¬FormatLists c := by
    simp only [FormatLists, ← field_eq_toNat, not_and_or, Nat.not_le]; rfl
  have fields : (!c.fieldsOk) = true ↔ ¬FormatFields c := by rw [← c.fieldsOk_iff]; simp
  have classes : (!c.classesOk) = true ↔ ¬FormatClasses c := by rw [← c.classesOk_iff]; simp
  rw [FCtx.refusal]
  simp only [fields, classes, c.escapesOk_iff, lists]
  rfl

theorem grantOf_mctx (s : State) (g : Nat) (a : Addr) (p : BitVec 3) (pm : PostMode) (pre : Prefixes) :
    grantOf s g a (.mctx p pm pre) = (stopOr (firstTrap (s.operandTraps g a 32 8)) (s.recordAt g a 32)).bind fun c =>
      match formatDetail c with
      | some d => .error (.trap (trapOf kMatrix d 0))
      | none => .ok { Grant.plain with fctx := some c } := by
  rw [grantOf, grantMctx, s.operand_eq g a (by decide)]
  cases firstTrap (s.operandTraps g a 32 8) with
  | some t => rfl
  | none =>
    simp only [stopOr, FCtx.refusal_eq]
    rfl

end Sys2Proof.Machine
end

section
/-! SUPPORT. The read phase of WPL (06 R149). -/

namespace Sys2Proof.Machine

theorem scratchKey_add (t off n : Nat) : scratchKey t (off + n) = scratchKey t off + n := (Nat.add_assoc _ _ _).symm

/-- The fields of the record of WPL. -/
abbrev WplFields (d : BitVec 256) : Prop :=
  num d 56 72 = 0 ∧ num d 54 1 = 0 ∧ num d 47 1 = 0 ∧ num d 21 11 = 0 ∧ num d 52 2 ≠ 3 ∧ num d 48 3 ≤ 5 ∧ num d 32 15 % 4 = 0

/-- The bytes of the codes and of the group words of a column. -/
def wplCodes (d : BitVec 256) : Nat := if num d 48 3 = 0 then 64 else if num d 48 3 = 2 ∨ num d 48 3 = 3 then 256 else 128
def wplWords (d : BitVec 256) : Nat := if d.getLsbD 51 then 4 * (128 / (32 * 2 ^ num d 52 2)) else 0

/-- A group word of the block that WPL reads. -/
def State.wplWord (s : State) (g : Nat) (d : BitVec 256) (m : Nat) : Word32 :=
  BitVec.ofNat 32 (s.rdNat (scratchKey (g / 8) (num d 0 21 + 128 * wplCodes d + 4 * m)) 4)

theorem exists_classTy {d : BitVec 256} (h : num d 48 3 ≤ 5) :
    ∃ t, classTy (num d 48 3) false = some t ∧ codeBytes t = wplCodes d := by
  have all : ∀ cls ≤ 5, ∃ t, classTy cls false = some t ∧
      codeBytes t = if cls = 0 then 64 else if cls = 2 ∨ cls = 3 then 256 else 128 := by
    intro cls h
    match cls, h with
    | 0, _ => exact ⟨.ui4, rfl, rfl⟩
    | 1, _ => exact ⟨.ui8, rfl, rfl⟩
    | 2, _ => exact ⟨.bf16, rfl, rfl⟩
    | 3, _ => exact ⟨.f16, rfl, rfl⟩
    | 4, _ => exact ⟨.e4m3, rfl, rfl⟩
    | 5, _ => exact ⟨.e5m2, rfl, rfl⟩
  exact all _ h

/-- The group words of 8-bit types and of floating types are well formed alike. -/
theorem groupWordOk_eq_i8 {t : Ty} (ht : t ≠ .i4 ∧ t ≠ .ui4) (w : Nat) : groupWordOk t w = groupWordGood .i8 (BitVec.ofNat 32 w) := by
  rw [← groupWordGood_eq]
  cases t with
  | i4 => exact absurd rfl ht.1
  | ui4 => exact absurd rfl ht.2
  | i8 | ui8 | i16 | i32 | f32 | bf16 | f16 | e4m3 | e5m2 => rfl

theorem wplWordOk_iff {cls : Nat} (h : cls ≤ 5) (w : Nat) : wplWordOk cls w = true ↔
    (cls = 0 → (groupWordGood .i4 (BitVec.ofNat 32 w) || groupWordGood .ui4 (BitVec.ofNat 32 w)) = true) ∧
    (cls ≠ 0 → groupWordGood .i8 (BitVec.ofNat 32 w) = true) := by
  have both (t u : Ty) (ht : t ≠ .i4 ∧ t ≠ .ui4) (hu : u ≠ .i4 ∧ u ≠ .ui4) :
      (groupWordOk t w || groupWordOk u w) = groupWordGood .i8 (BitVec.ofNat 32 w) := by
    rw [groupWordOk_eq_i8 ht, groupWordOk_eq_i8 hu, Bool.or_self]
  match cls, h with
  | 0, _ => simp [wplWordOk, classTy, groupWordGood_eq]
  | 1, _ => simp [wplWordOk, classTy, ← both .i8 .ui8 (by decide) (by decide)]
  | 2, _ => simp [wplWordOk, classTy, ← both .bf16 .bf16 (by decide) (by decide)]
  | 3, _ => simp [wplWordOk, classTy, ← both .f16 .f16 (by decide) (by decide)]
  | 4, _ => simp [wplWordOk, classTy, ← both .e4m3 .e4m3 (by decide) (by decide)]
  | 5, _ => simp [wplWordOk, classTy, ← both .e5m2 .e5m2 (by decide) (by decide)]

theorem wplColumns_eq (c gw n : Nat) (codes words : List Byte) : wplColumns c gw codes words n =
    (List.range n).flatMap fun j => (codes.drop (c * j)).take c ++ (words.drop (gw * j)).take gw := by
  induction n generalizing codes words with
  | zero => rfl
  | succ n ih =>
    rw [wplColumns, ih, List.range_succ_eq_map, List.flatMap_cons, List.flatMap_map]
    simp [Nat.mul_add, Nat.add_comm]

theorem flatMap_congr_range {α : Type} {f f' : Nat → List α} {n : Nat} (h : ∀ j < n, f j = f' j) :
    (List.range n).flatMap f = (List.range n).flatMap f' := by
  rw [List.flatMap_def, List.flatMap_def, List.map_congr_left fun j hj => h j (List.mem_range.1 hj)]

/-- The columns that WPL writes of a block in the scratchpad: the codes of each, then its group words. -/
theorem State.wplColumns_rdN (s : State) (k c gw : Nat) :
    wplColumns c gw ((s.rdN k (128 * (c + gw))).take (128 * c)) ((s.rdN k (128 * (c + gw))).drop (128 * c)) 128 =
      (List.range 128).flatMap fun j => s.rdN (k + j * c) c ++ s.rdN (k + (128 * c + j * gw)) gw := by
  rw [wplColumns_eq]
  refine flatMap_congr_range fun j hj => ?_
  have codes : j * c + c ≤ 128 * c := by rw [← Nat.succ_mul]; exact Nat.mul_le_mul_right c hj
  have words : j * gw + gw ≤ 128 * gw := by rw [← Nat.succ_mul]; exact Nat.mul_le_mul_right gw hj
  rw [State.take_rdN, State.take_drop_rdN s (by rw [Nat.mul_comm]; omega), List.drop_drop,
    State.take_drop_rdN s (by rw [Nat.mul_comm gw]; omega), Nat.mul_comm c j, Nat.mul_comm gw j]

/-- Byte `k` of column `j`. -/
theorem State.getD_wplColumns (s : State) (k₀ c gw : Nat) {j k : Nat} (hj : j < 128) (hk : k < c + gw) :
    ((List.range 128).flatMap fun j => s.rdN (k₀ + j * c) c ++ s.rdN (k₀ + (128 * c + j * gw)) gw).getD (j * (c + gw) + k) 0 =
      s.byte (k₀ + if k < c then j * c + k else 128 * c + j * gw + (k - c)) := by
  rw [Nat.mul_comm j, getD_flatMap_range (by simp) hj hk]
  split
  · next h => rw [List.getD_append _ _ _ _ (by simpa using h), s.getD_rdN h, Nat.add_assoc]
  · next h =>
    rw [List.getD_append_right _ _ _ _ (by simpa using h), State.length_rdN, s.getD_rdN (by omega), Nat.add_assoc]

/-- The group words of the block are checked one by one. -/
theorem State.wplWords_all (s : State) (g : Nat) {d : BitVec 256} (h : num d 48 3 ≤ 5) :
    (wordsIn 4 ((s.rdN (scratchKey (g / 8) (num d 0 21)) (128 * (wplCodes d + wplWords d))).drop (128 * wplCodes d))).all
      (wplWordOk (num d 48 3)) = true ↔
    (∀ m < 32 * wplWords d, num d 48 3 = 0 →
      (groupWordGood .i4 (s.wplWord g d m) || groupWordGood .ui4 (s.wplWord g d m)) = true) ∧
    ∀ m < 32 * wplWords d, num d 48 3 ≠ 0 → groupWordGood .i8 (s.wplWord g d m) = true := by
  rw [State.drop_rdN, show 128 * (wplCodes d + wplWords d) - 128 * wplCodes d = 4 * (32 * wplWords d) by omega,
    wordsIn_rdN s _ _ (by decide), List.all_map, List.all_eq_true]
  simp only [List.mem_range, Function.comp_def, wplWordOk_iff h, State.wplWord, scratchKey_add, forall_and]

theorem bitsAt_eq_num (x : Nat) {lo w : Nat} (h : lo + w ≤ 256) : bitsAt lo w x = num (BitVec.ofNat 256 x) lo w :=
  (num_ofNat x h).symm

theorem testBit_eq_getLsbD (x : Nat) {i : Nat} (h : i < 256) : x.testBit i = (BitVec.ofNat 256 x).getLsbD i :=
  (getLsbD_ofNat_record x h).symm

theorem comes_wpl (s : State) (g : Nat) (a : Addr) (p : BitVec 3) (pm : PostMode) (pre : Prefixes) :
    let d := s.recordAt g a 16
    let src := num d 0 21
    let wa := num d 32 15
    let c := wplCodes d
    let gw := wplWords d
    Comes (s.operandTraps g a 16 8 ++ trapIf (¬WplFields d) (matrixDetail 0x01) ::
      if d.getLsbD 55 then [] else spanTraps src (128 * (c + gw)) ++
        [trapIf (0x7F00 < wa + c + gw) (matrixDetail 0x08), s.poisonTrap g src (128 * (c + gw)),
         trapIf (¬∀ m < 32 * gw, num d 48 3 = 0 →
           (groupWordGood .i4 (s.wplWord g d m) || groupWordGood .ui4 (s.wplWord g d m)) = true) (matrixDetail 0x01),
         trapIf (¬∀ m < 32 * gw, num d 48 3 ≠ 0 → groupWordGood .i8 (s.wplWord g d m) = true) (matrixDetail 0x01)])
      (grantOf s g a (.wpl p pm pre)) fun x =>
        (x.writes = [] ∧ x.mset = 0 ∧ x.ecnt = none ∧ x.clear = false ∧ x.a = none) ∧ x.ka = none ∧
        x.fctx = some (setField (s.core g).fctx 149 15 wa) ∧
        if d.getLsbD 55 then x.job = none
        else ∃ data m, x.job = some (.weights, wa, data, m) ∧ data.length = 128 * (c + gw) ∧
          ∀ j < 128, ∀ k < c + gw, data.getD (j * (c + gw) + k) 0 =
            s.byte (scratchKey (g / 8) (src + if k < c then j * c + k else 128 * c + j * gw + (k - c))) := by
  intro d src wa c gw
  rw [grantOf, grantWpl, s.operand_eq g a (by decide)]
  cases h1 : firstTrap (s.operandTraps g a 16 8) with
  | some t => exact comes_of_some h1 rfl
  | none =>
    refine comes_of_none h1 ?_
    have hd : BitVec.ofNat 256 (bytesToNat (s.rdN (scratchKey (g / 8) (ownOff a)) 16)) = d := rfl
    clear_value d
    simp only [stopOr]
    simp only [zeroBits, bitsAt_eq_num, testBit_eq_getLsbD, hd, Nat.reduceAdd, Nat.reduceSub, Nat.reduceLeDiff, Nat.reduceLT,
      ← Bool.decide_and, Bool.not_eq_true', decide_eq_false_iff_not]
    refine comes_check (by simp only [and_assoc]) fun fields => ?_
    rw [not_not] at fields
    by_cases last : d.getLsbD 55 = true
    · rw [if_pos last, if_pos last]
      exact comes_nil rfl ⟨⟨rfl, rfl, rfl, rfl, rfl⟩, rfl, rfl, by rw [if_pos last]; rfl⟩
    rw [if_neg last, if_neg last]
    obtain ⟨t, ht, hc⟩ := exists_classTy (d := d) (by tauto)
    simp only [ht, hc, ← wplWords.eq_def, spanOk_eq]
    cases h2 : firstTrap (spanTraps src (128 * (c + gw))) with
    | some t => exact comes_of_some h2 rfl
    | none =>
      refine comes_of_none h2 (comes_check Iff.rfl fun near => ?_)
      rw [s.readSpan_eq]
      cases h3 : firstTrap [s.poisonTrap g src (128 * (c + gw))] with
      | some t => exact comes_of_some (l := [_]) h3 rfl
      | none =>
        refine comes_of_none (l := [_]) h3 ?_
        simp only [stopOr]
        refine comes_check_or ?_ fun _ _ => comes_nil rfl ⟨⟨rfl, rfl, rfl, rfl, rfl⟩, rfl, rfl, ?_⟩
        · rw [← not_and_or, ← s.wplWords_all g fields.2.2.2.2.2.1, Bool.not_eq_true]
        rw [if_neg last]
        refine ⟨_, _, rfl, ?_⟩
        rw [s.wplColumns_rdN]
        refine ⟨?_, fun j hj k hk => ?_⟩
        · rw [length_flatMap_const (c := wplCodes d + wplWords d) (by simp), List.length_range]
          exact Nat.mul_comm _ _
        · rw [s.getD_wplColumns _ _ _ hj hk, scratchKey_add]

end Sys2Proof.Machine
end

section
/-! SUPPORT. The read phases of MMA, MROW, MCOL, BLSET and BLCNT (06 R151, R153, R161, R163). -/

namespace Sys2Proof.Machine

/-! ### The operands of a format context -/

theorem FCtx.coded_tyA (c : FCtx) : Ty.Coded c.tyA := by
  unfold FCtx.tyA classTy
  split <;> cases c.sgnA <;> simp [Ty.Coded, Ty.bits]

theorem FCtx.coded_tyB (c : FCtx) : Ty.Coded c.tyB := by
  unfold FCtx.tyB classTy
  split <;> cases c.sgnB <;> simp [Ty.Coded, Ty.bits]

/-- The groups of a row or a column. -/
abbrev groupCount (c : BitVec 256) : Nat := 128 / (32 * 2 ^ num c 10 2)

/-- Is an operand grouped: the bit that says so, in group mode? -/
abbrev grouped (c : BitVec 256) (bit : Nat) : Bool := decide (c.extractLsb' 8 2 = 1) && c.getLsbD bit

theorem FCtx.groups_eq (c : FCtx) : c.groups = groupCount c := by
  rw [FCtx.groups, FCtx.group, FCtx.gsize, field_eq_toNat]

theorem FCtx.mode_eq (c : FCtx) : c.mode = num c 8 2 := field_eq_toNat c 8 2

theorem grouped_iff (c : FCtx) (bit : Nat) : grouped c bit = true ↔ c.mode = 1 ∧ c.getLsbD bit = true := by
  rw [Bool.and_eq_true, decide_eq_true_eq, c.mode_eq, BitVec.toNat_eq]; rfl

theorem FCtx.sizeA_eq (c : FCtx) : c.sizeA = 512 * c.tyA.bits + if grouped c 16 then 128 * groupCount c else 0 := by
  rw [FCtx.sizeA, codeBytes, FCtx.groups_eq, ← Nat.mul_assoc]
  simp only [grouped_iff]; rfl

theorem FCtx.sizeB_eq (c : FCtx) : c.sizeB = 16 * c.tyB.bits + if grouped c 17 then 4 * groupCount c else 0 := by
  rw [FCtx.sizeB, codeBytes, FCtx.groups_eq]
  simp only [grouped_iff]; rfl

theorem FCtx.wb_eq (c : FCtx) : c.wb = num c 149 15 := field_eq_toNat c 149 15

/-- A column of B that lies in its slice: its codes. -/
theorem State.take_columnB (s : State) (t : Nat) (c : FCtx) (j : Nat) (h : c.wb + c.sizeB ≤ 0x8000) :
    (s.columnB t c j).take (codeBytes c.tyB) = s.rdN (weightKey t j c.wb) (16 * c.tyB.bits) := by
  have le : codeBytes c.tyB ≤ c.sizeB := Nat.le_add_right _ _
  rw [State.columnB, State.take_rdN, Nat.min_eq_left (b := 0x8000 - c.wb) (by omega), Nat.min_eq_left le]; rfl

/-- The codes of the B block, column after column. -/
def State.blockB (s : State) (t : Nat) (c : BitVec 256) : List Byte :=
  (List.range 128).flatMap fun j => s.rdN (weightKey t j (num c 149 15)) (16 * (FCtx.tyB c).bits)

theorem State.codeAt_blockB (s : State) (t : Nat) (c : BitVec 256) {j k : Nat} (hj : j < 128) (hk : k < 128) :
    codeAt (FCtx.tyB c) (s.blockB t c) (128 * j + k) =
      codeAt (FCtx.tyB c) (s.rdN (weightKey t j (num c 149 15)) (16 * (FCtx.tyB c).bits)) k :=
  codeAt_flatMap (FCtx.coded_tyB c) (by decide) (fun j => by rw [State.length_rdN]; ring) 128 hj hk

theorem State.escapesB_eq (s : State) (t : Nat) (c : FCtx) (h : c.wb + c.sizeB ≤ 0x8000) :
    s.escapesB t c = countTo (escapeAt c.escB c.tyB (s.blockB t c)) 16384 := by
  rw [show 16384 = 128 * 128 from rfl, countTo_blocks, State.escapesB]
  refine congrArg List.sum (List.map_congr_left fun j hj => ?_)
  rw [s.take_columnB t c j h, countEscapes_codesOf c.escB c.coded_tyB (n := 128) (by rw [State.length_rdN]; ring)]
  refine countTo_congr fun e he => ?_
  rw [escapeAt_eq, escapeAt_eq, s.codeAt_blockB t c (List.mem_range.1 hj) he, c.wb_eq]

/-- Without escapes of B none is counted. -/
theorem State.countB_eq (s : State) (t : Nat) (c : FCtx) (h : c.wb + c.sizeB ≤ 0x8000) :
    (if c.escB then s.escapesB t c else 0) = countTo (escapeAt c.escB c.tyB (s.blockB t c)) 16384 := by
  split
  · exact s.escapesB_eq t c h
  · next off =>
    have none : escapeAt c.escB c.tyB (s.blockB t c) = fun _ => false := by
      rw [Bool.not_eq_true] at off
      funext e; rw [escapeAt_eq, off, Bool.false_and]
    simp [none, countTo]

/-- The escapes of A stand in its codes, before its group words. -/
theorem State.countA_eq (s : State) (k : Nat) (c : FCtx) :
    countEscapes c.escA c.tyA (codesOf c.tyA ((s.rdN k c.sizeA).take (32 * codeBytes c.tyA))) =
      countTo (escapeAt c.escA c.tyA (s.rdN k c.sizeA)) 4096 := by
  have len : 8 * ((s.rdN k c.sizeA).take (32 * codeBytes c.tyA)).length = 4096 * c.tyA.bits := by
    have le : 32 * codeBytes c.tyA ≤ c.sizeA := Nat.le_add_right _ _
    rw [List.length_take, State.length_rdN, Nat.min_eq_left le, codeBytes]; ring
  rw [countEscapes_codesOf c.escA c.coded_tyA len]
  refine countTo_congr fun e he => ?_
  rw [escapeAt_eq, escapeAt_eq, ← codeAt_append_left c.coded_tyA len he, List.take_append_drop]

/-- The group words of A, checked one by one. -/
theorem State.wordsA_all (s : State) (k : Nat) (c : FCtx) :
    (wordsIn 4 ((s.rdN k c.sizeA).drop (32 * codeBytes c.tyA))).all (groupWordOk c.tyA) = true ↔
      ∀ m < if grouped c 16 then 32 * groupCount c else 0,
        groupWordGood c.tyA (BitVec.ofNat 32 (s.rdNat (k + (512 * c.tyA.bits + 4 * m)) 4)) = true := by
  have rows : 32 * codeBytes c.tyA = 512 * c.tyA.bits := by rw [codeBytes]; ring
  have count : c.sizeA - 512 * c.tyA.bits = 4 * if grouped c 16 then 32 * groupCount c else 0 := by
    rw [c.sizeA_eq, Nat.add_sub_cancel_left]; split <;> omega
  rw [rows, State.drop_rdN, count, wordsIn_rdN s _ _ (by decide), List.all_map, List.all_eq_true]
  simp only [List.mem_range, Function.comp_def, groupWordGood_eq, Nat.add_assoc]

theorem comes_mma (s : State) (g : Nat) (a : Addr) (p : BitVec 3) (pm : PostMode) (pre : Prefixes) {c : BitVec 256}
    (hc : (s.core g).fctx = c) :
    let ta := FCtx.tyA c
    let tb := FCtx.tyB c
    let rows := 512 * ta.bits
    let sizeA := rows + if grouped c 16 then 128 * groupCount c else 0
    let sizeB := 16 * tb.bits + if grouped c 17 then 4 * groupCount c else 0
    let wb := num c 149 15
    let ka := ((s.core g).mst.extractLsb' 32 13).toNat
    let data := s.rdN (scratchKey (g / 8) (ownOff a)) sizeA
    let nA := countTo (escapeAt (c.getLsbD 13) ta data) 4096
    let nB := countTo (escapeAt (c.getLsbD 14) tb (s.blockB (g / 8) c)) 16384
    let word (m : Nat) : Word32 := BitVec.ofNat 32 (s.rdNat (scratchKey (g / 8) (ownOff a + rows + 4 * m)) 4)
    wb + sizeB ≤ 0x8000 →
    Comes (s.operandTraps g a sizeA 4 ++ [
        trapIf (¬∀ m < if grouped c 16 then 32 * groupCount c else 0, groupWordGood ta (word m) = true) (matrixDetail 0x01),
        trapIf (num c 76 13 < ka + nA) (matrixDetail 0x06), trapIf (num c 101 13 < nB) (matrixDetail 0x06),
        trapIf (0x7F00 < wb + sizeB) (matrixDetail 0x08)])
      (grantOf s g a (.mma p pm pre)) fun x =>
        (x.writes = [] ∧ x.mset = 0 ∧ x.ecnt = none ∧ x.clear = false ∧ x.a = none) ∧ x.fctx = none ∧
        x.ka = some (ka + nA) ∧ ∃ m, x.job = some (.mma, ka, data, m) := by
  intro ta tb rows sizeA sizeB wb ka data nA nB word fits
  have hA : FCtx.sizeA c = sizeA := FCtx.sizeA_eq c
  have hB : FCtx.sizeB c = sizeB := FCtx.sizeB_eq c
  have pos : 0 < sizeA := by
    rcases FCtx.coded_tyA c with h | h | h <;> rw [← hA, FCtx.sizeA, codeBytes, h] <;> omega
  have hka : (s.core g).ka = ka := field_eq_toNat _ 32 13
  have hwb : FCtx.wb c = wb := FCtx.wb_eq c
  have hnB := s.countB_eq (g / 8) c (by rwa [hB, hwb])
  have hnA := s.countA_eq (scratchKey (g / 8) (ownOff a)) c
  have words := s.wordsA_all (scratchKey (g / 8) (ownOff a)) c
  rw [hA] at hnA words
  rw [grantOf, grantMma, hc]
  simp only [hA, s.operand_eq g a pos]
  cases h1 : firstTrap (s.operandTraps g a sizeA 4) with
  | some t => exact comes_of_some h1 rfl
  | none =>
    refine comes_of_none h1 ?_
    have detail1 : (¬∀ m < if grouped c 16 then 32 * groupCount c else 0, groupWordGood ta (word m) = true) ↔
        (wordsIn 4 (data.drop (32 * codeBytes ta))).all (groupWordOk ta) = false := by
      rw [← Bool.not_eq_true, words]
      simp only [word, Nat.add_assoc, scratchKey_add]
      rfl
    have lenA : num c 76 13 < ka + nA ↔ decide (ka + nA ≤ FCtx.lenA c) = false := by
      rw [decide_eq_false_iff_not, Nat.not_le, FCtx.lenA, field_eq_toNat]
    have lenB : num c 101 13 < nB ↔ decide (nB ≤ FCtx.lenB c) = false := by
      rw [decide_eq_false_iff_not, Nat.not_le, FCtx.lenB, field_eq_toNat]
    have far : 0x7F00 < wb + sizeB ↔ decide (wb + sizeB ≤ 0x7F00) = false := by rw [decide_eq_false_iff_not, Nat.not_le]
    simp only [stopOr, hB, hka, hwb, hnA, hnB]
    have checks := firstFailure_eq [[trapIf (¬∀ m < if grouped c 16 then 32 * groupCount c else 0,
      groupWordGood ta (word m) = true) (matrixDetail 0x01)], [trapIf (num c 76 13 < ka + nA) (matrixDetail 0x06)],
      [trapIf (num c 101 13 < nB) (matrixDetail 0x06)], [trapIf (0x7F00 < wb + sizeB) (matrixDetail 0x08)]]
    simp only [List.map_cons, List.map_nil] at checks
    rw [← require_of_iff detail1, ← require_of_iff lenA, ← require_of_iff lenB, ← require_of_iff far] at checks
    generalize hf : firstFailure _ = f
    obtain rfl : f = stopOr (firstTrap _) () := hf.symm.trans checks
    cases h2 : firstTrap _ with
    | some t => exact comes_of_some_last h2 rfl
    | none => exact comes_of_none_last h2 rfl ⟨⟨rfl, rfl, rfl, rfl, rfl⟩, rfl, rfl, _, rfl⟩

end Sys2Proof.Machine
end

section
/-! SUPPORT. The read phases of MROW, MCOL, BLSET and BLCNT (06 R153, R161, R163). -/

namespace Sys2Proof.Machine

/-- The mode of a format context is not that of integers. -/
theorem FCtx.mode_ne_zero_iff (c : FCtx) : c.extractLsb' 8 2 ≠ 0 ↔ c.mode ≠ 0 := by
  rw [FCtx.mode_eq, ne_eq, BitVec.toNat_eq]; rfl

theorem comes_sums (s : State) (g : Nat) (a : Addr) (kind : ArrayKind) {n : Nat} (cycles : Nat) (hn : 0 < n) :
    Comes (pointerTraps a (4 * n) 4 ++ [trapIf ((s.core g).fctx.extractLsb' 8 2 ≠ 0) (matrixDetail 0x05),
        s.poisonTrap g (ownOff a) (4 * n)]) (grantSums kind n cycles s g a) fun x =>
      (x.writes = [] ∧ x.mset = 0 ∧ x.ecnt = none ∧ x.clear = false ∧ x.a = none) ∧ x.fctx = none ∧ x.ka = none ∧
      ∃ m, x.job = some (kind, 0, s.rdN (scratchKey (g / 8) (ownOff a)) (4 * n), m) := by
  rw [grantSums, checkLocal_eq a (by omega)]
  cases h1 : firstTrap (pointerTraps a (4 * n) 4) with
  | some t => exact comes_of_some h1 rfl
  | none =>
    refine comes_of_none h1 (comes_check (FCtx.mode_ne_zero_iff _) fun _ => ?_)
    rw [s.readSpan_eq]
    cases h2 : firstTrap [s.poisonTrap g (ownOff a) (4 * n)] with
    | some t => exact comes_of_some_last h2 rfl
    | none => exact comes_of_none_last h2 rfl ⟨⟨rfl, rfl, rfl, rfl, rfl⟩, rfl, rfl, _, rfl⟩

/-! ### BLSET -/

theorem entriesReserved_all (s : State) (k n : Nat) :
    (wordsIn 4 (s.rdN k (4 * n))).all (fun e => decide (num (BitVec.ofNat 256 e) 14 2 = 0)) = true ↔
      ∀ m < n, (BitVec.ofNat 32 (s.rdNat (k + 4 * m) 4)).extractLsb' 14 2 = 0 := by
  rw [wordsIn_rdN s k n (by decide), List.all_map, List.all_eq_true]
  simp only [List.mem_range, Function.comp_def, ← field_eq_zero_iff, decide_eq_true_eq]
  simp only [num, num_ofNat _ (show 14 + 2 ≤ 256 by decide), field_ofNat _ (show 14 + 2 ≤ 32 by decide)]

theorem num_one (d : BitVec 256) (lo : Nat) : num d lo 1 = if d.getLsbD lo then 1 else 0 := by
  rw [num, BitVec.extractLsb'_toNat, Nat.shiftRight_eq_div_pow, BitVec.getLsbD, Nat.testBit_eq_decide_div_mod_eq]
  have := Nat.mod_two_eq_zero_or_one (d.toNat / 2 ^ lo)
  rcases this with h | h <;> simp [h]

theorem comes_blset (s : State) (g : Nat) (a : Addr) (p : BitVec 3) (pm : PostMode) (pre : Prefixes) {d c : BitVec 256}
    (hd : s.recordAt g a 16 = d) (hc : (s.core g).fctx = c) :
    Comes (s.operandTraps g a 16 8 ++ trapIf (¬(num d 77 51 = 0 ∧ num d 58 6 = 0 ∧ num d 21 11 = 0)) (matrixDetail 0x01) ::
        trapIf (¬(num d 32 12 + num d 44 13 ≤ 4096 ∧ num d 64 13 ≤ num d 44 13)) (matrixDetail 0x04) ::
        (spanTraps (num d 0 21) (4 * num d 64 13) ++ [s.poisonTrap g (num d 0 21) (4 * num d 64 13),
          trapIf (¬∀ m < num d 64 13, (BitVec.ofNat 32 (s.rdNat (scratchKey (g / 8) (num d 0 21 + 4 * m)) 4)).extractLsb' 14 2 = 0)
            (matrixDetail 0x01)]))
      (grantOf s g a (.blset p pm pre)) fun x =>
        (x.writes = [] ∧ x.mset = 0 ∧ x.ecnt = none ∧ x.clear = false ∧ x.a = none) ∧
        x.fctx = some (if d.getLsbD 57 then setField (setField c 89 12 (num d 32 12)) 101 13 (num d 44 13)
          else setField (setField c 64 12 (num d 32 12)) 76 13 (num d 44 13)) ∧
        x.ka = (if d.getLsbD 57 then none else some 0) ∧ (num d 64 13 = 0 → x.job = none) ∧
        (num d 64 13 ≠ 0 → ∃ m, x.job = some (.entries, (if d.getLsbD 57 then 4096 else 0) + num d 32 12,
          s.rdN (scratchKey (g / 8) (num d 0 21)) (4 * num d 64 13), m)) := by
  replace hd : BitVec.ofNat 256 (bytesToNat (s.rdN (scratchKey (g / 8) (ownOff a)) 16)) = d := hd
  rw [grantOf, grantBlset, s.operand_eq g a (by decide)]
  cases h1 : firstTrap (s.operandTraps g a 16 8) with
  | some t => exact comes_of_some h1 rfl
  | none =>
    refine comes_of_none h1 ?_
    simp only [stopOr]
    simp only [zeroBits, bitsAt_eq_num, hd, hc, Nat.reduceAdd, Nat.reduceSub, Nat.reduceLeDiff, spanOk_eq]
    have reserved : ¬(num d 77 51 = 0 ∧ num d 58 6 = 0 ∧ num d 21 11 = 0) ↔
        (decide (num d 77 51 = 0) && decide (num d 58 6 = 0) && decide (num d 21 11 = 0)) = false := by
      rw [← Bool.not_eq_true]; simp only [Bool.and_eq_true, decide_eq_true_eq, and_assoc]
    have room : ¬(num d 32 12 + num d 44 13 ≤ 4096 ∧ num d 64 13 ≤ num d 44 13) ↔
        (decide (num d 32 12 + num d 44 13 ≤ 4096) && decide (num d 64 13 ≤ num d 44 13)) = false := by
      rw [← Bool.not_eq_true, Bool.and_eq_true, decide_eq_true_eq, decide_eq_true_eq]
    rw [require_of_iff reserved, require_of_iff room]
    generalize hf : firstFailure _ = f
    obtain rfl : f = stopOr (firstTrap _) () := hf.symm.trans (firstFailure_eq [[_], [_], spanTraps _ _])
    cases h2 : firstTrap _ with
    | some t => exact comes_of_some (m := [_, _]) h2 rfl
    | none =>
      refine comes_of_none (m := [_, _]) h2 ?_
      rw [s.readSpan_eq]
      simp only [stopOr]
      cases h3 : firstTrap [s.poisonTrap g (num d 0 21) (4 * num d 64 13)] with
      | some t => exact comes_of_some (l := [_]) h3 rfl
      | none =>
        refine comes_of_none (l := [_]) h3 (comes_check ?_ fun _ => comes_nil rfl ?_)
        · rw [Bool.not_eq_true', ← Bool.not_eq_true, entriesReserved_all]
          simp only [scratchKey_add]
        rw [num_one, mul_ite, mul_one, mul_zero]
        cases d.getLsbD 57 <;>
          simp only [Bool.false_eq_true, if_true, if_false, one_ne_zero] <;>
          exact ⟨⟨rfl, rfl, rfl, rfl, rfl⟩, trivial, trivial, fun none => if_pos none, fun some => ⟨_, if_neg some⟩⟩

/-! ### BLCNT -/

theorem and_low_ones (m : Word64) : BitVec.ofNat 64 (bitsAt 0 45 m.toNat) = m &&& 0x1FFFFFFFFFFF := by
  refine BitVec.eq_of_toNat_eq ?_
  have small : m.toNat % 2 ^ 45 < 2 ^ 64 := by omega
  rw [BitVec.toNat_and, BitVec.toNat_ofNat, bitsAt, pow_zero, Nat.div_one, Nat.mod_eq_of_lt small]
  exact (Nat.and_two_pow_sub_one_eq_mod m.toNat 45).symm

theorem clear_low_bits (m : Word64) : setField m 0 7 0 = m &&& ~~~0x7F := by
  refine BitVec.eq_of_getLsbD_eq fun i hi => ?_
  have ones : (0x7F : Word64).getLsbD i = decide (i < 7) := by
    rw [show (0x7F : Word64) = BitVec.setWidth 64 (BitVec.allOnes 7) from rfl, BitVec.getLsbD_setWidth, BitVec.getLsbD_allOnes]
    simp [hi]
  rw [getLsbD_setField, BitVec.getLsbD_and, BitVec.getLsbD_not, ones]
  by_cases low : i < 7 <;> simp [low, hi]

theorem grantOf_blcnt (s : State) (g : Nat) (a : Addr) (pre : Prefixes) (r : MReq) (hr : r.fctx = none) :
    ∃ x : Grant, grantOf s g a (.blcnt pre) = .ok x ∧ x.a = some ((s.core g).mst &&& 0x1FFFFFFFFFFF) ∧ x.job = none ∧
      x.writes = [] ∧
      (s.core g).retire { r with mset := x.mset, ecnt := x.ecnt, ka := x.ka, clear := x.clear } =
        { s.core g with mst := (s.core g).mst &&& ~~~0x7F, mreq := none, stalled := false } := by
  refine ⟨_, rfl, congrArg some (and_low_ones _), rfl, rfl, ?_⟩
  have zero : (s.core g).mst ||| (Grant.plain).mset = (s.core g).mst := BitVec.or_zero
  simp only [Core.retire, hr, zero, if_true, clear_low_bits]
  rfl

end Sys2Proof.Machine
end

section
/-! SUPPORT. Rounding to an integer as the statements write it, and the drains (04 R88; 06 R154 to R156). -/

namespace Sys2Proof.Machine

/-! ### Rounding a quotient by a power of two -/

/-- Twice half a unit is a unit, where a remainder is left. -/
theorem two_mul_half_unit {sh r : Nat} (h : r % 2 ^ sh ≠ 0) : 2 * 2 ^ (sh - 1) = 2 ^ sh := by
  cases sh with
  | zero => rw [pow_zero, Nat.mod_one] at h; exact absurd rfl h
  | succ n => rw [Nat.add_sub_cancel, pow_succ, Nat.mul_comm]

/-- A quotient and a remainder of `2^sh` rounded to the nearer integer in a mode. -/
def roundParts (md : RMode) (neg : Bool) (q r sh : Nat) : Nat :=
  if decide (r ≠ 0) && roundsAway md neg (q % 2 == 1) r (2 ^ (sh - 1)) then q + 1 else q

theorem roundInt_eq_roundParts (md : RMode) (neg : Bool) (m : Nat) (e : Int) : (roundInt md neg m e).1 =
    (if neg then -1 else 1) * (roundParts md neg (m * 2 ^ e.toNat / 2 ^ (-e).toNat) (m * 2 ^ e.toNat % 2 ^ (-e).toNat) (-e).toNat : Nat) := by
  have rem : m % 2 ^ (-e).toNat = m * 2 ^ e.toNat % 2 ^ (-e).toNat ∧
      (decide (e < 0) && decide (m % 2 ^ (-e).toNat ≠ 0)) = decide (m * 2 ^ e.toNat % 2 ^ (-e).toNat ≠ 0) := by
    rcases lt_or_ge e 0 with h | h
    · rw [show e.toNat = 0 by omega, pow_zero, Nat.mul_one]; simp [h]
    · rw [show (-e).toNat = 0 by omega, pow_zero, Nat.mod_one, Nat.mod_one]; simp
  simp only [roundInt, rem.2, roundParts, ← rem.1]
  cases neg
  · exact (one_mul _).symm
  · exact (neg_one_mul _).symm

/-- `shiftRound` of a number with a quotient `q` and a remainder `r` by a unit `D = 2^sh`, the remainder at least 0. -/
theorem shiftRound_eq {p q : Int} {r D sh : Nat} (hD : 2 ^ sh = D) (hr : r < D) (hp : p = D * q + r) (md : RMode) :
    shiftRound md p sh = match md with
      | .zero => if p < 0 ∧ r ≠ 0 then q + 1 else q
      | .down => q
      | .up => if r = 0 then q else q + 1
      | .nearest => if 2 * r < D ∨ (2 * r = D ∧ q % 2 = 0) then q else q + 1 := by
  have unit : (2 : Int) ^ sh = (D : Nat) := by rw [← hD]; push_cast; rfl
  have pos : (0 : Int) < D := by omega
  obtain ⟨hq, hm⟩ := (Int.ediv_emod_unique (a := p) (r := r) (q := q) pos).2 ⟨by rw [hp, add_comm], by omega, by omega⟩
  cases md with
  | zero =>
    have exact_iff : 0 ≤ p ∨ (D : Int) ∣ p ↔ ¬(p < 0 ∧ r ≠ 0) := by
      rw [Int.dvd_iff_emod_eq_zero, hm]; omega
    simp only [shiftRound, unit, Int.tdiv_eq_ediv, hq, exact_iff, Int.sign_eq_one_of_pos pos]
    by_cases h : p < 0 ∧ r ≠ 0 <;> simp [h]
  | down => simp only [shiftRound, unit, hq]
  | up => simp only [shiftRound, unit, hq, hm]; simp
  | nearest =>
    simp only [shiftRound, unit, hq, hm]
    refine if_congr ?_ rfl rfl
    omega

/-- What each mode makes of a quotient and a remainder. -/
theorem roundParts_eq (md : RMode) (neg : Bool) (q : Nat) {r D sh : Nat} (hD : 2 ^ sh = D) (half : r ≠ 0 → 2 * 2 ^ (sh - 1) = D) :
    roundParts md neg q r sh = match md with
      | .zero => q
      | .down => if r = 0 ∨ neg = false then q else q + 1
      | .up => if r = 0 ∨ neg = true then q else q + 1
      | .nearest => if 2 * r < D ∨ (2 * r = D ∧ q % 2 = 0) then q else q + 1 := by
  have pos : 0 < D := hD ▸ Nat.two_pow_pos sh
  by_cases hr : r = 0
  · subst hr; cases md <;> simp [roundParts, pos]
  · have h := half hr
    cases md with
    | zero => simp [roundParts, roundsAway]
    | up => cases neg <;> simp [roundParts, roundsAway, hr, Nat.pos_of_ne_zero hr]
    | down => cases neg <;> simp [roundParts, roundsAway, hr, Nat.pos_of_ne_zero hr]
    | nearest =>
      simp only [roundParts, roundsAway, hr, ne_eq, not_false_eq_true, decide_true, Bool.true_and, Bool.or_eq_true,
        Bool.and_eq_true, decide_eq_true_eq, beq_iff_eq]
      split <;> split <;> omega

/-- A magnitude rounded by the model, as `shiftRound` says it of the signed number. -/
theorem roundInt_eq_shiftRound (md : RMode) (neg : Bool) (m : Nat) (e : Int) :
    (roundInt md neg m e).1 = shiftRound md ((if neg then -1 else 1) * m * 2 ^ e.toNat) (-e).toNat := by
  rw [roundInt_eq_roundParts]
  have number : (m : Int) * 2 ^ e.toNat = (m * 2 ^ e.toNat : Nat) := by push_cast; rfl
  rw [mul_assoc, number]
  generalize m * 2 ^ e.toNat = n
  generalize (-e).toNat = sh
  have parts : (n : Int) = (2 ^ sh : Nat) * (n / 2 ^ sh : Nat) + (n % 2 ^ sh : Nat) := by
    exact_mod_cast (Nat.div_add_mod n (2 ^ sh)).symm
  have small : n % 2 ^ sh < 2 ^ sh := Nat.mod_lt _ (Nat.two_pow_pos sh)
  rw [roundParts_eq md neg _ rfl two_mul_half_unit]
  generalize n / 2 ^ sh = q at *
  generalize n % 2 ^ sh = r at *
  generalize hD : 2 ^ sh = D at *
  have nonneg : (0 : Int) ≤ D * q := by positivity
  cases neg
  · rw [if_neg (by decide), one_mul, one_mul, shiftRound_eq hD small parts]
    cases md with
    | zero => dsimp only; rw [if_neg (by omega)]
    | down | up => simp
    | nearest => dsimp only; split <;> split <;> omega
  · rw [if_pos rfl, neg_one_mul, neg_one_mul]
    by_cases hr : r = 0
    · rw [shiftRound_eq (q := -q) (r := 0) hD (by omega) (by rw [parts, hr]; push_cast; ring)]
      cases md with
      | zero => dsimp only; rw [if_neg (by omega)]
      | down | up => simp [hr]
      | nearest => dsimp only; rw [if_pos (by omega), if_pos (by omega)]
    · rw [shiftRound_eq (q := -q - 1) (r := D - r) hD (by omega) (by rw [parts, Nat.cast_sub small.le]; ring)]
      cases md with
      | zero => dsimp only; rw [if_pos (by omega)]; omega
      | down => simp [hr]; omega
      | up => simp [hr]; omega
      | nearest => dsimp only; split <;> split <;> omega

end Sys2Proof.Machine
end

section
/-! SUPPORT. The drains (06 R154 to R156). -/

namespace Sys2Proof.Machine

/-- An element of MDRAIN before it is narrowed is the one that the statements name. -/
theorem drainInt_eq (t : Ty) (md : RMode) (sat : Bool) (d : Option Nat) (acc : Word32) :
    drainInt t md sat d acc.toNat = t.narrowInt sat (drainValue md (d.map (BitVec.ofNat 64)) acc) := by
  refine congrArg (t.narrowInt sat) ?_
  cases d with
  | none => exact i32_toNat acc
  | some e =>
    have scale : signedOf 32 e = ((BitVec.ofNat 64 e).setWidth 32).toInt := by
      rw [signedOf_eq_toInt (by decide)]
      refine congrArg BitVec.toInt (BitVec.eq_of_toNat_eq ?_)
      simp only [BitVec.toNat_ofNat, BitVec.toNat_setWidth]; omega
    have offset : signedOf 16 (e / 2 ^ 48) = ((BitVec.ofNat 64 e).extractLsb' 48 16).toInt := by
      rw [signedOf_eq_toInt (by decide)]
      refine congrArg BitVec.toInt (BitVec.eq_of_toNat_eq ?_)
      rw [← field_eq_toNat, field_ofNat e (by decide), BitVec.toNat_ofNat]; rfl
    have shift : bitsAt 32 6 e = ((BitVec.ofNat 64 e).extractLsb' 32 6).toNat := by
      rw [← field_eq_toNat, field_ofNat e (by decide)]
    have number (p : Int) (n : Nat) : (roundInt md (decide (p < 0)) p.natAbs (-(n : Int))).1 = shiftRound md p n := by
      rw [roundInt_eq_shiftRound, show (-(-(n : Int))).toNat = n by omega, show (-(n : Int)).toNat = 0 by omega]
      refine congrArg (shiftRound md · n) ?_
      by_cases h : p < 0
      · simp only [h, decide_true, if_true, pow_zero]; omega
      · simp only [h, decide_false, Bool.false_eq_true, if_false, pow_zero]; omega
    dsimp only [Option.map_some, drainValue]
    rw [number, i32_toNat, scale, offset, shift]

/-- A narrowed integer: its bytes, and whether the clamp changed it (R85). -/
theorem natToBytes_narrowInt {t : Ty} (ht : t ∈ [Ty.i8, .ui8, .i16, .i32]) (sat : Bool) (v : Int) :
    natToBytes t.size (t.narrowInt sat v).1 = natToBytes t.size (BitVec.ofInt 64 (if sat then clampInt t.lo t.hi v else v)).toNat := by
  have low (w : Int) : wrapNat t.bits w % 2 ^ (8 * t.size) = (BitVec.ofInt 64 w).toNat % 2 ^ (8 * t.size) := by
    rw [BitVec.toNat_ofInt]
    fin_cases ht <;> simp only [wrapNat, Ty.bits, Ty.size] <;> omega
  cases sat
  · exact natToBytes_congr (low v)
  · exact natToBytes_congr (low _)

theorem narrowInt_clamps_iff (t : Ty) (sat : Bool) (v : Int) :
    (t.narrowInt sat v).2 = true ↔ (if sat then clampInt t.lo t.hi v else v) ≠ v := by
  cases sat
  · simp [Ty.narrowInt]
  · have order : t.lo ≤ t.hi := by cases t <;> decide
    simp only [Ty.narrowInt, if_true, Bool.or_eq_true, decide_eq_true_eq, clampInt]
    split
    · omega
    · split <;> omega

theorem wordsIn_table (s : State) (k e : Nat) : (wordsIn 8 (s.rdN k 1024)).getD (e % 128) 0 = s.rdNat (k + 8 * (e % 128)) 8 := by
  have := Nat.mod_lt e (show 0 < 128 by decide)
  rw [show 1024 = 8 * 128 from rfl, wordsIn_rdN s k 128 (by decide)]
  simp [List.getD_eq_getElem?_getD, this]

theorem Core.accs_zip (c : Core) : c.accs.zip (List.range 4096) = (List.range 4096).map fun e => ((Tab.get 0 c.acc e).toNat, e) := by
  have accs : c.accs = (List.range 4096).map fun e => (Tab.get (0 : Word32) c.acc e).toNat := by
    simp [Core.accs, Tab.getMany, Function.comp_def]
  have both := List.zip_map' (f := fun e => (Tab.get (0 : Word32) c.acc e).toNat) (g := id) (l := List.range 4096)
  rwa [List.map_id, ← accs] at both

/-- An entry of the drain table, where the context asks for one. -/
def State.drainEntry (s : State) (g : Nat) (c : BitVec 256) (e : Nat) : Option Nat :=
  if c.getLsbD 15 then some (s.rdNat (scratchKey (g / 8) (num c 128 21 + 8 * (e % 128))) 8) else none

/-- The checks of the drain table. -/
def State.drainTable (s : State) (g : Nat) (c : BitVec 256) : List (Option Trap) :=
  if c.getLsbD 15 then [s.poisonTrap g (num c 128 21) 1024,
    trapIf (∃ e ∈ List.range 128, (BitVec.ofNat 64 (s.rdNat (scratchKey (g / 8) (num c 128 21 + 8 * e)) 8)).extractLsb' 38 10 ≠ 0)
      (matrixDetail 0x01)] else []

/-- One element of a drain, and whether it was clamped or saturated. -/
def State.drained (s : State) (g : Nat) (c : BitVec 256) (float : Bool) (t : Ty) (md : RMode) (sat : Bool) (e : Nat) : Nat × Bool :=
  let acc := (Tab.get 0 (s.core g).acc e).toNat
  if float then drainFloat t md sat (decide (c.extractLsb' 8 2 = 0)) (s.drainEntry g c e) acc
  else drainInt t md sat (s.drainEntry g c e) acc

theorem comes_drain (s : State) (g : Nat) (a : Addr) (float : Bool) (t : Ty) (md : RMode) (sat : Bool) {c : BitVec 256}
    (hc : (s.core g).fctx = c) :
    Comes (pointerTraps a (4096 * t.size) 4 ++ ((if float then [] else
        [trapIf (decide (c.extractLsb' 8 2 = 0) = false) (matrixDetail 0x05)]) ++ s.drainTable g c))
      (grantDrain float t md sat s g a) fun x =>
        x.fctx = none ∧ x.ka = none ∧ x.ecnt = none ∧ x.clear = false ∧ x.a = none ∧ x.job = none ∧
        x.writes = [(ownOff a, (List.range 4096).flatMap fun e => natToBytes t.size (s.drained g c float t md sat e).1)] ∧
        x.mset = if (List.range 4096).any fun e => (s.drained g c float t md sat e).2 then 8 else 0 := by
  have size : 0 < 4096 * t.size := by cases t <;> decide
  rw [grantDrain, hc, checkLocal_eq a size]
  cases h1 : firstTrap (pointerTraps a (4096 * t.size) 4) with
  | some t => exact comes_of_some h1 rfl
  | none =>
    refine comes_of_none h1 ?_
    have dtab : FCtx.dtab c = num c 128 21 := field_eq_toNat c 128 21
    simp only [dtab, stopOr, s.readSpan_eq, Core.accs_zip, List.map_map, List.flatMap_map, List.any_map]
    have mode : FCtx.mode c = 0 ↔ c.extractLsb' 8 2 = 0 := not_iff_not.1 (FCtx.mode_ne_zero_iff c).symm
    have integers (R : Except Stop Grant) {l : List (Option Trap)} {P : Grant → Prop} (go : Comes l R P) :
        Comes ((if float then [] else [trapIf (decide (c.extractLsb' 8 2 = 0) = false) (matrixDetail 0x05)]) ++ l)
          (if (!float && decide (FCtx.mode c ≠ 0)) = true then .error (matrixTrap 0x05) else R) P := by
      cases float
      · exact comes_check (by simp [mode]) fun _ => go
      · exact go
    refine integers _ ?_
    rw [State.drainTable]
    by_cases table : c.getLsbD 15 = true
    · have on : FCtx.dreq c = true := table
      rw [if_pos table, if_pos on]
      cases h2 : firstTrap [s.poisonTrap g (num c 128 21) 1024] with
      | some t => exact comes_of_some (l := [_]) h2 rfl
      | none =>
        have entries : (∃ e ∈ List.range 128, (BitVec.ofNat 64 (s.rdNat (scratchKey (g / 8) (num c 128 21 + 8 * e)) 8)).extractLsb' 38 10 ≠ 0) ↔
            (!(wordsIn 8 (s.rdN (scratchKey (g / 8) (num c 128 21)) 1024)).all fun e => zeroBits e 38 47) = true := by
          rw [Bool.not_eq_true', ← Bool.not_eq_true, show 1024 = 8 * 128 from rfl, wordsIn_rdN s _ 128 (by decide), List.all_map,
            List.all_eq_true]
          simp only [Function.comp_def, zeroBits, decide_eq_true_eq, ← scratchKey_add, not_forall, exists_prop, ne_eq,
            ← field_eq_zero_iff, field_ofNat _ (show 38 + 10 ≤ 64 by decide)]
        refine comes_of_none (l := [_]) h2 (comes_check entries fun _ => comes_nil rfl ⟨rfl, rfl, rfl, rfl, rfl, rfl, ?_, ?_⟩)
        · simp only [State.drained, State.drainEntry, if_pos table, mode, Function.comp_def, Option.map_some, wordsIn_table,
            scratchKey_add]
        · simp only [State.drained, State.drainEntry, if_pos table, mode, Function.comp_def, Option.map_some, wordsIn_table,
            scratchKey_add]
    · have off : ¬FCtx.dreq c = true := table
      rw [if_neg table, if_neg off]
      refine comes_nil rfl ⟨rfl, rfl, rfl, rfl, rfl, rfl, ?_, ?_⟩
      · simp only [State.drained, State.drainEntry, if_neg table, mode, Function.comp_def, Option.map_none]
      · simp only [State.drained, State.drainEntry, if_neg table, mode, Function.comp_def, Option.map_none]

end Sys2Proof.Machine
end

section
/-! SUPPORT. What an election and its codes come to: the codes stored, the entries of a list, and the bits of MST (06 R157,
R162). -/

namespace Sys2Proof.Machine

/-! ### Which elements are kept -/

/-- The first `cap` electees, by number. -/
theorem keepFirst_map_range (cap : Nat) (el : Nat → Bool) (n : Nat) :
    keepFirst cap ((List.range n).map el) = (List.range n).map fun e => el e && decide (countTo el e < cap) := by
  induction n generalizing cap el with
  | zero => rfl
  | succ n ih =>
    rw [List.range_succ_eq_map, List.map_cons, List.map_map, List.map_cons, List.map_map, keepFirst]
    split
    · next first =>
      rw [show el ∘ Nat.succ = fun e => el (e + 1) from rfl, ih]
      simp only [first, countTo_zero, Bool.true_and, List.cons.injEq]
      refine ⟨rfl, List.map_congr_left fun e _ => ?_⟩
      simp only [Function.comp_def, Nat.succ_eq_add_one, countTo_succ, first, if_true]
      congr 2
      exact propext (by omega)
    · next first =>
      rw [show el ∘ Nat.succ = fun e => el (e + 1) from rfl, ih]
      simp only [first, Bool.false_and, List.cons.injEq, true_and]
      refine List.map_congr_left fun e _ => ?_
      simp [countTo_succ, first]

theorem length_filter_map_range (p : Nat → Bool) (n : Nat) : (((List.range n).map p).filter id).length = countTo p n := by
  rw [List.filter_map, List.length_map]; rfl

/-! ### Codes -/

theorem packCodes_nibbles {t : Ty} (ht : t.bits = 4) (k : Nat) (code : Nat → Nat) :
    packCodes t ((List.range (2 * k)).map code) = (List.range k).map fun j => BitVec.ofNat 8 (code (2 * j) + 16 * code (2 * j + 1)) := by
  induction k generalizing code with
  | zero => rfl
  | succ k ih =>
    rw [Nat.mul_succ, List.range_succ_eq_map, List.range_succ_eq_map, List.range_succ_eq_map (n := k)]
    simp only [List.map_cons, List.map_map, packCodes, ht, if_true]
    exact congrArg _ (ih fun e => code (e + 2))

theorem packCodes_bytes {t : Ty} (ht : t.bits = 8) (l : List Nat) : packCodes t l = l.map (BitVec.ofNat 8) := by
  induction l with
  | nil => rfl
  | cons a l ih => rw [packCodes.eq_def]; simp [ht, ih]

/-- The stored codes fill their bytes, and each is read back. -/
theorem codeAt_packCodes {t : Ty} {n : Nat} {code : Nat → Nat} (h : t.bits = 4 ∨ t.bits = 8) (even : t.bits = 4 → n % 2 = 0)
    (small : ∀ e < n, code e < 2 ^ t.bits) :
    (packCodes t ((List.range n).map code)).length = n * t.bits / 8 ∧
      ∀ e < n, codeAt t (packCodes t ((List.range n).map code)) e = code e := by
  rcases h with h | h
  · obtain ⟨k, rfl⟩ : ∃ k, n = 2 * k := ⟨n / 2, by have := even h; omega⟩
    rw [h] at small ⊢
    rw [packCodes_nibbles h]
    refine ⟨by simp; omega, fun e he => ?_⟩
    have lo := small (2 * (e / 2)) (by omega)
    have hi := small (2 * (e / 2) + 1) (by omega)
    have byte : ((List.range k).map fun j => BitVec.ofNat 8 (code (2 * j) + 16 * code (2 * j + 1))).getD (e / 2) 0 =
        BitVec.ofNat 8 (code (2 * (e / 2)) + 16 * code (2 * (e / 2) + 1)) := by
      simp [List.getD_eq_getElem?_getD, show e / 2 < k by omega]
    have value : (code (2 * (e / 2)) + 16 * code (2 * (e / 2) + 1)) % 2 ^ 8 =
        code (2 * (e / 2)) + 16 * code (2 * (e / 2) + 1) := Nat.mod_eq_of_lt (by omega)
    rw [codeAt_nibbles h, byte, BitVec.toNat_ofNat, value]
    rcases Nat.mod_two_eq_zero_or_one e with b | b <;> rw [b]
    · rw [show 2 * (e / 2) = e by omega] at lo hi ⊢
      rw [pow_zero]; omega
    · rw [show 2 * (e / 2) + 1 = e by omega] at hi ⊢
      rw [pow_one]; omega
  · rw [h] at small ⊢
    rw [packCodes_bytes h, List.map_map]
    refine ⟨by simp, fun e he => ?_⟩
    rw [codeAt_bytes h]
    simp only [List.getD_eq_getElem?_getD, List.getElem?_map, List.getElem?_range he, Option.map_some, Option.getD_some,
      Function.comp_def, BitVec.toNat_ofNat]
    exact Nat.mod_eq_of_lt (small e he)

/-! ### Entries -/

/-- The entries that the kept elements leave, in their order. -/
theorem filterMap_kept (kept : Nat → Bool) (entry : Nat → Nat) (n : Nat) :
    (List.range n).filterMap (fun e => if kept e then some (entry e) else none) = ((List.range n).filter kept).map entry := by
  induction List.range n with
  | nil => rfl
  | cons e l ih => rw [List.filterMap_cons, List.filter_cons, ih]; cases kept e <;> rfl

/-! ### Bits -/

theorem testBit_foldl_or {α : Type} (f : α → Nat) (l : List α) (b i : Nat) :
    (l.foldl (fun b o => b ||| f o) b).testBit i = (b.testBit i || l.any fun o => (f o).testBit i) := by
  induction l generalizing b with
  | nil => simp
  | cons a l ih => rw [List.foldl_cons, ih, Nat.testBit_or, List.any_cons, Bool.or_assoc]

/-- QSAT and QNAN of MST (06 R162). -/
def electBits (sat nan : Prop) [Decidable sat] [Decidable nan] : Nat := (if sat then 16 else 0) ||| if nan then 32 else 0

theorem testBit_electBits (sat nan : Prop) [Decidable sat] [Decidable nan] (i : Nat) :
    (electBits sat nan).testBit i = (decide (sat ∧ i = 4) || decide (nan ∧ i = 5)) := by
  have four : Nat.testBit 16 i = decide (i = 4) := by
    rw [show 16 = 2 ^ 4 from rfl, Nat.testBit_two_pow]; exact decide_eq_decide.2 eq_comm
  have five : Nat.testBit 32 i = decide (i = 5) := by
    rw [show 32 = 2 ^ 5 from rfl, Nat.testBit_two_pow]; exact decide_eq_decide.2 eq_comm
  rw [electBits, Nat.testBit_or]
  by_cases sat <;> by_cases nan <;> simp [*]

/-! ### Fields of the record -/

theorem bitsAt_toNat (d : BitVec 256) (lo w : Nat) : bitsAt lo w d.toNat = num d lo w := field_eq_toNat d lo w

theorem toNat_recordAt (s : State) (g : Nat) (a : Addr) : (s.recordAt g a 32).toNat = s.rdNat (scratchKey (g / 8) (ownOff a)) 32 := by
  rw [BitVec.toNat_ofNat]; exact Nat.mod_eq_of_lt (s.rdNat_lt _ 32)

section
variable (d : BitVec 256)

theorem qN_eq : qN d.toNat = num d 64 16 := bitsAt_toNat d 64 16
theorem qSrc_eq : qSrc d.toNat = num d 0 21 := bitsAt_toNat d 0 21
theorem qDst_eq : qDst d.toNat = num d 32 21 := bitsAt_toNat d 32 21
theorem qStart_eq : qStart d.toNat = num d 80 12 := bitsAt_toNat d 80 12
theorem qInv_eq : qInv d.toNat = num d 128 32 := bitsAt_toNat d 128 32
theorem qZ_eq : qZ d.toNat = num d 160 8 := bitsAt_toNat d 160 8
theorem qLim_eq : qLim d.toNat = num d 168 7 := bitsAt_toNat d 168 7
theorem qCols_eq : qCols d.toNat = num d 176 8 := bitsAt_toNat d 176 8
theorem qRow0_eq : qRow0 d.toNat = num d 184 7 := bitsAt_toNat d 184 7
theorem qCol0_eq : qCol0 d.toNat = num d 192 7 := bitsAt_toNat d 192 7
theorem qGsize_eq : qGsize d.toNat = num d 200 2 := bitsAt_toNat d 200 2
theorem qGaddr_eq : qGaddr d.toNat = num d 208 21 := bitsAt_toNat d 208 21
theorem qEsc_eq : qEsc d.toNat = d.getLsbD 94 := rfl
theorem qClamp_eq : qClamp d.toNat = d.getLsbD 93 := rfl
theorem qGrp_eq : qGrp d.toNat = d.getLsbD 95 := rfl
theorem qList_eq : qList d.toNat = if d.getLsbD 92 then 1 else 0 := (bitsAt_toNat d 92 1).trans (num_one d 92)

/-- The position of an element (06 R157). -/
def position (e : Nat) : Nat :=
  (num d 184 7 + e / num d 176 8) % 128 * 128 + (num d 192 7 + e % num d 176 8) % 128

theorem qPos_eq (e : Nat) : qPos d.toNat e = position d e := by
  rw [qPos, qRow0_eq, qCols_eq, qCol0_eq, position]

theorem position_lt (e : Nat) : position d e < 2 ^ 16 := by
  have row := Nat.mod_lt (num d 184 7 + e / num d 176 8) (show 0 < 128 by decide)
  have col := Nat.mod_lt (num d 192 7 + e % num d 176 8) (show 0 < 128 by decide)
  unfold position; omega

/-- The fields that QNT, QNTG and DEQ have in common. -/
abbrev QuantCommon (t : Ty) : Prop :=
  num d 229 27 = 0 ∧ num d 202 6 = 0 ∧ num d 199 1 = 0 ∧ num d 191 1 = 0 ∧ num d 175 1 = 0 ∧ num d 96 32 = 0 ∧ num d 53 11 = 0 ∧
    num d 21 11 = 0 ∧ 1 ≤ num d 64 16 ∧ num d 64 16 ≤ 32768 ∧ (t.bits = 4 → num d 64 16 % 2 = 0)

theorem QuantCommon.even {d : BitVec 256} {t : Ty} (h : QuantCommon d t) : t.bits = 4 → num d 64 16 % 2 = 0 := by
  obtain ⟨-, -, -, -, -, -, -, -, -, -, even⟩ := h
  exact even

theorem qCommon_iff (t : Ty) : qCommon t d.toNat = true ↔ QuantCommon d t := by
  simp only [qCommon, zeroBits, bitsAt_toNat, qN_eq, Bool.and_eq_true, Bool.or_eq_true, decide_eq_true_eq, and_assoc, ne_eq,
    QuantCommon, Nat.reduceAdd, Nat.reduceSub, ← Decidable.imp_iff_not_or]

theorem qColsOk_iff : qColsOk d.toNat = true ↔ 1 ≤ num d 176 8 ∧ num d 176 8 ≤ 128 := by
  rw [qColsOk, qCols_eq, Bool.and_eq_true, decide_eq_true_eq, decide_eq_true_eq]

/-- The elements of a group. -/
abbrev quantGroup : Nat := 32 * 2 ^ num d 200 2

theorem qGroup_eq : qGroup d.toNat = quantGroup d := by rw [qGroup, qGsize_eq]

theorem qGroupOk_iff : qGroupOk d.toNat = true ↔ num d 200 2 ≠ 3 ∧ num d 64 16 % quantGroup d = 0 := by
  rw [qGroupOk, qGsize_eq, qN_eq, qGroup_eq, Bool.and_eq_true, decide_eq_true_eq, decide_eq_true_eq]

end

/-! ### What an election leaves -/

/-- The free entries of the list from the first that is written on. -/
abbrev listRoom (d : BitVec 256) : Nat := 4096 - num d 80 12

/-- The codes, the entries and the escape count after an election: `el` says who is elected, `kept` whose entry there is
room for (06 R157). -/
def ElectionGives (t : Ty) (d : BitVec 256) (el kept : Nat → Bool) (code entry : Nat → Nat) (x : Grant)
    (more : List (Nat × List Byte)) : Prop :=
  x.fctx = none ∧ x.ka = none ∧ x.clear = false ∧ x.a = none ∧ x.ecnt = some (min (countTo el (num d 64 16)) (listRoom d)) ∧
  (∃ data, x.writes = (num d 32 21, data) :: more ∧ data.length = num d 64 16 * t.bits / 8 ∧
    ∀ e < num d 64 16, codeAt t data e = code e) ∧
  (countTo kept (num d 64 16) = 0 → x.job = none) ∧
  (countTo kept (num d 64 16) ≠ 0 → ∃ data m,
    x.job = some (.entries, 4096 * (if d.getLsbD 92 then 1 else 0) + num d 80 12, data, m) ∧
    data.length = 4 * countTo kept (num d 64 16) ∧
    ∀ e < num d 64 16, kept e = true → wordAt data (countTo kept e) = entry e)

/-- The bits of MST after an election (06 R162). -/
def ElectionBits (d : BitVec 256) (x : Grant) (sat nan : Prop) (el : Nat → Bool) : Prop :=
  (x.mset.getLsbD 4 = true ↔ sat) ∧ (x.mset.getLsbD 5 = true ↔ nan) ∧
  (x.mset.getLsbD 6 = true ↔ listRoom d < countTo el (num d 64 16)) ∧ x.mset &&& ~~~0x70 = 0

/-- One element after an election. -/
def electOut (kept : Nat → Bool) (code entry : Nat → Nat) (sat nan : Nat → Prop) [∀ e, Decidable (sat e)] [∀ e, Decidable (nan e)]
    (e : Nat) : QOut := ⟨code e, if kept e then some (entry e) else none, electBits (sat e) (nan e)⟩

section
variable {t : Ty} {d : BitVec 256} {el kept : Nat → Bool} {code entry : Nat → Nat} {sat nan : Nat → Prop}
  [∀ e, Decidable (sat e)] [∀ e, Decidable (nan e)] {more : List (Nat × List Byte)} {init words : Nat}

theorem qFinish_gives (ht : t.bits = 4 ∨ t.bits = 8) (common : QuantCommon d t) (hcode : ∀ e < num d 64 16, code e < 2 ^ t.bits)
    (small : ∀ e < num d 64 16, kept e = true → entry e < 2 ^ 32) :
    ElectionGives t d el kept code entry
      (qFinish t d.toNat (countTo el (num d 64 16)) ((List.range (num d 64 16)).map (electOut kept code entry sat nan))
        more init words) more := by
  have even : t.bits = 4 → num d 64 16 % 2 = 0 := common.even
  have codes : ((List.range (num d 64 16)).map (electOut kept code entry sat nan)).map QOut.code =
      (List.range (num d 64 16)).map code := List.map_map
  have entries : ((List.range (num d 64 16)).map (electOut kept code entry sat nan)).filterMap QOut.entry =
      ((List.range (num d 64 16)).filter kept).map entry := by
    rw [List.filterMap_map, ← filterMap_kept]; rfl
  obtain ⟨length, read⟩ := codeAt_packCodes ht even hcode
  have count : (((List.range (num d 64 16)).filter kept).map entry).length = countTo kept (num d 64 16) := List.length_map _
  refine ⟨rfl, rfl, rfl, rfl, ?_, ⟨packCodes t ((List.range (num d 64 16)).map code), ?_, length, read⟩, fun none => ?_, fun some => ?_⟩
  · simp only [qFinish, qStart_eq]
  · simp only [qFinish, qDst_eq, codes]
  · have empty := List.eq_nil_of_length_eq_zero (count.trans none)
    simp only [qFinish, entries, empty, List.isEmpty_nil, if_true]
  · have full : (((List.range (num d 64 16)).filter kept).map entry).isEmpty = false := by
      rw [List.isEmpty_eq_false_iff, ← List.length_pos_iff, count]
      exact Nat.pos_of_ne_zero some
    refine ⟨((List.range (num d 64 16)).filter kept |>.map entry).flatMap (natToBytes 4),
      ceilDiv (((List.range (num d 64 16)).filter kept).map entry).length 64, ?_, ?_, fun e he hk => ?_⟩
    · simp only [qFinish, entries, full, Bool.false_eq_true, if_false, qList_eq, qStart_eq]
    · rw [length_flatMap_const (length_natToBytes 4), count]
    · refine wordAt_flatMap ?_ (small e he hk)
      rw [List.getElem?_map, getElem?_filter_countTo he hk, Option.map_some]

/-- The bits of MST, by number. -/
theorem qFinish_getLsbD (n i : Nat) (hi : i < 64) :
    (qFinish t d.toNat n ((List.range (num d 64 16)).map (electOut kept code entry sat nan)) more init words).mset.getLsbD i = true ↔
      init.testBit i = true ∨ ((∃ e < num d 64 16, sat e) ∧ i = 4) ∨ ((∃ e < num d 64 16, nan e) ∧ i = 5) ∨
        (listRoom d < n ∧ i = 6) := by
  have six : Nat.testBit 64 i = decide (i = 6) := by
    rw [show 64 = 2 ^ 6 from rfl, Nat.testBit_two_pow]; exact decide_eq_decide.2 eq_comm
  have out : ((List.range (num d 64 16)).map (electOut kept code entry sat nan)).any (fun o => o.bits.testBit i) = true ↔
      ((∃ e < num d 64 16, sat e) ∧ i = 4) ∨ ((∃ e < num d 64 16, nan e) ∧ i = 5) := by
    simp only [List.any_map, List.any_eq_true, List.mem_range, Function.comp_apply, electOut, testBit_electBits, Bool.or_eq_true,
      decide_eq_true_eq]
    constructor
    · rintro ⟨e, he, bit⟩
      exact bit.imp (fun h => ⟨⟨e, he, h.1⟩, h.2⟩) fun h => ⟨⟨e, he, h.1⟩, h.2⟩
    · rintro (⟨⟨e, he, h⟩, rfl⟩ | ⟨⟨e, he, h⟩, rfl⟩)
      · exact ⟨e, he, .inl ⟨h, rfl⟩⟩
      · exact ⟨e, he, .inr ⟨h, rfl⟩⟩
  have full : (if listRoom d < n then 64 else 0).testBit i = true ↔ listRoom d < n ∧ i = 6 := by
    split <;> simp [*]
  simp only [qFinish, qStart_eq, BitVec.getLsbD_ofNat, hi, decide_true, Bool.true_and, Nat.testBit_or, testBit_foldl_or,
    Bool.or_eq_true, out, full, or_assoc]

theorem qFinish_bits {start : Prop} [Decidable start] :
    ElectionBits d
      (qFinish t d.toNat (countTo el (num d 64 16)) ((List.range (num d 64 16)).map (electOut kept code entry sat nan))
        more (if start then 16 else 0) words)
      (start ∨ ∃ e < num d 64 16, sat e) (∃ e < num d 64 16, nan e) el := by
  have bit := qFinish_getLsbD (t := t) (d := d) (kept := kept) (code := code) (entry := entry) (sat := sat) (nan := nan)
    (more := more) (init := if start then 16 else 0) (words := words) (countTo el (num d 64 16))
  have four (i : Nat) : (if start then 16 else 0).testBit i = true ↔ start ∧ i = 4 := by
    by_cases h : start
    · rw [if_pos h, show 16 = 2 ^ 4 from rfl, Nat.testBit_two_pow, decide_eq_true_eq, eq_comm, and_iff_right h]
    · simp [h]
  simp only [four] at bit
  refine ⟨?_, ?_, ?_, ?_⟩
  · rw [bit 4 (by decide)]; simp only [and_true, show (4 : Nat) ≠ 5 by decide, show (4 : Nat) ≠ 6 by decide, and_false, or_false]
  · rw [bit 5 (by decide)]; simp only [and_true, show (5 : Nat) ≠ 4 by decide, show (5 : Nat) ≠ 6 by decide, and_false, or_false, false_or]
  · rw [bit 6 (by decide)]; simp only [and_true, show (6 : Nat) ≠ 4 by decide, show (6 : Nat) ≠ 5 by decide, and_false, false_or]
  · refine BitVec.eq_of_getLsbD_eq fun i hi => ?_
    rw [BitVec.getLsbD_and]
    refine Eq.trans (Bool.and_eq_false_imp.2 ?_) BitVec.getLsbD_zero.symm
    intro set
    have place : i = 4 ∨ i = 5 ∨ i = 6 := by
      rcases (bit i hi).1 set with ⟨-, h⟩ | ⟨-, h⟩ | ⟨-, h⟩ | ⟨-, h⟩ <;> omega
    rcases place with rfl | rfl | rfl <;> rfl

end

end Sys2Proof.Machine
end

section
/-! SUPPORT. The read phase of QNT (06 R157, R158, R162). -/

namespace Sys2Proof.Machine

/-! ### Quotients and codes -/

/-- A number beyond a symmetric range is clamped to its end. -/
theorem clampInt_beyond {b c : Int} (pos : 0 < b) (h : b < c) (neg : Bool) :
    clampInt (-b) b (if neg then -c else c) = if neg then -b else b := by
  cases neg
  · rw [if_neg Bool.false_ne_true, if_neg Bool.false_ne_true, clampInt, if_neg (by omega), if_pos h]
  · rw [if_pos rfl, if_pos rfl, clampInt, if_pos (by omega)]

/-- A product rounded by QNT is the one that the statements name. -/
theorem quantValue_eq (inv x : FV) (z : Int) : (qScaled inv x).map (· + z) = quantValue inv z x := by
  unfold qScaled quantValue
  generalize (FV.mul x inv).1 = p
  cases p with
  | nan s => rfl
  | inf neg =>
    have clamp := clampInt_beyond (b := 2 ^ 31) (c := 2 ^ 400) (by decide) (pow_lt_pow_right₀ (by decide) (by decide)) neg
    simp only [FV.isNaN, Bool.false_eq_true, if_false, Option.map_some, nearestInt, clamp]
  | fin neg m e => simp [FV.isNaN, nearestInt, roundInt_eq_shiftRound]

/-- The least code (06 R157). -/
def leastCode (t : Ty) (d : BitVec 256) : Int := if d.getLsbD 94 then -t.hi else t.lo

theorem qLo_eq (t : Ty) (d : BitVec 256) : qLo t d.toNat = leastCode t d := rfl

/-- A code clamped to its range, in its bits. -/
def clampedCode (t : Ty) (d : BitVec 256) (r : Int) : Nat := (BitVec.ofInt t.bits (clampInt (leastCode t d) t.hi r)).toNat

theorem clampedCode_lt (t : Ty) (d : BitVec 256) (r : Int) : clampedCode t d r < 2 ^ t.bits := BitVec.isLt _

theorem qCode_eq (t : Ty) (d : BitVec 256) (r : Int) :
    qCode t d.toNat r = ⟨clampedCode t d r, none, electBits (clampInt (leastCode t d) t.hi r ≠ r) False⟩ := by
  rw [qCode, qLo_eq, clampedCode, ← wrapNat_eq_toNat]
  by_cases h : clampInt (leastCode t d) t.hi r = r <;> simp [h, electBits]

/-- Does QNT elect an element with this code (06 R158)? -/
def qntElects (t : Ty) (d : BitVec 256) (q : Option Int) : Bool :=
  let lim : Int := if num d 168 7 = 0 then t.hi else num d 168 7
  d.getLsbD 94 && match q with
    | some q => decide (q < -lim) || decide (lim < q)
    | none => false

theorem qntElected_eq (t : Ty) (d : BitVec 256) (q : Option Int) : qntElected t d.toNat q = qntElects t d q := by
  cases q with
  | none => exact (Bool.and_false _).symm
  | some q => simp only [qntElected, qntElects, qLim_eq, qEsc_eq]

/-- The codes stored, the escape code for a kept element. -/
def quantCode (t : Ty) (d : BitVec 256) (kept : Nat → Bool) (r : Nat → Int) (e : Nat) : Nat :=
  if kept e then 2 ^ (t.bits - 1) else clampedCode t d (r e)

theorem quantCode_lt {t : Ty} (ht : t.bits = 4 ∨ t.bits = 8) (d : BitVec 256) (kept : Nat → Bool) (r : Nat → Int) (e : Nat) :
    quantCode t d kept r e < 2 ^ t.bits := by
  rw [quantCode]
  split
  · exact Nat.pow_lt_pow_right (by decide) (by omega)
  · exact clampedCode_lt t d (r e)

/-- The value of an entry that a kept element leaves. -/
def quantEntry (d : BitVec 256) (r : Int) (e : Nat) : Nat :=
  (BitVec.ofInt 16 (clampInt (-32768) 32767 r)).toNat * 2 ^ 16 + position d e

theorem quantEntry_lt (d : BitVec 256) (r : Int) (e : Nat) : quantEntry d r e < 2 ^ 32 := by
  have value := (BitVec.ofInt 16 (clampInt (-32768) 32767 r)).isLt
  have place := position_lt d e
  unfold quantEntry; omega

/-- Does a clamp change an element? -/
def quantClamps (t : Ty) (d : BitVec 256) (kept : Bool) (r : Int) : Prop :=
  if kept then clampInt (-32768) 32767 r ≠ r else clampInt (leastCode t d) t.hi r ≠ r

/-- One element of QNT. -/
theorem qntElem_eq (t : Ty) (d : BitVec 256) {kept : Bool} {q : Option Int} (e : Nat) (h : kept = true → q ≠ none)
    [Decidable (quantClamps t d kept (q.getD (t.intOf (num d 160 8))))] :
    qntElem t d.toNat kept q e = ⟨if kept then 2 ^ (t.bits - 1) else clampedCode t d (q.getD (t.intOf (num d 160 8))),
      if kept then some (quantEntry d (q.getD (t.intOf (num d 160 8))) e) else none,
      electBits (quantClamps t d kept (q.getD (t.intOf (num d 160 8)))) (q = none)⟩ := by
  cases q with
  | none =>
    obtain rfl : kept = false := Bool.eq_false_iff.2 fun k => h k rfl
    have zero : zpValue t (qZ d.toNat) = t.intOf (num d 160 8) := by rw [qZ_eq, zpValue]
    simp only [qntElem, qCode_eq, zero, Option.getD_none, Bool.false_eq_true, if_false, quantClamps, QOut.mk.injEq, true_and]
    simp [electBits]
  | some q =>
    cases kept
    · simp only [qntElem, qCode_eq, Option.getD_some, Bool.false_eq_true, if_false, quantClamps, QOut.mk.injEq, true_and]
      by_cases c : clampInt (leastCode t d) t.hi q = q <;> simp [electBits, c]
    · simp only [qntElem, Option.getD_some, if_true, quantClamps, QOut.mk.injEq, escapeCode, quantEntry, wrapNat_eq_toNat, qPos_eq,
        true_and]
      by_cases c : clampInt (-32768) 32767 q = q <;> simp [electBits, c]

/-! ### The read phase -/

/-- The source word of an element. -/
def State.quantRaw (s : State) (g : Nat) (d : BitVec 256) (e : Nat) : Nat := s.rdNat (scratchKey (g / 8) (num d 0 21 + 4 * e)) 4

/-- The source value of an element. -/
def State.quantSource (s : State) (g : Nat) (d : BitVec 256) (e : Nat) : FV := Ty.f32.value (s.quantRaw g d e)

theorem wordsIn_source (s : State) (g : Nat) (d : BitVec 256) :
    wordsIn 4 (s.rdN (scratchKey (g / 8) (num d 0 21)) (4 * num d 64 16)) = (List.range (num d 64 16)).map (s.quantRaw g d) := by
  rw [wordsIn_rdN s _ _ (by decide)]
  exact List.map_congr_left fun e _ => by rw [State.quantRaw, scratchKey_add]

/-- Is an elected element among the first that there is room for (06 R157)? -/
def keptOf (d : BitVec 256) (el : Nat → Bool) (e : Nat) : Bool := el e && decide (countTo el e < listRoom d)

/-- The checks of the record that quantising instructions have in common. -/
def State.quantTraps (s : State) (g : Nat) (a : Addr) (t : Ty) (d : BitVec 256) (fields : Bool) : List (Option Trap) :=
  s.operandTraps g a 32 8 ++ [trapIf (fields = false) (matrixDetail 0x01),
    trapIf (d.getLsbD 94 = true ∧ t.isUnsigned = true) (matrixDetail 0x03)]

theorem not_of_firstTrap_eq_none {c : Prop} [Decidable c] {t : Trap} {l : List (Option Trap)}
    (h : firstTrap (trapIf c t :: l) = none) : ¬c := by
  intro hc
  rw [trapIf_pos hc] at h
  exact Option.some_ne_none _ h

theorem zip_range_map {α : Type} (f : Nat → α) (n : Nat) :
    ((List.range n).map f).zip (List.range n) = (List.range n).map fun e => (f e, e) := by
  have both := List.zip_map' (f := f) (g := id) (l := List.range n)
  rwa [List.map_id] at both

theorem qEsc_unsigned_iff (d : BitVec 256) (t : Ty) :
    (d.getLsbD 94 = true ∧ t.isUnsigned = true) ↔ (!qEsc d.toNat || !t.isUnsigned) = false := by
  rw [qEsc_eq]; cases d.getLsbD 94 <;> cases t.isUnsigned <;> decide

theorem comes_qnt (s : State) (g : Nat) (a : Addr) (p : BitVec 3) (pm : PostMode) (pre : Prefixes) {t : Ty} {d : BitVec 256}
    (ht : pre.ty.getD .i8 = t) (hd : s.recordAt g a 32 = d) (small : t.bits = 4 ∨ t.bits = 8) {fields : Bool}
    (hf : fields = true ↔ QuantCommon d t ∧ (1 ≤ num d 176 8 ∧ num d 176 8 ≤ 128) ∧ (num d 168 7 : Int) ≤ t.hi ∧
      zeroPointOk t (d.extractLsb' 160 8) = true ∧ (Ty.f32.value (num d 128 32)).isNaN = false ∧
      (Ty.f32.value (num d 128 32)).isInf = false)
    {q : Nat → Option Int} (hq : ∀ e, q e = quantValue (Ty.f32.value (num d 128 32)) (t.intOf (num d 160 8)) (s.quantSource g d e))
    {el : Nat → Bool} (hel : ∀ e, el e = qntElects t d (q e)) :
    Comes (s.quantTraps g a t d fields ++ (spanTraps (num d 0 21) (4 * num d 64 16) ++
        (spanTraps (num d 32 21) (num d 64 16 * t.bits / 8) ++ [s.poisonTrap g (num d 0 21) (4 * num d 64 16),
          trapIf (listRoom d < countTo el (num d 64 16) ∧ d.getLsbD 93 = false) (matrixDetail 0x07)])))
      (grantOf s g a (.qnt p pm pre)) fun x =>
        ElectionGives t d el (keptOf d el)
          (quantCode t d (keptOf d el) fun e => (q e).getD (t.intOf (num d 160 8)))
          (fun e => quantEntry d ((q e).getD (t.intOf (num d 160 8))) e) x [] ∧
        ElectionBits d x (∃ e < num d 64 16, quantClamps t d (keptOf d el e) ((q e).getD (t.intOf (num d 160 8))))
          (∃ e < num d 64 16, q e = none) el := by
  have hrec : bytesToNat (s.rdN (scratchKey (g / 8) (ownOff a)) 32) = d.toNat := by
    rw [← hd, toNat_recordAt, State.rdNat]
  have kept_ne_none (e : Nat) : keptOf d el e = true → q e ≠ none := by
    intro kept no
    rw [keptOf, hel, no] at kept
    simp [qntElects] at kept
  rw [grantOf, ht, grantQnt, s.operand_eq g a (by decide), State.quantTraps, List.append_assoc]
  cases h1 : firstTrap (s.operandTraps g a 32 8) with
  | some t => exact comes_of_some h1 rfl
  | none =>
    refine comes_of_none h1 ?_
    have record : fields = false ↔ (qCommon t d.toNat && qColsOk d.toNat && decide ((qLim d.toNat : Int) ≤ t.hi) &&
        zpEncoded t (qZ d.toNat) && !(f32 (qInv d.toNat)).isNaN && !(f32 (qInv d.toNat)).isInf) = false := by
      rw [← Bool.not_eq_true, ← Bool.not_eq_true, not_iff_not, hf]
      simp only [Bool.and_eq_true, qCommon_iff, qColsOk_iff, decide_eq_true_eq, qLim_eq, qZ_eq, ← zeroPointOk_eq, qInv_eq, f32,
        Bool.not_eq_true', and_assoc]
    simp only [stopOr, hrec, spanOk_eq]
    rw [require_of_iff record, require_of_iff (qEsc_unsigned_iff d t)]
    simp only [qSrc_eq, qDst_eq, qN_eq, qCodeBytes, qStart_eq, qClamp_eq, qInv_eq, s.readSpan_eq]
    generalize hr : firstFailure _ = r
    obtain rfl : r = stopOr (firstTrap _) () := hr.symm.trans (firstFailure_eq [[_], [_], spanTraps _ _, spanTraps _ _])
    cases h2 : firstTrap _ with
    | some t => exact comes_of_some (m := [_, _]) h2 rfl
    | none =>
      refine comes_of_none (m := [_, _]) h2 ?_
      cases h3 : firstTrap [s.poisonTrap g (num d 0 21) (4 * num d 64 16)] with
      | some t => exact comes_of_some (l := [_]) h3 rfl
      | none =>
        refine comes_of_none (l := [_]) h3 ?_
        simp only [stopOr]
        have quotients : (wordsIn 4 (s.rdN (scratchKey (g / 8) (num d 0 21)) (4 * num d 64 16))).map (fun x =>
            (qScaled (f32 (num d 128 32)) (f32 x)).map (· + zpValue t (qZ d.toNat))) = (List.range (num d 64 16)).map q := by
          rw [wordsIn_source, List.map_map]
          refine List.map_congr_left fun e _ => ?_
          rw [hq, Function.comp_apply, quantValue_eq, zpValue, qZ_eq]
          rfl
        have electees : ((List.range (num d 64 16)).map q).map (qntElected t d.toNat) = (List.range (num d 64 16)).map el := by
          rw [List.map_map]
          exact List.map_congr_left fun e _ => by rw [hel, Function.comp_apply, qntElected_eq]
        rw [quotients, electees, keepFirst_map_range, length_filter_map_range]
        have zipped : (((List.range (num d 64 16)).map q).zip ((List.range (num d 64 16)).map (keptOf d el))).zip
            (List.range (num d 64 16)) = (List.range (num d 64 16)).map fun e => ((q e, keptOf d el e), e) := by
          rw [List.zip_map', zip_range_map]
        obtain ⟨common, -⟩ := hf.1 (Bool.of_not_eq_false (not_of_firstTrap_eq_none h2))
        classical
        have kept : (fun e => el e && decide (countTo el e < 4096 - num d 80 12)) = keptOf d el := rfl
        have elements : ((List.range (num d 64 16)).map fun e => ((q e, keptOf d el e), e)).map (fun p =>
            qntElem t d.toNat p.1.2 p.1.1 p.2) = (List.range (num d 64 16)).map (electOut (keptOf d el)
              (quantCode t d (keptOf d el) fun e => (q e).getD (t.intOf (num d 160 8)))
              (fun e => quantEntry d ((q e).getD (t.intOf (num d 160 8))) e)
              (fun e => quantClamps t d (keptOf d el e) ((q e).getD (t.intOf (num d 160 8)))) fun e => q e = none) := by
          rw [List.map_map]
          exact List.map_congr_left fun e _ => qntElem_eq t d e (kept_ne_none e)
        refine comes_check (by rw [Bool.not_eq_true']) fun _ => comes_nil rfl ?_
        rw [kept, zipped, elements]
        refine ⟨qFinish_gives small common (fun e _ => quantCode_lt small _ _ _ e) fun e _ _ => quantEntry_lt d _ e, ?_⟩
        rw [← false_or (∃ e < num d 64 16, quantClamps t d _ _)]
        exact qFinish_bits (start := False)

end Sys2Proof.Machine
end

section
/-! SUPPORT. What the drains store, as the statements name it (06 R155, R156). -/

namespace Sys2Proof.Machine

section
variable (s : State) (g : Nat) (c : BitVec 256)

/-- The entry of the drain table as a word of 64 bits. -/
def State.drainWord (e : Nat) : Option Word64 := (s.drainEntry g c e).map (BitVec.ofNat 64)

theorem State.drainWord_eq (e : Nat) : s.drainWord g c e = if c.getLsbD 15 then
    some (BitVec.ofNat 64 (s.rdNat (scratchKey (g / 8) (num c 128 21 + 8 * (e % 128))) 8)) else none := by
  rw [State.drainWord, State.drainEntry]
  split <;> rfl

/-- An element of MDRAIN before it is clamped. -/
def State.drainNumber (md : RMode) (e : Nat) : Int := drainValue md (s.drainWord g c e) (Tab.get 0 (s.core g).acc e)

/-- An element of MDRAINF before it is rounded, with its entry of the drain table (06 R156). -/
def drainFloatValue (integer : Bool) (w : Option Word64) (acc : Word32) : FV :=
  let y := if integer then FV.ofInt acc.toInt else Ty.f32.value acc.toNat
  match w with
  | some d => (FV.mul y (Ty.f32.value (d.toNat % 2 ^ 32))).1
  | none => y

/-- The elements of MDRAINF before they are rounded. -/
def State.drainReal (e : Nat) : FV :=
  drainFloatValue (decide (c.extractLsb' 8 2 = 0)) (s.drainWord g c e) (Tab.get 0 (s.core g).acc e)

variable (t : Ty) (md : RMode) (sat : Bool) (e : Nat)

theorem State.drained_int : s.drained g c false t md sat e = t.narrowInt sat (s.drainNumber g c md e) := by
  rw [State.drained, if_neg Bool.false_ne_true, drainInt_eq]; rfl

theorem State.drained_float : s.drained g c true t md sat e = (((s.drainReal g c e).round t md sat).1,
    sat && !(s.drainReal g c e).isNaN && decide (((s.drainReal g c e).round t md false).1 % 2 ^ (t.bits - 1) = t.infinity)) := by
  have real : (match s.drainEntry g c e with
      | some w => (FV.mul (if decide (c.extractLsb' 8 2 = 0) = true then FV.ofInt (i32 (Tab.get 0 (s.core g).acc e).toNat)
          else f32 (Tab.get 0 (s.core g).acc e).toNat) (f32 (w % 2 ^ 32))).1
      | none => if decide (c.extractLsb' 8 2 = 0) = true then FV.ofInt (i32 (Tab.get 0 (s.core g).acc e).toNat)
          else f32 (Tab.get 0 (s.core g).acc e).toNat) = s.drainReal g c e := by
    rw [State.drainReal, State.drainWord, i32_toNat]
    unfold drainFloatValue
    cases s.drainEntry g c e with
    | none => rfl
    | some w =>
      have low : (BitVec.ofNat 64 w).toNat % 2 ^ 32 = w % 2 ^ 32 := by rw [BitVec.toNat_ofNat]; omega
      simp only [Option.map_some, low]
      rfl
  rw [State.drained, if_pos rfl]
  exact congrArg (fun y : FV => ((y.round t md sat).1,
    sat && !y.isNaN && decide ((y.round t md false).1 % 2 ^ (t.bits - 1) = t.infinity))) real

end

section
variable (s : State) (g : Nat) (a : Addr) (p : BitVec 3) (pm : PostMode) (pre : Prefixes) {t : Ty} {c : BitVec 256}

theorem mset_drain {l : Nat → Bool} {x : Grant} (h : x.mset = if (List.range 4096).any l then 8 else 0) :
    ((∃ e < 4096, l e = true) → x.mset = 8) ∧ ((∀ e < 4096, ¬l e = true) → x.mset = 0) := by
  have any : (List.range 4096).any l = true ↔ ∃ e < 4096, l e = true := by simp only [List.any_eq_true, List.mem_range]
  rw [h]
  refine ⟨fun some => if_pos (any.2 some), fun none => if_neg fun some => ?_⟩
  obtain ⟨e, he, lost⟩ := any.1 some
  exact none e he lost

theorem comes_mdrain (ht : pre.ty.getD .i32 = t) (narrow : t ∈ [Ty.i8, .ui8, .i16, .i32]) (hc : (s.core g).fctx = c)
    {v w : Nat → Int} (hv : ∀ e, v e = s.drainNumber g c (rndMode pre.rnd) e)
    (hw : ∀ e, w e = if pre.sat then clampInt t.lo t.hi (v e) else v e) :
    Comes (pointerTraps a (4096 * t.size) 4 ++
        ([trapIf (decide (c.extractLsb' 8 2 = 0) = false) (matrixDetail 0x05)] ++ s.drainTable g c))
      (grantOf s g a (.mdrain p pm pre)) fun x =>
        x.fctx = none ∧ x.ka = none ∧ x.ecnt = none ∧ x.clear = false ∧ x.a = none ∧ x.job = none ∧
        x.writes = [(ownOff a, (List.range 4096).flatMap fun e => natToBytes t.size (BitVec.ofInt 64 (w e)).toNat)] ∧
        ((∃ e < 4096, w e ≠ v e) → x.mset = 8) ∧ ((∀ e < 4096, w e = v e) → x.mset = 0) := by
  have clamped (e : Nat) : (s.drained g c false t (rndMode pre.rnd) pre.sat e).2 = true ↔ w e ≠ v e := by
    rw [State.drained_int, narrowInt_clamps_iff, hw, hv]
  have bytes (e : Nat) : natToBytes t.size (s.drained g c false t (rndMode pre.rnd) pre.sat e).1 =
      natToBytes t.size (BitVec.ofInt 64 (w e)).toNat := by
    rw [State.drained_int, natToBytes_narrowInt narrow, hw, hv]
  subst ht
  refine (comes_drain s g a false _ _ pre.sat hc).imp fun _ x => ?_
  rintro ⟨hfctx, hka, hecnt, hclear, ha, hjob, hwrites, hmset⟩
  refine ⟨hfctx, hka, hecnt, hclear, ha, hjob, ?_, ?_⟩
  · simp only [hwrites, bytes]
  · simpa only [clamped, not_not] using mset_drain hmset

theorem comes_mdrainf (ht : pre.ty.getD .f32 = t) (hc : (s.core g).fctx = c) {v : Nat → FV} (hv : ∀ e, v e = s.drainReal g c e) :
    Comes (pointerTraps a (4096 * t.size) 4 ++ s.drainTable g c) (grantOf s g a (.mdrainf p pm pre)) fun x =>
      x.fctx = none ∧ x.ka = none ∧ x.ecnt = none ∧ x.clear = false ∧ x.a = none ∧ x.job = none ∧
      x.writes = [(ownOff a, (List.range 4096).flatMap fun e => natToBytes t.size ((v e).round t (rndMode pre.rnd) pre.sat).1)] ∧
      ((∃ e < 4096, pre.sat = true ∧ (v e).isNaN = false ∧
        ((v e).round t (rndMode pre.rnd) false).1 % 2 ^ (t.bits - 1) = t.infinity) → x.mset = 8) ∧
      ((∀ e < 4096, ¬(pre.sat = true ∧ (v e).isNaN = false ∧
        ((v e).round t (rndMode pre.rnd) false).1 % 2 ^ (t.bits - 1) = t.infinity)) → x.mset = 0) := by
  have lost (e : Nat) : (s.drained g c true t (rndMode pre.rnd) pre.sat e).2 = true ↔ pre.sat = true ∧ (v e).isNaN = false ∧
      ((v e).round t (rndMode pre.rnd) false).1 % 2 ^ (t.bits - 1) = t.infinity := by
    rw [State.drained_float, hv, Bool.and_eq_true, Bool.and_eq_true, Bool.not_eq_true', decide_eq_true_eq, and_assoc]
  have bytes (e : Nat) : (s.drained g c true t (rndMode pre.rnd) pre.sat e).1 = ((v e).round t (rndMode pre.rnd) pre.sat).1 := by
    rw [State.drained_float, hv]
  subst ht
  refine (comes_drain s g a true _ _ pre.sat hc).imp fun _ x => ?_
  rintro ⟨hfctx, hka, hecnt, hclear, ha, hjob, hwrites, hmset⟩
  refine ⟨hfctx, hka, hecnt, hclear, ha, hjob, ?_, ?_⟩
  · simp only [hwrites, bytes]
  · simpa only [lost] using mset_drain hmset

end

end Sys2Proof.Machine
end

section
/-! SUPPORT. The read phase of QNTG (06 R157, R159, R162). -/

namespace Sys2Proof.Machine

/-! ### Patterns -/

theorem signed_f16_lt {mag : Nat} (h : mag < 2 ^ 15) (neg : Bool) : Ty.f16.signed neg mag < 2 ^ 16 := by
  rw [Ty.signed]
  split
  · exact Nat.add_lt_add_right h (2 ^ 15)
  · omega

theorem roundFin_f16_lt (md : RMode) (sat neg : Bool) (m : Nat) (e : Int) : (roundFin .f16 md sat neg m e).1 < 2 ^ 16 := by
  have overflow : overflowPattern .f16 md sat neg < 2 ^ 16 := by
    have either (big : Bool) : (if big then Ty.f16.signed neg Ty.f16.infinity else Ty.f16.signed neg Ty.f16.maxFinite) < 2 ^ 16 := by
      cases big
      · exact signed_f16_lt (by decide) neg
      · exact signed_f16_lt (by decide) neg
    exact either _
  have pattern (mag : Nat) (large small : FFlags) : (if mag > Ty.f16.maxFinite then (overflowPattern .f16 md sat neg, large)
      else (Ty.f16.signed neg mag, small)).1 < 2 ^ 16 := by
    split
    · exact overflow
    · next fits => exact signed_f16_lt (lt_of_le_of_lt (not_lt.1 fits) (by decide)) neg
  unfold roundFin
  split
  · exact signed_f16_lt (by decide) neg
  · exact pattern _ _ _

/-- A value rounded to f16 is a pattern of 16 bits. -/
theorem round_f16_lt (v : FV) (md : RMode) (sat : Bool) : (v.round .f16 md sat).1 < 2 ^ 16 := by
  cases v with
  | nan sg => exact (by decide : Ty.f16.canonicalNaN < 2 ^ 16)
  | inf neg =>
    rw [FV.round]
    split
    · exact signed_f16_lt (by decide) neg
    · exact signed_f16_lt (by decide) neg
  | fin neg m e => exact roundFin_f16_lt md sat neg m e

theorem bitsAt_mod {lo w n : Nat} (h : lo + w ≤ n) (x : Nat) : bitsAt lo w (x % 2 ^ n) = bitsAt lo w x := by
  refine Nat.eq_of_testBit_eq fun i => ?_
  simp only [bitsAt, Nat.testBit_mod_two_pow, Nat.testBit_div_two_pow]
  by_cases hi : i < w
  · simp [hi, show i + lo < n by omega]
  · simp [hi]

/-- The sign of a pattern does not say whether it is a NaN. -/
theorem isNaN_magnitude (x : Nat) : (Ty.f32.value (x % 2 ^ 31)).isNaN = (Ty.f32.value x).isNaN := by
  have e : bitsAt Ty.f32.fracBits Ty.f32.expBits (x % 2 ^ 31) = bitsAt Ty.f32.fracBits Ty.f32.expBits x := bitsAt_mod (by decide) x
  have f : bitsAt 0 Ty.f32.fracBits (x % 2 ^ 31) = bitsAt 0 Ty.f32.fracBits x := bitsAt_mod (by decide) x
  simp only [Ty.value, e, f]
  split_ifs <;> rfl

theorem compare_of_isNaN {x y : FV} (h : x.isNaN = true) : FV.compare x y = none := by
  obtain ⟨sg, rfl⟩ := FV.exists_eq_nan h
  cases y <;> rfl

/-- A rounded quotient of QNTG is the one that the statements name. -/
theorem bigInt_eq (v : FV) : bigInt v = nearestInt v := by
  cases v with
  | fin neg m e => exact roundInt_eq_shiftRound .nearest neg m e
  | nan sg | inf neg => rfl

/-! ### Clamps -/

theorem leastCode_le {t : Ty} (ht : t ∈ [Ty.i4, .ui4, .i8, .ui8]) (d : BitVec 256) : leastCode t d ≤ t.hi := by
  have both : -t.hi ≤ t.hi ∧ t.lo ≤ t.hi := by fin_cases ht <;> decide
  rw [leastCode]
  split
  · exact both.1
  · exact both.2

theorem clampInt_clampInt {lo hi : Int} (h : lo ≤ hi) (x : Int) : clampInt lo hi (clampInt lo hi x) = clampInt lo hi x := by
  unfold clampInt
  split_ifs <;> omega

/-! ### Groups by number -/

theorem flatMap_blocks {α : Type} (f : Nat → α) (c n : Nat) :
    ((List.range n).flatMap fun j => (List.range c).map fun i => f (c * j + i)) = (List.range (c * n)).map f := by
  induction n with
  | zero => rfl
  | succ n ih =>
    rw [List.range_succ, List.flatMap_append, ih, Nat.mul_succ, List.range_add, List.map_append, List.map_map]
    simp [Function.comp_def]

theorem quantGroup_pos (d : BitVec 256) : 0 < quantGroup d := by positivity

theorem qntgAll_map (t : Ty) (d : BitVec 256) (blk : Nat → List (Nat × Bool)) (e0 n : Nat) :
    qntgAll t d.toNat e0 ((List.range n).map blk) =
      (List.range n).map fun j => qntgGroup t d.toNat (e0 + quantGroup d * j) (blk j) := by
  induction n generalizing e0 blk with
  | zero => rfl
  | succ n ih =>
    rw [List.range_succ_eq_map, List.map_cons, List.map_map, List.map_cons, List.map_map, qntgAll, qGroup_eq]
    have rest := ih (fun j => blk (j + 1)) (e0 + quantGroup d)
    refine congrArg₂ List.cons rfl (rest.trans (List.map_congr_left fun j _ => ?_))
    rw [Function.comp_apply, Nat.mul_succ, Nat.add_assoc, Nat.add_comm (quantGroup d)]

section
variable (t : Ty) (d : BitVec 256) (x : Nat → FV) (kept : Nat → Bool)

/-- The values of a group that stay in it. -/
def groupRest (m : Nat) : List FV :=
  (((List.range (quantGroup d)).map (quantGroup d * m + ·)).filter fun e => !kept e).map fun e =>
    if (x e).isNaN then .fin false 0 0 else x e

/-- The range of a group over its codes, as an f16 pattern. -/
def groupQuotient (m : Nat) : Nat :=
  ((FV.div (FV.add .nearest (greatestOf (groupRest d x kept m)) (leastOf (groupRest d x kept m)).negate).1
    (FV.ofInt (t.hi - leastCode t d))).round .f16 .nearest false).1

/-- The scale of a group. -/
def groupScale (m : Nat) : Nat :=
  if groupQuotient t d x kept m % 2 ^ 15 = 0 then 0x3C00
  else if groupQuotient t d x kept m = 0x7C00 then 0x7BFF else groupQuotient t d x kept m

/-- The zero point of a group. -/
def groupZero (m : Nat) : Int :=
  clampInt (leastCode t d) t.hi (leastCode t d -
    nearestInt (FV.div (leastOf (groupRest d x kept m)) (Ty.f16.value (groupScale t d x kept m))))

/-- A code of QNTG before its clamp. -/
def groupCode (e : Nat) : Int :=
  if (x e).isNaN then groupZero t d x kept (e / quantGroup d)
  else nearestInt (FV.div (x e) (Ty.f16.value (groupScale t d x kept (e / quantGroup d)))) +
    groupZero t d x kept (e / quantGroup d)

/-- An entry that QNTG leaves. -/
def groupEntry (e : Nat) : Nat := ((x e).round .f16 .nearest false).1 * 2 ^ 16 + position d e

/-- Is an element of QNTG changed by its conversion? -/
def groupClamps (e : Nat) : Prop :=
  if kept e then ((x e).round .f16 .nearest false).2.fo = true
  else clampInt (leastCode t d) t.hi (groupCode t d x kept e) ≠ groupCode t d x kept e

theorem groupEntry_lt (e : Nat) : groupEntry d x e < 2 ^ 32 := by
  have value := round_f16_lt (x e) .nearest false
  have place := position_lt d e
  unfold groupEntry; omega

theorem qntgScale_eq (m : Nat) : qntgScale t d.toNat (leastOf (groupRest d x kept m)) (greatestOf (groupRest d x kept m)) =
    (groupScale t d x kept m, if groupQuotient t d x kept m = 0x7C00 then 16 else 0) := by
  have quotient : ((FV.div (FV.add .nearest (greatestOf (groupRest d x kept m)) (leastOf (groupRest d x kept m)).negate).1
      (FV.ofInt (t.hi - qLo t d.toNat))).round .f16 .nearest false).1 = groupQuotient t d x kept m := rfl
  rw [qntgScale, quotient, groupScale, show Ty.f16.infinity = 0x7C00 from rfl]
  generalize groupQuotient t d x kept m = s
  by_cases zero : s % 2 ^ 15 = 0
  · rw [if_pos zero, if_pos zero, if_neg (by rintro rfl; exact absurd zero (by decide))]
  · rw [if_neg zero, if_neg zero]
    by_cases top : s = 0x7C00
    · rw [if_pos top, if_pos top, if_pos top]
    · rw [if_neg top, if_neg top, if_neg top]

/-- One element of a group. -/
theorem qntgElem_eq (order : leastCode t d ≤ t.hi) {raw e : Nat} (hx : x e = f32 raw) (number : kept e = true → (x e).isNaN = false)
    [Decidable (groupClamps t d x kept e)] :
    (if kept e then ⟨escapeCode t, some (((f32 raw).round .f16 .nearest false).1 * 2 ^ 16 + qPos d.toNat e),
        if ((f32 raw).round .f16 .nearest false).2.fo then 16 else 0⟩
      else if (f32 raw).isNaN then ⟨wrapNat t.bits (groupZero t d x kept (e / quantGroup d)), none, 32⟩
      else qCode t d.toNat (bigInt (FV.div (f32 raw) (Ty.f16.value (groupScale t d x kept (e / quantGroup d)))) +
        groupZero t d x kept (e / quantGroup d))) =
    (⟨quantCode t d kept (groupCode t d x kept) e, if kept e then some (groupEntry d x e) else none,
      electBits (groupClamps t d x kept e) ((x e).isNaN = true)⟩ : QOut) := by
  rw [← hx]
  by_cases k : kept e = true
  · simp only [k, if_true, quantCode, groupEntry, groupClamps, electBits, number k, Bool.false_eq_true, if_false, qPos_eq,
      escapeCode, Nat.or_zero]
  · by_cases nan : (x e).isNaN = true
    · have code : groupCode t d x kept e = groupZero t d x kept (e / quantGroup d) := if_pos nan
      have same : clampInt (leastCode t d) t.hi (groupZero t d x kept (e / quantGroup d)) =
          groupZero t d x kept (e / quantGroup d) := clampInt_clampInt order _
      simp [k, nan, quantCode, groupClamps, electBits, code, same, clampedCode, wrapNat_eq_toNat]
    · have code : groupCode t d x kept e = _ := if_neg nan
      simp [k, nan, quantCode, groupClamps, electBits, code, qCode_eq, bigInt_eq]

/-- One group of QNTG: its word, its elements and whether its scale saturates. -/
theorem qntgGroup_eq (order : leastCode t d ≤ t.hi) {raw : Nat → Nat} (hx : ∀ e, x e = f32 (raw e))
    (number : ∀ e, kept e = true → (x e).isNaN = false) [∀ e, Decidable (groupClamps t d x kept e)] (m : Nat) :
    qntgGroup t d.toNat (quantGroup d * m)
        ((List.range (quantGroup d)).map fun i => (raw (quantGroup d * m + i), kept (quantGroup d * m + i))) =
      ((BitVec.ofInt 8 (groupZero t d x kept m)).toNat * 2 ^ 16 + groupScale t d x kept m,
        (List.range (quantGroup d)).map fun i => electOut kept (quantCode t d kept (groupCode t d x kept)) (groupEntry d x)
          (groupClamps t d x kept) (fun e => (x e).isNaN = true) (quantGroup d * m + i),
        if groupQuotient t d x kept m = 0x7C00 then 16 else 0) := by
  have free : (((List.range (quantGroup d)).map fun i => (raw (quantGroup d * m + i), kept (quantGroup d * m + i))).filter
      fun p => !p.2).map (fun p => if (f32 p.1).isNaN then fvZero else f32 p.1) = groupRest d x kept m := by
    simp only [groupRest, List.filter_map, List.map_map, Function.comp_def, hx]
    rfl
  have least : (groupRest d x kept m).foldl (fun l x => if FV.compare x l = some (-1) then x else l) fvZero =
      leastOf (groupRest d x kept m) := rfl
  have greatest : (groupRest d x kept m).foldl (fun l x => if FV.compare x l = some 1 then x else l) fvZero =
      greatestOf (groupRest d x kept m) := rfl
  have zero : clampInt (leastCode t d) t.hi (leastCode t d -
      nearestInt (FV.div (leastOf (groupRest d x kept m)) (Ty.f16.value (groupScale t d x kept m)))) =
        groupZero t d x kept m := rfl
  simp only [qntgGroup, free, least, greatest, qntgScale_eq, bigInt_eq, qLo_eq, zero, wrapNat_eq_toNat, List.length_map,
    List.length_range, zip_range_map, List.map_map, Prod.mk.injEq, true_and, and_true]
  refine List.map_congr_left fun i hi => ?_
  have place : (quantGroup d * m + i) / quantGroup d = m := by
    rw [Nat.mul_add_div (quantGroup_pos d), Nat.div_eq_of_lt (List.mem_range.1 hi), Nat.add_zero]
  have elem := qntgElem_eq t d x kept order (hx (quantGroup d * m + i)) (number _)
  rw [place] at elem
  rw [electOut, ← elem, bigInt_eq, ← wrapNat_eq_toNat]
  rfl

end

end Sys2Proof.Machine
end

section
/-! SUPPORT. The read phase of QNTG as a whole (06 R157, R159). -/

namespace Sys2Proof.Machine

/-- Bit 4 is set by any of some elements. -/
theorem foldl_or_sixteen (p : Nat → Prop) [∀ m, Decidable (p m)] (l : List Nat) :
    ∀ b, b = 0 ∨ b = 16 → l.foldl (fun b m => b ||| if p m then 16 else 0) b = if b = 16 ∨ ∃ m ∈ l, p m then 16 else 0 := by
  induction l with
  | nil => rintro b (rfl | rfl) <;> simp
  | cons m l ih =>
    rintro b (rfl | rfl)
    · by_cases h : p m <;> simp [h, ih]
    · by_cases h : p m <;> simp [h, ih]

/-- Does QNTG elect an element (06 R159)? -/
def qntgElects (d : BitVec 256) (raw : Nat) : Bool :=
  d.getLsbD 94 && decide (FV.compare (Ty.f32.value (raw % 2 ^ 31)) (Ty.f32.value (num d 128 32)) = some 1)

theorem qntgElected_eq (d : BitVec 256) (raw : Nat) : qntgElected d.toNat raw = qntgElects d raw := by
  rw [qntgElected, qInv_eq]; rfl

/-- An element that QNTG elects is a number. -/
theorem isNaN_of_qntgElects {d : BitVec 256} {raw : Nat} (h : qntgElects d raw = true) : (f32 raw).isNaN = false := by
  rw [Bool.eq_false_iff]
  intro nan
  have none := compare_of_isNaN (y := Ty.f32.value (num d 128 32)) ((isNaN_magnitude raw).trans nan)
  rw [qntgElects, none] at h
  simp at h

/-- The groups of QNTG in turn. -/
theorem State.qntgAll_eq (s : State) (g : Nat) (t : Ty) (d : BitVec 256) (kept : Nat → Bool) (order : leastCode t d ≤ t.hi)
    (number : ∀ e, kept e = true → (s.quantSource g d e).isNaN = false) (whole : num d 64 16 % quantGroup d = 0)
    [∀ e, Decidable (groupClamps t d (s.quantSource g d) kept e)] :
    qntgAll t d.toNat 0 (pieces (quantGroup d) (num d 64 16 / quantGroup d)
        ((List.range (num d 64 16)).map fun e => (s.quantRaw g d e, kept e))) =
      (List.range (num d 64 16 / quantGroup d)).map fun m =>
        ((BitVec.ofInt 8 (groupZero t d (s.quantSource g d) kept m)).toNat * 2 ^ 16 + groupScale t d (s.quantSource g d) kept m,
          (List.range (quantGroup d)).map fun i => electOut kept (quantCode t d kept (groupCode t d (s.quantSource g d) kept))
            (groupEntry d (s.quantSource g d)) (groupClamps t d (s.quantSource g d) kept)
            (fun e => (s.quantSource g d e).isNaN = true) (quantGroup d * m + i),
          if groupQuotient t d (s.quantSource g d) kept m = 0x7C00 then 16 else 0) := by
  have cut : num d 64 16 = quantGroup d * (num d 64 16 / quantGroup d) := by
    rw [Nat.mul_comm, Nat.div_mul_cancel (Nat.dvd_of_mod_eq_zero whole)]
  generalize num d 64 16 / quantGroup d = k at *
  rw [cut, pieces_map_range, qntgAll_map]
  refine List.map_congr_left fun m _ => ?_
  rw [Nat.zero_add]
  exact qntgGroup_eq t d (s.quantSource g d) kept order (fun _ => rfl) number m

theorem Ty.small_of_mem {t : Ty} (narrow : t ∈ [Ty.i4, .ui4, .i8, .ui8]) : t.bits = 4 ∨ t.bits = 8 := by
  fin_cases narrow <;> decide

theorem comes_qntg (s : State) (g : Nat) (a : Addr) (p : BitVec 3) (pm : PostMode) (pre : Prefixes) {t : Ty} {d : BitVec 256}
    (ht : pre.ty.getD .i8 = t) (hd : s.recordAt g a 32 = d) (narrow : t ∈ [Ty.i4, .ui4, .i8, .ui8]) {fields : Bool}
    (hf : fields = true ↔ QuantCommon d t ∧ (1 ≤ num d 176 8 ∧ num d 176 8 ≤ 128) ∧
      (num d 200 2 ≠ 3 ∧ num d 64 16 % quantGroup d = 0) ∧ (Ty.f32.value (num d 128 32)).isNaN = false ∧
      ((Ty.f32.value (num d 128 32)).isZero = true ∨ (Ty.f32.value (num d 128 32)).neg = false))
    {el : Nat → Bool} (hel : ∀ e, el e = qntgElects d (s.quantRaw g d e)) :
    Comes (s.quantTraps g a t d fields ++ (spanTraps (num d 0 21) (4 * num d 64 16) ++
        (spanTraps (num d 32 21) (num d 64 16 * t.bits / 8) ++ (spanTraps (num d 208 21) (4 * (num d 64 16 / quantGroup d)) ++
        [s.poisonTrap g (num d 0 21) (4 * num d 64 16),
          trapIf (listRoom d < countTo el (num d 64 16) ∧ d.getLsbD 93 = false) (matrixDetail 0x07)]))))
      (grantOf s g a (.qntg p pm pre)) fun x =>
        ElectionGives t d el (keptOf d el) (quantCode t d (keptOf d el) (groupCode t d (s.quantSource g d) (keptOf d el)))
          (groupEntry d (s.quantSource g d)) x [(num d 208 21, (List.range (num d 64 16 / quantGroup d)).flatMap fun m =>
            natToBytes 4 ((BitVec.ofInt 8 (groupZero t d (s.quantSource g d) (keptOf d el) m)).toNat * 2 ^ 16 +
              groupScale t d (s.quantSource g d) (keptOf d el) m))] ∧
        ElectionBits d x ((∃ m < num d 64 16 / quantGroup d, groupQuotient t d (s.quantSource g d) (keptOf d el) m = 0x7C00) ∨
            ∃ e < num d 64 16, groupClamps t d (s.quantSource g d) (keptOf d el) e)
          (∃ e < num d 64 16, (s.quantSource g d e).isNaN = true) el := by
  have hrec : bytesToNat (s.rdN (scratchKey (g / 8) (ownOff a)) 32) = d.toNat := by
    rw [← hd, toNat_recordAt, State.rdNat]
  have small := Ty.small_of_mem narrow
  rw [grantOf, ht, grantQntg, s.operand_eq g a (by decide), State.quantTraps, List.append_assoc]
  cases h1 : firstTrap (s.operandTraps g a 32 8) with
  | some t => exact comes_of_some h1 rfl
  | none =>
    refine comes_of_none h1 ?_
    have record : fields = false ↔ (qCommon t d.toNat && qColsOk d.toNat && qGroupOk d.toNat && !(f32 (qInv d.toNat)).isNaN &&
        ((f32 (qInv d.toNat)).isZero || !(f32 (qInv d.toNat)).neg)) = false := by
      rw [← Bool.not_eq_true, ← Bool.not_eq_true, not_iff_not, hf]
      simp only [Bool.and_eq_true, Bool.or_eq_true, qCommon_iff, qColsOk_iff, qGroupOk_iff, qInv_eq, f32, Bool.not_eq_true',
        and_assoc]
    simp only [stopOr, hrec, spanOk_eq]
    rw [require_of_iff record, require_of_iff (qEsc_unsigned_iff d t)]
    simp only [qSrc_eq, qDst_eq, qN_eq, qGaddr_eq, qGroup_eq, qWordBytes, qCodeBytes, qStart_eq, qClamp_eq, s.readSpan_eq]
    generalize hr : firstFailure _ = r
    obtain rfl : r = stopOr (firstTrap _) () :=
      hr.symm.trans (firstFailure_eq [[_], [_], spanTraps _ _, spanTraps _ _, spanTraps _ _])
    cases h2 : firstTrap _ with
    | some t => exact comes_of_some (m := [_, _]) h2 rfl
    | none =>
      refine comes_of_none (m := [_, _]) h2 ?_
      cases h3 : firstTrap [s.poisonTrap g (num d 0 21) (4 * num d 64 16)] with
      | some t => exact comes_of_some (l := [_]) h3 rfl
      | none =>
        refine comes_of_none (l := [_]) h3 ?_
        obtain ⟨common, -, ⟨-, whole⟩, -⟩ := hf.1 (Bool.of_not_eq_false (not_of_firstTrap_eq_none h2))
        simp only [stopOr]
        classical
        have electees : ((List.range (num d 64 16)).map (s.quantRaw g d)).map (qntgElected d.toNat) =
            (List.range (num d 64 16)).map el := by
          rw [List.map_map]
          exact List.map_congr_left fun e _ => by rw [hel, Function.comp_apply, qntgElected_eq]
        have number (e : Nat) (kept : keptOf d el e = true) : (s.quantSource g d e).isNaN = false := by
          rw [keptOf, hel, Bool.and_eq_true] at kept
          exact isNaN_of_qntgElects kept.1
        have cut : num d 64 16 = quantGroup d * (num d 64 16 / quantGroup d) := by
          rw [Nat.mul_comm, Nat.div_mul_cancel (Nat.dvd_of_mod_eq_zero whole)]
        have kept : (fun e => el e && decide (countTo el e < 4096 - num d 80 12)) = keptOf d el := rfl
        rw [wordsIn_source, electees, keepFirst_map_range, length_filter_map_range, kept, List.zip_map']
        refine comes_check (by rw [Bool.not_eq_true']) fun _ => comes_nil rfl ?_
        rw [s.qntgAll_eq g t d (keptOf d el) (leastCode_le narrow d) number whole]
        have saturated : (List.range (num d 64 16 / quantGroup d)).foldl (fun b m => b |||
            if groupQuotient t d (s.quantSource g d) (keptOf d el) m = 0x7C00 then 16 else 0) 0 =
            if ∃ m < num d 64 16 / quantGroup d, groupQuotient t d (s.quantSource g d) (keptOf d el) m = 0x7C00 then 16 else 0 := by
          rw [foldl_or_sixteen _ _ _ (.inl rfl)]
          simp only [Nat.reduceEqDiff, false_or, List.mem_range]
        simp only [List.flatMap_map, List.foldl_map, flatMap_blocks, ← cut, saturated]
        exact ⟨qFinish_gives small common (fun e _ => quantCode_lt small _ _ _ e) fun e _ _ => groupEntry_lt d _ e, qFinish_bits⟩

end Sys2Proof.Machine
end

section
/-! SUPPORT. The read phase of DEQ (06 R157, R160; 21 R420). -/

namespace Sys2Proof.Machine

/-! ### Group words and elements -/

theorem value_f16_mod (w : Nat) : Ty.f16.value (w % 2 ^ 16) = Ty.f16.value w := by
  have e : bitsAt Ty.f16.fracBits Ty.f16.expBits (w % 2 ^ 16) = bitsAt Ty.f16.fracBits Ty.f16.expBits w := bitsAt_mod (by decide) w
  have f : bitsAt 0 Ty.f16.fracBits (w % 2 ^ 16) = bitsAt 0 Ty.f16.fracBits w := bitsAt_mod (by decide) w
  have sign : (w % 2 ^ 16).testBit (Ty.f16.bits - 1) = w.testBit (Ty.f16.bits - 1) := by
    rw [Nat.testBit_mod_two_pow]; exact Bool.true_and _
  simp only [Ty.value, e, f, sign]

theorem groupOf_eq (t : Ty) {w : Nat} (h : w < 2 ^ 32) : groupOf t w =
    (Ty.f16.value ((BitVec.ofNat 32 w).toNat % 2 ^ 16), t.intOf ((BitVec.ofNat 32 w).extractLsb' 16 8).toNat) := by
  rw [BitVec.toNat_ofNat, Nat.mod_eq_of_lt h, value_f16_mod, groupOf, zpValue, ← field_eq_toNat, field_ofNat w (by decide)]

section
variable (s : State) (g : Nat) (t : Ty) (d : BitVec 256)

/-- The codes of DEQ in memory. -/
def State.deqCodes : List Byte := s.rdN (scratchKey (g / 8) (num d 0 21)) (num d 64 16 * t.bits / 8)

/-- The group word of an element of DEQ. -/
def State.deqWord (e : Nat) : Word32 :=
  BitVec.ofNat 32 (s.rdNat (scratchKey (g / 8) (num d 208 21 + 4 * (e / quantGroup d))) 4)

/-- An element of DEQ. -/
def State.deqElemAt (e : Nat) : Elem :=
  s.elemAt (g / 8) (if d.getLsbD 92 then 1 else 0) (num d 80 12) (d.getLsbD 94) t (s.deqCodes g t d) e

/-- The value of an element of DEQ. -/
def State.deqValue (e : Nat) : FV :=
  if d.getLsbD 95 then elemReal t (Ty.f16.value ((s.deqWord g d e).toNat % 2 ^ 16), t.intOf ((s.deqWord g d e).extractLsb' 16 8).toNat)
    (s.deqElemAt g t d e)
  else FV.ofInt (elemInt t (t.intOf (num d 160 8)) (s.deqElemAt g t d e))

/-- The escapes of DEQ. -/
def State.deqEscapes : Nat := countTo (escapeAt (d.getLsbD 94) t (s.deqCodes g t d)) (num d 64 16)

/-- The group words of DEQ as the model reads them. -/
def State.deqWords : List Nat :=
  wordsIn 4 (s.rdN (scratchKey (g / 8) (num d 208 21)) (4 * (num d 64 16 / quantGroup d)))

theorem State.deqWords_eq : s.deqWords g d = (List.range (num d 64 16 / quantGroup d)).map fun m =>
    s.rdNat (scratchKey (g / 8) (num d 208 21 + 4 * m)) 4 := by
  rw [State.deqWords, wordsIn_rdN s _ _ (by decide)]
  exact List.map_congr_left fun m _ => by rw [scratchKey_add]

variable {t d}

theorem State.deqWords_good : (s.deqWords g d).all (groupWordOk t) = true ↔
    ∀ m < num d 64 16 / quantGroup d, groupWordGood t (s.deqWord g d (m * quantGroup d)) = true := by
  rw [State.deqWords_eq, List.all_map, List.all_eq_true]
  simp only [List.mem_range, Function.comp_apply, State.deqWord, groupWordGood_eq, Nat.mul_div_cancel _ (quantGroup_pos d)]

theorem State.length_deqCodes (small : t.bits = 4 ∨ t.bits = 8) (common : QuantCommon d t) :
    8 * (s.deqCodes g t d).length = num d 64 16 * t.bits := by
  rw [State.deqCodes, State.length_rdN]
  rcases small with h | h
  · have even := common.even h
    rw [h]; omega
  · rw [h]; omega

theorem Ty.coded_of_small (small : t.bits = 4 ∨ t.bits = 8) : Ty.Coded t := small.elim .inl fun h => .inr (.inl h)

theorem State.deqEscapes_eq (small : t.bits = 4 ∨ t.bits = 8) (common : QuantCommon d t) :
    countEscapes (d.getLsbD 94) t (codesOf t (s.deqCodes g t d)) = s.deqEscapes g t d :=
  countEscapes_codesOf _ (Ty.coded_of_small small) (s.length_deqCodes g small common)

/-- The element that the model dequantises, with its group where it has one. -/
theorem State.deqElem_eq {words : List Nat} (hw : d.getLsbD 95 = true → words = s.deqWords g d) {e : Nat}
    (he : d.getLsbD 95 = true → e / quantGroup d < num d 64 16 / quantGroup d) :
    natToBytes 4 (deqElem t (d.getLsbD 95) (groupOf t (words.getD (e / quantGroup d) 0)) (t.intOf (num d 160 8)) (s.deqElemAt g t d e)) =
      natToBytes 4 (roundTo32 .nearest (s.deqValue g t d e)).toNat := by
  have value : (if d.getLsbD 95 then (s.deqElemAt g t d e).realFactor t (groupOf t (words.getD (e / quantGroup d) 0))
      else FV.ofInt ((s.deqElemAt g t d e).intFactor t (t.intOf (num d 160 8)))) = s.deqValue g t d e := by
    rw [State.deqValue, Elem.realFactor_eq, Elem.intFactor_eq]
    by_cases grp : d.getLsbD 95 = true
    · have word : words.getD (e / quantGroup d) 0 = s.rdNat (scratchKey (g / 8) (num d 208 21 + 4 * (e / quantGroup d))) 4 := by
        rw [hw grp, State.deqWords_eq, List.getD_eq_getElem?_getD, List.getElem?_map, List.getElem?_range (he grp)]
        rfl
      rw [if_pos grp, if_pos grp, word, groupOf_eq t (s.rdNat_lt _ 4), State.deqWord]
    · rw [if_neg grp, if_neg grp]
  unfold deqElem
  rw [value, roundTo32, BitVec.toNat_ofNat]
  exact natToBytes_congr (Nat.mod_mod _ _).symm

end

/-! ### The read phase -/

section
variable (s : State) (g : Nat) (a : Addr) (t : Ty) (d : BitVec 256) (fields : Bool)

/-- The checks of DEQ on its record and its spans. -/
def deqRecord : List (List (Option Trap)) :=
  [[trapIf (fields = false) (matrixDetail 0x01)], [trapIf (d.getLsbD 94 = true ∧ t.isUnsigned = true) (matrixDetail 0x03)],
    spanTraps (num d 0 21) (num d 64 16 * t.bits / 8), spanTraps (num d 32 21) (4 * num d 64 16),
    if d.getLsbD 95 then spanTraps (num d 208 21) (4 * (num d 64 16 / quantGroup d)) else []]

/-- The checks of DEQ on its group words. -/
def State.deqGroups : List (Option Trap) :=
  if d.getLsbD 95 then [s.poisonTrap g (num d 208 21) (4 * (num d 64 16 / quantGroup d)),
    trapIf (¬∀ m < num d 64 16 / quantGroup d, groupWordGood t (s.deqWord g d (m * quantGroup d)) = true) (matrixDetail 0x01)] else []

/-- The checks of DEQ on the entries that its escapes ask for. -/
def State.deqEntries : List (Option Trap) :=
  [trapIf (4096 < num d 80 12 + s.deqEscapes g t d) (matrixDetail 0x06),
    trapIf (¬∀ m < s.deqEscapes g t d,
      s.poisonIn (burnKey (g / 8) (if d.getLsbD 92 then 1 else 0) (num d 80 12 + m)) 4 = none) (trapOf kMemory 0x03 0)]

/-- The checks of DEQ, in their order. -/
def State.deqTraps : List (Option Trap) :=
  s.operandTraps g a 32 8 ++ ((deqRecord t d fields).flatten ++
    ([s.poisonTrap g (num d 0 21) (num d 64 16 * t.bits / 8)] ++ (s.deqGroups g t d ++ s.deqEntries g t d)))

theorem State.deqTraps_eq : s.deqTraps g a t d fields =
    s.quantTraps g a t d fields ++ spanTraps (num d 0 21) (num d 64 16 * t.bits / 8) ++ spanTraps (num d 32 21) (4 * num d 64 16) ++
      (if d.getLsbD 95 then spanTraps (num d 208 21) (4 * (num d 64 16 / quantGroup d)) else []) ++
      [s.poisonTrap g (num d 0 21) (num d 64 16 * t.bits / 8)] ++ s.deqGroups g t d ++ s.deqEntries g t d := by
  simp only [State.deqTraps, deqRecord, State.quantTraps, List.flatten_cons, List.flatten_nil, List.append_assoc, List.append_nil,
    List.cons_append, List.nil_append]

theorem State.burnPoison_iff (k : Nat → Nat) (n : Nat) :
    (¬∀ m < n, s.poisonIn (k m) 4 = none) ↔ ((List.range n).findSome? fun m => s.poisonIn (k m) 4).isSome = true := by
  rw [← Option.ne_none_iff_isSome, ne_eq, List.findSome?_eq_none_iff]
  simp only [List.mem_range]

end

/-- What DEQ grants. -/
def DeqGives (s : State) (g : Nat) (t : Ty) (d : BitVec 256) (x : Grant) : Prop :=
  x.fctx = none ∧ x.ka = none ∧ x.mset = 0 ∧ x.ecnt = none ∧ x.clear = false ∧ x.a = none ∧ x.job = none ∧
    x.writes = [(num d 32 21, (List.range (num d 64 16)).flatMap fun e =>
      natToBytes 4 (roundTo32 .nearest (s.deqValue g t d e)).toNat)]

/-- DEQ once its group words stand. -/
theorem comes_deqEntries (s : State) (g : Nat) {t : Ty} {d : BitVec 256} (small : t.bits = 4 ∨ t.bits = 8) (common : QuantCommon d t)
    {words : List Nat} (good : words.all (groupWordOk t) = true) (hw : d.getLsbD 95 = true → words = s.deqWords g d)
    (inside : ∀ e < num d 64 16, d.getLsbD 95 = true → e / quantGroup d < num d 64 16 / quantGroup d) (cycles : Nat) :
    Comes (s.deqEntries g t d)
      (match firstFailure [require (words.all (groupWordOk t)) 0x01,
          require (decide (num d 80 12 + countEscapes (d.getLsbD 94) t (codesOf t (s.deqCodes g t d)) ≤ 4096)) 0x06] with
        | .error e => .error e
        | .ok _ =>
          if ((List.range (countEscapes (d.getLsbD 94) t (codesOf t (s.deqCodes g t d)))).findSome? fun i =>
              s.poisonIn (burnKey (g / 8) (if d.getLsbD 92 then 1 else 0) (num d 80 12 + i)) 4).isSome then
            .error (stopTrap kMemory 0x03 0)
          else
            .ok { Grant.plain with
              writes := [(num d 32 21, (((elemsOf (d.getLsbD 94) t
                  (fun i => s.burnEntry (g / 8) (if d.getLsbD 92 then 1 else 0) (num d 80 12 + i)) 0
                  (codesOf t (s.deqCodes g t d))).zip (List.range (num d 64 16))).map fun p =>
                deqElem t (d.getLsbD 95) (groupOf t (words.getD (p.2 / quantGroup d) 0)) (zpValue t (num d 160 8)) p.1).flatMap
                  (natToBytes 4))]
              cycles := cycles }) (DeqGives s g t d) := by
  have six : 4096 < num d 80 12 + s.deqEscapes g t d ↔ decide (num d 80 12 + s.deqEscapes g t d ≤ 4096) = false := by
    rw [decide_eq_false_iff_not, not_le]
  rw [s.deqEscapes_eq g small common, s.elemsOf_codesOf _ _ _ _ (Ty.coded_of_small small) (s.length_deqCodes g small common),
    good, require_of_iff six, State.deqEntries]
  refine comes_trapIf (fun full => ?_) fun room => ?_
  · rw [trapIf_pos full]; rfl
  rw [trapIf_neg room]
  refine comes_trapIf (fun bad => if_pos ((s.burnPoison_iff _ _).1 bad)) fun clean => ?_
  refine comes_nil (if_neg (mt (s.burnPoison_iff _ _).2 clean)) ⟨rfl, rfl, rfl, rfl, rfl, rfl, rfl, ?_⟩
  refine congrArg (fun bytes => [(num d 32 21, bytes)]) ?_
  rw [zip_range_map, List.map_map, List.flatMap_map]
  exact List.flatMap_congr fun e he => s.deqElem_eq g hw (inside e (List.mem_range.1 he))

theorem comes_deq (s : State) (g : Nat) (a : Addr) (p : BitVec 3) (pm : PostMode) (pre : Prefixes) {t : Ty} {d : BitVec 256}
    (ht : pre.ty.getD .i8 = t) (hd : s.recordAt g a 32 = d) (small : t.bits = 4 ∨ t.bits = 8) {fields : Bool}
    (hf : fields = true ↔ QuantCommon d t ∧ if d.getLsbD 95 then num d 200 2 ≠ 3 ∧ num d 64 16 % quantGroup d = 0
      else zeroPointOk t (d.extractLsb' 160 8) = true) :
    Comes (s.deqTraps g a t d fields) (grantOf s g a (.deq p pm pre)) (DeqGives s g t d) := by
  have hrec : bytesToNat (s.rdN (scratchKey (g / 8) (ownOff a)) 32) = d.toNat := by
    rw [← hd, toNat_recordAt, State.rdNat]
  rw [grantOf, ht, grantDeq, s.operand_eq g a (by decide), State.deqTraps]
  cases h1 : firstTrap (s.operandTraps g a 32 8) with
  | some t => exact comes_of_some h1 rfl
  | none =>
    refine comes_of_none h1 ?_
    have record : fields = false ↔ (qCommon t d.toNat && (if qGrp d.toNat then qGroupOk d.toNat else zpEncoded t (qZ d.toNat))) = false := by
      rw [← Bool.not_eq_true, ← Bool.not_eq_true, not_iff_not, hf, Bool.and_eq_true, qCommon_iff, qGrp_eq]
      split
      · rw [qGroupOk_iff]
      · rw [qZ_eq, zeroPointOk_eq]
    have groupSpan : (if d.getLsbD 95 then stopOr (firstTrap (spanTraps (num d 208 21) (4 * (num d 64 16 / quantGroup d)))) ()
        else .ok ()) = stopOr (firstTrap (if d.getLsbD 95 then spanTraps (num d 208 21) (4 * (num d 64 16 / quantGroup d)) else [])) () := by
      split <;> rfl
    have got {α : Type} (x : α) : stopOr none x = .ok x := rfl
    simp only [got, hrec, spanOk_eq]
    rw [require_of_iff record, require_of_iff (qEsc_unsigned_iff d t)]
    simp only [qSrc_eq, qDst_eq, qN_eq, qGaddr_eq, qGroup_eq, qWordBytes, qCodeBytes, qStart_eq, qGrp_eq, qEsc_eq, qList_eq, qZ_eq,
      groupSpan, s.readSpan_eq]
    generalize hr : firstFailure _ = r
    obtain rfl : r = stopOr (firstTrap (deqRecord t d fields).flatten) () := hr.symm.trans (firstFailure_eq (deqRecord t d fields))
    cases h2 : firstTrap (deqRecord t d fields).flatten with
    | some t => exact comes_of_some h2 rfl
    | none =>
      refine comes_of_none h2 ?_
      obtain ⟨common, groups⟩ := hf.1 (Bool.of_not_eq_false (not_of_firstTrap_eq_none h2))
      cases h3 : firstTrap [s.poisonTrap g (num d 0 21) (num d 64 16 * t.bits / 8)] with
      | some t => exact comes_of_some h3 rfl
      | none =>
        refine comes_of_none h3 ?_
        rw [← State.deqCodes, State.deqGroups]
        by_cases grp : d.getLsbD 95 = true
        · rw [if_pos grp, if_pos grp]
          rw [if_pos grp] at groups
          have inside (e : Nat) (he : e < num d 64 16) : e / quantGroup d < num d 64 16 / quantGroup d :=
            Nat.div_lt_div_of_lt_of_dvd (Nat.dvd_of_mod_eq_zero groups.2) he
          cases h4 : firstTrap [s.poisonTrap g (num d 208 21) (4 * (num d 64 16 / quantGroup d))] with
          | some t => exact comes_of_some (l := [_]) (m := _ :: _) h4 rfl
          | none =>
            refine comes_of_none (l := [_]) (m := _ :: _) h4 ?_
            simp only [got]
            rw [← State.deqWords]
            refine comes_trapIf (fun bad => ?_) fun good => ?_
            · rw [← s.deqWords_good, Bool.not_eq_true] at bad
              rw [bad]
              rfl
            · rw [not_not, ← s.deqWords_good] at good
              exact comes_deqEntries s g small common good (fun _ => rfl) (fun e he _ => inside e he) _
        · rw [if_neg grp, if_neg grp]
          exact comes_deqEntries s g small common (words := []) rfl (fun on => absurd on grp) (fun _ _ on => absurd on grp) _

end Sys2Proof.Machine
end

section
/-! The read phases of matrix instructions (06 R143 to R163): O37. -/

namespace Sys2Proof.Machine

/-- A pointer that is aligned and whose bytes lie in the scratchpad passes its checks. -/
theorem firstTrap_pointerTraps {a : Addr} {off n align : Nat} (at_ : a.toNat = 0xF00000000000 + off) (inside : off + n ≤ 2 ^ 21)
    (aligned : a.toNat % align = 0) : firstTrap (pointerTraps a n align) = none := by
  rw [pointerTraps, trapIf_neg (by omega), trapIf_neg (not_not.2 aligned)]
  rfl

theorem ownOff_of_toNat_eq {a : Addr} {off : Nat} (at_ : a.toNat = 0xF00000000000 + off) : ownOff a = off := by
  unfold ownOff; omega

theorem grantOf_mctx_of_clean (s : State) (g off : Nat) (a : Addr) (p : BitVec 3) (pm : PostMode) (pre : Prefixes)
    (at_ : a.toNat = 0xF00000000000 + off) (inside : off + 32 ≤ 2 ^ 21) (aligned : a.toNat % 8 = 0)
    (clean : s.poisonIn (scratchKey (g / 8) off) 32 = none) :
    grantOf s g a (.mctx p pm pre) = match formatDetail (BitVec.ofNat 256 (s.rdNat (scratchKey (g / 8) off) 32)) with
      | some d => .error (.trap (trapOf kMatrix d 0))
      | none => .ok { Grant.plain with fctx := some (BitVec.ofNat 256 (s.rdNat (scratchKey (g / 8) off) 32)) } := by
  have place := ownOff_of_toNat_eq at_
  have poison : s.poisonTrap g off 32 = none := by rw [State.poisonTrap, clean]; rfl
  have pass : firstTrap (s.operandTraps g a 32 8) = none := by
    rw [State.operandTraps, firstTrap_append, firstTrap_pointerTraps at_ inside aligned, place, poison]
    rfl
  have record : s.recordAt g a 32 = BitVec.ofNat 256 (s.rdNat (scratchKey (g / 8) off) 32) :=
    congrArg (fun o => BitVec.ofNat 256 (s.rdNat (scratchKey (g / 8) o) 32)) place
  rw [grantOf_mctx, pass, record]
  rfl

/-- MROW and MCOL outside integer mode. -/
theorem grantSums_of_mode_ne_zero (s : State) (g off : Nat) (a : Addr) (kind : ArrayKind) {n : Nat} (cycles : Nat) (hn : 0 < n)
    (at_ : a.toNat = 0xF00000000000 + off) (inside : off + 4 * n ≤ 2 ^ 21) (aligned : a.toNat % 4 = 0)
    (mode : (s.core g).fctx.extractLsb' 8 2 ≠ 0) : grantSums kind n cycles s g a = .error (.trap (matrixDetail 0x05)) := by
  refine (comes_sums s g a kind cycles hn).1 _ ?_
  rw [firstTrap_append, firstTrap_pointerTraps at_ inside aligned, trapIf_pos mode]
  rfl

/-- Settles O37, instruction by instruction. -/
theorem matrixContext : Obligations.MatrixContext := by
  unfold Obligations.MatrixContext
  refine ⟨?_, ?_, ?_, grantOf_blcnt, ?_⟩
  · intro s g off a p pm pre at_ inside aligned clean c
    have grant : grantOf s g a (.mctx p pm pre) = match formatDetail c with
      | some d => .error (.trap (trapOf kMatrix d 0))
      | none => .ok { Grant.plain with fctx := some c } := grantOf_mctx_of_clean s g off a p pm pre at_ inside aligned clean
    cases detail : formatDetail c with
    | some d => exact grant.trans (by rw [detail])
    | none => exact ⟨_, grant.trans (by rw [detail]), rfl, rfl, rfl, rfl, rfl, rfl, rfl, rfl⟩
  · intro s g off a p pm pre at_ inside aligned mode i hi
    simp only [List.mem_cons, List.not_mem_nil, or_false] at hi
    rcases hi with rfl | rfl
    · exact grantSums_of_mode_ne_zero s g off a .mrow (n := 32) 1 (by decide) at_ (by omega) aligned mode
    · exact grantSums_of_mode_ne_zero s g off a .mcol (n := 128) 2 (by decide) at_ inside aligned mode
  · intro s t j zero
    rw [State.arrayWork, zero]
  · intro s g a p pm pre off key fctx record nothing
    refine ⟨comes_wpl s g a p pm pre, comes_mma s g a p pm pre rfl, ?_, ?_, ?_, comes_blset s g a p pm pre rfl rfl⟩
    · intro e he tr
      simp only [List.mem_cons, List.not_mem_nil, or_false] at he
      rcases he with rfl | rfl
      · exact comes_sums s g a .mrow (n := 32) 1 (by decide)
      · exact comes_sums s g a .mcol (n := 128) 2 (by decide)
    · intro md integer tab entry table acc
      refine ⟨?_, ?_⟩
      · intro t v w tr narrow
        exact comes_mdrain s g a p pm pre (t := t) rfl narrow (c := fctx) rfl (v := v) (w := w)
          (fun e => congrArg (drainValue md · (acc e)) (s.drainWord_eq g fctx e).symm) fun e => rfl
      · intro t v lost tr
        exact comes_mdrainf s g a p pm pre (t := t) rfl (c := fctx) rfl (v := v)
          fun e => congrArg (drainFloatValue integer · (acc e)) (s.drainWord_eq g fctx e).symm
    · intro t d n esc count src dst gaddr g0 start cap codes list qlo z x pos common columns groups real top elected bits narrow
      have small := Ty.small_of_mem narrow
      refine ⟨?_, ?_, ?_⟩
      · exact comes_qnt s g a p pm pre (t := t) (d := d) rfl rfl small decide_eq_true_iff (fun e => rfl) fun e => rfl
      · exact comes_qntg s g a p pm pre (t := t) (d := d) rfl rfl narrow decide_eq_true_iff fun e => rfl
      · intro grp data escapes word elem v fields tr
        have all := comes_deq s g a p pm pre (t := t) (d := d) (fields := fields) rfl rfl small decide_eq_true_iff
        rw [State.deqTraps_eq] at all
        exact all

end Sys2Proof.Machine
end

section
/-! The array phase of an MMA in group mode with 16-bit types (04 R96; 06 R152): O38. -/

namespace Sys2Proof.Machine

/-- Numbers kept under the keys from `k`, the zeros left out. -/
theorem get_filterMap_range' (l : List Nat) : ∀ k n, Tab.get (0 : Word32) (((List.range' k l.length).zip l).filterMap fun p =>
    if p.2 % 2 ^ 32 = 0 then none else some (p.1, BitVec.ofNat 32 p.2)) n = if n < k then 0 else BitVec.ofNat 32 (l.getD (n - k) 0) := by
  induction l with
  | nil => intro k n; simp [Tab.get]
  | cons w l ih =>
    intro k n
    have rest := ih (k + 1) n
    have head : (w :: l).getD (n - k) 0 = if n ≤ k then w else l.getD (n - (k + 1)) 0 := by
      rcases Nat.lt_or_ge k n with h | h
      · rw [if_neg (by omega), show n - k = n - (k + 1) + 1 by omega]; rfl
      · rw [Nat.sub_eq_zero_of_le h, if_pos h]; rfl
    rw [List.length_cons, List.range'_succ, List.zip_cons_cons, List.filterMap_cons, head]
    by_cases hw : w % 2 ^ 32 = 0
    · have zero : BitVec.ofNat 32 w = 0 := BitVec.eq_of_toNat_eq (by simpa using hw)
      simp only [hw, if_true, rest]
      by_cases h : n ≤ k
      · rw [if_pos (by omega), if_pos h, zero, ite_self]
      · rw [if_neg (by omega), if_neg (by omega), if_neg h]
    · simp only [hw, if_false, Tab.get, rest]
      by_cases h : n = k
      · simp [h]
      · by_cases lt : n < k
        · simp [h, lt]
        · rw [if_neg h, if_neg lt, if_neg (by omega), if_neg lt, if_neg (by omega)]

/-- What a list of numbers, written as a table, holds at each key. -/
theorem get_denseTab (l : List Nat) (n : Nat) : Tab.get 0 (denseTab l) n = BitVec.ofNat 32 (l.getD n 0) := by
  rw [denseTab, List.range_eq_range', get_filterMap_range', if_neg (Nat.not_lt_zero n), Nat.sub_zero]

/-- The accumulators after the array phase of an MMA in a tile without poison. -/
theorem State.acc_mma {s : State} (wf : Tab.wf Core.idle s.cores = true) (clean : s.poison = []) (t : Nat) (j : ArrayJob) :
    ((s.mma t j).core j.by_.core).acc =
      denseTab ((mmaRows j.fctx (s.operands t j) (pieces 128 32 (s.core j.by_.core).accs)).flatMap fun row =>
        (row.zip (List.range 128)).map fun p => p.1.1) := by
  have unspoiled : s.spoiled t j = [] := by rw [State.spoiled, clean]; rfl
  simp only [State.mma, unspoiled, List.isEmpty_nil, if_true, State.core_setCore _ _ _ _ wf, List.contains_nil,
    Bool.false_eq_true, if_false]

/-- Group mode, one group of 128, A bf16 with group words, B ui8 without, its column of weights at 0. -/
def wideZeroFormat : BitVec 256 := BitVec.ofNat 256 (mkRecord [(0, 3, 2), (4, 3, 1), (8, 2, 1), (10, 2, 2), (16, 1, 1)])

/-- A of zeros; each group word has the scale 1 and the zero point 256, which 16 bits hold and 8 do not. -/
def wideZeroJob : ArrayJob :=
  ⟨⟨0, 0, 0, 0, 0, 0⟩, .mma, wideZeroFormat, 0, List.replicate 8192 0 ++ (List.replicate 32 [0x00, 0x3C, 0x00, 0x01]).flatten, 1, true⟩

/-- One weight, 1, at the head of column 0. -/
def wideZeroState : State := { State.reset with mem := [(weightKey 0 0 0, 1)] }

/-- The model takes the 8 bits of the zero point that a group word has (bits 23:16): 0, and so the sum is 0. -/
theorem arrayWork_wideZero : Tab.get 0 ((wideZeroState.arrayWork 0 wideZeroJob).core 0).acc 0 = 0#32 := by
  change Tab.get 0 ((wideZeroState.mma 0 wideZeroJob).core wideZeroJob.by_.core).acc 0 = 0#32
  rw [State.acc_mma (by decide +kernel) (by decide +kernel), get_denseTab]
  decide +kernel

/-- Refutes O38: in group mode the statement takes the zero point of a 16-bit type from all 16 upper bits of a group word,
and the model takes its 8 bits 23:16 as for every type. Where bits 31:16 hold 256, the first sum is -256 by the statement
and 0 by the model. The statement ranges over every format context, this one too, which MCTX refuses. -/
theorem not_matrixMultiply : ¬Obligations.MatrixMultiply := by
  unfold Obligations.MatrixMultiply
  intro h
  obtain ⟨-, h, -⟩ := h
  obtain ⟨acc, scol, srow, bits, done, -, -, group, -⟩ := h wideZeroState 0 wideZeroJob (by decide +kernel) (by decide +kernel)
    (by decide +kernel) (by decide +kernel) (by decide +kernel)
  obtain ⟨-, h⟩ := group (by decide +kernel)
  have h := h 0 (by decide) 0 (by decide)
  have model := arrayWork_wideZero
  rw [done, State.core_setCore _ _ _ _ (by decide +kernel)] at model
  have h := h.symm.trans model
  revert h
  decide +kernel

end Sys2Proof.Machine
end

section
/-! SUPPORT. Operands of page 2 (08 R179): the types that its instructions accept, what a load makes of its bytes, and what a store
makes of its register. -/

namespace Sys2Proof.Machine

/-! ### Types -/

theorem wRule_admits_of_wellFormed {i : Instr} (h : i.WellFormed) : i.wRule.admits i.pre = true := by
  obtain ⟨-, -, -, -, fields⟩ := h
  simp only [Instr.fieldsOk, Bool.and_eq_true] at fields
  exact fields.1.2

/-- Any type that a chain gives is one that the rule accepts. -/
theorem WRule.mem_types {r : WRule} {pre : Prefixes} (h : r.admits pre = true) {t : Ty} (ht : pre.ty = some t) : t ∈ r.types := by
  obtain ⟨w, hw, rfl⟩ := Option.map_eq_some_iff.1 ht
  simp only [WRule.admits, hw, Bool.and_eq_true] at h
  exact List.contains_iff_mem.1 h.1.1

/-- A chain with SAT has a type, with which the rule accepts it. -/
theorem WRule.exists_mem_sat {r : WRule} {pre : Prefixes} (h : r.admits pre = true) (hs : pre.sat = true) :
    ∃ t, pre.ty = some t ∧ t ∈ r.sat := by
  cases hw : pre.wdx with
  | none => simp [Prefixes.sat, hw] at hs
  | some w =>
    simp only [Prefixes.sat, hw, Option.map_some, Option.getD_some] at hs
    simp only [WRule.admits, hw, hs, Bool.not_true, Bool.false_or, Bool.and_eq_true] at h
    exact ⟨w.ty, by rw [Prefixes.ty, hw, Option.map_some], List.contains_iff_mem.1 h.2⟩

/-! ### Loads -/

theorem extend_eq_operandOf {t : Ty} (h : t ∈ Ty.ints) (x : Nat) : extend (some t) x = operandOf (some t) x := by
  have signed {n : Nat} (hn : 0 < n) : BitVec.ofInt 64 (signedOf n x) = (BitVec.ofNat n x).signExtend 64 := by
    rw [signedOf_eq_toInt hn, BitVec.signExtend]
  have unsigned : BitVec.ofInt 64 ((x % 2 ^ 8 : Nat) : Int) = (BitVec.ofNat 8 x).setWidth 64 := by
    rw [BitVec.ofInt_natCast, ← BitVec.toNat_ofNat, BitVec.ofNat_toNat]
  simp only [Ty.ints, List.mem_cons, List.not_mem_nil, or_false] at h
  rcases h with rfl | rfl | rfl | rfl
  · exact signed (by decide)
  · exact unsigned
  · exact signed (by decide)
  · exact signed (by decide)

theorem memExt_eq_loadedValue {ty : Option Ty} (h : ∀ t, ty = some t → t ∈ Ty.ints ++ [.f32]) (x : Nat) :
    memExt ty x = loadedValue ty x := by
  cases ty with
  | none => rfl
  | some t =>
    rcases List.mem_append.1 (h t rfl) with int | float
    · rw [memExt, loadedValue, extend_eq_operandOf int]
    · obtain rfl := List.mem_singleton.1 float
      rfl

/-! ### Stores -/

theorem storeValue_eq (pre : Prefixes) (d : Word64) : storeValue pre d =
    if pre.sat = true then clampInt (pre.ty.getD .i32).lo (pre.ty.getD .i32).hi d.toInt else d.toInt := rfl

/-- A store whose rule accepts SAT with integer types alone writes the bytes that the statements name, and tells whether the clamp
changed the value. -/
theorem storeBytes_eq {r : WRule} {pre : Prefixes} (h : r.admits pre = true) (hr : r.sat = Ty.ints) (d : Word64) :
    storeBytes pre d = (storedBytes pre d, decide (storeValue pre d ≠ d.toInt)) := by
  rw [storedBytes, storeValue_eq]
  by_cases hs : pre.sat = true
  · obtain ⟨t, ht, mem⟩ := WRule.exists_mem_sat h hs
    rw [hr] at mem
    have changed := narrowInt_clamps_iff t true d.toInt
    have bytes := natToBytes_narrowInt mem true d.toInt
    simp only [if_true] at changed bytes
    simp only [storeBytes, ht, hs, if_true, sizeOf', Option.getD_some, ← bytes]
    exact Prod.ext rfl (Bool.eq_iff_iff.2 (changed.trans decide_eq_true_iff.symm))
  · simp only [storeBytes, hs, if_false, ne_eq, not_true, decide_false, BitVec.ofInt_toInt, sizeOf', Bool.false_eq_true]
    cases pre.ty <;> rfl

/-- F after a store, from whether the clamp changed the value. -/
theorem flagsSat_storeValue (pre : Prefixes) (d : Word64) (f : BitVec 16) :
    flagsSat f (decide (storeValue pre d ≠ d.toInt)) = storeFlags pre d f := by
  by_cases h : storeValue pre d = d.toInt
  · simp [h, storeFlags, flagsSat, sticky]
  · simp [h, storeFlags, flagsSat, sticky, setBit]

end Sys2Proof.Machine
end

section
/-! SUPPORT. How an instruction of page 2 runs, and the checks of its address in their order (08 R176 to R178). -/

namespace Sys2Proof.Machine

/-! ### Running -/

section
variable {s : State} {pre : Prefixes} {f : State → Except Block State} (chosen : s.Chosen pre)
include chosen

theorem runKmem_of_ok {t : State} (h : f s = .ok t) : runKmem pre s f = t := by
  have true_ : s.strand.cond pre.pred.toNat = true := chosen
  simp only [runKmem, guarded, true_, if_true, h]

theorem runKmem_of_error {b : Block} (h : f s = .error b) : runKmem pre s f = s.blocked b := by
  have true_ : s.strand.cond pre.pred.toNat = true := chosen
  simp only [runKmem, guarded, true_, if_true, h]

variable {i : Instr} (hi : exec i s = .next (runKmem pre s f))
include hi

theorem exec_of_ok {t : State} (h : f s = .ok t) : exec i s = .next t := by rw [hi, runKmem_of_ok chosen h]

theorem exec_of_error {b : Block} (h : f s = .error b) : exec i s = .next (s.blocked b) := by rw [hi, runKmem_of_error chosen h]

theorem exec_of_trap {kind detail : BitVec 8} {a : Addr} (h : f s = .error (blockTrap kind detail a)) :
    exec i s = .next (s.raise (trapOf kind detail a)) := exec_of_error chosen hi h

end

theorem State.blocked_walk {s : State} (va : Addr) (rd wr : Bool) (room : (s.misses s.myTile).length < 16) :
    s.blocked (.walk va rd wr) = (s.leaveRunning s.me s.myCtx .waitLoad).sendWalk s.me s.myCtx va rd wr :=
  if_pos (by rw [State.missRoom, decide_eq_true room, Bool.true_or])

/-- An instruction goes no further than a check that fails. -/
def StoppedBy {α : Type} (i : Instr) (s : State) (r : Except Block α) : Prop :=
  ∀ b, r = .error b → exec i s = .next (s.blocked b)

theorem StoppedBy.trap {α : Type} {i : Instr} {s : State} {r : Except Block α} {kind detail : BitVec 8} {a : Addr}
    (stop : StoppedBy i s r) (h : r = .error (blockTrap kind detail a)) : exec i s = .next (s.raise (trapOf kind detail a)) :=
  stop _ h

/-! ### Which apertures a family accepts -/

theorem Family.ne_reserved_of_accepts {u : Family} {die : Nat} {a : Aperture} (h : u.accepts die a = true) : a ≠ .reserved := by
  rintro rfl
  cases u <;> cases h

theorem Family.put_accepts (d d' : Nat) (a : Aperture) : Family.put.accepts d a = Family.put.accepts d' a := by
  cases a <;> rfl

/-! ### The checks of one target -/

section
variable {s : State} {u : Family} {ea : Addr} {size align : Nat} {rd wr : Bool}

theorem State.checked_of_reserved (h : apertureOf ea = .reserved) :
    s.checked u ea size rd wr = .error (blockTrap kAccess 0x03 ea) := if_pos h

theorem State.checked_of_target_error {b : Block} (known : apertureOf ea ≠ .reserved)
    (h : s.target u ea size size rd wr = .error b) : s.checked u ea size rd wr = .error b := by
  rw [State.checked, if_neg known, h]

theorem State.target_of_not_accepts (h : ¬u.accepts (dieOf s.myTile) (apertureOf ea) = true) :
    s.target u ea size align rd wr = .error (blockTrap kAccess 0x02 ea) := if_pos (by simpa using h)

variable (accepted : u.accepts (dieOf s.myTile) (apertureOf ea) = true)
include accepted

theorem State.target_of_misaligned (h : ea.toNat % align ≠ 0) :
    s.target u ea size align rd wr = .error (blockTrap kAlign 0x01 ea) := by
  simp only [State.target, accepted, Bool.not_true, Bool.false_eq_true, if_false, if_pos h]

variable (aligned : ea.toNat % align = 0)
include aligned

theorem State.target_window {l c w o : Nat} (h : apertureOf ea = .window l c w o) :
    s.target u ea size align rd wr = (s.windowTile u s.myTile (s.pidOf s.me) l ea).map fun x => .window x c w o := by
  rw [h] at accepted
  simp only [State.target, h, accepted, aligned, Bool.not_true, Bool.false_eq_true, if_false, ne_eq, not_true]

theorem State.target_dieStore_beyond {d o : Nat} (h : apertureOf ea = .dieStore d o)
    (beyond : (s.part (s.pidOf s.me)).dssSize d < o + size) :
    s.target u ea size align rd wr = .error (blockTrap kAccess 0x03 ea) := by
  rw [h] at accepted
  simp only [State.target, h, accepted, aligned, Bool.not_true, Bool.false_eq_true, if_false, ne_eq, not_true, if_pos beyond]

theorem State.target_global (h : apertureOf ea = .global) :
    s.target u ea size align rd wr = s.globalDest u s.myTile (s.pidOf s.me) ea rd wr := by
  rw [h] at accepted
  simp only [State.target, h, accepted, aligned, Bool.not_true, Bool.false_eq_true, if_false, ne_eq, not_true]

end

/-! ### The tile of a window -/

section
variable {s : State} {u : Family} {t pid l : Nat} {ea : Addr}

theorem State.windowTile_none (h : s.reachTile pid l = none) :
    s.windowTile u t pid l ea = .error (blockTrap kAccess 0x03 ea) := by rw [State.windowTile, h]

variable {x : Nat} (h : s.reachTile pid l = some x)
include h

theorem State.windowTile_far (far : u = .ldw ∧ (clusterOf x ≠ clusterOf t ∨ x = t)) :
    s.windowTile u t pid l ea = .error (blockTrap kAccess 0x05 ea) := by
  simp only [State.windowTile, h, if_pos far]

theorem State.windowTile_barred (near : ¬(u = .ldw ∧ (clusterOf x ≠ clusterOf t ∨ x = t))) (barred : s.permitted pid t l = false) :
    s.windowTile u t pid l ea = .error (blockTrap kAccess 0x08 ea) := by
  simp only [State.windowTile, h, if_neg near, barred, Bool.not_false, if_true]

end

/-- The checks on a window's tile and on an offset in a die store stop an instruction that goes by those of its target. -/
theorem address_checks_of_stopped {i : Instr} {s : State} {u : Family} {ea : Addr} {size align : Nat} {rd wr : Bool}
    (stop : apertureOf ea ≠ .global → StoppedBy i s (s.target u ea size align rd wr))
    (accepted : u.accepts (dieOf s.myTile) (apertureOf ea) = true) (aligned : ea.toNat % align = 0) :
    (∀ l c w off, apertureOf ea = .window l c w off →
      (s.reachTile (s.pidOf s.me) l = none → exec i s = .next (s.raise (trapOf kAccess 0x03 ea))) ∧
      (∀ x, s.reachTile (s.pidOf s.me) l = some x →
        let far := u = .ldw ∧ (clusterOf x ≠ clusterOf s.myTile ∨ x = s.myTile)
        (far → exec i s = .next (s.raise (trapOf kAccess 0x05 ea))) ∧
        (¬far → s.permitted (s.pidOf s.me) s.myTile l = false → exec i s = .next (s.raise (trapOf kAccess 0x08 ea))))) ∧
    (∀ die off, apertureOf ea = .dieStore die off → (s.part (s.pidOf s.me)).dssSize die < off + size →
      exec i s = .next (s.raise (trapOf kAccess 0x03 ea))) := by
  refine ⟨fun l c w off win => ?_, fun die off store beyond =>
    (stop (by simp [store])).trap (State.target_dieStore_beyond accepted aligned store beyond)⟩
  have tile : StoppedBy i s (s.windowTile u s.myTile (s.pidOf s.me) l ea) := fun b h =>
    stop (by simp [win]) b (by rw [State.target_window accepted aligned win, h]; rfl)
  exact ⟨fun none => tile.trap (State.windowTile_none none), fun x some =>
    ⟨fun far => tile.trap (State.windowTile_far some far), fun near barred => tile.trap (State.windowTile_barred some near barred)⟩⟩

/-! ### The translation of a global address -/

section
variable {s : State} {u : Family} {t pid : Nat} {ea : Addr} {rd wr : Bool}

theorem State.globalDest_miss (h : s.translate t pid ea.toNat rd wr = .miss) :
    s.globalDest u t pid ea rd wr = .error (.walk ea rd wr) := by rw [State.globalDest, h]

theorem State.globalDest_fault {d : BitVec 8} (h : s.translate t pid ea.toNat rd wr = .fault d) :
    s.globalDest u t pid ea rd wr = .error (blockTrap kXlate d ea) := by rw [State.globalDest, h]

variable {e : TlbEntry} (h : s.translate t pid ea.toNat rd wr = .page e)
include h

theorem State.globalDest_remote_refused (rem : e.rem = true) (put : u ≠ .put) (atom : u ≠ .atom) :
    s.globalDest u t pid ea rd wr = .error (blockTrap kAccess 0x02 ea) := by
  simp only [State.globalDest, h, rem, if_true, put, atom, or_self, if_false]

variable (own : e.rem = false)
include own

theorem State.globalDest_no_memory (none : s.physKey (e.phys ea.toNat) = none) :
    s.globalDest u t pid ea rd wr = .error (blockTrap kXlate 0x05 ea) := by
  simp only [State.globalDest, h, own, Bool.false_eq_true, if_false, none]

variable (memory : s.physKey (e.phys ea.toNat) ≠ none)
include memory

theorem State.globalDest_other_die {k : Nat} (stack : s.stackOf (e.phys ea.toNat) = some k)
    (other : s.ownerFor (dieOf t) k ≠ dieOf t) (ra : e.ra = false) :
    s.globalDest u t pid ea rd wr = .error (blockTrap kAccess 0x04 ea) := by
  obtain ⟨key, hk⟩ := Option.ne_none_iff_exists'.1 memory
  simp only [State.globalDest, h, own, Bool.false_eq_true, if_false, hk, stack, ra, Bool.not_false, and_true, ne_eq, other,
    not_false_eq_true, if_true]

theorem State.globalDest_cxl_atomic (tier : s.stackOf (e.phys ea.toNat) = none) (atom : u = .atom) :
    s.globalDest u t pid ea rd wr = .error (blockTrap kAccess 0x07 ea) := by
  obtain ⟨key, hk⟩ := Option.ne_none_iff_exists'.1 memory
  simp only [State.globalDest, h, own, Bool.false_eq_true, if_false, hk, tier, if_pos atom]

end

end Sys2Proof.Machine
end

section
/-! The checks of page 2 in order (08 R176, R177, R185, R187; 17 R376): O32. -/

namespace Sys2Proof.Machine

/-! ### Loads, stores, window accesses, puts and atomics -/

section
variable {s : State} {pre : Prefixes} {p : BitVec 3} {b : Block} (chosen : s.Chosen pre)
include chosen

theorem loadGlobal_of_error {pm : PostMode}
    (h : s.checked .ldg (s.strand.ptr p.toNat).addr (sizeOf' pre.ty) true false = .error b) :
    loadGlobal p pm pre s = s.blocked b := runKmem_of_error chosen (by simp only [h])

theorem storeGlobal_of_error {rel : Bool} {pm : PostMode}
    (h : s.checked .ldg (s.strand.ptr p.toNat).addr (sizeOf' pre.ty) false true = .error b) :
    storeGlobal rel p pm pre s = s.blocked b := runKmem_of_error chosen (by simp only [h])

theorem windowAccess_of_error {write rel : Bool} {pm : PostMode}
    (h : s.checked .ldw (s.strand.ptr p.toNat).addr (sizeOf' pre.ty) (!write) write = .error b) :
    windowAccess write rel p pm pre s = s.blocked b := runKmem_of_error chosen (by simp only [h])

theorem atomReturning_of_error {op : AtomOp} {o : AtomOrder}
    (h : s.checked .atom (s.strand.ptr p.toNat).addr (sizeOf' pre.ty) true true = .error b) :
    atomReturning op p o pre s = s.blocked b := runKmem_of_error chosen (by simp only [h])

theorem atomPosted_of_error {op : AtomOp} {o : AtomOrder}
    (h : s.checked .atom (s.strand.ptr p.toNat).addr (sizeOf' pre.ty) true true = .error b) :
    atomPosted op p o pre s = s.blocked b := runKmem_of_error chosen (by simp only [h])

theorem exec_put_of_error {pm : PostMode}
    (h : s.checked .put (s.strand.ptr p.toNat).addr (sizeOf' pre.ty) false true = .error b) :
    exec (.put p pm pre) s = .next (s.blocked b) :=
  congrArg Host.Outcome.next (runKmem_of_error chosen (by simp only [h]))

theorem exec_put_of_target_error {pm : PostMode} {d : Dest}
    (h : s.checked .put (s.strand.ptr p.toNat).addr (sizeOf' pre.ty) false true = .ok d)
    (bad : s.targetOk d (s.strand.ptr p.toNat).addr s.strand.x = .error b) : exec (.put p pm pre) s = .next (s.blocked b) :=
  congrArg Host.Outcome.next (runKmem_of_error chosen (by simp only [h, bad]))

end

/-- The instructions of page 2 that access what P names, with their families, and whether they read and write. -/
def pointerAccesses (p : BitVec 3) (pm : PostMode) (o : AtomOrder) (sc : Scope) (pre : Prefixes) :
    List (Family × Bool × Bool × Instr) :=
  [(.ldg, true, false, .ldg p pm pre), (.ldg, true, false, .ldgAcq p pm sc pre),
    (.ldg, false, true, .stg p pm pre), (.ldg, false, true, .stgRel p pm sc pre), (.ldw, true, false, .ldw p pm pre),
    (.ldw, true, false, .ldwAcq p pm sc pre), (.ldw, false, true, .stw p pm pre), (.ldw, false, true, .stwRel p pm sc pre),
    (.put, false, true, .put p pm pre), (.atom, true, true, .atomAdd p o sc pre), (.atom, true, true, .atomMin p o sc pre),
    (.atom, true, true, .atomMax p o sc pre), (.atom, true, true, .atomAnd p o sc pre), (.atom, true, true, .atomOr p o sc pre),
    (.atom, true, true, .atomXor p o sc pre), (.atom, true, true, .atomXchg p o sc pre),
    (.atom, true, true, .atomCas p o sc pre), (.atom, true, true, .atomnAdd p o sc pre),
    (.atom, true, true, .atomnMin p o sc pre), (.atom, true, true, .atomnMax p o sc pre),
    (.atom, true, true, .atomnAnd p o sc pre), (.atom, true, true, .atomnOr p o sc pre),
    (.atom, true, true, .atomnXor p o sc pre)]

/-- Each of them checks its address before anything else. -/
theorem pointerAccesses_stopped {s : State} {pre : Prefixes} (chosen : s.Chosen pre) (p : BitVec 3) (pm : PostMode) (o : AtomOrder)
    (sc : Scope) {e : Family × Bool × Bool × Instr} (he : e ∈ pointerAccesses p pm o sc pre) :
    StoppedBy e.2.2.2 s (s.checked e.1 (s.strand.ptr p.toNat).addr (sizeOf' pre.ty) e.2.1 e.2.2.1) := by
  intro b h
  simp only [pointerAccesses, List.mem_cons, List.not_mem_nil, or_false] at he
  rcases he with rfl | rfl | rfl | rfl | rfl | rfl | rfl | rfl | rfl | rfl | rfl | rfl | rfl | rfl | rfl | rfl | rfl | rfl |
    rfl | rfl | rfl | rfl | rfl
  iterate 2 exact congrArg Host.Outcome.next (loadGlobal_of_error chosen h)
  iterate 2 exact congrArg Host.Outcome.next (storeGlobal_of_error chosen h)
  iterate 4 exact congrArg Host.Outcome.next (windowAccess_of_error chosen h)
  · exact exec_put_of_error chosen h
  iterate 8 exact congrArg Host.Outcome.next (atomReturning_of_error chosen h)
  iterate 6 exact congrArg Host.Outcome.next (atomPosted_of_error chosen h)

/-! ### Counter targets -/

section
variable {s : State} {d : Dest} {ea : Addr} {x : Word64}

theorem State.targetOk_of_bad (h : s.targetBad (s.pidOf s.me) (s.destPkg d) x = true) :
    s.targetOk d ea x = .error (blockTrap kAccess 0x06 ea) := if_pos h

theorem State.targetOk_of_barred (fine : s.targetBad (s.pidOf s.me) (s.destPkg d) x = false)
    (h : s.targetBarred s.myTile (s.pidOf s.me) (s.destPkg d) x = true) :
    s.targetOk d ea x = .error (blockTrap kAccess 0x08 ea) := by
  simp only [State.targetOk, fine, h, Bool.false_eq_true, if_false, if_true]

/-- Where every part of a PUTC goes to one package, its target is checked as a put's. -/
theorem State.partsTargetOk_eq {m : Nat} {more : List (Dest × Nat)}
    (h : targetV x = false ∨ ∀ e ∈ more, s.destPkg e.1 = s.destPkg d) :
    s.partsTargetOk ((d, m) :: more) ea x = s.targetOk d ea x := by
  refine if_neg ?_
  simp only [Bool.and_eq_true, List.any_eq_true, decide_eq_true_eq, not_and, not_exists]
  intro counts e mem apart
  rcases h with none | one
  · simp [none] at counts
  · exact apart (one e mem)

end

/-! ### PUTC -/

section
variable {s : State} {ea : Addr}

theorem State.lineParts_of_target_error {b : Block} (there : apertureOf ea ≠ .global)
    (h : s.target .put ea 64 4 false true = .error b) : s.lineParts ea = .error b := by
  cases ap : apertureOf ea with
  | global => exact absurd ap there
  | localMem | window | dieStore | reserved => simp only [State.lineParts, ap, h]; rfl

theorem State.lineParts_of_misaligned (accepted : Family.put.accepts 0 (apertureOf ea) = true) (h : ea.toNat % 4 ≠ 0) :
    s.lineParts ea = .error (blockTrap kAlign 0x01 ea) := by
  by_cases there : apertureOf ea = .global
  · simp only [State.lineParts, there, if_pos h]
  · exact State.lineParts_of_target_error there (State.target_of_misaligned (Family.put_accepts _ _ _ ▸ accepted) h)

end

/-- A PUTC whose target is of an aperture that puts accept, and whose source is the scratchpad from an offset on. -/
structure State.LineFrom (s : State) (p : BitVec 3) (off : Nat) : Prop where
  high : field s.strand.a 48 16 = 0
  accepted : Family.put.accepts 0 (apertureOf (s.strand.a.setWidth 48)) = true
  scratch : apertureOf (s.strand.ptr p.toNat).addr = .localMem off

theorem State.LineFrom.known {s : State} {p : BitVec 3} {off : Nat} (line : s.LineFrom p off) :
    apertureOf (s.strand.a.setWidth 48) ≠ .reserved := Family.ne_reserved_of_accepts line.accepted

section
variable {s : State} {pre : Prefixes} {p : BitVec 3} {pm : PostMode} (chosen : s.Chosen pre)
include chosen

theorem exec_putc_of_reserved (h : field s.strand.a 48 16 ≠ 0 ∨ apertureOf (s.strand.a.setWidth 48) = .reserved) :
    exec (.putc p pm pre) s = .next (s.raise (trapOf kAccess 0x03 (s.strand.a.setWidth 48))) :=
  exec_of_trap chosen rfl (if_pos h)

section
variable (high : field s.strand.a 48 16 = 0) (source : apertureOf (s.strand.ptr p.toNat).addr ≠ .reserved)
include high source

theorem exec_putc_of_not_accepts (known : apertureOf (s.strand.a.setWidth 48) ≠ .reserved)
    (h : ¬Family.put.accepts 0 (apertureOf (s.strand.a.setWidth 48)) = true) :
    exec (.putc p pm pre) s = .next (s.raise (trapOf kAccess 0x02 (s.strand.a.setWidth 48))) := by
  refine exec_of_trap chosen rfl ?_
  simp only [high, known, source, h, ne_eq, not_true, or_self, if_false, Bool.not_false, if_true]

theorem exec_putc_of_source_not_local (accepted : Family.put.accepts 0 (apertureOf (s.strand.a.setWidth 48)) = true)
    (h : ∀ off, apertureOf (s.strand.ptr p.toNat).addr ≠ .localMem off) :
    exec (.putc p pm pre) s = .next (s.raise (trapOf kAccess 0x02 (s.strand.ptr p.toNat).addr)) := by
  have known := Family.ne_reserved_of_accepts accepted
  refine exec_of_trap chosen rfl ?_
  simp only [high, known, source, accepted, ne_eq, not_true, or_self, if_false, Bool.not_true, Bool.false_eq_true]

end

section
variable {off : Nat} (line : s.LineFrom p off)
include line

theorem exec_putc_of_source_beyond (h : 2 ^ 21 < off + 64) :
    exec (.putc p pm pre) s = .next (s.raise (trapOf kAccess 0x01 (s.strand.ptr p.toNat).addr)) := by
  refine exec_of_trap chosen rfl ?_
  simp only [line.high, line.known, line.scratch, line.accepted, reduceCtorEq, ne_eq, not_true, or_self, if_false, Bool.not_true,
    Bool.false_eq_true, if_pos h]

variable (inside : off + 64 ≤ 2 ^ 21)
include inside

theorem exec_putc_of_source_misaligned (h : off % 4 ≠ 0) :
    exec (.putc p pm pre) s = .next (s.raise (trapOf kAlign 0x01 (s.strand.ptr p.toNat).addr)) := by
  refine exec_of_trap chosen rfl ?_
  simp only [line.high, line.known, line.scratch, line.accepted, reduceCtorEq, ne_eq, not_true, or_self, if_false, Bool.not_true,
    Bool.false_eq_true, Nat.not_lt.2 inside, if_pos h]

variable (whole : off % 4 = 0)
include whole

theorem exec_putc_of_lineParts_error : StoppedBy (.putc p pm pre) s (s.lineParts (s.strand.a.setWidth 48)) := by
  intro b h
  refine exec_of_error chosen rfl ?_
  simp only [line.high, line.known, line.scratch, line.accepted, reduceCtorEq, ne_eq, not_true, or_self, if_false, Bool.not_true,
    Bool.false_eq_true, Nat.not_lt.2 inside, whole, h]

theorem exec_putc_of_target_error {d : Dest} {m : Nat} {more : List (Dest × Nat)}
    (parts : s.lineParts (s.strand.a.setWidth 48) = .ok ((d, m) :: more)) :
    StoppedBy (.putc p pm pre) s (s.partsTargetOk ((d, m) :: more) (s.strand.a.setWidth 48) s.strand.x) := by
  intro b h
  refine exec_of_error chosen rfl ?_
  simp only [line.high, line.known, line.scratch, line.accepted, reduceCtorEq, ne_eq, not_true, or_self, if_false, Bool.not_true,
    Bool.false_eq_true, Nat.not_lt.2 inside, whole, parts, h]

end

end

/-! ### MCST and WINSET -/

theorem anyDie_beyond_iff (s : State) (off n : Nat) :
    ((bitList 4 s.strand.x.toNat).any fun d => decide ((s.part (s.pidOf s.me)).dssSize d < off + n)) = true ↔
      ∃ d < 4, s.strand.x.getLsbD d = true ∧ (s.part (s.pidOf s.me)).dssSize d < off + n := by
  simp only [bitList, List.any_eq_true, List.mem_filter, List.mem_range, decide_eq_true_eq, and_assoc]
  rfl

section
variable {s : State} {pre : Prefixes} {p : BitVec 3} {pm : PostMode} (chosen : s.Chosen pre)
include chosen

theorem exec_mcst_of_reserved (h : apertureOf (s.strand.ptr p.toNat).addr = .reserved) :
    exec (.mcst p pm pre) s = .next (s.raise (trapOf kAccess 0x03 (s.strand.ptr p.toNat).addr)) :=
  exec_of_trap chosen rfl (by simp only [h])

theorem exec_mcst_of_not_dieStore (known : apertureOf (s.strand.ptr p.toNat).addr ≠ .reserved)
    (h : ∀ die off, apertureOf (s.strand.ptr p.toNat).addr ≠ .dieStore die off) :
    exec (.mcst p pm pre) s = .next (s.raise (trapOf kAccess 0x02 (s.strand.ptr p.toNat).addr)) := by
  refine exec_of_trap chosen rfl ?_
  cases ap : apertureOf (s.strand.ptr p.toNat).addr with
  | reserved => exact absurd ap known
  | dieStore die off => exact absurd ap (h die off)
  | global | localMem | window => simp only [ap]

theorem exec_mcst_of_die_ne_zero {die off : Nat} (h : apertureOf (s.strand.ptr p.toNat).addr = .dieStore die off) (hd : die ≠ 0) :
    exec (.mcst p pm pre) s = .next (s.raise (trapOf kAccess 0x03 (s.strand.ptr p.toNat).addr)) :=
  exec_of_trap chosen rfl (by simp only [h, if_pos hd])

variable {off : Nat} (h : apertureOf (s.strand.ptr p.toNat).addr = .dieStore 0 off)
include h

theorem exec_mcst_of_misaligned (hm : (s.strand.ptr p.toNat).addr.toNat % sizeOf' pre.ty ≠ 0) :
    exec (.mcst p pm pre) s = .next (s.raise (trapOf kAlign 0x01 (s.strand.ptr p.toNat).addr)) :=
  exec_of_trap chosen rfl (by simp only [h, ne_eq, not_true, if_false, if_pos hm])

variable (aligned : (s.strand.ptr p.toNat).addr.toNat % sizeOf' pre.ty = 0)
include aligned

theorem exec_mcst_of_beyond
    (hb : ∃ d < 4, s.strand.x.getLsbD d = true ∧ (s.part (s.pidOf s.me)).dssSize d < off + sizeOf' pre.ty) :
    exec (.mcst p pm pre) s = .next (s.raise (trapOf kAccess 0x03 (s.strand.ptr p.toNat).addr)) := by
  have any := (anyDie_beyond_iff s off (sizeOf' pre.ty)).2 hb
  exact exec_of_trap chosen rfl (by simp only [h, aligned, ne_eq, not_true, if_false, if_pos any])

theorem exec_mcst_of_mask_malformed
    (within : ¬∃ d < 4, s.strand.x.getLsbD d = true ∧ (s.part (s.pidOf s.me)).dssSize d < off + sizeOf' pre.ty)
    (hx : field s.strand.x 4 60 ≠ 0) :
    exec (.mcst p pm pre) s = .next (s.raise (trapOf kAccess 0x06 (s.strand.ptr p.toNat).addr)) := by
  have any := mt (anyDie_beyond_iff s off (sizeOf' pre.ty)).1 within
  exact exec_of_trap chosen rfl (by simp only [h, aligned, ne_eq, not_true, if_false, if_neg any, if_pos hx])

end

theorem exec_winset_of_malformed {s : State} {pre : Prefixes} (chosen : s.Chosen pre) (w : BitVec 3)
    (h : windowOk s.strand.a = false) : exec (.winset w pre) s = .next (s.raise (trapOf kAccess 0x06 0)) :=
  exec_of_trap chosen rfl (by simp only [h, Bool.not_false, if_true])

/-! ### The statement -/

/-- Settles O32: each check stops the instruction where those before it have passed. -/
theorem pageTwoTraps : Obligations.PageTwoTraps := by
  unfold Obligations.PageTwoTraps
  intro s p pm o sc pre chosen n k q pid t access align checks
  refine ⟨?_, ?_, ?_, ?_, fun w h => exec_winset_of_malformed chosen w h⟩
  · intro e he u i accepted
    have stop : StoppedBy i s (s.checked u q n e.2.1 e.2.2.1) := pointerAccesses_stopped chosen p pm o sc he
    have target (h : apertureOf q ≠ .reserved) : StoppedBy i s (s.target u q n n e.2.1 e.2.2.1) :=
      fun b hb => stop b (State.checked_of_target_error h hb)
    have known (h : accepted) : apertureOf q ≠ .reserved := Family.ne_reserved_of_accepts h
    refine ⟨fun h => stop.trap (State.checked_of_reserved h), fun h no => (target h).trap (State.target_of_not_accepts no),
      fun yes h => (target (known yes)).trap (State.target_of_misaligned yes h),
      fun yes whole => ⟨address_checks_of_stopped (fun _ => target (known yes)) yes whole, ?_⟩⟩
    intro global x
    have page : StoppedBy i s (s.globalDest u t pid q e.2.1 e.2.2.1) := fun b h =>
      target (known yes) b ((State.target_global yes whole global).trans h)
    refine ⟨fun miss room => ?_, fun d fault => page.trap (State.globalDest_fault fault), ?_⟩
    · rw [page _ (State.globalDest_miss miss), State.blocked_walk _ _ _ room]
    · intro y found pa
      exact ⟨fun rem put atom => page.trap (State.globalDest_remote_refused found rem put atom),
        fun own none => page.trap (State.globalDest_no_memory found own none), fun own memory =>
          ⟨fun h stack other ra => page.trap (State.globalDest_other_die found own memory stack other ra),
            fun tier atom => page.trap (State.globalDest_cxl_atomic found own memory tier atom)⟩⟩
  · exact fun d ok => ⟨fun bad => exec_put_of_target_error chosen ok (State.targetOk_of_bad bad),
      fun fine barred => exec_put_of_target_error chosen ok (State.targetOk_of_barred fine barred)⟩
  · intro ea i fine accepted
    refine ⟨fun h => exec_putc_of_reserved chosen (h.imp_left (mt (field_eq_zero_iff _ _ _).1)),
      fun ⟨high, known, source⟩ no => exec_putc_of_not_accepts chosen ((field_eq_zero_iff _ _ _).2 high) source known no,
      fun ⟨high, _, source⟩ yes h => exec_putc_of_source_not_local chosen ((field_eq_zero_iff _ _ _).2 high) source yes h, ?_⟩
    rintro off ⟨high, -, -⟩ yes scratch
    have line : s.LineFrom p off := ⟨(field_eq_zero_iff _ _ _).2 high, yes, scratch⟩
    refine ⟨exec_putc_of_source_beyond chosen line, exec_putc_of_source_misaligned chosen line, fun inside whole h => ?_,
      fun inside whole h => ?_⟩
    · exact (exec_putc_of_lineParts_error chosen line inside whole).trap (State.lineParts_of_misaligned yes h)
    · have stop := exec_putc_of_lineParts_error (pm := pm) chosen line inside whole
      exact ⟨address_checks_of_stopped (fun there b hb => stop b (State.lineParts_of_target_error there hb))
        (Family.put_accepts _ _ _ ▸ yes) h, fun d m more parts one bad =>
          (exec_putc_of_target_error chosen line inside whole parts).trap
            ((State.partsTargetOk_eq (.inr one)).trans (State.targetOk_of_bad bad))⟩
  · intro i part beyond
    refine ⟨exec_mcst_of_reserved chosen, exec_mcst_of_not_dieStore chosen, fun die off store =>
      ⟨exec_mcst_of_die_ne_zero chosen store, ?_⟩⟩
    refine ⟨fun zero => exec_mcst_of_misaligned chosen (zero ▸ store), fun zero whole =>
      exec_mcst_of_beyond chosen (zero ▸ store) whole, fun zero whole within mask =>
      exec_mcst_of_mask_malformed chosen (zero ▸ store) whole within (mt (field_eq_zero_iff _ _ _).1 mask)⟩

end Sys2Proof.Machine
end

section
/-! Loads and stores of global memory and of the die stores (08 R179, R180, R182, R183; 17 R399): O26, O27. -/

namespace Sys2Proof.Machine

/-! ### Loads -/

/-- A load that waits for the end of a hand-over. -/
def State.heldLoad (s : State) (p : BitVec 3) (pre : Prefixes) : WinReq :=
  ⟨s.issuer, (s.strand.ptr p.toNat).addr, 0, 0, 0, 0, false, sizeOf' pre.ty, [], pre.ty, false, false, []⟩

section
variable {s : State} {pre : Prefixes} {p : BitVec 3} {pm : PostMode} {key : Nat} (chosen : s.Chosen pre)
  (ok : s.checked .ldg (s.strand.ptr p.toNat).addr (sizeOf' pre.ty) true false = .ok (.mem [key]))
include chosen ok

theorem loadGlobal_performed (free : s.heldFor [key] = none) (clean : s.poisonIn key (sizeOf' pre.ty) = none) :
    loadGlobal p pm pre s = (s.awaitPtr p pm (sizeOf' pre.ty) pre pre.ty).reply s.me s.myCtx
      { Reply.plain with a := some (memExt pre.ty (s.rdNat key (sizeOf' pre.ty))) } :=
  runKmem_of_ok chosen (by simp only [ok, free, clean])

theorem loadGlobal_held {h : Nat} (held : s.heldFor [key] = some h) :
    loadGlobal p pm pre s = (s.awaitPtr p pm (sizeOf' pre.ty) pre pre.ty).waitFor h
      ⟨.loadReply, .load (s.heldLoad p pre) [key]⟩ :=
  runKmem_of_ok chosen (by simp only [ok, held, State.heldLoad])

end

/-- Both forms of LDG run alike, with the same types. -/
theorem globalLoad_forms {p : BitVec 3} {pm : PostMode} {sc : Scope} {pre : Prefixes} {i : Instr} (s : State)
    (hi : i ∈ [Instr.ldg p pm pre, .ldgAcq p pm sc pre]) (wf : i.WellFormed) :
    exec i s = .next (loadGlobal p pm pre s) ∧ ∀ t, pre.ty = some t → t ∈ Ty.ints ++ [.f32] := by
  have admitted := wRule_admits_of_wellFormed wf
  simp only [List.mem_cons, List.not_mem_nil, or_false] at hi
  rcases hi with rfl | rfl
  · exact ⟨rfl, fun t => WRule.mem_types admitted⟩
  · exact ⟨rfl, fun t => WRule.mem_types admitted⟩

theorem exec_loadReply_load {s : State} {m : WinReq} {key : Nat} (ha : s.arg = .load m [key])
    (clean : s.poisonIn key m.size = none) : exec .loadReply s =
      .next (s.reply m.by_.core m.by_.ctx { Reply.plain with a := some (memExt m.ty (s.rdNat key m.size)) }) := by
  change execLoadReply s = _
  simp only [execLoadReply, ha, State.landLoad, clean]

/-- Settles O26: a load is performed at issue, or when the hand-over that held it has ended. -/
theorem globalLoads : Obligations.GlobalLoads := by
  unfold Obligations.GlobalLoads
  refine ⟨?_, fun s m key ha clean => exec_loadReply_load ha clean⟩
  intro s p pm sc pre key chosen n q waiting ok i hi wf
  obtain ⟨run, types⟩ := globalLoad_forms s hi wf
  refine ⟨fun free clean => ?_, fun h held => ⟨s.heldLoad p pre, rfl, rfl, rfl, rfl, ?_⟩⟩
  · rw [run, loadGlobal_performed chosen ok free clean, memExt_eq_loadedValue types]
    rfl
  · rw [run, loadGlobal_held chosen ok held]
    rfl

/-! ### Stores -/

theorem State.wrKeys_singleton (s : State) (data : List Byte) (key : Nat) : s.wrKeys data [key] = s.wrN key data := by
  simp [State.wrKeys, List.range_one]

/-- The registers of the strand after a store from A through P. -/
def State.afterStore (s : State) (p : BitVec 3) (pm : PostMode) (pre : Prefixes) : Ctx :=
  { s.strand.applyPost p pm (sizeOf' pre.ty) with f := storeFlags pre s.strand.a s.strand.f }

/-- A posted store, or a release, on its way to its location. -/
def State.storePost (s : State) (p : BitVec 3) (pre : Prefixes) (key : Nat) (rel : Bool) : PutMsg :=
  ⟨s.issuer, (s.strand.ptr p.toNat).addr, .mem [key], storedBytes pre s.strand.a, 0, [], rel, none, false⟩

section
variable {s : State} {pre : Prefixes} {p : BitVec 3} {pm : PostMode} {key : Nat} {rel : Bool} (chosen : s.Chosen pre)
  (bytes : storeBytes pre s.strand.a = (storedBytes pre s.strand.a, decide (storeValue pre s.strand.a ≠ s.strand.a.toInt)))
  (ok : s.checked .ldg (s.strand.ptr p.toNat).addr (sizeOf' pre.ty) false true = .ok (.mem [key]))
  (room : (s.core s.me).posted < 32)
include chosen bytes ok room

theorem storeGlobal_performed (now : (rel && !s.released) = false) (free : s.heldFor [key] = none) :
    storeGlobal rel p pm pre s =
      (s.wrN key (storedBytes pre s.strand.a)).complete (s.afterStore p pm pre) (s.strand.next pre) := by
  refine runKmem_of_ok chosen ?_
  simp only [ok, if_neg (Nat.not_le.2 room), now, Bool.false_eq_true, if_false, free, bytes,
    flagsSat_storeValue, State.wrKeys_singleton, State.afterStore]
  rfl

theorem storeGlobal_held (now : (rel && !s.released) = false) {h : Nat} (held : s.heldFor [key] = some h) :
    storeGlobal rel p pm pre s = ((s.postBegin s.me).complete (s.afterStore p pm pre) (s.strand.next pre)).waitFor h
      ⟨.putDelivery, .put (s.storePost p pre key rel)⟩ := by
  refine runKmem_of_ok chosen ?_
  simp only [ok, if_neg (Nat.not_le.2 room), now, Bool.false_eq_true, if_false, held, bytes,
    flagsSat_storeValue, State.afterStore, State.storePost]
  rfl

theorem storeGlobal_queued (later : (rel && !s.released) = true) :
    storeGlobal rel p pm pre s = ((s.postBegin s.me).complete (s.afterStore p pm pre) (s.strand.next pre)).due
      [⟨.putDelivery, .put (s.storePost p pre key rel)⟩] := by
  refine runKmem_of_ok chosen ?_
  simp only [ok, if_neg (Nat.not_le.2 room), later, if_true, bytes, flagsSat_storeValue, State.afterStore, State.storePost]
  rfl

end

/-- Settles O27: a store is performed at issue, waits for a hand-over, or as a release holds its place in the queue. -/
theorem globalStores : Obligations.GlobalStores := by
  unfold Obligations.GlobalStores
  intro s p pm sc pre key chosen n k q k' held ok room stored queued m
  have bytes {i : Instr} (wf : i.WellFormed) (ints : i.wRule.sat = Ty.ints) (chain : i.pre = pre) :=
    storeBytes_eq (pre := pre) (chain ▸ wRule_admits_of_wellFormed wf) ints s.strand.a
  refine ⟨fun wf => ?_, fun wf released => ?_, fun wf pending => ?_⟩
  · have bytes := bytes wf rfl rfl
    exact ⟨fun free => congrArg Host.Outcome.next (storeGlobal_performed chosen bytes ok room rfl free),
      fun h holds => congrArg Host.Outcome.next (storeGlobal_held chosen bytes ok room rfl holds)⟩
  · have bytes := bytes wf rfl rfl
    have now : (true && !s.released) = false := by rw [released]; rfl
    exact ⟨fun free => congrArg Host.Outcome.next (storeGlobal_performed chosen bytes ok room now free),
      fun h holds => congrArg Host.Outcome.next (storeGlobal_held chosen bytes ok room now holds)⟩
  · have later : (true && !s.released) = true := by rw [pending]; rfl
    exact congrArg Host.Outcome.next (storeGlobal_queued chosen (bytes wf rfl rfl) ok room later)

end Sys2Proof.Machine
end

section
/-! SUPPORT. The check at a window's target (08 R184 to R186; 17 R377), and releases that wait (08 R182). -/

namespace Sys2Proof.Machine

/-- A request that is no release, or one that nothing holds back any more, does not wait. -/
theorem release_goes_on {rel released : Bool} (h : rel = false ∨ released = true) : (rel && !released) = false := by
  rcases h with rfl | rfl
  · rfl
  · exact Bool.and_false _

theorem release_waits {rel released : Bool} (h : rel = true) (h' : released = false) : (rel && !released) = true := by
  rw [h, h']; rfl

/-- A lent tile of a partition that its owner holds back (17 R377). -/
theorem takenBack_iff (s : State) (t pid : Nat) : (s.heldBack t && decide (entryBpid (s.tileEntry t) = pid)) = true ↔
    s.heldBack t = true ∧ ((s.tileEntry t).extractLsb' 32 16).toNat = pid := by
  rw [Bool.and_eq_true, decide_eq_true_iff, entryBpid, field_eq_toNat]

theorem field_eq_two_iff {n : Nat} (r : BitVec n) (lo : Nat) : field r lo 2 = 2 ↔ r.extractLsb' lo 2 = 2 := by
  rw [field_eq_toNat, BitVec.toNat_eq]; rfl

/-! ### The descriptor -/

section
variable {s : State} {t c w off size : Nat} {u : WinUse} {d : Word64} (hd : Tab.get 0 (s.core (8 * t + c)).wins w = d)
include hd

theorem State.windowCheck_unset (h : d.extractLsb' 62 2 = 0) : s.windowCheck t c w off size u = .error 0x02 := by
  rw [State.windowCheck, hd]
  exact if_pos ((field_eq_zero_iff _ _ _).2 h)

theorem State.windowCheck_not_serving (h : d.extractLsb' 62 2 = 2) : s.windowCheck t c w off size u = .error 0x03 := by
  have two := (field_eq_two_iff d 62).2 h
  simp only [State.windowCheck, hd, two, OfNat.ofNat_ne_zero, if_false, if_true]

variable (set : d.extractLsb' 62 2 ≠ 0) (serving : d.extractLsb' 62 2 ≠ 2)
include set serving

theorem State.windowCheck_not_permitted (h : d.getLsbD u.bit = false) : s.windowCheck t c w off size u = .error 0x04 := by
  rw [ne_eq, ← field_eq_zero_iff] at set
  rw [ne_eq, ← field_eq_two_iff] at serving
  simp only [State.windowCheck, hd, set, serving, h, Bool.not_false, if_false, if_true]

variable (permitted : d.getLsbD u.bit = true)
include permitted

theorem State.windowCheck_beyond (h : (d.extractLsb' 20 19).toNat < off + size) :
    s.windowCheck t c w off size u = .error 0x01 := by
  rw [ne_eq, ← field_eq_zero_iff] at set
  rw [ne_eq, ← field_eq_two_iff] at serving
  rw [← field_eq_toNat] at h
  simp only [State.windowCheck, hd, set, serving, permitted, Bool.not_true, Bool.false_eq_true, if_false, if_pos h]

theorem State.windowCheck_ok (h : off + size ≤ (d.extractLsb' 20 19).toNat) : s.windowCheck t c w off size u =
    .ok (scratchKey t (0x40000 * c + (d.extractLsb' 0 18).toNat + off)) := by
  rw [ne_eq, ← field_eq_zero_iff] at set
  rw [ne_eq, ← field_eq_two_iff] at serving
  rw [← field_eq_toNat] at h
  simp only [State.windowCheck, hd, set, serving, permitted, Bool.not_true, Bool.false_eq_true, if_false,
    if_neg (Nat.not_lt.2 h), field_eq_toNat d 0 18]

end

end Sys2Proof.Machine
end

section
/-! Window accesses: LDW and STW (08 R183 to R186): O28. -/

namespace Sys2Proof.Machine

/-! ### Issue -/

theorem windowAccess_sent {s : State} {pre : Prefixes} {p : BitVec 3} {pm : PostMode} {write rel : Bool} {x c w o : Nat}
    (chosen : s.Chosen pre)
    (ok : s.checked .ldw (s.strand.ptr p.toNat).addr (sizeOf' pre.ty) (!write) write = .ok (.window x c w o)) :
    windowAccess write rel p pm pre s = (s.awaitPtr p pm (sizeOf' pre.ty) pre pre.ty).due [⟨.windowAccessCheck, .win
      ⟨s.issuer, (s.strand.ptr p.toNat).addr, x, c, w, o, write, sizeOf' pre.ty,
        if write then (storeBytes pre s.strand.a).1 else [], pre.ty, write && (storeBytes pre s.strand.a).2, rel, []⟩⟩] :=
  runKmem_of_ok chosen (by simp only [ok])

/-- The forms of LDW and STW: each is a window access, and those that write store what the statements name. -/
theorem windowAccess_forms {p : BitVec 3} {pm : PostMode} {sc : Scope} {pre : Prefixes} {e : Instr × Bool × Bool} (s : State)
    (he : e ∈ [(Instr.ldw p pm pre, false, false), (.ldwAcq p pm sc pre, false, false), (.stw p pm pre, true, false),
      (.stwRel p pm sc pre, true, true)]) (wf : e.1.WellFormed) :
    exec e.1 s = .next (windowAccess e.2.1 e.2.2 p pm pre s) ∧ (e.2.1 = true → storeBytes pre s.strand.a =
      (storedBytes pre s.strand.a, decide (storeValue pre s.strand.a ≠ s.strand.a.toInt))) := by
  have admitted := wRule_admits_of_wellFormed wf
  simp only [List.mem_cons, List.not_mem_nil, or_false] at he
  rcases he with rfl | rfl | rfl | rfl
  · exact ⟨rfl, nofun⟩
  · exact ⟨rfl, nofun⟩
  · exact ⟨rfl, fun _ => storeBytes_eq admitted rfl _⟩
  · exact ⟨rfl, fun _ => storeBytes_eq admitted rfl _⟩

/-! ### At the target -/

section
variable {s : State} {m : WinReq} (ha : s.arg = .win m)
include ha

theorem exec_windowAccessCheck_waits (h : (m.rel && !s.releasedFor m.by_) = true) :
    exec .windowAccessCheck s = .next (s.dueIn 4 ⟨.windowAccessCheck, .win m⟩) := by
  change execWindowAccessCheck s = _
  simp only [execWindowAccessCheck, ha, h, if_true]

variable (now : (m.rel && !s.releasedFor m.by_) = false)
include now

theorem exec_windowAccessCheck_back (h : (s.heldBack m.tile && decide (entryBpid (s.tileEntry m.tile) = m.by_.pid)) = true) :
    exec .windowAccessCheck s = .next (s.reply m.by_.core m.by_.ctx (Reply.trapped kAccess 0x03 m.addr)) := by
  change execWindowAccessCheck s = _
  simp only [execWindowAccessCheck, ha, now, h, Bool.false_eq_true, if_false, if_true]

variable (inside : ¬(s.heldBack m.tile && decide (entryBpid (s.tileEntry m.tile) = m.by_.pid)) = true)
include inside

theorem exec_windowAccessCheck_refused {d : BitVec 8} (h : s.windowCheck m.tile m.core m.win m.off m.size
    (if m.write then .store else .load) = .error d) :
    exec .windowAccessCheck s = .next (s.reply m.by_.core m.by_.ctx (Reply.trapped kNack d m.addr)) := by
  change execWindowAccessCheck s = _
  simp only [execWindowAccessCheck, ha, now, inside, h, Bool.false_eq_true, if_false]

variable {key : Nat} (h : s.windowCheck m.tile m.core m.win m.off m.size (if m.write then .store else .load) = .ok key)
include h

theorem exec_windowAccessCheck_store (store : m.write = true) : exec .windowAccessCheck s =
    .next ((s.wrBad key m.data m.bad).reply m.by_.core m.by_.ctx
      { Reply.plain with fmask := if m.sat then 0x100 else 0, fval := 0x100 }) := by
  change execWindowAccessCheck s = _
  rw [if_pos store] at h
  simp only [execWindowAccessCheck, ha, now, inside, h, Bool.false_eq_true, if_false, if_pos store]

theorem exec_windowAccessCheck_load (load : m.write = false) (clean : s.poisonIn key m.size = none) :
    exec .windowAccessCheck s = .next (s.reply m.by_.core m.by_.ctx
      { Reply.plain with a := some (memExt m.ty (s.rdNat key m.size)) }) := by
  change execWindowAccessCheck s = _
  simp only [load, Bool.false_eq_true, if_false] at h
  simp only [execWindowAccessCheck, ha, now, inside, h, load, Bool.false_eq_true, if_false, clean]

end

theorem getLsbD_winUse (d : Word64) (write : Bool) :
    d.getLsbD (if write then WinUse.store else .load).bit = if write then d.getLsbD 60 else d.getLsbD 59 := by
  cases write <;> rfl

/-- Settles O28: the access is sent to its target tile, waits there as a release, and is served or refused. -/
theorem windowAccesses : Obligations.WindowAccesses := by
  unfold Obligations.WindowAccesses
  refine ⟨?_, ?_, fun s m ha rel pending => exec_windowAccessCheck_waits ha (release_waits rel pending)⟩
  · intro s p pm sc pre x c w o chosen n k q e he wf ok m
    obtain ⟨run, bytes⟩ := windowAccess_forms s he wf
    rw [run, windowAccess_sent chosen ok]
    obtain ⟨i, write, rel⟩ := e
    cases write with
    | false => rfl
    | true => rw [bytes rfl]; rfl
  · intro s m ha go answer back d allowed state len key
    have now := release_goes_on go
    have inside (h : ¬back) := mt (takenBack_iff s m.tile m.by_.pid).1 h
    have refused {b : BitVec 8} (h : ¬back) := exec_windowAccessCheck_refused (d := b) ha now (inside h)
    have bit : d.getLsbD (if m.write then WinUse.store else .load).bit = allowed := getLsbD_winUse d m.write
    refine ⟨fun h => exec_windowAccessCheck_back ha now ((takenBack_iff _ _ _).2 h),
      fun h unset => refused h (State.windowCheck_unset rfl unset),
      fun h off => refused h (State.windowCheck_not_serving rfl off),
      fun h set on no => refused h (State.windowCheck_not_permitted rfl set on (bit.trans no)),
      fun h set on yes beyond => refused h (State.windowCheck_beyond rfl set on (bit.trans yes) beyond), ?_⟩
    intro h set on yes within
    have served := State.windowCheck_ok rfl set on (bit.trans yes) within
    exact ⟨exec_windowAccessCheck_store ha now (inside h) served, exec_windowAccessCheck_load ha now (inside h) served⟩

end Sys2Proof.Machine
end

section
/-! What becomes of posted operations: puts land or are refused, refusals are raised, failures reported, replicas written (08 R186,
R189, R190, R196, R197): O30. -/

namespace Sys2Proof.Machine

/-! ### Puts -/

/-- Data without poison lands at one place as it is. -/
theorem State.land_singleton (s : State) {m : PutMsg} (clean : m.bad = []) (key : Nat) : s.land m [key] = s.wrN key m.data := by
  simp [State.land, clean, State.wrKeys_singleton]

/-- A refused put finds its context, with fewer than 16 refusals queued (08 R190). -/
def State.TakesRefusal (s : State) (i : Issuer) : Prop :=
  ((s.core i.core).ctx i.ctx).live = true ∧ s.tcbOf i.core = i.tcb ∧ (s.core i.core).refusals.length < 16

theorem State.takesRefusal_iff (s : State) (i : Issuer) : (((s.core i.core).ctx i.ctx).live && decide (s.tcbOf i.core = i.tcb) &&
    decide ((s.core i.core).refusals.length < 16)) = true ↔ s.TakesRefusal i := by
  simp only [Bool.and_eq_true, decide_eq_true_eq, and_assoc, State.TakesRefusal]

theorem State.refusePut_queued {s : State} {m : PutMsg} (d : BitVec 8) (h : s.TakesRefusal m.by_) :
    s.refusePut m d = (s.setCore m.by_.core { s.core m.by_.core with
      refusals := (s.core m.by_.core).refusals ++ [⟨m.by_.ctx, m.by_.opc, m.addr, d⟩] }).postEnd m.by_ :=
  if_pos ((s.takesRefusal_iff m.by_).2 h)

theorem State.refusePut_recorded {s : State} {m : PutMsg} (d : BitVec 8) (h : ¬s.TakesRefusal m.by_) :
    s.refusePut m d = s.due [⟨.postedOpFailure, .failed m.by_ 3 d m.addr⟩] :=
  if_neg (mt (s.takesRefusal_iff m.by_).1 h)

section
variable {s : State} {m : PutMsg} (ha : s.arg = .put m)
include ha

theorem exec_putDelivery_waits (h : (m.rel && !s.releasedFor m.by_) = true) :
    exec .putDelivery s = .next (s.dueIn 4 ⟨.putDelivery, .put m⟩) := by
  change execPutDelivery s = _
  simp only [execPutDelivery, ha, h, if_true]

variable (now : (m.rel && !s.releasedFor m.by_) = false)
include now

theorem exec_putDelivery_remote {pkg : Nat} {va : Addr} (hd : m.dest = .remote pkg va) :
    exec .putDelivery s = .next ((if m.left then s else s.postLeave m.by_).sendRequest m.by_ pkg
      fun here job tag => .put here job tag { m with left := true }) := by
  change execPutDelivery s = _
  simp only [execPutDelivery, ha, now, Bool.false_eq_true, if_false, hd]

theorem exec_putDelivery_held {key h : Nat} (hd : m.dest = .mem [key])
    (held : s.heldBy (dieOf (m.by_.core / 8)) (keyStacks [key]) = some h) :
    exec .putDelivery s = .next (s.waitFor h ⟨.putDelivery, .put m⟩) := by
  change execPutDelivery s = _
  simp only [execPutDelivery, ha, now, Bool.false_eq_true, if_false, hd, held]

section
variable {t c w o : Nat} (hd : m.dest = .window t c w o)
include hd

theorem exec_putDelivery_back (h : (s.heldBack t && decide (entryBpid (s.tileEntry t) = m.by_.pid)) = true) :
    exec .putDelivery s = .next (s.due [⟨.postedOpFailure, .failed m.by_ 3 0 m.addr⟩]) := by
  change execPutDelivery s = _
  simp only [execPutDelivery, ha, now, Bool.false_eq_true, if_false, hd, if_pos h, stRefused]

variable (inside : ¬(s.heldBack t && decide (entryBpid (s.tileEntry t) = m.by_.pid)) = true)
include inside

theorem exec_putDelivery_refused {d : BitVec 8} (h : s.windowCheck t c w o m.data.length .put = .error d) :
    exec .putDelivery s = .next (s.refusePut m d) := by
  change execPutDelivery s = _
  simp only [execPutDelivery, ha, now, Bool.false_eq_true, if_false, hd, inside, h]

theorem exec_putDelivery_window {key : Nat} (clean : m.bad = []) (h : s.windowCheck t c w o m.data.length .put = .ok key) :
    exec .putDelivery s = .next ((s.wrN key m.data).putOn m) := by
  change execPutDelivery s = _
  simp only [execPutDelivery, ha, now, Bool.false_eq_true, if_false, hd, inside, h, clean, State.wrBad, List.foldl_nil]

end

theorem exec_putDelivery_landed {key : Nat} (clean : m.bad = []) (hd : m.dest = .mem [key])
    (free : s.heldBy (dieOf (m.by_.core / 8)) (keyStacks [key]) = none) :
    exec .putDelivery s = .next ((s.wrN key m.data).putOn m) := by
  change execPutDelivery s = _
  simp only [execPutDelivery, ha, now, Bool.false_eq_true, if_false, hd, free, State.land_singleton s clean]

end

/-! ### Refusals, failures, replicas -/

theorem exec_deferredRefusal {s : State} {g c : Nat} {r : Refused} {rest : List Refused} (ha : s.arg = .num g c 0 0)
    (hr : (s.core g).refusals = r :: rest) (hc : r.ctx = c) :
    let s' := (s.modCore g fun x => { x with refusals := rest }).modCtx g c fun k => { k with copyHeld := none }
    exec .deferredRefusal s =
      .next (s'.takeTrap g c ⟨kNack, r.detail, r.dest, 0, 0, true, (s'.ctx g c).pc, some r.opc⟩) := by
  have found : (r :: rest).find? (fun r => decide (r.ctx = c)) = some r := List.find?_cons_of_pos (decide_eq_true hc)
  change execDeferredRefusal s = _
  simp only [execDeferredRefusal, ha, hr, found, List.erase_cons_head]
  rfl

theorem exec_postedOpFailure {s : State} {i : Issuer} {st : Nat} {d : BitVec 8} {a : Addr} (ha : s.arg = .failed i st d a) :
    exec .postedOpFailure s =
      .next ((s.fault i { endedInfo st a.toNat 0 with kind := nackKind d, detail := d.toNat }).postEnd i) := by
  change execPostedOpFailure s = _
  simp only [execPostedOpFailure, ha]

theorem exec_mcstReplicaWrite {s : State} {i : Issuer} {key : Nat} {data : List Byte} {bad : List Nat} {last : Bool}
    (ha : s.arg = .replica i key data bad last) :
    exec .mcstReplicaWrite s = .next (if last then (s.wrBad key data bad).postEnd i else s.wrBad key data bad) := by
  change execMcstReplicaWrite s = _
  simp only [execMcstReplicaWrite, ha]

/-- Settles O30: a put by its destination, then the refusals, failures and replicas. -/
theorem postedDeliveries : Obligations.PostedDeliveries := by
  unfold Obligations.PostedDeliveries
  refine ⟨?_, fun s m ha rel pending => exec_putDelivery_waits ha (release_waits rel pending),
    fun s g c r rest ha hr hc => exec_deferredRefusal ha hr hc,
    fun s i st d a ha => ⟨_, rfl, rfl, rfl, rfl, exec_postedOpFailure ha⟩,
    fun s i key data bad last ha => exec_mcstReplicaWrite ha⟩
  intro s m ha go clean ended on
  have now := release_goes_on go
  refine ⟨fun key hd => ⟨fun free => exec_putDelivery_landed ha now clean hd free,
    fun h held => exec_putDelivery_held ha now hd held⟩, ?_, fun pkg va hd => exec_putDelivery_remote ha now hd⟩
  intro t c w o hd back d state x queued refused
  have inside (h : ¬back) := mt (takenBack_iff s t m.by_.pid).1 h
  have refuse (b : BitVec 8) (h : ¬back) (check : s.windowCheck t c w o m.data.length .put = .error b) : refused b := by
    have run := exec_putDelivery_refused ha now hd (inside h) check
    exact ⟨fun yes => run.trans (congrArg Host.Outcome.next (State.refusePut_queued b yes)),
      fun no => run.trans (congrArg Host.Outcome.next (State.refusePut_recorded b no))⟩
  exact ⟨fun h => exec_putDelivery_back ha now hd ((takenBack_iff _ _ _).2 h),
    fun h unset => refuse _ h (State.windowCheck_unset rfl unset),
    fun h off => refuse _ h (State.windowCheck_not_serving rfl off),
    fun h set on no => refuse _ h (State.windowCheck_not_permitted rfl set on no),
    fun h set on yes beyond => refuse _ h (State.windowCheck_beyond rfl set on yes beyond),
    fun h set on yes within =>
      exec_putDelivery_window ha now hd (inside h) clean (State.windowCheck_ok rfl set on yes within)⟩

end Sys2Proof.Machine
end

section
/-! Posted instructions at issue: PUT, PUTC, MCST and WINSET (08 R180, R185, R187, R188, R197): O29. -/

namespace Sys2Proof.Machine

/-! ### PUT -/

theorem exec_put_sent {s : State} {pre : Prefixes} {p : BitVec 3} {pm : PostMode} {d : Dest} (chosen : s.Chosen pre)
    (bytes : storeBytes pre s.strand.a = (storedBytes pre s.strand.a, decide (storeValue pre s.strand.a ≠ s.strand.a.toInt)))
    (ok : s.checked .put (s.strand.ptr p.toNat).addr (sizeOf' pre.ty) false true = .ok d)
    (target : s.targetOk d (s.strand.ptr p.toNat).addr s.strand.x = .ok ()) (room : (s.core s.me).posted < 32)
    (apart : s.vecOverlaps d (sizeOf' pre.ty) = false) :
    exec (.put p pm pre) s = .next (((s.postBegin s.me).complete (s.afterStore p pm pre) (s.strand.next pre)).due
      [⟨.putDelivery, .put ⟨s.issuer, (s.strand.ptr p.toNat).addr, d, storedBytes pre s.strand.a, s.strand.x, [], false, none,
        false⟩⟩]) := by
  refine exec_of_ok chosen rfl ?_
  simp only [ok, target, Nat.not_le.2 room, apart, Bool.false_eq_true, or_self, if_false, bytes, flagsSat_storeValue,
    State.afterStore]

/-! ### PUTC -/

theorem apertureOf_local {a : Addr} {o : Nat} (h : a.toNat = 0xF00000000000 + o) (inside : o < 2 ^ 21) :
    apertureOf a = .localMem o := by
  have top : field a 40 8 = 0xF0 := by simp only [field, bitsAt, h]; omega
  have zero : field a 21 19 = 0 := by simp only [field, bitsAt, h]; omega
  have off : field a 0 21 = o := by simp only [field, bitsAt, h]; omega
  simp only [apertureOf, top, zero, off, lt_irrefl, if_false, if_true]

theorem State.badWords_clean {s : State} (clean : s.poison = []) (key n : Nat) : s.badWords key n = [] :=
  if_pos (by rw [clean]; rfl)

/-- The parts of a PUTC of the bytes from an offset of the scratchpad on: the first, and what is sent after it (08 R188). -/
def State.linePost (s : State) (o : Nat) (d : Dest) (m : Nat) (more : List (Dest × Nat)) : PutMsg :=
  let ea : Addr := s.strand.a.setWidth 48
  let data := s.rdN (scratchKey s.myTile o) 64
  ⟨s.issuer, ea, d, data.take (4 * m), s.strand.x, [], false,
    more.head?.map fun e => ⟨e.1, ea + BitVec.ofNat 48 (4 * m), data.drop (4 * m), []⟩, false⟩

theorem State.linePost_whole (s : State) (o : Nat) (d : Dest) : s.linePost o d 16 [] =
    ⟨s.issuer, s.strand.a.setWidth 48, d, s.rdN (scratchKey s.myTile o) 64, s.strand.x, [], false, none, false⟩ := by
  simp [State.linePost, List.take_of_length_le]

theorem exec_putc_sent {s : State} {pre : Prefixes} {p : BitVec 3} {pm : PostMode} {o m : Nat} {d : Dest}
    {more : List (Dest × Nat)} (chosen : s.Chosen pre) (line : s.LineFrom p o) (inside : o + 64 ≤ 2 ^ 21) (whole : o % 4 = 0)
    (parts : s.lineParts (s.strand.a.setWidth 48) = .ok ((d, m) :: more))
    (target : s.partsTargetOk ((d, m) :: more) (s.strand.a.setWidth 48) s.strand.x = .ok ()) (room : (s.core s.me).posted < 32)
    (apart : (s.core s.me).vecPending o 64 = false)
    (free : ∀ e ∈ (d, m) :: more, s.accessPending e.1 (pieceSize e) = false ∧ s.vecOverlaps e.1 64 = false)
    (clean : s.poison = []) :
    exec (.putc p pm pre) s = .next (((s.postBegin s.me).complete (s.strand.applyPost p pm 64) (s.strand.next pre)).due
      [⟨.putDelivery, .put (s.linePost o d m more)⟩]) := by
  have once : (((d, m) :: more).any fun e => s.accessPending e.1 (pieceSize e) || s.vecOverlaps e.1 64) = false :=
    List.any_eq_false.2 fun e he => by simp [free e he]
  refine exec_of_ok chosen rfl ?_
  simp only [line.high, line.known, line.accepted, line.scratch, reduceCtorEq, ne_eq, not_true, or_self, if_false, Bool.not_true,
    Bool.false_eq_true, Nat.not_lt.2 inside, whole, parts, target, Nat.not_le.2 room, apart, once, State.badWords_clean clean,
    List.filter_nil, List.map_nil, List.head?_nil, Option.map_none]
  rfl

/-! ### MCST -/

section
variable {s : State} {pre : Prefixes} {p : BitVec 3} {pm : PostMode} {off : Nat} (chosen : s.Chosen pre)
  (bytes : storeBytes pre s.strand.a = (storedBytes pre s.strand.a, decide (storeValue pre s.strand.a ≠ s.strand.a.toInt)))
  (store : apertureOf (s.strand.ptr p.toNat).addr = .dieStore 0 off)
  (aligned : (s.strand.ptr p.toNat).addr.toNat % sizeOf' pre.ty = 0)
  (mask : field s.strand.x 4 60 = 0)
include chosen bytes store aligned mask

theorem exec_mcst_to_none (none : bitList 4 s.strand.x.toNat = []) :
    exec (.mcst p pm pre) s = .next (s.complete (s.afterStore p pm pre) (s.strand.next pre)) := by
  refine exec_of_ok chosen rfl ?_
  simp only [store, aligned, mask, none, ne_eq, not_true, if_false, List.any_nil, Bool.false_eq_true, List.isEmpty_nil, if_true,
    bytes, flagsSat_storeValue, State.afterStore]

theorem exec_mcst_sent (within : ∀ d ∈ bitList 4 s.strand.x.toNat, off + sizeOf' pre.ty ≤ (s.part (s.pidOf s.me)).dssSize d)
    (room : (s.core s.me).posted < 32) (some : bitList 4 s.strand.x.toNat ≠ [])
    (free : s.accessPending (.mem ((bitList 4 s.strand.x.toNat).map fun d =>
      dieKey d ((s.part (s.pidOf s.me)).dssBase d + off))) (sizeOf' pre.ty) = false) :
    exec (.mcst p pm pre) s = .next (((s.postBegin s.me).complete (s.afterStore p pm pre) (s.strand.next pre)).due
      (replicas s.issuer (storedBytes pre s.strand.a) ((bitList 4 s.strand.x.toNat).map fun d =>
        dieKey d ((s.part (s.pidOf s.me)).dssBase d + off)))) := by
  have inside : ((bitList 4 s.strand.x.toNat).any fun d =>
      decide ((s.part (s.pidOf s.me)).dssSize d < off + sizeOf' pre.ty)) = false :=
    List.any_eq_false.2 fun d hd => by simpa using within d hd
  refine exec_of_ok chosen rfl ?_
  simp only [store, aligned, mask, inside, ne_eq, not_true, if_false, Bool.false_eq_true, List.isEmpty_iff, some,
    Nat.not_le.2 room, free, or_self, bytes, flagsSat_storeValue, State.afterStore]

end

/-! ### WINSET -/

theorem exec_winset_written {s : State} {pre : Prefixes} (chosen : s.Chosen pre) (w : BitVec 3)
    (fine : windowOk s.strand.a = true) : exec (.winset w pre) s =
      .next ((s.modCore s.me fun c => { c with wins := Tab.set 0 c.wins w.toNat s.strand.a }).skip pre) :=
  exec_of_ok chosen rfl (by simp only [fine, Bool.not_true, Bool.false_eq_true, if_false])

/-- Settles O29: each form completes at issue and sends what it writes. -/
theorem postedInstructions : Obligations.PostedInstructions := by
  unfold Obligations.PostedInstructions
  intro s p pm pre chosen room n k q k' bytes
  have stores {i : Instr} (wf : i.WellFormed) (ints : i.wRule.sat = Ty.ints) (chain : i.pre = pre) :=
    storeBytes_eq (pre := pre) (chain ▸ wRule_admits_of_wellFormed wf) ints s.strand.a
  refine ⟨fun d wf ok target apart => exec_put_sent chosen (stores wf rfl rfl) ok target room apart, ?_, ?_,
    fun w _ fine => exec_winset_written chosen w fine⟩
  · intro o ea data sent free _ high accepted source inside whole clean apart
    have line : s.LineFrom p o := ⟨(field_eq_zero_iff _ _ _).2 high, accepted, apertureOf_local source (by omega)⟩
    refine ⟨fun d parts target open_ => ?_, fun d d' m m' parts target one open_ open' => ?_⟩
    · rw [← State.linePost_whole]
      exact exec_putc_sent chosen line inside whole parts
        ((State.partsTargetOk_eq (.inr (List.forall_mem_nil _))).trans target) room apart (List.forall_mem_singleton.2 open_) clean
    · exact exec_putc_sent chosen line inside whole parts
        ((State.partsTargetOk_eq (one.imp_right List.forall_mem_singleton.2)).trans target) room apart
        (List.forall_mem_cons.2 ⟨open_, List.forall_mem_singleton.2 open'⟩) clean
  · intro off part dies keys wf store aligned mask within
    rw [← field_eq_zero_iff] at mask
    exact ⟨exec_mcst_to_none chosen (stores wf rfl rfl) store aligned mask,
      fun some free => exec_mcst_sent chosen (stores wf rfl rfl) store aligned mask within room some free⟩

end Sys2Proof.Machine
end

section
/-! SUPPORT. The values of an atomic (08 R191, R192): what the model writes and answers is what the statements name. -/

namespace Sys2Proof.Machine

theorem ofNat_eq_setWidth_iff {n x : Nat} (h : x < 2 ^ n) (c : Word64) :
    BitVec.ofNat n x = c.setWidth n ↔ x = c.toNat % 2 ^ n := by
  rw [BitVec.toNat_eq, BitVec.toNat_ofNat, Nat.mod_eq_of_lt h, BitVec.toNat_setWidth]

/-! ### Integers -/

theorem signedOf_toNat {n : Nat} (hn : 0 < n) (v : Word64) : signedOf n v.toNat = (v.setWidth n).toInt := by
  rw [signedOf_eq_toInt hn, BitVec.ofNat_toNat]

theorem ofInt_min {n : Nat} (x y : BitVec n) : BitVec.ofInt n (min x.toInt y.toInt) = if x.sle y then x else y := by
  simp only [BitVec.sle_iff_toInt_le, min_def, apply_ite (BitVec.ofInt n), BitVec.ofInt_toInt]

theorem ofInt_max {n : Nat} (x y : BitVec n) : BitVec.ofInt n (max x.toInt y.toInt) = if y.sle x then x else y := by
  rw [max_comm]
  simp only [BitVec.sle_iff_toInt_le, max_def, apply_ite (BitVec.ofInt n), BitVec.ofInt_toInt]

/-- The operations whose result depends on whether the operands are f32 (08 R191). -/
def IsArithmetic (op : AtomOp) : Prop := op = .add ∨ op = .min ∨ op = .max

theorem atomNew_eq_atomValue {ty : Option Ty} {op : AtomOp} (h : IsArithmetic op → ty ≠ some .f32) {old : Nat}
    (small : old < 2 ^ (8 * sizeOf' ty)) (v cmp : Word64) : atomNew op ty old v.toNat cmp.toNat =
      (atomValue (8 * sizeOf' ty) op (BitVec.ofNat _ old) (v.setWidth _) (cmp.setWidth _)).toNat := by
  have pos : 0 < 8 * sizeOf' ty := by
    rcases ty with - | ty
    · decide
    · cases ty <;> decide
  have integer (ha : IsArithmetic op) : decide (ty = some .f32) = false := decide_eq_false (h ha)
  have value : (BitVec.ofNat (8 * sizeOf' ty) old).toNat = old := by rw [BitVec.toNat_ofNat, Nat.mod_eq_of_lt small]
  cases op with
  | add =>
    simp only [atomNew, atomValue, integer (.inl rfl), Bool.false_eq_true, if_false, wrapNat_eq_toNat, signedOf_eq_toInt pos old,
      signedOf_toNat pos, BitVec.ofInt_add, BitVec.ofInt_toInt]
  | min =>
    simp only [atomNew, atomValue, integer (.inr (.inl rfl)), Bool.false_eq_true, if_false, wrapNat_eq_toNat,
      signedOf_eq_toInt pos old, signedOf_toNat pos, ofInt_min]
  | max =>
    simp only [atomNew, atomValue, integer (.inr (.inr rfl)), Bool.false_eq_true, if_false, wrapNat_eq_toNat,
      signedOf_eq_toInt pos old, signedOf_toNat pos, ofInt_max]
  | and => rw [atomValue, BitVec.toNat_and, value, BitVec.toNat_setWidth]; rfl
  | or => rw [atomValue, BitVec.toNat_or, value, BitVec.toNat_setWidth]; rfl
  | xor => rw [atomValue, BitVec.toNat_xor, value, BitVec.toNat_setWidth]; rfl
  | xchg => rw [atomValue, BitVec.toNat_setWidth]; rfl
  | cas =>
    simp only [atomNew, atomValue, ofNat_eq_setWidth_iff small, apply_ite BitVec.toNat, value, BitVec.toNat_setWidth]

/-! ### f32 -/

theorem Ty.value_f32_mod (x : Nat) : Ty.f32.value (x % 2 ^ 32) = Ty.f32.value x := by
  have e : bitsAt Ty.f32.fracBits Ty.f32.expBits (x % 2 ^ 32) = bitsAt Ty.f32.fracBits Ty.f32.expBits x := bitsAt_mod (by decide) x
  have f : bitsAt 0 Ty.f32.fracBits (x % 2 ^ 32) = bitsAt 0 Ty.f32.fracBits x := bitsAt_mod (by decide) x
  have sign : (x % 2 ^ 32).testBit (Ty.f32.bits - 1) = x.testBit (Ty.f32.bits - 1) := by
    rw [Nat.testBit_mod_two_pow]; rfl
  simp only [Ty.value, e, f, sign]

/-- The operands of an atomic on f32, as the lanes of a vector. -/
theorem f32_operands (old : Nat) (v : Word64) : f32 old = Ty.f32.value (BitVec.ofNat 32 old).toNat ∧
    f32 v.toNat = Ty.f32.value (v.setWidth 32).toNat := by
  rw [BitVec.toNat_ofNat, BitVec.toNat_setWidth, Ty.value_f32_mod, Ty.value_f32_mod]
  exact ⟨rfl, rfl⟩

theorem atomNew_f32_mod {op : AtomOp} (h : IsArithmetic op) (old : Nat) (v cmp : Word64) :
    atomNew op (some .f32) old v.toNat cmp.toNat % 2 ^ 32 = atomResult (some .f32) op old v cmp := by
  obtain ⟨x, y⟩ := f32_operands old v
  rcases h with rfl | rfl | rfl <;>
    simp only [atomNew, atomResult, combineBits, roundTo32, x, y, decide_true, if_true, BitVec.toNat_ofNat]

/-! ### Both -/

/-- The bytes that an atomic writes. -/
theorem natToBytes_atomNew {ty : Option Ty} (ht : ty = none ∨ ty = some .i32 ∨ ty = some .f32) (op : AtomOp) {old : Nat}
    (small : old < 2 ^ (8 * sizeOf' ty)) (v cmp : Word64) :
    natToBytes (sizeOf' ty) (atomNew op ty old v.toNat cmp.toNat) = natToBytes (sizeOf' ty) (atomResult ty op old v cmp) := by
  rcases ht with rfl | rfl | rfl
  · rw [atomNew_eq_atomValue (fun _ => by decide) small]; rfl
  · rw [atomNew_eq_atomValue (fun _ => by decide) small]; rfl
  · by_cases h : IsArithmetic op
    · rw [← atomNew_f32_mod h]
      exact natToBytes_congr (Nat.mod_mod _ _).symm
    · rw [atomNew_eq_atomValue (fun yes => absurd yes h) small]
      cases op with
      | add => exact absurd (.inl rfl) h
      | min => exact absurd (.inr (.inl rfl)) h
      | max => exact absurd (.inr (.inr rfl)) h
      | and | or | xor | xchg | cas => rfl

theorem State.wrNat_atomNew (s : State) (key : Nat) (m : AtomMsg) (ht : m.ty = none ∨ m.ty = some .i32 ∨ m.ty = some .f32) :
    s.wrNat key (sizeOf' m.ty) (atomNew m.op m.ty (s.rdNat key (sizeOf' m.ty)) m.v.toNat m.cmp.toNat) =
      s.wrNat key (sizeOf' m.ty) (atomResult m.ty m.op (s.rdNat key (sizeOf' m.ty)) m.v m.cmp) := by
  rw [State.wrNat, natToBytes_atomNew ht m.op (s.rdNat_lt _ _), State.wrNat]

/-! ### The reply -/

theorem atomReply_fmask (m : AtomMsg) (old : Nat) : (atomReply m (some old) false).fmask = if m.op = .cas then 0xD else 0xC := by
  by_cases cas : m.op = .cas <;> simp [atomReply, cas]

theorem atomReply_flags (m : AtomMsg) {old : Nat} (small : old < 2 ^ (8 * sizeOf' m.ty)) :
    (atomReply m (some old) false).fval &&& (atomReply m (some old) false).fmask =
      if m.op = .cas ∧ BitVec.ofNat (8 * sizeOf' m.ty) old = m.cmp.setWidth _ then 5 else 4 := by
  rw [atomReply_fmask]
  simp only [ofNat_eq_setWidth_iff small]
  by_cases cas : m.op = .cas <;> by_cases same : old = m.cmp.toNat % 2 ^ (8 * sizeOf' m.ty) <;> simp [atomReply, cas, same]

end Sys2Proof.Machine
end

section
/-! Atomics (08 R191 to R194): O31. -/

namespace Sys2Proof.Machine

/-! ### Issue -/

theorem orderRel_eq (o : AtomOrder) : orderRel o = decide (o = .release ∨ o = .acqRel) := by
  cases o <;> rfl

/-- An atomic as it is sent to its location. -/
def State.atomSent (s : State) (p : BitVec 3) (o : AtomOrder) (pre : Prefixes) (d : Dest) (op : AtomOp) (returning : Bool)
    (v cmp : Word64) : AtomMsg :=
  ⟨s.issuer, (s.strand.ptr p.toNat).addr, d, op, pre.ty, returning, v, cmp, decide (o = .release ∨ o = .acqRel), false⟩

section
variable {s : State} {pre : Prefixes} {p : BitVec 3} {o : AtomOrder} {d : Dest} (chosen : s.Chosen pre)
  (ok : s.checked .atom (s.strand.ptr p.toNat).addr (sizeOf' pre.ty) true true = .ok d)
include chosen ok

theorem atomReturning_sent (op : AtomOp) :
    atomReturning op p o pre s = (s.await ⟨s.strand.next pre, false, none, pre.ty, some s.strand.a⟩).due
      [⟨.atomicPerform, .atom (s.atomSent p o pre d op true s.strand.x s.strand.a)⟩] :=
  runKmem_of_ok chosen (by simp only [ok, orderRel_eq, State.atomSent])

theorem atomPosted_sent (room : (s.core s.me).posted < 32) (op : AtomOp) :
    atomPosted op p o pre s = ((s.postBegin s.me).skip pre).due
      [⟨.atomicPerform, .atom (s.atomSent p o pre d op false s.strand.a 0)⟩] :=
  runKmem_of_ok chosen (by simp only [ok, Nat.not_le.2 room, if_false, orderRel_eq, State.atomSent])

end

/-- The forms of ATOM by their operations. -/
theorem exec_of_returning {p : BitVec 3} {o : AtomOrder} {sc : Scope} {pre : Prefixes} {e : AtomOp × Instr} (s : State)
    (he : e ∈ [(AtomOp.add, Instr.atomAdd p o sc pre), (.min, .atomMin p o sc pre), (.max, .atomMax p o sc pre),
      (.and, .atomAnd p o sc pre), (.or, .atomOr p o sc pre), (.xor, .atomXor p o sc pre), (.xchg, .atomXchg p o sc pre),
      (.cas, .atomCas p o sc pre)]) : exec e.2 s = .next (atomReturning e.1 p o pre s) := by
  simp only [List.mem_cons, List.not_mem_nil, or_false] at he
  rcases he with rfl | rfl | rfl | rfl | rfl | rfl | rfl | rfl <;> rfl

/-- The forms of ATOMN by their operations. -/
theorem exec_of_posted {p : BitVec 3} {o : AtomOrder} {sc : Scope} {pre : Prefixes} {e : AtomOp × Instr} (s : State)
    (he : e ∈ [(AtomOp.add, Instr.atomnAdd p o sc pre), (.min, .atomnMin p o sc pre), (.max, .atomnMax p o sc pre),
      (.and, .atomnAnd p o sc pre), (.or, .atomnOr p o sc pre), (.xor, .atomnXor p o sc pre)]) :
    exec e.2 s = .next (atomPosted e.1 p o pre s) := by
  simp only [List.mem_cons, List.not_mem_nil, or_false] at he
  rcases he with rfl | rfl | rfl | rfl | rfl | rfl <;> rfl

/-! ### At the location -/

section
variable {s : State} {m : AtomMsg} (ha : s.arg = .atom m)
include ha

theorem exec_atomicPerform_waits (h : (m.rel && !s.releasedFor m.by_) = true) :
    exec .atomicPerform s = .next (s.dueIn 4 ⟨.atomicPerform, .atom m⟩) := by
  change execAtomicPerform s = _
  simp only [execAtomicPerform, ha, h, if_true]

variable (now : (m.rel && !s.releasedFor m.by_) = false)
include now

theorem exec_atomicPerform_remote {pkg : Nat} {va : Addr} (hd : m.dest = .remote pkg va) :
    exec .atomicPerform s = .next ((if m.returning then s else s.postLeave m.by_).sendRequest m.by_ pkg
      fun here job tag => .atom here job tag m) := by
  change execAtomicPerform s = _
  simp only [execAtomicPerform, ha, now, Bool.false_eq_true, if_false, hd]

variable {key : Nat} (hd : m.dest = .mem [key])
include hd

theorem exec_atomicPerform_held {h : Nat} (held : s.heldBy (dieOf (m.by_.core / 8)) (keyStacks [key]) = some h) :
    exec .atomicPerform s = .next (s.waitFor h ⟨.atomicPerform, .atom m⟩) := by
  change execAtomicPerform s = _
  simp only [execAtomicPerform, ha, now, Bool.false_eq_true, if_false, hd, held]

variable (free : s.heldBy (dieOf (m.by_.core / 8)) (keyStacks [key]) = none)
include free

theorem exec_atomicPerform_poisoned {bad : Nat} (h : s.atomPoison m key (sizeOf' m.ty) = some bad) :
    exec .atomicPerform s = .next (if m.returning
      then s.reply m.by_.core m.by_.ctx (Reply.trapped kMemory 0x01 (m.addr + BitVec.ofNat 48 bad))
      else s.due [⟨.postedOpFailure, .failed m.by_ 2 0 (m.addr + BitVec.ofNat 48 bad)⟩]) := by
  change execAtomicPerform s = _
  simp only [execAtomicPerform, ha, now, Bool.false_eq_true, if_false, hd, free, h, stNotApplied]
  exact (apply_ite Host.Outcome.next _ _ _).symm

theorem exec_atomicPerform_applied (ht : m.ty = none ∨ m.ty = some .i32 ∨ m.ty = some .f32)
    (clean : s.atomPoison m key (sizeOf' m.ty) = none) :
    let old := s.rdNat key (sizeOf' m.ty)
    let written := s.wrNat key (sizeOf' m.ty) (atomResult m.ty m.op old m.v m.cmp)
    exec .atomicPerform s = .next (if m.returning
      then written.reply m.by_.core m.by_.ctx (atomReply m (some old) false) else written.postEnd m.by_) := by
  change execAtomicPerform s = _
  simp only [execAtomicPerform, ha, now, Bool.false_eq_true, if_false, hd, free, clean, State.wrNat_atomNew s key m ht]
  exact (apply_ite Host.Outcome.next _ _ _).symm

end

/-- Settles O31: an atomic is sent once, and applied once at its location where nothing there is poisoned. -/
theorem atomics : Obligations.Atomics := by
  unfold Obligations.Atomics
  refine ⟨?_, ?_, fun s m ha rel pending => exec_atomicPerform_waits ha (release_waits rel pending)⟩
  · intro s p o sc pre d chosen n k ea rel ok
    exact ⟨fun e he => (exec_of_returning s he).trans (congrArg Host.Outcome.next (atomReturning_sent chosen ok e.1)),
      fun room e he => (exec_of_posted s he).trans (congrArg Host.Outcome.next (atomPosted_sent chosen ok room e.1))⟩
  · intro s m ha go
    have now := release_goes_on go
    refine ⟨fun key hd free => ⟨fun sound clean ht => ?_, fun bad h => ?_⟩, fun key h hd held =>
      exec_atomicPerform_held ha now hd held, fun pkg va hd => exec_atomicPerform_remote ha now hd⟩
    · have whole : s.atomPoison m key (sizeOf' m.ty) = none := by rw [State.atomPoison, sound]; exact clean
      have applied := exec_atomicPerform_applied ha now hd free ht whole
      have types (t : Ty) (h : m.ty = some t) : t ∈ Ty.ints ++ [.f32] := by
        rcases ht with none | i32 | f32
        · rw [none] at h; cases h
        · rw [i32] at h; cases h; decide
        · rw [f32] at h; cases h; decide
      exact ⟨fun posted => applied.trans (by rw [posted]; rfl), fun returning =>
        ⟨_, congrArg some (memExt_eq_loadedValue types _), rfl, rfl, atomReply_fmask m _, atomReply_flags m (s.rdNat_lt _ _),
          applied.trans (by rw [returning]; rfl)⟩⟩
    · have refused := exec_atomicPerform_poisoned ha now hd free h
      exact ⟨fun returning => refused.trans (by rw [returning]; rfl), fun posted => refused.trans (by rw [posted]; rfl)⟩

end Sys2Proof.Machine
end
